-- ==== Sys2Proof/Word.lean ====
section
/-!
DEFINITION. Words of the OT6420: the register word (R7), the scratchpad row (R129), bytes, and the sparse map in
which every memory and table of the model is held.
-/
namespace Sys2Proof

abbrev Byte := BitVec 8
abbrev Word := BitVec 32
abbrev Word64 := BitVec 64

/-- A 512-byte row of scratchpad, a unit of the slice, a hold: byte `i` is bits `8 i` to `8 i + 7` (R6, R129, R203). -/
abbrev Row := BitVec 4096

/-- A table keyed by a number, with keys strictly rising and no entry equal to what an unlisted key reads as. -/
abbrev SMap (α : Type) := List (Nat × α)

/-- A logical core, 0-63 (R11). -/
abbrev CoreId := Fin 64

end Sys2Proof
end

