-- ==== Sys2Proof/Syntax.lean ====
section
/-!
DEFINITION. The commands of the OT6420: one constructor for each row of spec/opcode_table.json, in the table's order.
A row that a sequencer or a drill issues takes the core alone: the command word is in the core's own program bank
(R157) or drill memory (R220). A queue command takes its queue, whose fetched 64-byte entry holds the operands
(R353), and the bytes the part reads from host memory for it (`none`: the read failed). Log entry 1.
-/
namespace Sys2Proof

/-- A direction of travel on the lift (R21), and the port that a chair leaves by. -/
inductive Dir where
  | uphill | downhill
  deriving DecidableEq, Repr, Inhabited

/-- A lift port (R238): LFT0 uphill, LFT1 downhill. -/
inductive Side where
  | up | down
  deriving DecidableEq, Repr, Inhabited

/-- A traverse port (R270): TRV0 port A, TRV1 port B. -/
inductive TPort where
  | A | B
  deriving DecidableEq, Repr, Inhabited

/-- One source of queued commands on a core (R160). -/
inductive Requester where
  | part (p : Fin 16) | accPort | schuss | row | expander | ctx (c : Fin 16) | lift | traverse | rowPath | release
  deriving DecidableEq, Repr, Inhabited

/-- What an uncorrectable slice read was feeding (R215). -/
inductive Feeding where
  | pass (p : Fin 16) | sweep | launch | stream (c : Fin 16)
  deriving DecidableEq, Repr, Inhabited

/-- How a frame check sequence arrived (R241, R249). -/
inductive Fcs where
  | good | bad | inverted
  deriving DecidableEq, Repr, Inhabited

/-- A lift frame as a port receives it: the 40 bytes of R240 in `hdr`, then the data bytes without padding. -/
structure LiftFrame where
  fcs    : Fcs
  etype  : BitVec 16
  dstOk  : Bool          -- the destination MAC address is this port's
  hdr    : List Byte
  data   : List Byte
  deriving DecidableEq, Repr, Inhabited

/-- A lift frame with what its data bytes say, where the spec gives their values and no layout (R242, R256, R259). -/
structure Framed (α : Type) where
  frame : LiftFrame
  body  : α
  deriving DecidableEq, Repr, Inhabited

/-- A traverse packet as a port receives it (R272, R274). -/
structure TrvPacket where
  fcs     : Bool                   -- the FCS is right
  ipv6    : Bool                   -- by the EtherType
  vlan    : Option (BitVec 12)     -- VLAN identifier of the tag
  dst     : BitVec 128
  ipSum   : Bool                   -- the IPv4 header checksum is right
  dstPort : BitVec 16
  udpSum  : Bool                   -- the UDP checksum is right
  ce      : Bool                   -- marked CE (R277)
  hdr     : List Byte
  data    : List Byte
  deriving DecidableEq, Repr, Inhabited

/-- The values of a formation frame (R242, step 3). -/
structure Formation where
  position : BitVec 7
  length   : BitVec 7      -- N - 1, as LFC_FORM.LENGTH
  liftId   : BitVec 8
  cores    : BitVec 8
  stepping : BitVec 16
  epoch    : BitVec 16
  deriving DecidableEq, Repr, Inhabited

/-- A residency ring frame (R305). -/
structure ResRing where
  op       : BitVec 2
  releaseBit : Bool
  slot     : Fin 64
  firstNew : BitVec 32
  digest   : BitVec 512
  ready    : BitVec 128
  refuse   : BitVec 128
  deriving DecidableEq, Repr, Inhabited

/-- Whose HBM zeroing has ended (R222, R309). -/
inductive Zeroed where
  | context (c : BitVec 12) | bundle (slot : Fin 64)
  deriving DecidableEq, Repr, Inhabited

/-- The two SPDM transports (R439). -/
inductive Transport where
  | mctp | doe
  deriving DecidableEq, Repr, Inhabited

/-- JTAG instructions (R482). -/
inductive Tap where
  | bypass | idcode | samplePreload (chain : List Bool) | extest (chain : List Bool) | clamp | highz
  deriving DecidableEq, Repr, Inhabited

/-- What a sentinel sample reads on one compute die (R404): 24 replica rings, 8 margin detectors, hottest sensor. -/
structure DieSample where
  rings     : List Nat
  detectors : List Int
  hottest   : Int
  deriving DecidableEq, Repr, Inhabited

/-- One AVSBus read-back (R407): `none` where the regulator did not answer after the retries. -/
structure RailReading where
  millivolt : BitVec 16
  deciamp   : BitVec 16
  tempC     : BitVec 8
  onDieMv   : BitVec 16
  retries   : Nat
  deriving DecidableEq, Repr, Inhabited

/-- The step a command stands for; the names follow spec/opcode_table.json. -/
inductive Instr where
  | nop (n : CoreId)
  | endProg (n : CoreId)
  | switchBank (n : CoreId)
  | fence (n : CoreId)
  | li (n : CoreId)
  | alu (n : CoreId)
  | cmp (n : CoreId)
  | mova (n : CoreId)
  | setlc (n : CoreId)
  | lidx (n : CoreId)
  | ld (n : CoreId)
  | st (n : CoreId)
  | loop (n : CoreId)
  | setrng (n : CoreId)
  | rowld (n : CoreId)
  | rowst (n : CoreId)
  | claim (n : CoreId)
  | claimTakeover (n : CoreId) (bank : Fin 48)
  | region (n : CoreId)
  | release (n : CoreId)
  | part (n : CoreId)
  | pass (n : CoreId)
  | passStart (n : CoreId) (p : Fin 16)
  | passBoundary (n : CoreId) (p : Fin 16)
  | passReplay (n : CoreId) (p : Fin 16)
  | drain (n : CoreId)
  | fill (n : CoreId)
  | vload (n : CoreId)
  | sweep (n : CoreId)
  | sweepStart (n : CoreId)
  | sweepBoundary (n : CoreId)
  | sdrain (n : CoreId)
  | tload (n : CoreId)
  | tableLoadDone (n : CoreId) (slot : Fin 8)
  | copy (n : CoreId)
  | add (n : CoreId)
  | sub (n : CoreId)
  | mul (n : CoreId)
  | fma (n : CoreId)
  | min (n : CoreId)
  | max (n : CoreId)
  | neg (n : CoreId)
  | abs (n : CoreId)
  | exp (n : CoreId)
  | log (n : CoreId)
  | rsqrt (n : CoreId)
  | recip (n : CoreId)
  | sigmoid (n : CoreId)
  | silu (n : CoreId)
  | rsum (n : CoreId)
  | rmax (n : CoreId)
  | rmin (n : CoreId)
  | classify (n : CoreId)
  | cvt (n : CoreId)
  | hold (n : CoreId)
  | rmsnorm (n : CoreId)
  | layernorm (n : CoreId)
  | softmax (n : CoreId)
  | rope (n : CoreId)
  | topkRoute (n : CoreId)
  | gather (n : CoreId)
  | scatter (n : CoreId)
  | scatterAdd (n : CoreId)
  | quantMx (n : CoreId)
  | dequantMx (n : CoreId)
  | quantFp8 (n : CoreId)
  | attnProb (n : CoreId)
  | attnMerge (n : CoreId)
  | attnFinal (n : CoreId)
  | stream (n : CoreId)
  | streamComplete (n : CoreId) (c : Fin 16)
  | launch (n : CoreId)
  | chairSend (d : Dir)
  | demand (n : CoreId)
  | grad (n : CoreId)
  | xsend (n : CoreId)
  | recv (n : CoreId)
  | allreduce (n : CoreId)
  | reduceScatter (n : CoreId)
  | allgather (n : CoreId)
  | broadcast (n : CoreId)
  | barrier (n : CoreId)
  | arrayHang (n : CoreId) (p : Fin 16)
  | schussHang (n : CoreId)
  | rowHang (n : CoreId)
  | streamHang (n : CoreId) (c : Fin 16)
  | coreMove (stuck : List (Fin 16))
  | scheduleEffect
  | tableEcc (n : CoreId) (slot : Fin 8)
  | dmemEcc (n : CoreId)
  | progEcc (n : CoreId)
  | descEcc (n : CoreId) (d : Fin 1024)
  | bookEcc (n : CoreId)
  | spmTableEcc (n : CoreId)
  | ctrlEcc
  | routeFail (d e : Fin 4)
  | jobFaultEnd (task : Fin 64)
  | jobComplete (task : Fin 64)
  | provenanceSigned (job : Word64)
  | bankWakeDone (n : CoreId) (bank : Fin 48)
  | spmBistStart (pcore : Nat) (bank : Fin 48)
  | spmBistDone (pcore : Nat) (bank : Fin 48) (failing : List (Fin 512))
  | spmZeroDone (n : CoreId)
  | saveImageWrite (task : Fin 64)
  | trackKeyClose (n : CoreId)
  | trackRecordClose (task : Fin 64)
  | trackStall (n : CoreId)
  | hbmRefreshWindow (stack : Nat) (ch : Fin 32) (marginPs : Byte)
  | channelRetrain (stack : Nat) (ch : Fin 32) (trained : Bool)
  | hbmReadReport (n : CoreId) (unit : Nat) (badReads : Nat) (feeds : Feeding)
  | softRepair (stack : Nat) (room : Bool)
  | hbmSelfRefresh (n : CoreId)
  | dset (n : CoreId)
  | dadd (n : CoreId)
  | dloop (n : CoreId)
  | dfill (n : CoreId)
  | dcheck (n : CoreId)
  | dsave (n : CoreId)
  | dload (n : CoreId)
  | dwait (n : CoreId)
  | dmark (n : CoreId)
  | dend (n : CoreId)
  | hbmZeroingDone (z : Zeroed)
  | liftPortTrained (side : Side) (lanes : BitVec 32)
  | formationSend (side : Side)
  | formationFrame (side : Side) (f : Framed Formation)
  | ringFrame (second : Framed Bool) (epoch : BitVec 16)
  | formTimeout
  | chairFrame (side : Side) (f : LiftFrame)
  | chairLand (n : CoreId) (hdrOk : Bool)
  | demandChairRx (side : Side) (f : LiftFrame)
  | gradChairRx (side : Side) (f : LiftFrame)
  | linkControlFrame (side : Side) (f : LiftFrame)
  | linkControlSend (side : Side)
  | ackTimeout (side : Side)
  | retryLimit (side : Side)
  | linkRetrainDone (side : Side) (lanes : BitVec 32)
  | liftNotice (side : Side) (stall : Framed Bool) (position : BitVec 7) (failedSide : BitVec 2)
  | lossTimeout (side : Side)
  | liftStall
  | quiesceFrame (second : Framed Bool)
  | trvPortTrained (port : TPort) (lanes : BitVec 8)
  | trvDataPacket (port : TPort) (p : TrvPacket)
  | trvAck (port : TPort) (p : TrvPacket)
  | trvNak (port : TPort) (p : TrvPacket)
  | trvRequest (port : TPort) (p : TrvPacket)
  | grantIssue (port : TPort) (index : Nat)
  | trvGrant (port : TPort) (p : TrvPacket)
  | trvAbort (port : TPort) (p : TrvPacket)
  | abortResend (port : TPort)
  | arpRequest (port : TPort) (target : Word) (senderMac : BitVec 48)
  | neighbourSolicitation (port : TPort) (target : BitVec 128) (senderMac : BitVec 48)
  | pfcPauseFrame (port : TPort) (priority : BitVec 3)
  | pfcStorm (port : TPort)
  | trvAckSend (port : TPort) (peer : BitVec 15)
  | trvRtoExpiry (port : TPort) (peer : BitVec 15)
  | ccWindow (port : TPort) (peer : BitVec 15)
  | peerLost (port : TPort) (peer : BitVec 15) (cause : Fin 4)
  | trvLinkDown (port : TPort)
  | sqDoorbell (bits : Nat) (value : Word64)
  | headDoorbell (bits : Nat) (value : Word64)
  | commandFetch (q : BitVec 20) (entry : Option (List Byte))
  | noticeBacklogDrain
  | ctxCreate (q : BitVec 20)
  | ctxKill (q : BitVec 20)
  | sqCreate (q : BitVec 20)
  | sqDelete (q : BitVec 20)
  | ringCreate (q : BitVec 20)
  | ringDelete (q : BitVec 20)
  | pcoreFence (q : BitVec 20)
  | selfTest (q : BitVec 20)
  | arraySelfTestDone (pcore : Nat) (failed : Option (Fin 16))
  | queueNop (q : BitVec 20)
  | flush (q : BitVec 20)
  | hbmAlloc (q : BitVec 20)
  | hbmFree (q : BitVec 20)
  | taskCreate (q : BitVec 20)
  | taskKill (q : BitVec 20)
  | progLoad (q : BitVec 20) (image : Option (List Byte))
  | jobLaunch (q : BitVec 20) (inputs : Option (List Byte))
  | preempt (q : BitVec 20)
  | resume (q : BitVec 20)
  | save (q : BitVec 20) (regions : Option (List Byte))
  | saveExport (q : BitVec 20) (written : Bool)
  | saveImport (q : BitVec 20) (image : Option (List Byte))
  | batch (q : BitVec 20)
  | provenance (q : BitVec 20) (written : Bool)
  | bundleLoad (q : BitVec 20) (manifest directory : Option (List Byte))
  | segDone (q : BitVec 20)
  | segmentHashed (slot : Fin 64) (segment : Nat)
  | swap (q : BitVec 20) (manifest directory : Option (List Byte))
  | evict (q : BitVec 20)
  | pin (q : BitVec 20)
  | residency (q : BitVec 20) (written : Bool)
  | loadTimeout (slot : Fin 64)
  | residencyRing (f : LiftFrame)
  | residencyRingRepeat (slot : Fin 64)
  | ringTimeout (slot : Fin 64)
  | slotOpen (slot : Fin 64)
  | slotVerified (slot : Fin 64)
  | windowRead (offset : Nat)
  | windowWrite (offset : Nat) (data : BitVec 512) (enable : BitVec 64)
  | windowWritePerform (index : Nat)
  | functionLevelReset
  | cxlReset
  | hostLinkDown
  | hostLinkTrained (width : Nat) (speed : BitVec 4)
  | busMasterDisable
  | pageCtlSnap (page : Nat)
  | pageCtlClear (page : Nat)
  | pageCtlLive (page : Nat)
  | pageErrWrite (page : Nat) (value : Word)
  | lfcFormGo (value : Word)
  | devModeWrite (value : Word)
  | counterLowRead (page : Nat) (offset : Nat)
  | badAccess (address : Nat) (isWrite : Bool)
  | registerWrite (address : Nat) (value : Word)
  | porNRise
  | porNFall
  | perstNRise (strap0 strap1 : Bool)
  | perstNFall
  | bootComplete
  | powerLoss
  | thermtrip
  | refLost
  | refReturn
  | serdesRefclkLoss (traverse : Bool)
  | marginSample (dies : List DieSample)
  | stretch (die : Fin 4)
  | stretchEnd (die : Fin 4)
  | marginLow (die : Fin 4)
  | learnStep (die : Fin 4)
  | avsReadback (rail : Fin 4) (r : Option RailReading)
  | capInterval (watts other : BitVec 16)
  | thermStep (hottest : List Int)
  | firmwareUpdate (image : List Byte)
  | configRecord (record : List Byte)
  | recoveryImage (image : List Byte)
  | journalAppend (written : Bool)
  | getVersion (t : Transport)
  | getCapabilities (t : Transport)
  | negotiateAlgorithms (t : Transport) (mldsa87 sha3x512 : Bool)
  | getDigests (t : Transport)
  | getCertificate (t : Transport) (slot : Byte)
  | challenge (t : Transport) (slot : Byte) (nonce : BitVec 256)
  | getMeasurements (t : Transport) (index : Byte) (sign : Bool) (nonce : BitVec 256)
  | commandCompletion (n : CoreId) (r : Requester)
  | busMasterEnable
  | vectorUnmask (vector : Option (Fin 2048))
  | configurationRequest
  | cdatRequest
  | pldmMonitoringRequest (source : Byte)
  | setEndpointId (eid : Byte)
  | malformedMctpPacket (source : Byte)
  | busTimeout
  | stackHot (stack : Nat) (temp : BitVec 16)
  | serdesRefclkReturn (traverse : Bool)
  | pfcPauseEnd (port : TPort) (ns : Nat)
  | foreignFrame (side : Side)
  | foreignPacket (port : TPort)
  | tapInstruction (i : Tap)
  | pcoreWakeDone (pcore : Nat)
  | selfRefreshExit (n : CoreId)
  deriving DecidableEq, Repr

end Sys2Proof
end

