-- ==== Sys2Proof/Decode.lean ====
section
/-!
DEFINITION. The opcode table gives its rows no bits (spec/opcode_table.json: every row's fields are empty), because the
rows are the part's steps and not one word format. No word spells a row. The words that the part itself fetches
(sequencer commands, drill instructions, queue entries) are read in Machine/Operands.lean.
-/
namespace Sys2Proof

def decodeTableWord (_nbits _w : Nat) : Option Instr := none

end Sys2Proof
end

