-- ==== Sys2Proof/Config.lean ====
section
/-!
DEFINITION. What the spec leaves open (free values: constants without a body, so no proof can see what they are) and
what it names without giving the function (ML-DSA-87, log entry 9, DESIGN CHOICE; the bytes of a save image, log entry 17, DESIGN CHOICE).
A free value is applied to the model's counter `State.free` (log entry 10, DESIGN CHOICE).
-/
namespace Sys2Proof.Config

/-- A word that the spec does not fix, such as the unpaired element of a ROPE row. -/
opaque freeWord : Nat → Word

/-- Which of two outcomes comes about where the spec allows either: old or new content of a racing read (R140). -/
opaque freeBool : Nat → Bool

/-- A 64-bit value that the spec does not fix. -/
opaque freeWord64 : Nat → Word64

/-- A row whose content the spec does not fix. -/
opaque freeRow : Nat → Row

/-- What lane `i` of a routine's result holds where the spec states no value: of the routine, its argument slots and its
source rows, so that equal inputs give equal rows (R317; log entry 39, DESIGN CHOICE). -/
opaque resultFill : Nat → List Word → List Row → Nat → Word

/-- What a hold that a routine left undefined reads as (R189), of the same values and the hold's number. -/
opaque holdFill : Nat → List Word → List Row → Nat → Row

/-- How many of the events of a counter that no command reports have happened up to a time: page, offset, time (log entry
20, DESIGN CHOICE). -/
opaque events : Nat → Nat → Nat → Word64

/-- The temperature of a stack's hottest die at a time, in °C (R230). -/
opaque stackTemp : Nat → Word64 → BitVec 16

/-- How a schedule orders the four frame slots of the bridges, by placement epoch (R218). -/
opaque frameOrder : Nat → Nat

/-- The vertical eye opening of a lane in mV after a training, and the equalisation preset in use (R269, R293): port, lane,
number of the training. -/
opaque laneEye : Nat → Nat → Nat → BitVec 8
opaque laneEq : Nat → Nat → Nat → BitVec 8

/-- The 14-bit hash of source coordinate, destination coordinate and port in the UDP source port (R272). -/
opaque flowHash : Nat → Nat → Nat → BitVec 14

/-- ML-DSA-87 verification of a message under a public key (R424, R434): public key, message, signature. -/
opaque mldsaVerify : List Byte → List Byte → List Byte → Bool

/-- ML-DSA-87 signing with the part's identity key (R331, R439): the message's signature. -/
opaque mldsaSign : List Byte → List Byte

/-- The identity public key that the PUF rebuilds (R430). -/
opaque identityKey : List Byte

end Sys2Proof.Config
end

