-- ==== Sys2Proof/Machine/SMap.lean ====
section
/-!
DEFINITION. Sparse maps in canonical form: keys strictly rising, no entry equal to what an unlisted key reads as.
-/
namespace Sys2Proof

/-- What key `k` reads as; `d` gives the reset content. -/
def SMap.get {α : Type} (m : SMap α) (d : Nat → α) (k : Nat) : α :=
  match m with
  | [] => d k
  | (k', v) :: t => if k = k' then v else SMap.get t d k

/-- Put `v` at `k` in a map with rising keys, keeping the keys rising. -/
def SMap.insert {α : Type} (m : SMap α) (k : Nat) (v : α) : SMap α :=
  match m with
  | [] => [(k, v)]
  | (k', v') :: t =>
    if k < k' then (k, v) :: (k', v') :: t
    else if k = k' then (k, v) :: t
    else (k', v') :: SMap.insert t k v

def SMap.erase {α : Type} (m : SMap α) (k : Nat) : SMap α :=
  match m with
  | [] => []
  | (k', v') :: t => if k = k' then SMap.erase t k else (k', v') :: SMap.erase t k

/-- Write `v` at `k`; writing what an unlisted key reads as removes the entry. -/
def SMap.set {α : Type} [DecidableEq α] (m : SMap α) (d : Nat → α) (k : Nat) (v : α) : SMap α :=
  match m with
  | [] => if v = d k then [] else [(k, v)]
  | e :: t => if v = d k then SMap.erase (e :: t) k else SMap.insert (e :: t) k v

/-- Every key of the map is at least `lo`, and keys rise strictly. -/
def SMap.rising {α : Type} (lo : Nat) (m : SMap α) : Bool :=
  match m with
  | [] => true
  | (k, _) :: t => decide (lo ≤ k) && SMap.rising (k + 1) t

/-- The canonical form. -/
def SMap.wf {α : Type} [DecidableEq α] (d : Nat → α) (m : SMap α) : Bool :=
  SMap.rising 0 m && m.all (fun e => decide (e.2 ≠ d e.1))

end Sys2Proof
end

