-- ==== Sys2Proof/Machine/Ocg.lean ====
section
/-!
DEFINITION. The counter generator (R42), the layout of a slice (R203) and the content that the start-up test leaves in it
(R221, R222).
-/
namespace Sys2Proof.Machine

/-- Row of `e`-bit elements from a list. -/
def rowOfElems (e : Nat) (xs : List Nat) : Row :=
  BitVec.ofNat 4096 (xs.foldr (fun x acc => acc * 2 ^ e + x % 2 ^ e) 0)

/-! ## The counter generator (R42-R46) -/

def rotl (v : Word) (n : Nat) : Word := v.rotateLeft n

def ocgQuarter (x : Word × Word × Word × Word) : Word × Word × Word × Word :=
  let (a, b, c, d) := x
  let a := a + b
  let d := rotl (d ^^^ a) 16
  let c := c + d
  let b := rotl (b ^^^ c) 12
  let a := a + b
  let d := rotl (d ^^^ a) 8
  let c := c + d
  let b := rotl (b ^^^ c) 5
  (a, b, c, d)

/-- Two rounds, then the key and round additions with j = 1, 2, 3. -/
def ocgDouble (k : Nat → Word) (j : Nat) (x : Word × Word × Word × Word) : Word × Word × Word × Word :=
  let (a, b, c, d) := ocgQuarter (ocgQuarter x)
  (a + k (j % 4), b + k ((1 + j) % 4), c + k ((2 + j) % 4), d + k ((3 + j) % 4) + BitVec.ofNat 32 j)

/-- OCG (R42): key and counter words to four output words. -/
def ocg (k c : Nat → Word) : Word × Word × Word × Word :=
  let x := ((c 0 ^^^ 0x5A17C3E1) + k 0, (c 1 ^^^ 0x0B6D49F2) + k 1, (c 2 ^^^ 0xE3A81D57) + k 2, (c 3 ^^^ 0x76C4B20C) + k 3)
  ocgDouble k 3 (ocgDouble k 2 (ocgDouble k 1 x))

/-! ## The slice (R203) -/

/-- Units of one slice: 20 GiB of 512 bytes. -/
def sliceUnits : Nat := 41943040

/-- The first reserved byte. -/
def sliceUser : Nat := 0x4FC000000

/-- The parts of a slice (R203). -/
inductive SlicePart where
  | user | save (slot : Fin 2) | trackRing | calibration | drills
  deriving DecidableEq, Repr, Inhabited

/-- The part that a unit lies in. -/
def slicePart (u : Nat) : SlicePart :=
  let a := 512 * u
  if a < sliceUser then .user
  else if a < 0x4FD800000 then .save 0
  else if a < 0x4FF000000 then .save 1
  else if a < 0x4FF100000 then .trackRing
  else if a < 0x4FF200000 then .calibration
  else .drills

/-- The parts that drills reach: all but the track ring and the calibration rows (R203). -/
def drillReach (u : Nat) : Bool :=
  match slicePart u with
  | .user | .save _ | .drills => true
  | .trackRing | .calibration => false

/-- Pattern 4 (R221): OCG words with a key word, the unit, the word's index and the slice. -/
def ocgRow (seed : Word) (slice u : Nat) : Row :=
  rowOfElems 32 ((List.range 128).map (fun i =>
    (ocg (fun j => if j = 0 then seed else 0)
      (fun j => match j with
        | 0 => BitVec.ofNat 32 u | 1 => BitVec.ofNat 32 i | 2 => BitVec.ofNat 32 slice | _ => 0)).1.toNat))

/-- What a unit that nothing has written reads as, by physical slice * 41,943,040 + unit: pattern 4 with seed 0, as the
start-up test leaves it (R222), and 0 in the parts that no drill reaches (log entry 4, DESIGN CHOICE). -/
def sliceReset (k : Nat) : Row :=
  if drillReach (k % sliceUnits) then ocgRow 0 (k / sliceUnits) (k % sliceUnits) else 0

end Sys2Proof.Machine
end

