-- ==== Sys2Proof/Machine/State.lean ====
section
/-!
DEFINITION. The state of the OT6420 as plain data, the reasons a step can stop, and the state after reset.
Tables are sparse maps (`SMap`): what an unlisted key reads as is the table's reset content (Machine/Ops.lean and
Machine/Pages.lean say which). Log entries 3, 4 and 13 name the values the spec does not give.
-/
namespace Sys2Proof.Machine

/-- The machine stops with a fault. -/
inductive Fault where
  /-- Raised by a command that names a pcore, an HBM stack or a bridge that the part does not have (R11, R12).
  Safe: such a command cannot reach the part. -/
  | noSuchUnit
  deriving DecidableEq, Repr

/-- A command without a meaning in the model. -/
inductive Refusal where
  /-- Raised by a dispatch arm whose meaning is not written yet. Safe. -/
  | notModelled (mnemonic : String)
  deriving DecidableEq, Repr

/-! ## Register pages -/

/-- The state of one 4 KiB register page (R456, R459, R9): event registers, counters by offset, their snapshot, the
latched high words by offset of the low word, and the values of the page's own registers by offset. -/
structure Page where
  err      : Word
  notice   : Word
  fence    : Word
  info0    : Word
  info1    : Word
  snapped  : Bool
  counters : SMap Word64
  snapshot : SMap Word64
  latch    : SMap Word
  regs     : SMap Word
  work     : List (Nat × Nat)  -- amounts in counters that the spec does not give: offset, free value (log entry 10, DESIGN CHOICE)
  since    : Word64            -- when the counters were last cleared
  snapFrom : Word64            -- `since` and the time when the snapshot was taken
  snapAt   : Word64
  deriving DecidableEq, Repr, Inhabited

/-! ## Sequencer (R157) -/

/-- States of a program bank (R175), coded as SEQ_BANK_STATE. -/
inductive BankState where
  | empty | loading | valid | executing
  deriving DecidableEq, Repr, Inhabited

/-- SEQ_STATE.STATE (R180). -/
inductive SeqRun where
  | idle | running | stopped | draining
  deriving DecidableEq, Repr, Inhabited

/-- One active loop (R182). -/
structure LoopFrame where
  lc    : Fin 4
  endPc : Nat
  count : Word
  index : Word
  start : Nat
  deriving DecidableEq, Repr, Inhabited

/-- A base-and-bound region entry (R133, R154): `count1` is the row count minus 1. -/
structure Region where
  base   : Nat
  count1 : Nat
  valid  : Bool
  deriving DecidableEq, Repr, Inhabited

/-- The configuration of a circular region (R135, R155). -/
structure CircCfg where
  valid    : Bool
  slotLog2 : Nat
  banks    : Nat
  base     : Nat
  slots    : Nat
  deriving DecidableEq, Repr, Inhabited

/-- The header of a program image (R360). -/
structure ProgHeader where
  cores       : Nat
  buildRepro  : Bool
  tracks      : Bool
  lift        : Bool
  traverse    : Bool
  core        : Nat
  bookVersion : BitVec 16
  tokenBase   : Nat
  extentAddr  : Nat
  demandCores : Word64
  regions     : List Region
  circs       : List CircCfg
  quotas      : List Nat
  deriving DecidableEq, Repr, Inhabited

/-- A program bank: its commands by index (an unlisted one reads OPCODE 0xFF, R167), the image last loaded. -/
structure ProgBank where
  state  : BankState
  cmds   : SMap (BitVec 128)
  header : Option ProgHeader
  image  : List Byte
  deriving DecidableEq, Repr, Inhabited

structure Seq where
  bank0  : ProgBank
  bank1  : ProgBank
  g      : SMap Word64
  a      : SMap Word
  lc     : SMap Word
  preds  : Byte            -- p7-p0; p0 reads 1
  dmem   : SMap Byte
  round  : BitVec 24
  tile   : BitVec 16
  layer  : BitVec 16
  loops  : List LoopFrame  -- innermost first
  pc     : Nat
  bank   : Bool            -- executing bank
  armed  : Bool            -- SWITCH issued since the last END
  run    : SeqRun
  deriving DecidableEq, Repr, Inhabited

/-! ## Commands captured at issue (R161) -/

/-- A resolved row operand (R141, R166): the rows it names in order; for a transposed read the element size in bits and
whether scale rows stand among the rows (R142); the circular region and the sequences it took. -/
structure Operand where
  rows  : List Nat
  trans : Option (Nat × Bool)
  circ  : Option (Fin 4 × List Word)
  deriving DecidableEq, Repr, Inhabited

/-- Top-left square, height and width in squares (R59). -/
structure Geom where
  top : Fin 16
  h   : Nat
  w   : Nat
  deriving DecidableEq, Repr, Inhabited

/-- PASS (R170). `wsrc`: 0 keep, 1 expander, 2 weight port. `geom` is the partition's geometry when the pass issued, and
`fresh` says that it is the first pass of that geometry (R58, R60). `load` is the command of the loading pass whose weights
a keep pass uses (R64). -/
structure PassP where
  p       : Fin 16
  geom    : Option Geom
  fresh   : Bool
  wfmt    : Nat
  afmt    : Nat
  sparse  : Nat
  add     : Bool
  replay  : Bool
  n       : Nat
  accBase : Nat
  accRows : Nat
  wsrc    : Nat
  tslot   : Nat
  slabs   : Nat
  act     : Operand
  wts     : Operand
  pre     : Option Operand
  mask    : Option (Operand × Nat)
  load    : Option Nat
  deriving DecidableEq, Repr, Inhabited

/-- DRAIN and FILL (R169). -/
structure DrainP where
  base   : Nat
  rows   : Nat
  fmt    : Nat
  sat    : Bool
  sr     : Bool
  file0  : Nat
  files  : Nat
  srcInt : Bool
  e      : Word64
  rowLen : Word
  opnd   : Operand
  deriving DecidableEq, Repr, Inhabited

/-- SWEEP (R171, R484). `slice`: the slice byte address where WSRC = 1. -/
structure SweepP where
  vecs    : BitVec 16
  wfmt    : Nat
  afmt    : Nat
  sparse  : Nat
  add     : Bool
  replay  : Bool
  stream  : Bool
  tslot   : Nat
  ctx     : Fin 16
  slabs   : Nat
  klen    : Nat
  tile    : Nat
  col0    : Nat
  cols    : Nat
  wts     : Operand
  slice   : Word64
  pre     : Option Operand
  deriving DecidableEq, Repr, Inhabited

/-- SDRAIN (R169). -/
structure SdrainP where
  vecs   : BitVec 16
  col0   : Nat
  cols   : Nat
  fmt    : Nat
  sat    : Bool
  sr     : Bool
  srcInt : Bool
  e      : Word64
  rowLen : Word
  opnd   : Operand
  deriving DecidableEq, Repr, Inhabited

/-- ROWOP (R185). `elow` is E low: the second operand, the segment length G, or the first element index. -/
structure RowopP where
  code  : Nat
  rows  : Nat
  sfmt  : Nat
  dfmt  : Nat
  sat   : Bool
  sr    : Bool
  bhold : Bool
  hold  : Nat
  resv  : Nat
  elow  : Word
  srcA  : Operand
  srcB  : Option Operand
  dst   : Operand
  deriving DecidableEq, Repr, Inhabited

/-- CALL (R177, R189): argument slots 0-13 and the element index of g15; the operands in the routine's order. -/
structure CallP where
  routine : Nat
  slots   : List Word
  index   : Word64
  opnds   : List Operand
  deriving DecidableEq, Repr, Inhabited

/-- STREAM (R169, R209). -/
structure StreamP where
  ctx    : Fin 16
  out    : Bool            -- direction 1: scratchpad to slice
  preset : Nat
  desc   : Nat
  e      : Word64
  opnd   : Operand
  deriving DecidableEq, Repr, Inhabited

/-- LAUNCH (R169, R246), with the task's shift of R349 applied to the mask. -/
structure LaunchP where
  dir   : Dir
  kind  : Nat
  slice : Bool
  rows  : Nat
  mask  : Word64
  seq   : Word
  unit  : Nat
  opnd  : Operand
  deriving DecidableEq, Repr, Inhabited

/-- GRAD (R169, R253). -/
structure GradP where
  dir    : Dir
  origin : Nat
  rows   : Nat
  seq    : Word
  opnd   : Operand
  deriving DecidableEq, Repr, Inhabited

/-- XSEND and XREDUCE (R169, R279, R282). `coll` is `none` for XSEND. -/
structure TravP where
  port : TPort
  coll : Option Nat
  rows : Nat
  e    : Word64
  opnd : Operand
  deriving DecidableEq, Repr, Inhabited

/-- An engine command with its captured operands. -/
inductive EngOp where
  | rowld (src : Operand) (addr : Nat)
  | rowst (dst : Operand) (addr : Nat)
  | pass (x : PassP)
  | drain (x : DrainP)
  | fill (x : DrainP)
  | vload (slot fmt klen : Nat) (src : Operand)
  | sweep (x : SweepP)
  | sdrain (x : SdrainP)
  | tload (slot gen : Nat) (src : Operand)
  | rowop (x : RowopP)
  | call (x : CallP)
  | stream (x : StreamP)
  | launch (x : LaunchP)
  | demand (addr : Nat)
  | grad (x : GradP)
  | trav (x : TravP)
  | release (region : Fin 4) (seqs : List Word)
  | signalOnly            -- a predicated-off engine command (R174)
  deriving DecidableEq, Repr, Inhabited

/-- An item for a circular slot: region, sequence, the slot's rows and their contents (R136). `full`: the item is the
slot's last, so that its full token is given; a run of items that a bad index ended gives none (R194). -/
structure SlotItem where
  region : Fin 4
  seq    : Word
  dest   : List Nat
  rows   : List Row
  full   : Bool
  deriving DecidableEq, Repr, Inhabited

/-- How far an issued engine command has come: waiting in its queue, started (a pass or sweep that holds working
words, a lift or traverse command whose rows are read), performed (every access done). -/
inductive Stage where
  | queued | started | performed
  deriving DecidableEq, Repr, Inhabited

/-- An issued engine command that has not completed (R160, R165), with everything captured at issue. -/
structure EngCmd where
  id      : Nat
  req     : Requester
  op      : EngOp
  opcode  : Byte
  pc      : Nat
  bank    : Bool
  wait    : Option (Byte × Word)
  sig     : Option (Byte × Byte)
  port    : Nat
  reads   : List Nat
  writes  : List Nat
  dmR     : List (Nat × Nat)   -- data-memory bytes read: start, length
  dmW     : List (Nat × Nat)
  stage   : Stage
  races   : List Nat           -- rows that this read may see old or new (R140, blitz mode)
  rivals  : List Nat           -- the writing commands that it races with, newest first
  replays : Nat                -- replays of the pass or sweep that have begun (R64, R81)
  number  : Word               -- its pass or sweep sequence number, once it has begun (R69, R84)
  counted : Bool               -- its work has been counted (R71, R86)
  round   : BitVec 24
  tile    : BitVec 16
  layer   : BitVec 16
  tracked : Bool
  got     : List Row           -- rows taken so far from circular sources, slot by slot (R136)
  taken   : Nat                -- slots taken
  out     : List SlotItem      -- items made and not yet put into their circular slots
  tags    : Nat                -- transfer tags held by a STREAM (R212)
  fail    : Option Nat         -- the item with a bad index, to be reported once the items before it are out (R194)
  deriving DecidableEq, Repr, Inhabited

/-! ## Scratchpad (R129-R148) -/

inductive BankOwner where
  | free | port (p : Fin 8) | circ (c : Fin 4)
  deriving DecidableEq, Repr, Inhabited

/-- An operation that holds a bank (R143, R145, R147). -/
inductive Busy where
  | zeroing | waking | testing
  deriving DecidableEq, Repr, Inhabited

structure Bank where
  owner    : BankOwner
  busy     : Option Busy
  powered  : Bool
  takeover : Option Nat        -- a claim whose new owner has not taken the bank: the next command's number (R132)
  deriving DecidableEq, Repr, Inhabited

/-- Tokens of a circular slot (R136), and the failed mark of R251. -/
structure Slot where
  full     : Bool
  expected : Word
  failed   : Bool
  deriving DecidableEq, Repr, Inhabited

structure Circ where
  cfg      : CircCfg
  slots    : SMap Slot
  nextTake : Word
  nextPut  : Word
  deriving DecidableEq, Repr, Inhabited

/-- A writing command in a port's window (R140): who is ordered after it, and what its rows held before. -/
structure WinEntry where
  port    : Nat
  cmd     : Nat
  req     : Requester
  rows    : List Nat
  ticket  : Option (Byte × Nat)
  ordered : List Requester
  old     : List (Nat × Row)
  deriving DecidableEq, Repr, Inhabited

structure Spm where
  rows     : SMap Row
  banks    : SMap Bank
  regions  : SMap Region
  circs    : SMap Circ
  tokens   : SMap Word
  tickets  : SMap Nat
  window   : List WinEntry     -- oldest first
  claimSeq : Word
  deriving DecidableEq, Repr, Inhabited

/-! ## Array and schuss path -/

/-- The working weights of a partition (R48, R89): element bits by rank and file, index nibbles, MX scales and absent
flags by band. -/
structure Weights where
  fmt    : Nat
  sparse : Nat
  kpr    : Nat
  elem   : List (List (BitVec 16))
  idx    : List (List (BitVec 4))
  scale  : List (List Byte)
  absent : List (List Bool)
  deriving DecidableEq, Repr, Inhabited

/-- A started pass or sweep that has not committed: the command and its working words by entry (R53, R77). -/
structure Running where
  cmd     : Nat
  working : List (Nat × Word)
  deriving DecidableEq, Repr, Inhabited

/-- A loading pass that has begun, and whether the slots of its weight source are still held (R64). -/
structure Load where
  cmd  : EngCmd
  held : Bool
  deriving DecidableEq, Repr, Inhabited

structure Part where
  geom    : Option Geom
  seq     : Word
  fault   : Word               -- ARR_PARTp_FAULT SOURCE and CAUSE in place
  stopped : Bool
  weights : Option Weights
  fresh   : Bool               -- no pass has issued since the geometry was set (R58)
  lastLoad : Option Nat        -- the loading pass issued last, whose weights a keep pass issued next uses
  loads   : List Load          -- in the order begun, while held or named by a keep pass (R64)
  running : List Running       -- in the order started
  aborted : List Nat           -- passes awaiting replay, in program order
  deriving DecidableEq, Repr, Inhabited

structure Arr where
  parts : SMap Part
  acc   : SMap Word            -- committed words; key (row * 16 + slot) * 256 + file
  deriving DecidableEq, Repr, Inhabited

/-- A loaded activation vector (R73): format code, K length, its rows. -/
structure VecSlot where
  fmt  : Nat
  klen : Nat
  rows : List Row
  deriving DecidableEq, Repr, Inhabited

structure Sch where
  vecs    : SMap (Option VecSlot)
  sums    : SMap Word          -- committed words; key column * 16 + vector
  running : List Running
  aborted : List Nat           -- sweeps awaiting replay, in program order
  seq     : Word
  stopped : Bool
  deriving DecidableEq, Repr, Inhabited

/-! ## Expander, row engine, stream engine, tracks -/

/-- An expander table slot (R116, R128). `loading`: a load that has read its image: generation, image and row. -/
structure TabSlot where
  valid   : Bool
  gen     : BitVec 4
  image   : Row
  loads   : Word
  source  : BitVec 15
  loading : Option (BitVec 4 × Row × BitVec 15)
  deriving DecidableEq, Repr, Inhabited

structure Exp where
  slots    : SMap TabSlot
  bandFree : Nat
  deriving DecidableEq, Repr, Inhabited

/-- A hold that a routine left undefined (R189): what the free value depends on. -/
structure FreedHold where
  hold    : Nat
  routine : Nat
  slots   : List Word
  source  : List Row
  deriving DecidableEq, Repr, Inhabited

structure RowEng where
  holds   : SMap Row
  freed   : List FreedHold
  valid   : BitVec 16
  stopped : Bool
  deriving DecidableEq, Repr, Inhabited

/-- A slice-accessing command in the window of R211: first and last byte, and whether it writes. -/
structure SliceWin where
  cmd    : Nat
  lo     : Nat
  hi     : Nat
  writes : Bool
  deriving DecidableEq, Repr, Inhabited

structure Drill where
  code    : SMap Word64
  running : Bool
  preset  : Option Nat                 -- the preset that its header names (R220)
  pc      : Nat
  d       : SMap Word64
  c       : SMap Word
  loops   : List (Fin 2 × Nat × Nat)   -- counter, first and last instruction of the body
  log     : List Nat                   -- failing units, oldest first
  next    : Option (Option Nat × SMap Word64)   -- the drill that the firmware runs after it: preset and code
  deriving DecidableEq, Repr, Inhabited

structure Str where
  desc    : SMap (BitVec 256)
  quota   : SMap Nat
  preset  : Nat
  window  : List SliceWin
  drill   : Drill
  asleep  : Bool               -- slice in self-refresh (R411)
  waking  : Bool               -- its exit from self-refresh is under way
  deriving DecidableEq, Repr, Inhabited

/-- A track key with its partial (R326, R327); `pending` counts tracked drains not yet completed. -/
structure Key where
  round   : BitVec 24
  layer   : BitVec 16
  sum     : Word64
  count   : Word64
  pending : Nat
  deriving DecidableEq, Repr, Inhabited

structure Trk where
  watermark : BitVec 24
  openKeys  : List Key
  closing   : List Key
  ring      : List Key         -- closed keys the merge has not taken
  recent    : List Key         -- newest first, at most 16
  deriving DecidableEq, Repr, Inhabited

/-- A logical core with its seven engines (R157, R148, R67, R118, R183). -/
structure Core where
  seq      : Seq
  spm      : Spm
  arr      : Arr
  sch      : Sch
  exp      : Exp
  row      : RowEng
  str      : Str
  trk      : Trk
  inflight : List EngCmd       -- in issue order
  nextId   : Nat
  task     : Option (Fin 64)
  lift     : Nat               -- DEMANDs issued by the job (R252)
  recvs    : SMap Nat          -- RECVs issued per port (R281)
  colls    : SMap Nat          -- collective instances issued per port (R282)
  deriving DecidableEq, Repr, Inhabited

/-! ## Host side -/

/-- A notice (R362). -/
structure Notice where
  type    : Byte
  error   : Bool
  ctx     : BitVec 16
  time    : Word64
  payload : BitVec 128
  deriving DecidableEq, Repr, Inhabited

/-- A notice ring (R365, R366): `head` and `tail` count notices from the ring's creation. -/
structure Ring where
  base    : Word64
  log2    : Nat
  msix    : Bool
  vector  : Fin 2048
  armed   : Bool
  head    : Nat
  tail    : Nat
  dropped : Nat
  types   : Byte
  deriving DecidableEq, Repr, Inhabited

/-- A command that has started and not completed (R354). -/
structure Started where
  entry : List Byte
  after : Nat                    -- the queue head just past the entry
  task  : Option (Fin 64)
  bundle : Option (Fin 64)
  deriving DecidableEq, Repr, Inhabited

/-- A fetched command: its 64 bytes, and how many window writes had completed when it was fetched (R346). -/
structure Fetched where
  entry  : List Byte
  after  : Nat                   -- the queue head just past the entry
  writes : Nat
  deriving DecidableEq, Repr, Inhabited

/-- A submission queue (R350). -/
structure Queue where
  ctx     : BitVec 12
  ring    : BitVec 12
  base    : Word64
  log2    : Nat
  head    : Nat
  tail    : Nat
  fetched : List Fetched       -- fetched, not started; in queue order
  started : List Started
  deleting : Bool
  deriving DecidableEq, Repr, Inhabited

/-- An HBM region of a context (R349). -/
structure HbmRegion where
  core : CoreId
  base : Nat
  len  : Nat
  deriving DecidableEq, Repr, Inhabited

structure Context where
  ring    : BitVec 12
  regions : List HbmRegion
  zeroing : List HbmRegion     -- being zeroed after a kill (R222)
  live    : Bool
  deriving DecidableEq, Repr, Inhabited

/-- What a running job waits for at a boundary (R62, R334); `saveHeld` is a save of a pre-empted job. -/
inductive Hold where
  | running | preempting | preempted | saving | saveHeld
  deriving DecidableEq, Repr, Inhabited

/-- A job (R359, R330, R328). -/
structure Job where
  id        : Word64
  repro     : Bool
  tracks    : Bool
  lift      : Bool
  traverse  : Bool
  bookVer   : BitVec 16
  bundle    : Option (Fin 64)
  trvEpoch  : BitVec 16
  seed      : BitVec 128
  jobWord   : Word
  program   : BitVec 512       -- PROGRAM_DIGEST
  inputs    : Option (BitVec 512)
  start     : Word64
  fault     : Option Word
  vary      : Word64
  resumed   : Option (BitVec 512)
  merged    : List Key
  records   : Word64
  chain     : BitVec 512
  batches   : Nat              -- numbered so far
  held      : List Nat         -- batches held at the gate
  hold      : Hold
  saveRegions : List Byte
  demandCores : Word64
  tokenBase : Nat
  tasked    : Bool             -- the first command has issued (LAUNCH completes)
  deriving DecidableEq, Repr, Inhabited

structure Task where
  ctx   : BitVec 12
  base  : Nat
  cores : Nat
  job   : Option Job
  deriving DecidableEq, Repr, Inhabited

/-- A demand accumulator (R252). -/
structure DemandLap where
  lap    : Nat
  bits   : BitVec 256
  own    : Word64             -- demand cores that have contributed
  others : Nat                -- masks of other stations received
  sent   : Bool
  deriving DecidableEq, Repr, Inhabited

/-- A save image of one core (R334): the core's state, and the job-wide section. -/
structure SaveImage where
  good     : Bool               -- its header digest matches
  number   : Nat
  program  : BitVec 512
  bundles  : List (Fin 64 × BitVec 512)
  regions  : List Byte         -- region list and digests (R334)
  regionDigest : BitVec 512
  epoch    : BitVec 16
  liftLen  : Nat
  position : Nat
  core     : Core
  job      : Job
  laps     : List DemandLap    -- demand laps not completed, and how many are
  demanded : Nat
  counters : List (List (Nat × Word64))
  deriving DecidableEq, Repr, Inhabited

/-- A provenance record (R330), bytes 0x000-0x2FF, and its signature once made. -/
structure ProvRecord where
  job  : Word64
  body : List Byte
  sig  : Option (List Byte)
  deriving DecidableEq, Repr, Inhabited

/-- A buffered window write (R346): window offset, line, byte enables. -/
structure WinWrite where
  number : Nat
  offset : Nat
  data   : BitVec 512
  enable : BitVec 64
  deriving DecidableEq, Repr, Inhabited

structure HostSide where
  contexts : SMap Context
  tasks    : SMap (Option Task)
  queues   : SMap (Option Queue)
  rings    : SMap (Option Ring)
  backlog  : List (Nat × Notice)       -- ring and notice, oldest first
  busMaster : Bool
  vecMask  : SMap Bool                 -- MSI-X vector masks
  fnMask   : Bool
  pba      : List Nat                  -- pending vectors
  winBuf   : List WinWrite             -- completed, not performed; oldest first
  winCount : Nat                       -- window writes completed since reset
  records  : List ProvRecord           -- newest first, at most 64
  readData : BitVec 512                -- what the last host read returned
  tests    : List (Nat × Nat)          -- self-tests asked for and not done (R356): kind 0 pcore, 1 pcore * 64 + bank, 2 core
  deriving DecidableEq, Repr, Inhabited

/-! ## Bundles (R295-R316) -/

inductive BundleState where
  | empty | loading | verified | armed | swapping | zeroing
  deriving DecidableEq, Repr, Inhabited

inductive SegState where
  | loading | hashing | verified
  deriving DecidableEq, Repr, Inhabited

/-- A directory entry (R297). -/
structure Segment where
  len    : Nat
  core   : Nat
  slot   : Nat
  digest : BitVec 512
  place  : Nat               -- slice byte address (R300)
  state  : SegState
  again  : Bool              -- it was rejected and waits to be delivered again (R304)
  deriving DecidableEq, Repr, Inhabited

/-- A manifest's values (R296). -/
structure Manifest where
  n       : Nat
  cores   : Nat
  layers  : Nat
  model   : BitVec 128
  version : Word
  digest  : BitVec 512
  deriving DecidableEq, Repr, Inhabited

/-- A command that the residency ring concerns (R305): 1 arm, 2 swap commit; its manifest digest and F. -/
structure RingCmd where
  op     : Nat
  digest : BitVec 512
  first  : Nat
  deriving DecidableEq, Repr, Inhabited

structure Bundle where
  state    : BundleState
  pinned   : Bool
  order    : Nat
  uses     : Nat
  man      : Manifest
  segs     : List Segment
  extents  : List (CoreId × Nat × Nat)  -- core, base, length
  peer     : Option (TPort × BitVec 15)
  timeout  : Nat
  -- a pending or committed swap (R312)
  newMan   : Option Manifest
  newSegs  : List Segment
  firstNew : Nat
  front    : Nat             -- next layer slot to replace
  opened   : Bool            -- the slot at `front` is open
  ready    : Bool            -- this station has set READY; cleared when the swap fails (R314)
  refused  : Option RingCmd  -- the last command that the station refused or cancelled (R305)
  released : Bool            -- station 0 has sent a release for the slot's command (R305)
  dir      : List Byte       -- the shard's directory, which a peer may ask for (R303)
  newDir   : List Byte       -- the directory of a pending or committed swap
  waiting  : Bool            -- its extents wait for another slot's zeroing to end (R309)
  deriving DecidableEq, Repr, Inhabited

/-! ## Lift (R238-R260) -/

/-- LFC_STATE.STATE (R263). -/
inductive LiftState where
  | unformed | training | checking | formed | quiescing | quiescent | broken
  deriving DecidableEq, Repr, Inhabited

/-- Values of a chair header that travel unchanged (R240). -/
structure ChairHdr where
  kind   : Fin 4
  dir    : Dir
  origin : Nat
  mask   : Word64
  seq    : Word
  rows   : Nat
  core   : Nat
  deriving DecidableEq, Repr, Inhabited

/-- A whole chair held at the station, with its rows. -/
structure Chair where
  hdr  : ChairHdr
  rows : List Row
  deriving DecidableEq, Repr, Inhabited

/-- A frame in a replay buffer (R243). -/
structure SentFrame where
  seq   : BitVec 16
  hdr   : List Byte
  data  : List Byte
  sends : Nat
  deriving DecidableEq, Repr, Inhabited

/-- One lift port (R243, R244). -/
structure LiftPort where
  agreed    : Bool
  txSeq     : BitVec 16
  rxSeq     : BitVec 16
  replay    : List SentFrame
  sentUsed  : Nat             -- chair entries sent and not seen freed
  creditSeen : BitVec 16
  freed     : BitVec 16       -- CREDIT this port reports
  demandUsed : Nat
  demandSeen : BitVec 3
  demandFreed : BitVec 3
  rxUsed    : Nat             -- chair entries in use
  rxDemand  : List (ChairHdr × BitVec 256)        -- demand chairs waiting for their lap
  rxChair   : Option (ChairHdr × List Row × Nat)  -- the chair arriving: header, rows and frames so far
  through   : Option Nat      -- frames still to arrive of a chair that is leaving by this port, cut-through (R249)
  rxGrad    : List Chair      -- gradient chairs waiting for their contribution
  nakDue    : Bool            -- a NAK to be sent
  nakSent   : Bool            -- the gap has had its NAK
  trained   : Nat             -- trainings that have locked lanes (R269)
  deriving DecidableEq, Repr, Inhabited

/-- A chair that the station holds: copies still to be written to some cores, or to be forwarded (R244, R250). -/
structure Held where
  chair   : Chair
  side    : Option Side       -- port whose buffer holds it; `none` for an own chair (R20)
  left    : Word64            -- cores not written yet
  waiting : Bool              -- not yet in an egress replay buffer
  stale   : Word64            -- cores whose copy was under way to an old pcore (R250)
  bad     : Bool              -- the chair itself is discarded, and every copy fails its check (R18, R251)
  grad    : Option (Nat × Nat)  -- the GRAD that its landing completes: core, command
  deriving DecidableEq, Repr, Inhabited

/-- An own chair, in the order the LAUNCH commands issued (R247); `none` until its rows are read. -/
structure OwnChair where
  core  : Nat
  cmd   : Nat
  chair : Option Chair
  deriving DecidableEq, Repr, Inhabited

/-- A contribution held for a return lap (R254): the issuing core, its command and rows. -/
structure Contribution where
  core : Nat
  cmd  : Nat
  x    : GradP
  rows : List Row
  deriving DecidableEq, Repr, Inhabited

structure Lift where
  state    : LiftState
  epoch    : BitVec 16
  port     : SMap LiftPort           -- 0 uphill, 1 downhill
  ring     : Option (BitVec 16)      -- a first ring frame held until both ports agree
  ownQ     : List OwnChair
  held     : List Held               -- in order of arrival
  turnUp   : Nat                     -- forwarded chairs that may go before the next own chair
  turnDown : Nat
  demands  : List (ChairHdr × BitVec 256 × Bool)  -- demand chairs to go uphill; `true`: holding a demand entry
  contribs : List Contribution
  laps     : List DemandLap
  demanded : Nat                     -- demand laps of the job completed
  asked    : Bool                    -- this station asked for the quiesce in progress (R259)
  deriving DecidableEq, Repr, Inhabited

/-! ## Traverse (R270-R287) -/

/-- The values of a traverse header (R273). -/
structure TrvHdr where
  type   : Nat
  ece    : Bool
  last   : Bool
  kind   : Nat
  src    : Nat
  dst    : Nat
  core   : Nat
  phase  : Nat
  psn    : Word
  ack    : Word
  seq    : Word
  param  : Word
  rows   : Nat
  offset : Nat
  len    : Nat
  epoch  : BitVec 16
  deriving DecidableEq, Repr, Inhabited

/-- A data packet sent and not acknowledged. -/
structure TrvSent where
  hdr  : TrvHdr
  data : List Byte
  deriving DecidableEq, Repr, Inhabited

/-- One direction of traffic with a peer (R275-R277): `sends` for what this port sends. -/
structure Flow where
  peer     : BitVec 15
  sends    : Bool
  job      : Bool              -- the running job has used it (R286)
  epoch    : BitVec 16         -- JOB_EPOCH of its last packet
  unacked  : List TrvSent      -- sent and unacknowledged, oldest first
  got      : Nat               -- packets received since the last acknowledgement
  ece      : Bool
  nak      : Bool              -- the gap has had its NAK
  rtoUs    : Nat
  rate     : Nat               -- in millionths of line rate
  cut      : Bool              -- the rate was cut in this window
  deriving DecidableEq, Repr, Inhabited

/-- A message that the part sends (R279, R283); `epoch` 0 is a bundle transfer's. -/
structure TrvMsg where
  core    : Nat
  cmd     : Nat
  dst     : BitVec 15
  dstCore : Nat
  kind    : Nat
  phase   : Nat
  seq     : Word
  param   : Word
  rows    : List Row
  epoch   : BitVec 16
  asked   : Bool               -- its request has been sent
  granted : Bool
  sent    : Nat                -- rows sent
  lastPsn : Option Word        -- PSN of its last packet, once sent
  deriving DecidableEq, Repr, Inhabited

/-- A request received (R280). -/
structure TrvReq where
  src     : BitVec 15
  core    : Nat
  kind    : Nat
  phase   : Nat
  seq     : Word
  param   : Word
  rows    : Nat
  epoch   : BitVec 16
  granted : Bool
  got     : Nat                -- rows received
  deriving DecidableEq, Repr, Inhabited

/-- A receive window or a collective instance open at a core (R281, R282). -/
structure TrvOpen where
  core    : Nat
  cmd     : Nat
  coll    : Nat                -- 0 is RECV
  number  : Nat
  rows    : Nat
  e       : Word64
  group   : BitVec 256         -- members' traverse positions
  source  : List Row
  chunk   : List Row           -- the chunk being reduced
  added   : List Nat           -- ranks whose contribution has arrived whole
  reduced : Bool
  ownDue  : Bool               -- the own result chunk waits to be landed
  landed  : List Nat           -- ranks whose result has landed
  joined  : List Nat           -- ranks that have joined
  done    : Nat                -- rows written by a RECV
  closed  : Bool               -- a BARRIER that has completed here and still answers its members (R282)
  deriving DecidableEq, Repr, Inhabited

/-- Segments of a shard that the part is to send to a peer (R303): those of a bundle slot with this manifest digest, `left` of
them from `next` on. -/
structure Serve where
  peer   : BitVec 15
  slot   : Nat
  digest : BitVec 512
  next   : Nat
  left   : Nat
  deriving DecidableEq, Repr, Inhabited

structure Traverse where
  flows    : List Flow         -- least recently used first
  txPsn    : SMap Word         -- next sequence number to a peer, by coordinate (R276)
  rxPsn    : SMap Word         -- next sequence number expected from a peer
  serves   : List Serve        -- shards being sent to peers
  waitQ    : List (TrvHdr × List Byte)   -- packets that a pause holds (R278), oldest first
  trained  : Nat               -- trainings that have locked lanes (R293)
  out      : List TrvMsg
  requests : List TrvReq
  opens    : List TrvOpen
  inForce  : SMap Word         -- TRV registers as the port last trained (R291), by offset
  paused   : Bool
  aborts   : Nat               -- abort packets still to be sent (R286)
  abortTo  : List (BitVec 15)
  abortEpoch : BitVec 16
  deriving DecidableEq, Repr, Inhabited

/-! ## Placement, power, boot -/

/-- PCR_STATE.STATE (R398). -/
inductive PcState where
  | hosting | spare | fenced | released | testing | ineligible
  deriving DecidableEq, Repr, Inhabited

structure Pcore where
  state      : PcState
  before     : PcState         -- what the pcore goes back to after a self-test (R389)
  cause      : Word
  gated      : Bool
  waking     : Bool
  due        : Bool            -- a fence is raised and not applied yet (R382)
  dueJournal : Bool            -- the fence is to be journalled (R383)
  testKind   : Nat
  testResult : Nat
  spares     : SMap (List (Nat × Nat)) -- remapped rows by bank: spare number and logical row (R144)
  deriving DecidableEq, Repr, Inhabited

/-- A stack channel (R232). -/
structure Chan where
  state     : Nat
  lowProbes : Nat
  margin    : Byte
  marked    : List (Nat × Nat)  -- bank, row
  windows   : Nat               -- refresh windows before the one with the next probe
  retrain   : Bool
  deriving DecidableEq, Repr, Inhabited

structure Die where
  setpoint  : Nat
  offset    : Nat
  stretched : Bool
  excluded  : List Nat
  hottest   : Int
  measured  : Nat
  least     : Int
  need      : Nat               -- extra millivolts the margin detectors asked for
  avsOk     : Bool
  deriving DecidableEq, Repr, Inhabited

/-- A repair journal record (R435): KIND and PAYLOAD. -/
structure Repair where
  kind    : Nat
  payload : List Nat
  deriving DecidableEq, Repr, Inhabited

/-- A firmware image's values (R426), and whether it passes the checks of R424 other than the floor. -/
structure FwCopy where
  version : Word
  svn     : BitVec 16
  bookVer : BitVec 16
  digest  : BitVec 512
  good    : Bool
  deriving DecidableEq, Repr, Inhabited

/-- A configuration record in force or stored (R433). -/
structure CfgRecord where
  seq     : Word64
  floor   : BitVec 16
  owner   : List Byte           -- OWNER_KEY
  pubs    : List (BitVec 512)
  digest  : BitVec 512
  deriving DecidableEq, Repr, Inhabited

/-- The boot flash (R427), kept over power loss. -/
structure Flash where
  grade    : Bool
  bin      : BitVec 16
  serial   : BitVec 128
  factory  : Bool               -- the factory record verifies (R432)
  speed    : SMap Nat           -- SPEED_TABLE by entry number (R432); unlisted: 0xFFFF, not reached
  repairs  : List Repair        -- manufacture repair entries
  helper   : Bool               -- the key rebuilt from the helper record has the digest the record holds (R430)
  cfgA     : Option CfgRecord
  cfgB     : Option CfgRecord
  fwA      : Option FwCopy
  fwB      : Option FwCopy
  journal  : List Repair        -- records in the slots of the active half, in order
  half     : Bool
  torn     : Bool
  deriving DecidableEq, Repr, Inhabited

/-- The phase of the part's power and reset (R475, R423). -/
inductive Phase where
  | off | inReset | booting | recovery | ready | halted | tripped
  deriving DecidableEq, Repr, Inhabited

/-- Ethernet fields of a lift frame (R239). -/
structure LiftMac where
  dst   : BitVec 48
  src   : BitVec 48
  etype : BitVec 16
  deriving DecidableEq, Repr, Inhabited

/-- The fields of a traverse packet outside the traverse header (R271, R272). -/
structure TrvOuter where
  dstMac  : BitVec 48
  srcMac  : BitVec 48
  vlan    : Option (BitVec 16)
  ipv6    : Bool
  dst     : BitVec 128
  src     : BitVec 128
  dscp    : BitVec 6
  ecn     : BitVec 2
  hops    : Byte
  df      : Bool
  srcPort : BitVec 16
  dstPort : BitVec 16
  deriving DecidableEq, Repr, Inhabited

/-- What formation frames, ring frames, lift notices and quiesce frames say (R242, R256, R259). -/
inductive LiftMsg where
  | formation (f : Formation)
  | ring (second : Bool) (epoch : BitVec 16)
  | notice (stall : Bool) (position : Nat) (failed : Nat)
  | quiesce (second : Bool)
  | residency (f : ResRing)
  deriving DecidableEq, Repr, Inhabited

/-- What the part sends to the outside (log entry 12, DESIGN CHOICE). -/
inductive Out where
  | notice (ring index : Nat) (phase : Bool) (n : Notice)
  | msix (vector : Nat)
  | dmaWrite (address : Word64) (bytes : List Byte)
  | liftFrame (side : Side) (mac : LiftMac) (fcs : Fcs) (hdr data : List Byte)
  | linkControl (side : Side) (mac : LiftMac) (hdr pad : List Byte)
  | liftMsg (side : Side) (mac : LiftMac) (hdr data pad : List Byte) (m : LiftMsg)
  | trvPacket (port : TPort) (outer : TrvOuter) (udpSum : BitVec 16) (hdr data : List Byte) (fcs : Fcs)
  | shardAnswer (port : TPort) (peer : BitVec 15) (directory : Option (List Byte))
  | announce (port : TPort) (outer : TrvOuter)
  | arpReply (port : TPort) (dest : BitVec 48) (outer : TrvOuter)
  | avsWrite (rail : Fin 4) (mv : Nat)
  | spdm (t : Transport) (code : Byte) (bytes : List Byte)
  | pldm (completion : Byte)
  | telemetry (dest : Byte) (values : List Word)
  | cdat
  | configReply (retry : Bool)
  | saveImage (image : SaveImage)
  | tdo (shifted : List Bool)
  deriving DecidableEq, Repr

/-! ## The part -/

structure State where
  time     : Word64
  refOk    : Bool
  holdover : Bool
  phase    : Phase
  porN     : Bool
  perstN   : Bool
  strap0   : Bool               -- as sampled (R425)
  strap1   : Bool
  trip     : Bool               -- THERMTRIP latched (R410)
  tap      : Tap
  chain    : List Bool          -- boundary-chain values (R482)
  pages    : SMap Page          -- by BAR0 page number
  cores    : SMap Core          -- by logical core
  slices   : SMap Row           -- by physical slice * 41,943,040 + unit
  presented : Nat
  dies     : List Nat           -- present dies (R388)
  place    : SMap (Option Nat)  -- host pcore by logical core
  epoch    : BitVec 16
  schedule : Option (BitVec 16 × Nat) -- a schedule written and not in effect: its epoch, the core it moves (R219)
  pcores   : SMap Pcore
  retired  : List Nat           -- retired physical slices
  bridges  : List (Nat × Nat)   -- failed bridges
  chans    : SMap Chan          -- by stack * 32 + channel
  hashQ    : List (Nat × Nat)   -- segments that wait for their hash, in order: bundle slot, segment (R302)
  hot      : SMap (Option (Word64 × BitVec 16))   -- the last STACK_HOT report of a stack: time and temperature
  host     : HostSide
  lift     : Lift
  trvA     : Traverse
  trvB     : Traverse
  bundles  : SMap Bundle
  loadOrder : Nat
  saves    : SMap (Option SaveImage)   -- content of the image slots, by logical core * 2 + slot (R203, R334)
  saveNo   : Nat
  diesPw   : SMap Die
  capMiss  : Nat                -- intervals at 750 M steps/s above the cap
  flash    : Flash
  toJournal : List Repair       -- records waiting to be appended
  config   : Option CfgRecord   -- in force
  fw       : Option FwCopy      -- running
  runsB    : Bool               -- the running copy is copy B
  liftClk  : Bool               -- LFT_REFCLK and TRV_REFCLK run (R476)
  trvClk   : Bool
  spdmUp   : SMap Nat           -- connection state by transport: 0 none, 1 version, 2 caps, 3 algorithms
  faultUnread : List Nat        -- fault-log entries not read since written
  free     : Nat                -- the model's free-value counter (log entry 10, DESIGN CHOICE)
  outbox   : List Out           -- newest first
  pending  : List Instr         -- commands waiting, first in, first out
  deriving DecidableEq, Repr

/-! ## Reset values -/

def ProgBank.reset : ProgBank := { state := .empty, cmds := [], header := none, image := [] }

def Seq.reset : Seq :=
  { bank0 := .reset, bank1 := .reset, g := [], a := [], lc := [], preds := 1, dmem := [], round := 0, tile := 0,
    layer := 0, loops := [], pc := 0, bank := false, armed := false, run := .idle }

def Spm.reset : Spm :=
  { rows := [], banks := [], regions := [], circs := [], tokens := [], tickets := [], window := [], claimSeq := 0 }

def Drill.reset : Drill :=
  { code := [], running := false, preset := none, pc := 0, d := [], c := [], loops := [], log := [], next := none }

def Str.reset : Str :=
  { desc := [], quota := [], preset := 0, window := [], drill := .reset, asleep := false,
    waking := false }

def Sch.reset : Sch := { vecs := [], sums := [], running := [], aborted := [], seq := 0, stopped := false }

def Trk.reset : Trk := { watermark := 0, openKeys := [], closing := [], ring := [], recent := [] }

/-- A core that nothing has run on: registers 0, p0 = 1, banks empty, memories 0 (R157, R158, R180; log entry 3, DESIGN CHOICE). -/
def Core.reset : Core :=
  { seq := .reset, spm := .reset, arr := { parts := [], acc := [] }, sch := .reset,
    exp := { slots := [], bandFree := 0x10000 }, row := { holds := [], freed := [], valid := 0, stopped := false },
    str := .reset, trk := .reset, inflight := [], nextId := 0, task := none, lift := 0, recvs := [], colls := [] }

/-- Context 0, queue 0 and ring 0 exist from reset (R348); nothing else does. -/
def HostSide.reset : HostSide :=
  { contexts := [], tasks := [], queues := [], rings := [], backlog := [], busMaster := false, vecMask := [],
    fnMask := false, pba := [], winBuf := [], winCount := 0, records := [], readData := 0, tests := [] }

def Lift.reset : Lift :=
  { state := .unformed, epoch := 0, port := [], ring := none, ownQ := [], held := [], turnUp := 0, turnDown := 0,
    demands := [], contribs := [], laps := [], demanded := 0, asked := false }

def Traverse.reset : Traverse :=
  { flows := [], txPsn := [], rxPsn := [], serves := [], waitQ := [], trained := 0, out := [], requests := [], opens := [],
    inForce := [], paused := false, aborts := 0, abortTo := [], abortEpoch := 0 }

/-- The flash of the part (log entry 15, DESIGN CHOICE): grade A, no repairs, unclaimed, firmware copy A with book version 1. -/
def Flash.reset : Flash :=
  { grade := false, bin := 0, serial := 0, factory := true, speed := [], repairs := [], helper := true, cfgA := none, cfgB := none,
    fwA := some { version := 1, svn := 0, bookVer := 1, digest := 0, good := true }, fwB := none, journal := [],
    half := false, torn := false }

/-- The part right after reset release, with nothing run: both reset inputs high, straps sampled 0, boot begun, READY
low (R475, R425, R423), every page and table at its reset value (log entries 3, 4, 13, 15). -/
def State.reset : State :=
  { time := 0, refOk := true, holdover := false, phase := .booting, porN := true, perstN := true, strap0 := false,
    strap1 := false, trip := false, tap := .idcode, chain := [], pages := [], cores := [], slices := [],
    presented := 64, dies := [0, 1, 2, 3], place := [], epoch := 0, schedule := none, pcores := [], retired := [],
    bridges := [], chans := [], hashQ := [], hot := [], host := .reset, lift := .reset, trvA := .reset, trvB := .reset, bundles := [],
    loadOrder := 0, saves := [], saveNo := 0, diesPw := [], capMiss := 0, flash := .reset, toJournal := [],
    config := none, fw := none, runsB := false, liftClk := true, trvClk := true, spdmUp := [], faultUnread := [], free := 0,
    outbox := [], pending := [] }

end Sys2Proof.Machine
end

