-- ==== Sys2Proof/Machine/Pages.lean ====
section
/-!
DEFINITION. The tables of the register pages: the page map (R453, R454), and for each kind of page its PAGE_ERR bits
with their classes (R378), its counters and its writable registers, as each chapter's register section gives them.
-/
namespace Sys2Proof.Machine

/-- The kinds of page (R453, R454). -/
inductive Blk where
  | dev | flt | tim | mrg | pwr | sec | fls | mgt | host | ntc | lfc | lft | trv | sls | hbm
  | seq | arr | sch | row | exp | spm | str | trk | pcr
  deriving DecidableEq, Repr, Inhabited

/-- Classes of events (R378); `notice` is an event that the spec gives no class (log entry 23, DEDUCED). -/
inductive EvClass where
  | program | transient | hardware | remote | part | notice
  deriving DecidableEq, Repr, Inhabited

/-- Page number of page `k` of logical core `n` (R454). -/
def corePage (n k : Nat) : Nat := 0x100 + 16 * n + k

def kSEQ : Nat := 0
def kARR : Nat := 1
def kSCH : Nat := 2
def kROW : Nat := 3
def kEXP : Nat := 4
def kSPM : Nat := 5
def kSTR : Nat := 6
def kTRK : Nat := 7

def pDEV : Nat := 0
def pFLT : Nat := 1
def pTIM : Nat := 2
def pMRG : Nat := 3
def pPWR : Nat := 4
def pSEC : Nat := 5
def pFLS : Nat := 6
def pMGT : Nat := 7
def pHOST : Nat := 8
def pNTC : Nat := 9
def pLFC : Nat := 0xA
def pLFT (s : Side) : Nat := match s with | .up => 0xB | .down => 0xC
def pTRV (p : TPort) : Nat := match p with | .A => 0xD | .B => 0xE
def pSLS : Nat := 0xF
def pHBM (stack : Nat) : Nat := 0x10 + stack
def pPCR (p : Nat) : Nat := 0x800 + p

def globalBlk : Nat → Blk × Nat
  | 0 => (.dev, 0) | 1 => (.flt, 0) | 2 => (.tim, 0) | 3 => (.mrg, 0) | 4 => (.pwr, 0) | 5 => (.sec, 0)
  | 6 => (.fls, 0) | 7 => (.mgt, 0) | 8 => (.host, 0) | 9 => (.ntc, 0) | 10 => (.lfc, 0) | 11 => (.lft, 0)
  | 12 => (.lft, 1) | 13 => (.trv, 0) | 14 => (.trv, 1) | _ => (.sls, 0)

def coreBlk : Nat → Blk
  | 0 => .seq | 1 => .arr | 2 => .sch | 3 => .row | 4 => .exp | 5 => .spm | 6 => .str | _ => .trk

/-- The page map: kind and instance of a BAR0 page (R453, R454). -/
def pageBlk (p : Nat) : Option (Blk × Nat) :=
  if p < 16 then some (globalBlk p)
  else if p < 0x24 then some (.hbm, p - 0x10)
  else if 0x100 ≤ p ∧ p < 0x500 ∧ p % 16 < 8 then some (coreBlk (p % 16), (p - 0x100) / 16)
  else if 0x800 ≤ p ∧ p < 0x844 then some (.pcr, p - 0x800)
  else none

/-- PAGE_ID.TYPE (R453, R454). -/
def Blk.type : Blk → Nat
  | .dev => 1 | .flt => 2 | .tim => 3 | .mrg => 4 | .pwr => 5 | .sec => 6 | .fls => 7 | .mgt => 8 | .host => 9
  | .ntc => 0xA | .lfc => 0xB | .lft => 0xC | .trv => 0xD | .sls => 0xE | .hbm => 0x10
  | .seq => 0x20 | .arr => 0x21 | .sch => 0x22 | .row => 0x23 | .exp => 0x24 | .spm => 0x25 | .str => 0x26
  | .trk => 0x27 | .pcr => 0x30

def Blk.perCore : Blk → Bool
  | .seq | .arr | .sch | .row | .exp | .spm | .str | .trk => true
  | .dev | .flt | .tim | .mrg | .pwr | .sec | .fls | .mgt | .host | .ntc | .lfc | .lft | .trv | .sls | .hbm
  | .pcr => false

/-- PAGE_CAP.ERR_BITS: the PAGE_ERR bits that the page's own table defines. -/
def Blk.errBits : Blk → Nat
  | .dev => 2 | .flt => 6 | .tim => 1 | .mrg => 6 | .pwr => 5 | .sec => 5 | .fls => 3 | .mgt => 3 | .host => 7
  | .ntc => 3 | .lfc => 5 | .lft => 5 | .trv => 6 | .sls => 3 | .hbm => 6
  | .seq => 11 | .arr => 8 | .sch => 6 | .row => 6 | .exp => 5 | .spm => 9 | .str => 8 | .trk => 3 | .pcr => 3

/-- PAGE_CAP.COUNTERS: the counters of the page, from 0x100 upward. -/
def Blk.counters : Blk → Nat
  | .dev => 5 | .flt => 6 | .tim => 3 | .mrg => 5 | .pwr => 5 | .sec => 4 | .fls => 4 | .mgt => 4 | .host => 8
  | .ntc => 4 | .lfc => 10 | .lft => 11 | .trv => 16 | .sls => 2 | .hbm => 6
  | .seq => 8 | .arr => 8 | .sch => 7 | .row => 7 | .exp => 10 | .spm => 10 | .str => 10 | .trk => 4 | .pcr => 4

/-- Counters of events that no command reports: corrected errors of memories and links (log entry 20, DESIGN CHOICE). -/
def Blk.unreported : Blk → List Nat
  | .seq => [0x138] | .row => [0x130] | .exp => [0x148] | .str => [0x148] | .hbm => [0x118] | .lft => [0x110, 0x118]
  | .trv => [0x170, 0x178]
  | .dev | .flt | .tim | .mrg | .pwr | .sec | .fls | .mgt | .host | .ntc | .lfc | .sls | .arr | .sch | .spm | .trk | .pcr => []

/-- PAGE_ERR bits by name, lowest bit 0. -/
def eMODE_CHANGED : Nat := 1
def eLAUNCH_MODE : Nat := 0
def ePART_HALT : Nat := 5
def eCTRL_ECC : Nat := 4
def eLOG_WRAP : Nat := 3
def eNOTICE_DROP : Nat := 2
def eDEGRADED : Nat := 2
def eNO_SPARE : Nat := 1
def ePCORE_FENCED : Nat := 0

/-- The class of an event (R378 and the page tables; log entry 23, DEDUCED for events that no rule gives a class). -/
def Blk.evClass (b : Blk) (bit : Nat) : EvClass :=
  match b, bit with
  | .flt, 1 => .hardware | .flt, 4 => .part | .flt, 5 => .part
  | .lfc, 1 => .remote | .lfc, 2 => .remote | .lfc, 3 => .transient | .lfc, 4 => .program
  | .trv, 1 => .program | .trv, 2 => .remote | .trv, 3 => .remote | .trv, 4 => .remote
  | .sls, 2 => .hardware
  | .hbm, 0 => .transient | .hbm, 2 => .hardware | .hbm, 3 => .hardware
  | .seq, 8 => .notice | .seq, 9 => .hardware | .seq, 10 => .hardware | .seq, _ => .program
  | .arr, 5 => .transient | .arr, 6 => .transient | .arr, 7 => .hardware | .arr, _ => .program
  | .sch, 3 => .transient | .sch, 4 => .transient | .sch, 5 => .hardware | .sch, _ => .program
  | .row, 4 => .hardware | .row, 5 => .hardware | .row, _ => .program
  | .exp, 4 => .hardware | .exp, _ => .program
  | .spm, 6 => .notice | .spm, 7 => .hardware | .spm, 8 => .hardware | .spm, _ => .program
  | .str, 4 => .hardware | .str, 6 => .transient | .str, 7 => .hardware | .str, _ => .program
  | .trk, _ => .program
  | .pcr, 1 => .hardware
  | _, _ => .notice

/-- Class code of a fault code (R363): the part class and unclassed events carry 0. -/
def EvClass.code : EvClass → Nat
  | .program => 0 | .transient => 1 | .hardware => 2 | .remote => 3 | .part => 0 | .notice => 0

/-- The hardware-class bits of a page: what PAGE_ERR_FENCE holds at reset on per-core and PCR pages (R456). -/
def Blk.fenceReset (b : Blk) : Word :=
  if b.perCore || b == .pcr then
    (List.range b.errBits).foldl (fun w i => if b.evClass i == .hardware then w ||| (1#32 <<< i) else w) 0
  else 0

def Blk.noticeReset (b : Blk) : Word := BitVec.ofNat 32 (2 ^ b.errBits - 1)

/-- The RW registers of a page: offset, writable bits, reset value; and PWR_RATE, which the host cannot write. -/
def Blk.rw : Blk → List (Nat × Nat × Nat)
  | .dev => [(0x044, 0x1, 0), (0x060, 0xFFFFFFFF, 0), (0x064, 0xFFFFFFFF, 0)]
  | .flt => [(0x040, 0x3F, 0x32)]
  | .mrg => [(0x040, 0x3F03, 0x0A03), (0x044, 0xFFFF, 1600), (0x048, 0xFFFF, 0x0803), (0x04C, 0xFFFF, 0x3219)]
  | .pwr => [(0x040, 0x1F07, 0x1E06), (0x044, 0xFFFFFFFF, 0x03E80C80), (0x048, 0xFF, 0x6E64), (0x04C, 0, 0x076C076C)]
  | .mgt => [(0x040, 0x17F, 0x5A)]
  | .host => [(0x040, 0x1, 0), (0x048, 0xFFFFFFFF, 0), (0x04C, 0xFFFFFFFF, 0), (0x050, 0x1F, 6)]
  | .ntc => [(0x040, 0xFFFFFFFF, 0), (0x044, 0xFFFFFFFF, 0), (0x048, 0x07FF801F, 8)]
  | .lfc => [(0x040, 0x00FF7F7F, 0), (0x048, 0xFFFF, 0x88B5), (0x04C, 0x7F, 16), (0x050, 0xFFFF, 1000),
             (0x054, 0xFFFF, 200)]
  | .lft => [(0x040, 0x3D, 0x21), (0x044, 0xFFFF, 2000)]
  | .trv => [(0x040, 0xF, 0), (0x04C, 0xFFFF, 0xB71A), (0x050, 0x8FFFE03F, 0), (0x054, 0xFFFFFFFF, 0),
             (0x058, 0xFFFFFFFF, 0), (0x05C, 0xFFFFFFFF, 0), (0x060, 0xFFFFFFFF, 0), (0x064, 0xFFFFFFFF, 0),
             (0x068, 0xFFFFFFFF, 0), (0x06C, 0xFFFF, 0), (0x070, 0xFFFFFFFF, 0x03E80014), (0x074, 0xFFFF, 200),
             (0x078, 0xFFFF, 0x0A0A), (0x07C, 0xFFFF, 100)]
  | .hbm => [(0x040, 0x7, 0x3), (0x044, 0xFF, 20), (0x04C, 0xFFFF0000, 0x005F0000)]
  | .arr => [(0x040, 0x31, 0x21), (0x044, 0xFFFF, 100)]
  | .sch => [(0x040, 0x31, 0x21), (0x044, 0xFFFF, 100)]
  | .row => [(0x040, 0x1, 1), (0x044, 0xFFFF, 100)]
  | .spm => [(0x040, 0x3, 3)]
  | .str => [(0x040, 0x1, 1), (0x044, 0xFFFF, 100)]
  | .trk => [(0x050, 0xFFFF, 100)]
  | .tim | .sec | .fls | .sls | .seq | .exp | .pcr => []

/-- What a register of a page holds before anything has written it. -/
def Blk.regReset (b : Blk) (off : Nat) : Word :=
  match b.rw.find? (fun r => r.1 == off) with
  | some (_, _, v) => BitVec.ofNat 32 v
  | none => 0

/-- The reset value of the register at an offset of a page; 0 where the page table gives none. -/
def regResetOf (page off : Nat) : Word :=
  match pageBlk page with
  | some (b, _) => b.regReset off
  | none => 0

/-- A page at its reset values (R456). -/
def Page.resetOf (page : Nat) : Page :=
  let (nt, fe) := match pageBlk page with
    | some (b, _) => (b.noticeReset, b.fenceReset)
    | none => (0, 0)
  { err := 0, notice := nt, fence := fe, info0 := 0, info1 := 0, snapped := false, counters := [], snapshot := [],
    latch := [], regs := [], work := [], since := 0, snapFrom := 0, snapAt := 0 }

end Sys2Proof.Machine
end

