-- ==== Sys2Proof/Machine/Ops.lean ====
section
/-!
DEFINITION. The named operations over the state: reading and writing its tables, counters, registers, the placement,
notices (R362-R367), the reporting of an event (R380, R381, R457, R458) and the fault of a job (R379).
-/
namespace Sys2Proof.Machine

/-! ## Words -/

def bits (w : BitVec n) (hi lo : Nat) : Nat := (w.toNat >>> lo) % 2 ^ (hi + 1 - lo)

def bit (w : BitVec n) (i : Nat) : Bool := w.getLsbD i

def word (n : Nat) : Word := BitVec.ofNat 32 n

/-- The low `n` bytes of a number, least significant first (R6). -/
def leBytes (n v : Nat) : List Byte := (List.range n).map (fun i => BitVec.ofNat 8 (v >>> (8 * i)))

/-- The number that bytes spell, least significant first (R6). -/
def leNat : List Byte → Nat
  | [] => 0
  | b :: t => b.toNat + 256 * leNat t

/-- Bytes `lo` to `lo + n - 1` of a list, read as a number. -/
def leAt (bs : List Byte) (lo n : Nat) : Nat := leNat ((bs.drop lo).take n)

def popcount (w : BitVec n) : Nat := ((List.range n).filter (fun i => w.getLsbD i)).length

/-- Indexes of the set bits, rising. -/
def setBits (w : BitVec n) : List Nat := (List.range n).filter (fun i => w.getLsbD i)

def boolNat (b : Bool) : Nat := if b then 1 else 0

def lo32 (x : Word64) : Word := x.extractLsb' 0 32
def hi32 (x : Word64) : Word := x.extractLsb' 32 32

def sideNat : Side → Nat
  | .up => 0
  | .down => 1

def dirSide : Dir → Side
  | .uphill => .up
  | .downhill => .down

def portNat : TPort → Nat
  | .A => 0
  | .B => 1

def tport (n : Nat) : TPort := if n % 2 = 0 then .A else .B

/-! ## Reset content of the tables -/

def wordZero (_ : Nat) : Word := 0
def natZero (_ : Nat) : Nat := 0

/-- R14: the default placement of a 64-core presentation. -/
def placeDefault (n : Nat) : Option Nat := if n < 64 then some (17 * (n / 16) + n % 16) else none

/-- A pcore after reset on a grade A part: hosting, or the spare of its die (R14, R398). -/
def pcoreDefault (p : Nat) : Pcore :=
  { state := if p % 17 < 16 then .hosting else .spare, before := .spare, cause := 0, gated := false,
    waking := false, due := false, dueJournal := false, testKind := 0, testResult := 0, spares := [] }

def bankDefault (_ : Nat) : Bank := { owner := .free, busy := none, powered := true, takeover := none }

def circDefault (_ : Nat) : Circ :=
  { cfg := { valid := false, slotLog2 := 0, banks := 0, base := 0, slots := 0 }, slots := [], nextTake := 0, nextPut := 0 }

def partDefault (_ : Nat) : Part :=
  { geom := none, seq := 0, fault := 0, stopped := false, weights := none, fresh := true, lastLoad := none, loads := [],
    running := [], aborted := [] }

def tabDefault (_ : Nat) : TabSlot := { valid := false, gen := 0, image := 0, loads := 0, source := 0, loading := none }

def regionDefault (_ : Nat) : Region := { base := 0, count1 := 0, valid := false }

def chanDefault (_ : Nat) : Chan := { state := 0, lowProbes := 0, margin := 0, marked := [], windows := 0, retrain := false }

def dieDefault (_ : Nat) : Die :=
  { setpoint := 750, offset := 0, stretched := false, excluded := [], hottest := 0, measured := 0, least := 0, need := 0,
    avsOk := true }

def ctxNone (_ : Nat) : Context := { ring := 0, regions := [], zeroing := [], live := false }

/-- Context 0 exists from reset and its event ring is ring 0 (R348). -/
def ctxDefault (c : Nat) : Context := { ring := 0, regions := [], zeroing := [], live := c == 0 }

/-- Queue 0 as it stands from reset (R350, R370): context 0, ring 0; its base and size are the HOST page's. -/
def queueReset : Queue :=
  { ctx := 0, ring := 0, base := 0, log2 := 6, head := 0, tail := 0, fetched := [], started := [], deleting := false }

def queueDefault (q : Nat) : Option Queue := if q = 0 then some queueReset else none

/-- Ring 0 as it stands from reset (R375): 256 entries; its base and size are the NTC page's. -/
def ringReset : Ring :=
  { base := 0, log2 := 8, msix := false, vector := 0, armed := true, head := 0, tail := 0, dropped := 0, types := 0 }

def ringDefault (r : Nat) : Option Ring := if r = 0 then some ringReset else none

def bundleDefault (_ : Nat) : Bundle :=
  { state := .empty, pinned := false, order := 0, uses := 0,
    man := { n := 0, cores := 0, layers := 0, model := 0, version := 0, digest := 0 }, segs := [], extents := [],
    peer := none, timeout := 0, newMan := none, newSegs := [], firstNew := 0, front := 0, opened := false,
    ready := false, refused := none, released := false, dir := [], newDir := [], waiting := false }

def liftPortDefault (_ : Nat) : LiftPort :=
  { agreed := false, txSeq := 0, rxSeq := 0, replay := [], sentUsed := 0, creditSeen := 0, freed := 0, demandUsed := 0,
    demandSeen := 0, demandFreed := 0, rxUsed := 0, rxDemand := [], rxChair := none, through := none, rxGrad := [],
    nakDue := false, nakSent := false, trained := 0 }

/-! ## Tables of the state -/

def State.core (s : State) (n : Nat) : Core := s.cores.get (fun _ => Core.reset) n

def State.setCore (s : State) (n : Nat) (c : Core) : State :=
  { s with cores := s.cores.set (fun _ => Core.reset) n c }

def State.modCore (s : State) (n : Nat) (f : Core → Core) : State := s.setCore n (f (s.core n))

def State.page (s : State) (p : Nat) : Page := s.pages.get Page.resetOf p

def State.setPage (s : State) (p : Nat) (x : Page) : State := { s with pages := s.pages.set Page.resetOf p x }

def State.modPage (s : State) (p : Nat) (f : Page → Page) : State := s.setPage p (f (s.page p))

/-- A register that a page holds, by offset. -/
def State.reg (s : State) (p off : Nat) : Word := (s.page p).regs.get (regResetOf p) off

def State.setReg (s : State) (p off : Nat) (v : Word) : State :=
  s.modPage p (fun x => { x with regs := x.regs.set (regResetOf p) off v })

/-- What a counter has counted in amounts that the spec does not give: free values (log entry 10, DESIGN CHOICE). -/
def Page.unstated (x : Page) (off : Nat) : Word64 :=
  (x.work.filter (fun e => e.1 == off)).foldr (fun e v => v + Config.freeWord64 e.2) 0

/-- What a counter of events that no command reports has counted between two times (log entry 20, DESIGN CHOICE). -/
def unreported (p off : Nat) (since now : Word64) : Word64 :=
  if (pageBlk p).any (fun b => b.1.unreported.contains off) then
    Config.events p off now.toNat - Config.events p off since.toNat
  else 0

/-- The live value of a counter (R459). -/
def State.counter (s : State) (p off : Nat) : Word64 :=
  (s.page p).counters.get (fun _ => 0) off + (s.page p).unstated off + unreported p off (s.page p).since s.time

/-- The counters of a page as they read, by offset. -/
def Page.live (x : Page) : SMap Word64 :=
  x.work.foldr (fun e m => m.set (fun _ => 0) e.1 (m.get (fun _ => 0) e.1 + Config.freeWord64 e.2)) x.counters

/-- Count `k` events; counters wrap modulo 2^64 (R459). -/
def State.count (s : State) (p off k : Nat) : State :=
  s.modPage p (fun x =>
    { x with counters := x.counters.set (fun _ => 0) off (x.counters.get (fun _ => 0) off + BitVec.ofNat 64 k) })

def State.pcore (s : State) (p : Nat) : Pcore := s.pcores.get pcoreDefault p

def State.modPcore (s : State) (p : Nat) (f : Pcore → Pcore) : State :=
  { s with pcores := s.pcores.set pcoreDefault p (f (s.pcore p)) }

/-- The pcore that hosts a logical core; none when it is unhosted or not presented. -/
def State.hostOf (s : State) (n : Nat) : Option Nat := s.place.get placeDefault n

/-- The home die of logical core `n`: that of the presentation's group of 16 cores (R388). -/
def State.homeDie (s : State) (n : Nat) : Nat := s.dies.getD (n / 16) 0

/-! ## Routes (R15, R218) -/

def pcoreDie (p : Nat) : Nat := p / 17

/-- The lower- and higher-numbered neighbours of a die on the ring 0-1-2-3-0. -/
def lowNeighbour (d : Nat) : Nat := min ((d + 1) % 4) ((d + 3) % 4)
def highNeighbour (d : Nat) : Nat := max ((d + 1) % 4) ((d + 3) % 4)

/-- The bridges of the route from a die to a slice's die: none, one, or two through the lower-numbered intermediate. -/
def routeBridges (home host : Nat) : List (Nat × Nat) :=
  let b := fun (x y : Nat) => (min x y, max x y)
  if home = host then []
  else if host = lowNeighbour home ∨ host = highNeighbour home then [b home host]
  else [b home (lowNeighbour home), b (lowNeighbour home) host]

def State.routeOk (s : State) (home host : Nat) : Bool := (routeBridges home host).all (fun b => !s.bridges.contains b)

/-- A core's host is powered and its slice-switch schedule is in effect (R219, R411). -/
def State.coreUp (s : State) (n : Nat) : Bool :=
  match s.hostOf n with
  | some p => !(s.pcore p).waking && (s.schedule.map (·.2)) != some n
  | none => false

/-- The core's host is up, no fence is due on it, and the route to its slice has not failed (R382, R385). -/
def State.coreAwake (s : State) (n : Nat) : Bool :=
  s.coreUp n && (match s.hostOf n with
    | some p => !(s.pcore p).due && s.routeOk (s.homeDie n) (pcoreDie p)
    | none => false)

/-- The logical core that a pcore hosts. -/
def State.hosted (s : State) (p : Nat) : Option Nat :=
  (List.range s.presented).find? (fun n => s.hostOf n == some p)

def State.isPresented (s : State) (n : Nat) : Bool := decide (n < s.presented)

/-- The physical slice of logical core `n` (R388). -/
def State.physSlice (s : State) (n : Nat) : Nat := 16 * s.homeDie n + n % 16

def State.unit (s : State) (n u : Nat) : Row := s.slices.get sliceReset (s.physSlice n * sliceUnits + u)

def State.setUnit (s : State) (n u : Nat) (r : Row) : State :=
  { s with slices := s.slices.set sliceReset (s.physSlice n * sliceUnits + u) r }

def State.context (s : State) (c : Nat) : Context := s.host.contexts.get ctxDefault c

def State.modHost (s : State) (f : HostSide → HostSide) : State := { s with host := f s.host }

def State.setContext (s : State) (c : Nat) (x : Context) : State :=
  s.modHost (fun h => { h with contexts := h.contexts.set ctxDefault c x })

def State.task (s : State) (t : Nat) : Option Task := s.host.tasks.get (fun _ => none) t

def State.setTask (s : State) (t : Nat) (x : Option Task) : State :=
  s.modHost (fun h => { h with tasks := h.tasks.set (fun _ => none) t x })

def State.modJob (s : State) (t : Nat) (f : Job → Job) : State :=
  match s.task t with
  | some x => s.setTask t (some { x with job := x.job.map f })
  | none => s

def State.queue (s : State) (q : Nat) : Option Queue := s.host.queues.get queueDefault q

def State.setQueue (s : State) (q : Nat) (x : Option Queue) : State :=
  s.modHost (fun h => { h with queues := h.queues.set queueDefault q x })

/-- A ring; ring 0 takes its base, size, vector and enable from the NTC page (R375). -/
def State.ring (s : State) (r : Nat) : Option Ring :=
  match s.host.rings.get ringDefault r with
  | none => none
  | some x =>
    if r = 0 then
      let cfg := s.reg pNTC 0x48
      some { x with base := (s.reg pNTC 0x44 ++ (s.reg pNTC 0x40 &&& 0xFFFFF000#32)), log2 := bits cfg 4 0,
                    msix := bit cfg 15, vector := Fin.ofNat 2048 (bits cfg 26 16) }
    else some x

def State.setRing (s : State) (r : Nat) (x : Option Ring) : State :=
  s.modHost (fun h => { h with rings := h.rings.set ringDefault r x })

def State.bundle (s : State) (b : Nat) : Bundle := s.bundles.get bundleDefault b

def State.setBundle (s : State) (b : Nat) (x : Bundle) : State := { s with bundles := s.bundles.set bundleDefault b x }

def State.modBundle (s : State) (b : Nat) (f : Bundle → Bundle) : State := s.setBundle b (f (s.bundle b))

def State.trv (s : State) (p : TPort) : Traverse :=
  match p with
  | .A => s.trvA
  | .B => s.trvB

def State.setTrv (s : State) (p : TPort) (t : Traverse) : State :=
  match p with
  | .A => { s with trvA := t }
  | .B => { s with trvB := t }

def State.modTrv (s : State) (p : TPort) (f : Traverse → Traverse) : State := s.setTrv p (f (s.trv p))

def State.liftPort (s : State) (x : Side) : LiftPort := s.lift.port.get liftPortDefault (sideNat x)

def State.modLift (s : State) (f : Lift → Lift) : State := { s with lift := f s.lift }

def State.modLiftPort (s : State) (x : Side) (f : LiftPort → LiftPort) : State :=
  s.modLift (fun l => { l with port := l.port.set liftPortDefault (sideNat x) (f (l.port.get liftPortDefault (sideNat x))) })

def State.chan (s : State) (stack ch : Nat) : Chan := s.chans.get chanDefault (32 * stack + ch)

def State.modChan (s : State) (stack ch : Nat) (f : Chan → Chan) : State :=
  { s with chans := s.chans.set chanDefault (32 * stack + ch) (f (s.chan stack ch)) }

def State.die (s : State) (d : Nat) : Die := s.diesPw.get dieDefault d

def State.modDie (s : State) (d : Nat) (f : Die → Die) : State :=
  { s with diesPw := s.diesPw.set dieDefault d (f (s.die d)) }

/-- Send something out of the part (log entry 12, DESIGN CHOICE). -/
def State.emit (s : State) (o : Out) : State := { s with outbox := o :: s.outbox }

/-- A counter rises by a number that the spec does not give: a free value (log entry 10, DESIGN CHOICE). -/
def State.countFree (s : State) (p off : Nat) : State :=
  { s.modPage p (fun x => { x with work := (off, s.free) :: x.work }) with free := s.free + 1 }

/-- Take the next index of the model's free values (log entry 10, DESIGN CHOICE). -/
def State.takeFree (s : State) (k : Nat) : State := { s with free := s.free + k }

/-! ## Tasks and cores -/

/-- The task of a core with its data. -/
def State.coreTask (s : State) (n : Nat) : Option (Nat × Task) :=
  match (s.core n).task with
  | none => none
  | some t => (s.task t).map (fun x => (t.val, x))

def State.coreJob (s : State) (n : Nat) : Option Job := (s.coreTask n).bind (fun x => x.2.job)

/-- `b` of the core's task (R349); 0 outside a task. -/
def State.coreBase (s : State) (n : Nat) : Nat :=
  match s.coreTask n with
  | some (_, t) => t.base
  | none => 0

def Task.coreList (t : Task) : List Nat := (List.range t.cores).map (fun k => t.base + k)

/-- Reproducible (tournament) mode is in force for a core's job (R320). -/
def State.repro (s : State) (n : Nat) : Bool :=
  match s.coreJob n with
  | some j => j.repro
  | none => bit (s.reg pDEV 0x44) 0

/-! ## Notices (R362-R367) -/

/-- CRC-32C over bytes (R353): polynomial 0x1EDC6F41 reflected, start and final XOR all ones. -/
def crcStep (c : Nat) : Nat := if c % 2 = 1 then (c >>> 1) ^^^ 0x82F63B78 else c >>> 1

def crcByte (c : Nat) (b : Byte) : Nat :=
  let x := c ^^^ b.toNat
  crcStep (crcStep (crcStep (crcStep (crcStep (crcStep (crcStep (crcStep x)))))))

def crc32c (bs : List Byte) : Nat := (bs.foldl crcByte 0xFFFFFFFF) ^^^ 0xFFFFFFFF

/-- The 32 bytes of a notice (R362). -/
def Notice.bytes (n : Notice) (phase : Bool) : List Byte :=
  let body := [n.type, BitVec.ofNat 8 (boolNat phase + 2 * boolNat n.error)] ++ leBytes 2 n.ctx.toNat ++
    leBytes 8 n.time.toNat ++ leBytes 16 n.payload.toNat
  body ++ leBytes 4 (crc32c body)

/-- A ring holds size - 1 unread notices (R365). -/
def Ring.full (r : Ring) : Bool := decide (2 ^ r.log2 - 1 ≤ r.tail - r.head)

/-- Send an MSI-X message, or hold it pending where a mask is set (R366). -/
def State.sendVector (s : State) (v : Nat) : State :=
  if s.host.fnMask || s.host.vecMask.get (fun _ => true) v then
    s.modHost (fun h => { h with pba := if h.pba.contains v then h.pba else v :: h.pba })
  else (s.count pNTC 0x108 1).emit (.msix v)

/-- Write a notice into a ring that has room, and its vector after it if the ring is armed (R365, R366). -/
def State.ringWrite (s : State) (r : Nat) (n : Notice) : State :=
  match s.ring r with
  | none => s
  | some x =>
    let i := x.tail % 2 ^ x.log2
    let phase := (x.tail / 2 ^ x.log2) % 2 == 0
    let s := (s.emit (.notice r i phase n)).count pNTC 0x100 1
    let fire := x.msix && x.armed
    let s := s.setRing r (some { x with tail := x.tail + 1, armed := x.armed && !fire })
    if fire then s.sendVector x.vector.val else s

/-- The OVERFLOW notice of a ring (R363, R367). -/
def overflowNotice (x : Ring) (time : Word64) : Notice :=
  { type := 7, error := false, ctx := 0xFFFF, time := time,
    payload := BitVec.ofNat 128 (x.dropped % 2 ^ 32 + x.types.toNat * 2 ^ 32) }

/-- Write what a ring is owed while it has room: OVERFLOW first, then its backlog in order (R367). -/
def State.drainRing (fuel : Nat) (s : State) (r : Nat) : State :=
  match fuel with
  | 0 => s
  | fuel + 1 =>
    match s.ring r with
    | none => { s with host := { s.host with backlog := s.host.backlog.filter (fun e => e.1 != r) } }
    | some x =>
      if x.full || !s.host.busMaster then s
      else if 0 < x.dropped then
        State.drainRing fuel ((s.setRing r (some { x with dropped := 0, types := 0 })).ringWrite r
          (overflowNotice x s.time)) r
      else
        match s.host.backlog.find? (fun e => e.1 == r) with
        | none => s
        | some e =>
          State.drainRing fuel
            (({ s with host := { s.host with backlog := s.host.backlog.erase e } }).ringWrite r e.2) r

/-- Is any PAGE_ERR bit of the page set? -/
def State.errClear (s : State) (p : Nat) : Bool := (s.page p).err == 0

/-- The PAGE_ID of a page (R453, R454). -/
def pageId (p : Nat) : Nat :=
  match pageBlk p with
  | some (b, i) => i * 65536 + b.type
  | none => 0

/-- The context a page's events concern: that of the core's task, for a per-core page. -/
def State.pageCtx (s : State) (p : Nat) : Option Nat :=
  match pageBlk p with
  | some (b, i) => if b.perCore then (s.coreTask i).map (fun x => x.2.ctx.toNat) else none
  | none => none

/-- The core number a fault code carries (R363): task-relative for a per-core page, else 0 (log entry 24, DEDUCED). -/
def State.pageCore (s : State) (p : Nat) : Nat :=
  match pageBlk p with
  | some (b, i) => if b.perCore then i - s.coreBase i else 0
  | none => 0

/-- The fault code of an event (R363). -/
def State.faultCode (s : State) (p bitNo : Nat) : Word :=
  match pageBlk p with
  | some (b, _) => word (bitNo + b.type % 256 * 256 + s.pageCore p % 64 * 65536 + (b.evClass bitNo).code * 4194304)
  | none => 0

/-- Append an entry to the fault log on the FLT page (R380, R395). LOG_WRAP is set when the entry had not been read;
it makes no log entry of its own (log entry 25, DEDUCED). -/
def State.logEntry (s : State) (code : Word) (ctx : Nat) (id : Nat) : State :=
  let i := (s.reg pFLT 0x58).toNat % 64
  let at_ := 0x400 + 16 * i
  let wrap := s.faultUnread.contains i
  let s := (((s.setReg pFLT at_ (s.time.extractLsb' 0 32)).setReg pFLT (at_ + 4) (s.time.extractLsb' 32 32)).setReg pFLT
    (at_ + 8) (word (code.toNat % 2 ^ 24 + ctx % 256 * 2 ^ 24))).setReg pFLT (at_ + 12) (word id)
  let s := (s.setReg pFLT 0x58 (word ((i + 1) % 64)))
  let s := { s with faultUnread := if wrap then s.faultUnread else i :: s.faultUnread }
  if wrap then
    s.modPage pFLT (fun x => { x with
      err := x.err ||| (1#32 <<< eLOG_WRAP),
      info0 := if x.err == 0 then word (eLOG_WRAP * 65536) else x.info0,
      info1 := if x.err == 0 then s.faultCode pFLT eLOG_WRAP else x.info1 })
  else s

/-- Place a notice: in the ring if it has room and owes nothing older, else in the backlog of 4,096; a notice that fits
neither is dropped, counted against its ring, and raises NOTICE_DROP (R367). -/
def State.putNotice (s : State) (r : Nat) (n : Notice) : State :=
  let s := s.drainRing 4098 r
  match s.ring r with
  | none => s
  | some x =>
    if !x.full && s.host.busMaster && x.dropped == 0 && !(s.host.backlog.any (fun e => e.1 == r)) then s.ringWrite r n
    else if s.host.backlog.length < 4096 then
      let s := s.modHost (fun h => { h with backlog := h.backlog ++ [(r, n)] })
      let s := s.count pNTC 0x118 1
      let peak := bits (s.reg pNTC 0x4C) 28 16
      s.setReg pNTC 0x4C (word (max peak s.host.backlog.length * 65536))
    else
      let s := s.setRing r (some { x with dropped := x.dropped + 1,
                                          types := x.types ||| (1#8 <<< (n.type.toNat - 1)) })
      let s := s.count pNTC 0x110 1
      let fresh := s.errClear pNTC
      let s := s.modPage pNTC (fun g => { g with
        err := g.err ||| (1#32 <<< eNOTICE_DROP),
        info0 := if fresh then word (n.type.toNat * 2 ^ 24 + eNOTICE_DROP * 65536 + r % 4096) else g.info0,
        info1 := if fresh then word x.tail else g.info1 })
      s.logEntry (s.faultCode pNTC eNOTICE_DROP) 0xFF (pageId pNTC)

/-- The PAGE_ERROR notice of an event (R363). -/
def State.errorNotice (s : State) (p bitNo : Nat) : Notice :=
  let pg := s.page p
  { type := 6, error := true, ctx := BitVec.ofNat 16 ((s.pageCtx p).getD 0xFFFF), time := s.time,
    payload := BitVec.ofNat 128 (pageId p + 2 ^ bitNo * 2 ^ 32 + pg.info0.toNat * 2 ^ 64 + pg.info1.toNat * 2 ^ 96) }

/-- The notice of an event of a global page whose bit was clear before and is set now, if its NOTICE bit is 1 (R458). -/
def State.tellNew (s : State) (before : Word) (p bitNo : Nat) : State :=
  if !bit before bitNo && bit (s.page p).err bitNo && bit (s.page p).notice bitNo then s.putNotice 0 (s.errorNotice p bitNo) else s

/-- Post a notice to a ring (R366, R367). What placing it raises, NOTICE_DROP and LOG_WRAP, posts a notice as every event
does; each bit can become newly set once. -/
def State.post (s : State) (r : Nat) (n : Notice) : State :=
  let ntc := (s.page pNTC).err
  let flt := (s.page pFLT).err
  let a := (s.putNotice r n).tellNew ntc pNTC eNOTICE_DROP
  let b := a.tellNew flt pFLT eLOG_WRAP
  b.tellNew (a.page pNTC).err pNTC eNOTICE_DROP

/-- A fault log entry, and the notice of LOG_WRAP where the entry raises it. -/
def State.faultLog (s : State) (code : Word) (ctx : Nat) (id : Nat) : State :=
  let t := s.logEntry code ctx id
  if !bit (s.page pFLT).err eLOG_WRAP && bit (t.page pFLT).err eLOG_WRAP && bit (t.page pFLT).notice eLOG_WRAP then
    t.post 0 (t.errorNotice pFLT eLOG_WRAP)
  else t

/-- The event ring of a context. -/
def State.ctxRing (s : State) (c : Nat) : Nat := (s.context c).ring.toNat

/-- A PAGE_ERROR notice (R363): to ring 0, and for a per-core page also to the event ring of the core's context. -/
def State.postPageError (s : State) (p bitNo : Nat) : State :=
  let n := s.errorNotice p bitNo
  let c := s.pageCtx p
  let s := s.post 0 n
  match c with
  | some c => if s.ctxRing c = 0 then s else s.post (s.ctxRing c) n
  | none => s

/-- The FLT counter of a class (R394). -/
def classCounter : EvClass → Option Nat
  | .program => some 0x100
  | .transient => some 0x108
  | .hardware => some 0x110
  | .remote => some 0x118
  | .part => none
  | .notice => none

/-- The pcore that a page's fence bits concern (R381): the core's host, or the page's own pcore. -/
def State.pagePcore (s : State) (p : Nat) : Option Nat :=
  match pageBlk p with
  | some (b, i) => if b.perCore then s.hostOf i else if b == .pcr then some i else none
  | none => none

/-- A pcore is to be fenced at its next pass boundary (R382); a hardware event is journalled (R383). -/
def State.fenceDue (s : State) (p : Nat) (cause : Word) (journal : Bool) : State :=
  if (s.pcore p).state == .fenced then s
  else s.modPcore p (fun x =>
    { x with due := true, dueJournal := x.dueJournal || journal, cause := if x.due then x.cause else cause })

/-- Report an event (R380): the PAGE_ERR bit; INFO0 and INFO1 if they were armed (R457); the notice if the bit is newly
set and its NOTICE bit is 1 (R458); the fault log; the class counter; and the fence if its FENCE bit is 1 (R381).
FLT_STATUS.FAULT_N and PAGE_STAT.ERR are read from the PAGE_ERR bits. -/
def State.raise (s : State) (p bitNo : Nat) (info0 info1 : Word) : State :=
  match pageBlk p with
  | none => s
  | some (b, _) =>
    let pg := s.page p
    let fresh := !bit pg.err bitNo
    let armed := pg.err == 0
    let code := s.faultCode p bitNo
    let s := s.modPage p (fun x => { x with err := x.err ||| (1#32 <<< bitNo),
                                            info0 := if armed then info0 else x.info0,
                                            info1 := if armed then info1 else x.info1 })
    let s := if fresh && bit pg.notice bitNo then s.postPageError p bitNo else s
    let s := s.faultLog code ((s.pageCtx p).getD 0xFFFF) (pageId p)
    let s := match classCounter (b.evClass bitNo) with
      | some off => s.count pFLT off 1
      | none => s
    if bit pg.fence bitNo then
      match s.pagePcore p with
      | some q => s.fenceDue q code (b.evClass bitNo == .hardware)
      | none => s
    else s

/-- INFO0 with the event's bit number in CAUSE (bits 23:16) and the page's own fields. -/
def cause (bitNo fields : Nat) : Word := word (bitNo * 65536 + fields)

/-! ## Faults of jobs (R379) -/

/-- A core stops issuing. -/
def Core.stopIssue (c : Core) : Core :=
  { c with seq := { c.seq with run := if c.seq.run == .idle then .idle else .stopped } }

/-- The job on a task faults as a whole at this station: its first fault code is kept, and every core of the task stops
issuing. -/
def State.faultLocal (s : State) (t : Nat) (code : Word) : State :=
  match s.task t with
  | none => s
  | some x =>
    match x.job with
    | none => s
    | some j =>
      let s := if j.fault.isSome then s else s.modJob t (fun j => { j with fault := some code })
      x.coreList.foldl (fun s n => s.modCore n Core.stopIssue) s

/-- The job reads a bundle that is SWAPPING, and the swap has not failed: its pre-emption or save is held (R315). -/
def State.jobSwaps (s : State) (j : Job) : Bool :=
  match j.bundle with
  | some b => (s.bundle b.val).state == .swapping && (s.bundle b.val).ready
  | none => false

def State.swapHolds (s : State) (t : Nat) : Bool :=
  match (s.task t).bind (·.job) with
  | some j => s.jobSwaps j
  | none => false

/-! ## Lift and traverse values that faults need (R239, R258, R271-R273, R286) -/

def State.liftPos (s : State) : Nat := bits (s.reg pLFC 0x40) 6 0
def State.liftLen (s : State) : Nat := bits (s.reg pLFC 0x40) 14 8 + 1
def State.liftId (s : State) : Nat := bits (s.reg pLFC 0x40) 23 16

/-! ## The lift header (R239, R240) -/

/-- The fields of a lift header that the link does not rewrite. -/
structure FrameHdr where
  ftype  : Nat
  kind   : Nat
  down   : Bool
  first  : Bool
  last   : Bool
  origin : Nat
  id     : Nat
  epoch  : Nat
  len    : Nat
  mask   : Word64
  seq    : Word
  rows1  : Nat
  index  : Nat
  core   : Nat
  deriving DecidableEq, Repr, Inhabited

/-- Bytes 0x00-0x01 and 0x0A-0x23, which HDR_CRC covers. -/
def FrameHdr.head (h : FrameHdr) : List Byte :=
  leBytes 1 (1 + 16 * h.ftype) ++
    leBytes 1 (h.kind + 4 * boolNat h.down + 8 * boolNat h.first + 16 * boolNat h.last)

def FrameHdr.tail (h : FrameHdr) : List Byte :=
  leBytes 1 h.origin ++ leBytes 1 h.id ++ leBytes 2 h.epoch ++ leBytes 2 h.len ++ leBytes 8 h.mask.toNat ++
    leBytes 4 h.seq.toNat ++ leBytes 1 h.rows1 ++ leBytes 1 h.index ++ leBytes 1 h.core ++ leBytes 5 0

/-- The link fields at 0x02-0x09. -/
def linkBytes (nak sequenced : Bool) (demandFreed : BitVec 3) (seq ack credit : BitVec 16) : List Byte :=
  leBytes 1 (boolNat nak + 2 * boolNat sequenced + 4 * demandFreed.toNat) ++ leBytes 1 0 ++ leBytes 2 seq.toNat ++
    leBytes 2 ack.toNat ++ leBytes 2 credit.toNat

def FrameHdr.bytes (h : FrameHdr) (link : List Byte) : List Byte :=
  h.head ++ link ++ h.tail ++ leBytes 4 (crc32c (h.head ++ h.tail))

def otherSide : Side → Side
  | .up => .down
  | .down => .up

def liftMac (id pos d : Nat) : BitVec 48 := BitVec.ofNat 48 (0x025AB0000000 + id * 65536 + pos * 256 + d)

/-- Source and destination addresses of a frame that leaves by a port (R239). -/
def State.liftMac (s : State) (x : Side) : LiftMac :=
  let n := s.liftLen
  let peer := match x with
    | .up => (s.liftPos + 1) % n
    | .down => (s.liftPos + n - 1) % n
  { dst := Sys2Proof.Machine.liftMac s.liftId peer (sideNat (otherSide x)),
    src := Sys2Proof.Machine.liftMac s.liftId s.liftPos (sideNat x), etype := BitVec.ofNat 16 (bits (s.reg pLFC 0x48) 15 0) }

/-- The data bytes of a message of the lift; R242, R256 and R259 give its values and no layout (log entry 80, DESIGN CHOICE). -/
opaque Config.liftMsgBytes : LiftMsg → List Byte

/-- The data bytes of a residency ring frame (R305). -/
def resRingBytes (f : ResRing) : List Byte :=
  leBytes 1 2 ++ leBytes 1 (f.op.toNat + 128 * boolNat f.releaseBit) ++ leBytes 1 f.slot.val ++ leBytes 1 0 ++
    leBytes 4 f.firstNew.toNat ++ leBytes 64 f.digest.toNat ++ leBytes 16 f.ready.toNat ++ leBytes 16 f.refuse.toNat ++
    leBytes 24 0

def LiftMsg.data : LiftMsg → List Byte
  | .residency f => resRingBytes f
  | m => Config.liftMsgBytes m

/-- FTYPE of a message (R240, R305; log entry 80, DESIGN CHOICE for ring and quiesce frames). -/
def LiftMsg.ftype : LiftMsg → Nat
  | .formation _ | .ring _ _ | .residency _ => 2
  | .notice _ _ _ | .quiesce _ => 3

/-- Zero bytes that bring a frame of `k` data bytes to 64 bytes with addresses, EtherType, header and FCS (R239). -/
def liftPad (k : Nat) : List Byte := List.replicate (6 - k) 0

/-- Send a message out of a lift port (R239, R240). -/
def State.sendMsg (s : State) (x : Side) (m : LiftMsg) : State :=
  let data := m.data
  let h : FrameHdr := { ftype := m.ftype, kind := 0, down := x == .down, first := false, last := false, origin := s.liftPos,
                        id := s.liftId, epoch := s.lift.epoch.toNat, len := data.length, mask := 0, seq := 0, rows1 := 0,
                        index := 0, core := 0 }
  s.emit (.liftMsg x (s.liftMac x) (h.bytes (linkBytes false false 0 0 0 0)) data (liftPad data.length) m)

/-- The station is formed (R242): formed, quiescing or quiescent. -/
def Lift.isFormed (l : Lift) : Bool := l.state == .formed || l.state == .quiescing || l.state == .quiescent

/-- The coordinate of the last traverse job (R271, R291). -/
def State.coord (s : State) (p : TPort) : Nat := bits (s.reg (pTRV p) 0x48) 14 0

/-! ## Circular regions and collective instances (R135, R136, R282, R284) -/

def circSlotRows (c : CircCfg) : Nat := 2 ^ c.slotLog2

def Spm.circ (m : Spm) (r : Nat) : Circ := m.circs.get circDefault r
def Spm.setCirc (m : Spm) (r : Nat) (x : Circ) : Spm := { m with circs := m.circs.set circDefault r x }

def Circ.slot (c : Circ) (i : Nat) : Slot := c.slots.get (fun j => { full := false, expected := word j, failed := false }) i

def Circ.setSlot (c : Circ) (i : Nat) (x : Slot) : Circ :=
  { c with slots := c.slots.set (fun j => { full := false, expected := word j, failed := false }) i x }

def Circ.index (c : Circ) (seq : Word) : Nat := seq.toNat % max c.cfg.slots 1

/-- The items of these sequences are discarded: the slots are empty and expect them still (R286). -/
def Spm.discardSlots (m : Spm) (r : Nat) (seqs : List Word) : Spm :=
  m.setCirc r (seqs.foldl (fun c q =>
    if (c.slot (c.index q)).expected == q then c.setSlot (c.index q) { c.slot (c.index q) with full := false } else c) (m.circ r))

/-- Rank of a traverse position in a group: its place in increasing position. -/
def rankOf (g : BitVec 256) (t : Nat) : Nat := ((setBits g).filter (fun x => decide (x < t))).length

def State.ownTrv (s : State) (p : TPort) : Nat := s.coord p / 128

/-- Slots of `rows` rows in the traverse landing region of a core. -/
def State.landSlots (s : State) (n rows : Nat) : Nat :=
  let k := circSlotRows ((s.core n).spm.circ 1).cfg
  (rows + k - 1) / k

def TrvOpen.g (o : TrvOpen) : Nat := popcount o.group
def TrvOpen.base (o : TrvOpen) : Word := hi32 o.e

/-- Rows of a chunk: of a message of the instance. -/
def TrvOpen.chunkRows (o : TrvOpen) : Nat := if o.coll ≤ 2 then o.rows / max o.g 1 else o.rows

/-- First sequence at which a rank's contribution is parked (R284). -/
def State.parkSeq (s : State) (p : TPort) (o : TrvOpen) (rank : Nat) : Word :=
  let sl := s.landSlots o.core o.chunkRows
  let own := rankOf o.group (s.ownTrv p)
  o.base + word (o.g * sl + (if rank < own then rank else rank - 1) * sl)

/-- Every sequence at which contributions to an instance are parked. -/
def State.parkSeqs (s : State) (p : TPort) (o : TrvOpen) : List Word :=
  (((List.range o.g).filter (fun r => r != rankOf o.group (s.ownTrv p))).map (fun r =>
    (List.range (s.landSlots o.core o.chunkRows)).map (fun i => s.parkSeq p o r + word i))).flatten

/-! ## Traverse packets (R271-R273) -/

/-- A TRV register as the port last trained (R291). -/
def State.trvReg (s : State) (p : TPort) (off : Nat) : Word := (s.trv p).inForce.get (Blk.regReset .trv) off

/-- The fields around a traverse header toward a coordinate (R271, R272). -/
def State.trvOuter (s : State) (p : TPort) (dst : Nat) : TrvOuter :=
  let v6 := bit (s.trvReg p 0x40) 2
  let own := s.coord p
  let addr := fun (c : Nat) =>
    if v6 then
      BitVec.ofNat 128 ((s.trvReg p 0x58).toNat / 65536 * 65536 + c + (s.trvReg p 0x5C).toNat * 2 ^ 32 +
        (s.trvReg p 0x60).toNat * 2 ^ 64 + (s.trvReg p 0x64).toNat * 2 ^ 96)
    else BitVec.ofNat 128 (((s.trvReg p 0x54).toNat + c) % 2 ^ 32)
  let qos := s.reg (pTRV p) 0x50
  { dstMac := BitVec.ofNat 48 ((s.trvReg p 0x68).toNat + bits (s.trvReg p 0x6C) 15 0 * 2 ^ 32),
    srcMac := BitVec.ofNat 48 (0x025AB1000000 + own * 256 + portNat p),
    vlan := if bit qos 31 then some (BitVec.ofNat 16 (bits qos 15 13 * 8192 + bits qos 27 16)) else none,
    ipv6 := v6, dst := addr dst, src := addr own, dscp := BitVec.ofNat 6 (bits qos 5 0), ecn := 2, hops := 64, df := !v6,
    srcPort := BitVec.ofNat 16 (0xC000 + (Config.flowHash own dst (portNat p)).toNat),
    dstPort := BitVec.ofNat 16 (bits (s.trvReg p 0x4C) 15 0) }

def TrvHdr.bytes (h : TrvHdr) : List Byte :=
  let body := leBytes 1 (1 + 16 * h.type) ++ leBytes 1 (boolNat h.ece + 2 * boolNat h.last + 4 * h.kind) ++
    leBytes 2 h.src ++ leBytes 2 h.dst ++ leBytes 1 h.core ++ leBytes 1 h.phase ++ leBytes 4 h.psn.toNat ++
    leBytes 4 h.ack.toNat ++ leBytes 4 h.seq.toNat ++ leBytes 4 h.param.toNat ++ leBytes 2 h.rows ++
    leBytes 2 h.offset ++ leBytes 2 h.len ++ leBytes 2 h.epoch.toNat ++ leBytes 4 0
  body ++ leBytes 4 (crc32c body)

/-- One's complement of the one's complement sum of 16-bit words in network order, 0 sent as 0xFFFF. -/
def onesSum (n : Nat) : BitVec 16 :=
  let f := fun (x : Nat) => x % 65536 + x / 65536
  let c := 65535 - f (f (f n))
  BitVec.ofNat 16 (if c = 0 then 65535 else c)

def sum16 (b : List Byte) : Nat :=
  (b.zipIdx.map (fun x => if x.2 % 2 = 0 then x.1.toNat * 256 else x.1.toNat)).foldl (· + ·) 0

/-- The UDP checksum, over the pseudo-header, the UDP header and the payload (R272). -/
def TrvOuter.udpSum (o : TrvOuter) (payload : List Byte) : BitVec 16 :=
  let len := payload.length + 8
  let words := fun (a : BitVec 128) => ((List.range 8).map (fun i => (a.extractLsb' (16 * i) 16).toNat)).foldl (· + ·) 0
  onesSum (words o.src + words o.dst + 17 + 2 * len + o.srcPort.toNat + o.dstPort.toNat + sum16 payload)

/-- A traverse packet leaves the port; TRV_TX_PKTS counts data packets (R292). -/
def State.emitTrv (s : State) (p : TPort) (h : TrvHdr) (data : List Byte) : State :=
  let o := s.trvOuter p h.dst
  let s := s.emit (.trvPacket p o (o.udpSum (h.bytes ++ data)) h.bytes data .good)
  if h.type = 0 then s.count (pTRV p) 0x120 1 else s

/-- Send a packet: a pause in force holds it (R278). -/
def State.sendTrv (s : State) (p : TPort) (h : TrvHdr) (data : List Byte) : State :=
  if (s.trv p).paused then s.modTrv p (fun t => { t with waitQ := t.waitQ ++ [(h, data)] }) else s.emitTrv p h data

/-- An abort packet to every coordinate of a list (R286). -/
def State.sendAborts (s : State) (p : TPort) (epoch : BitVec 16) (dsts : List (BitVec 15)) : State :=
  dsts.foldl (fun s c => s.sendTrv p
    { type := 5, ece := false, last := false, kind := 0, src := s.coord p, dst := c.toNat, core := 0, phase := 0,
      psn := 0, ack := 0, seq := 0, param := 0, rows := 0, offset := 0, len := 0, epoch := epoch } []) s

/-- Members of a group at the station's lift position, as coordinates (R282). -/
def State.members (s : State) (p : TPort) (g : BitVec 256) : List (BitVec 15) :=
  (setBits g).map (fun t => BitVec.ofNat 15 (t * 128 + s.coord p % 128))

/-- Coordinates with which the running job has a flow or an open collective on a port (R286). -/
def State.jobPeers (s : State) (p : TPort) : List (BitVec 15) :=
  let t := s.trv p
  let flows := (t.flows.filter (·.job)).map (·.peer)
  let open_ := ((t.opens.filter (fun o => !o.closed)).map (fun o => s.members p o.group)).flatten
  ((flows ++ open_).filter (fun c => c.toNat != s.coord p)).eraseDups

/-- A faulted job's messages, requests, instances, parked contributions and reduce memory on a port are discarded. The flows
with its peers start again at sequence number 0, and a bundle transfer's message on one of them from its first row (R286; log
entry 83, DESIGN CHOICE). -/
def State.discardTrv (s : State) (p : TPort) (peers : List (BitVec 15)) : State :=
  let s := ((s.trv p).opens.filter (fun o => !o.reduced && s.repro o.core)).foldl (fun s o =>
    s.modCore o.core (fun k => { k with spm := k.spm.discardSlots 1 (s.parkSeqs p o) })) s
  s.modTrv p (fun t => { t with
    out := (t.out.filter (fun m => m.epoch == 0)).map (fun m =>
      if peers.contains m.dst then { m with sent := 0, lastPsn := none } else m),
    requests := t.requests.filter (fun r => r.epoch == 0), opens := [],
    waitQ := t.waitQ.filter (fun x => x.1.epoch == 0 && x.1.type != 0 || x.1.type == 5),
    flows := t.flows.filter (fun f => !peers.contains f.peer),
    txPsn := peers.foldl (fun m c => m.set (fun _ => 0) c.toNat 0) t.txPsn,
    rxPsn := peers.foldl (fun m c => m.set (fun _ => 0) c.toNat 0) t.rxPsn })

/-- The traverse work of a job that has ended: nothing of it is accepted or answered any more (R274, R291). -/
def State.endTraverse (s : State) : State :=
  [TPort.A, TPort.B].foldl (fun s p => (s.setReg (pTRV p) 0x80 0).modTrv p (fun t => { t with
    out := t.out.filter (fun m => m.epoch == 0), requests := t.requests.filter (fun r => r.epoch == 0), opens := [],
    flows := t.flows.map (fun f => { f with job := false }) })) s

/-- A traverse job that faults sends the abort packet, the first of three, on both ports, and its traverse work is
discarded (R286). -/
def State.abortTraverse (s : State) (sends : Bool) (told : List (BitVec 15)) : State :=
  let s := [TPort.A, TPort.B].foldl (fun s p =>
    let peers := s.jobPeers p
    let epoch := BitVec.ofNat 16 (bits (s.reg (pTRV p) 0x80) 15 0)
    let s := if sends && !peers.isEmpty then
        (s.sendAborts p epoch peers).modTrv p (fun t => { t with aborts := 2, abortTo := peers, abortEpoch := epoch })
      else s
    s.discardTrv p (peers ++ told)) s
  (List.range 64).foldl (fun s n =>
    s.modCore n (fun k => { k with inflight := k.inflight.filter (fun d => d.req != .traverse) })) s

/-- A faulting lift job sends a lift notice (R379, R258); a faulting traverse job sends the abort. -/
def State.tellPeers (s : State) (j : Job) (lift traverse : Bool) : State :=
  let s := if lift && j.lift && s.lift.isFormed then s.sendMsg .up (.notice true s.liftPos 0) else s
  if traverse && j.traverse then s.abortTraverse true [] else s

/-- The job on a task faults, at this station and at its peers. Only its first fault tells them. -/
def State.faultTask (s : State) (t : Nat) (code : Word) : State :=
  match (s.task t).bind (·.job) with
  | some j => if j.fault.isSome then s.faultLocal t code else (s.faultLocal t code).tellPeers j true true
  | none => s

/-- The job on a core faults with an event of page `p`. -/
def State.faultCore (s : State) (n p bitNo : Nat) : State :=
  match (s.core n).task with
  | some t => s.faultTask t (s.faultCode p bitNo)
  | none => s.modCore n Core.stopIssue

/-- Report an event of per-core page `k` of core `n`, and fault the core's job with it. -/
def State.raiseFault (s : State) (n k bitNo : Nat) (info0 info1 : Word) : State :=
  (s.raise (corePage n k) bitNo info0 info1).faultCore n (corePage n k) bitNo

/-- A hardware event handled as R146: the pcore is fenced; with its FENCE bit cleared the job faults instead (R381). -/
def State.raiseHardware (s : State) (n k bitNo : Nat) (info0 info1 : Word) : State :=
  if bit (s.page (corePage n k)).fence bitNo then s.raise (corePage n k) bitNo info0 info1
  else s.raiseFault n k bitNo info0 info1

end Sys2Proof.Machine
end

