-- ==== Sys2Proof/Machine/Operands.lean ====
section
/-!
DEFINITION. The words that a core fetches and what they name: the fields of a command word (R164-R171), row operands
(R166) with their read modes (R141, R142, R159), data memory, the scratchpad checks (R149), the race window (R140), the
interlocks between issued commands (R132, R139), and software tokens (R138).
-/
namespace Sys2Proof.Machine

/-! ## Command words (R164) -/

/-- Bits `hi` to `lo` of 32-bit word `k` of a command. -/
def cf (w : BitVec 128) (k hi lo : Nat) : Nat := (w.toNat >>> (32 * k + lo)) % 2 ^ (hi + 1 - lo)

def cw (w : BitVec 128) (k : Nat) : Word := BitVec.ofNat 32 (cf w k 31 0)

def opcodeOf (w : BitVec 128) : Nat := cf w 0 7 0

/-- What bank memory beyond a loaded program reads as: OPCODE 0xFF (R167). -/
def unloaded : BitVec 128 := 0xFF

def Seq.progBank (q : Seq) (b : Bool) : ProgBank := if b then q.bank1 else q.bank0

def Seq.fetch (q : Seq) : BitVec 128 := (q.progBank q.bank).cmds.get (fun _ => unloaded) q.pc

/-- The mask of bits that a command defines in words 0 (above XREG), 1 and 2 (R168-R171), and whether it takes the sync
word. `none`: the opcode is unassigned. -/
def cmdMask : Nat → Option (Nat × Nat × Nat × Bool)
  | 0x00 => some (0, 0, 0, true)
  | 0x01 => some (0, 0, 0, false)
  | 0x02 => some (0, 0, 0, false)
  | 0x03 => some (0x00FF0000, 0xFFFFFFFF, 0, true)
  | 0x08 => some (0x001F0000, 0xFFFFFFFF, 0xFFFFFFFF, false)
  | 0x09 => some (0xFFFF0000, 0xFFFFFFFF, 0xF, false)
  | 0x0A => some (0xFFE70000, 0xFFFFFFFF, 0x3F, false)
  | 0x0B => some (0x0FEF0000, 0xFFFFFFFF, 0, false)
  | 0x0C => some (0x83E30000, 0xFFFFFFFF, 0, false)
  | 0x0D => some (0x007F0000, 0, 0, false)
  | 0x0E => some (0x03FF0000, 0xFFFF, 0, false)
  | 0x0F => some (0x03FF0000, 0xFFFF, 0, false)
  | 0x10 => some (0x00030000, 0x1FFF, 0, false)
  | 0x11 => some (0, 0xFFFFFFFF, 0xFFFFFF, false)
  | 0x20 => some (0x007F0000, 0xFFFFFFFF, 0xFFFF, true)
  | 0x21 => some (0x007F0000, 0xFFFFFFFF, 0xFFFF, true)
  | 0x28 => some (0x000F0000, 0xFFFFFFFF, 0xFFFF, true)
  | 0x29 => some (0x001F0000, 0x7FFF, 0x7FFF, true)
  | 0x2A => some (0x00030000, 0x7FFF, 0, true)
  | 0x30 => some (0xFFFF0000, 0xFFFFFFFF, 0xFFFFFFFF, true)
  | 0x31 => some (0xFFFF0000, 0xFFFFFFFF, 0x7FFFFFFF, true)
  | 0x32 => some (0xFFFF0000, 0xFFFFFFFF, 0x1FFFF, true)
  | 0x33 => some (0x03FF0000, 0xFFFFFFFF, 0xFFFF, true)
  | 0x38 => some (0x00FF0000, 0xFFFFFFFF, 0x1FF, true)
  | 0x39 => some (0xFFFF0000, 0x01FFFFFF, 0x7FFFFFFF, true)
  | 0x3A => some (0xFFFF0000, 0xFFFFFFFF, 0x1FFFFFF, true)
  | 0x40 => some (0x00F70000, 0xFFFFFFFF, 0, true)
  | 0x48 => some (0x00FF0000, 0xFFFFFFFF, 0xFFFFFFFF, true)
  | 0x49 => some (0xFFFF0000, 0, 0, true)
  | 0x50 => some (0x007F0000, 0xFFFFFFFF, 0x3FF, true)
  | 0x58 => some (0x000F0000, 0xFFFFFFFF, 0x7F, true)
  | 0x59 => some (0, 0xFFFF, 0, true)
  | 0x5A => some (0x00FF0000, 0xFFFFFFFF, 0x7F, true)
  | 0x60 => some (0x00010000, 0xFFFFFFFF, 0x7FFF, true)
  | 0x61 => some (0x01FF0000, 0xFFFFFFFF, 0x7FFF, true)
  | _ => none

/-- A row operand with a reserved bit or field value (R166): bit 27, MODE 3, or a CIRC operand with other bits. -/
def badOperand (o : Word) : Bool :=
  if bit o 15 then (o &&& 0xFFFC7FFF#32) != 0 else bit o 27 || bits o 26 25 == 3

/-- Bits outside the command's own fields, or a sync word where none is taken or with a reserved bit (R167 step 2). -/
def badBits (w : BitVec 128) : Bool :=
  match cmdMask (opcodeOf w) with
  | none => false
  | some (m0, m1, m2, sync) =>
    ((cw w 0).toNat &&& (0xFFFF0000 &&& (0xFFFFFFFF - m0))) != 0 || ((cw w 1).toNat &&& (0xFFFFFFFF - m1)) != 0 ||
    ((cw w 2).toNat &&& (0xFFFFFFFF - m2)) != 0 ||
    (if sync then cf w 3 31 29 != 0 else cf w 3 31 0 != 0)

/-! ## Registers of a sequencer (R157) -/

def Seq.reg (q : Seq) (i : Nat) : Word64 := if i % 32 = 0 then 0 else q.g.get (fun _ => 0) (i % 32)

/-- g0 ignores writes (R157). -/
def Seq.setReg (q : Seq) (i : Nat) (v : Word64) : Seq :=
  if i % 32 = 0 then q else { q with g := q.g.set (fun _ => 0) (i % 32) v }

def Seq.areg (q : Seq) (i : Nat) : Word := q.a.get wordZero i
def Seq.setAreg (q : Seq) (i : Nat) (v : Word) : Seq := { q with a := q.a.set wordZero i v }
def Seq.lctr (q : Seq) (i : Nat) : Word := q.lc.get wordZero i

/-- E = g(16 + XREG) (R164). -/
def Seq.ext (q : Seq) (w : BitVec 128) : Word64 := q.reg (16 + cf w 0 15 12)

/-- E+1 = g(16 + ((XREG + 1) mod 16)) (R164). -/
def Seq.ext1 (q : Seq) (w : BitVec 128) : Word64 := q.reg (16 + (cf w 0 15 12 + 1) % 16)


/-- The predicate of a command, with PNEG applied (R164, R174). -/
def Seq.predOn (q : Seq) (w : BitVec 128) : Bool :=
  let p := cf w 0 10 8
  (p == 0 || q.preds.getLsbD p) != (cf w 0 11 11 == 1)

/-! ## Data memory (R157) -/

def dmByte (d : SMap Byte) (a : Nat) : Byte := d.get (fun _ => 0) (a % 65536)

/-- `n` bytes of data memory from `a`, as a number; addresses wrap modulo 2^16. -/
def dmRead (d : SMap Byte) (a n : Nat) : Nat := leNat ((List.range n).map (fun i => dmByte d (a + i)))

def dmWrite (d : SMap Byte) (a n v : Nat) : SMap Byte :=
  (List.range n).foldl (fun d i => d.set (fun _ => 0) ((a + i) % 65536) (BitVec.ofNat 8 (v >>> (8 * i)))) d

/-- Two wrapped byte ranges of data memory meet. -/
def dmMeet (x y : Nat × Nat) : Bool :=
  decide ((y.1 + 65536 - x.1) % 65536 < x.2) || decide ((x.1 + 65536 - y.1) % 65536 < y.2)

/-! ## Who touches the scratchpad (R130) -/

/-- The part an operand plays: which port and which requester move its rows. -/
inductive Role where
  | act | mask | weight | sum | drain | stream (c : Fin 16) (write : Bool) | liftRd | travRd | expander
  | seqRd | seqWr | vload | schRd | schWr | rowRd | rowWr
  deriving DecidableEq, Repr, Inhabited

def Role.port : Role → Nat
  | .act | .mask => 1
  | .sum | .drain => 2
  | .weight => 3
  | .stream _ _ | .liftRd | .travRd => 4
  | .expander => 5
  | .seqRd | .seqWr => 6
  | .vload | .schRd | .schWr | .rowRd | .rowWr => 7

/-- The requester of R130 (all of the array is one), by one name each. -/
def Role.requester : Role → Requester
  | .act | .mask | .sum | .drain | .weight => .accPort
  | .stream c _ => .ctx c
  | .liftRd => .lift
  | .travRd => .traverse
  | .expander => .expander
  | .seqRd | .seqWr => .rowPath
  | .vload | .schRd | .schWr => .schuss
  | .rowRd | .rowWr => .row

/-- SPM PAGE_ERR_INFO0.REQUESTER (R150). -/
def requesterCode : Requester → Nat
  | .part _ | .accPort => 0
  | .lift => 1
  | .traverse => 2
  | .expander => 4
  | .rowPath | .release => 7
  | .schuss => 8
  | .row => 9
  | .ctx _ => 10

def Role.writes : Role → Bool
  | .drain | .seqWr | .schWr | .rowWr => true
  | .stream _ w => w
  | .act | .mask | .weight | .sum | .liftRd | .travRd | .expander | .seqRd | .vload | .schRd | .rowRd => false

/-- Array partitions and the accumulator port are one requester (R130). -/
def racer : Requester → Requester
  | .part _ => .accPort
  | r => r

/-- Circular regions that a role may use (R134): as consumer, or as producer when it writes. R134 names the array activation
as a consumer of regions 0 and 2; whether a token mask, which port 1 reads too, may be circular is open, and here it may not
(log entry 63, DESIGN CHOICE). -/
def Role.circ : Role → List Nat
  | .act => [0, 2]
  | .weight => [2]
  | .expander => [0, 1, 2]
  | .vload => [0, 2]
  | .rowRd => [1, 2]
  | .rowWr => [3]
  | .stream _ true => [2]
  | .stream _ false => [1, 3]
  | .mask | .sum | .drain | .liftRd | .travRd | .seqRd | .seqWr | .schRd | .schWr => []

/-! ## Row operands (R166, R141, R142) -/

/-- A resolved operand with what its checks need: the region offsets it moves, in order. -/
structure Resolved where
  role    : Role
  offs    : List Int
  region  : Region
  badMode : Bool
  badCirc : Bool
  opnd    : Operand
  deriving DecidableEq, Repr, Inhabited

def signed (n v : Nat) : Int := if 2 ^ (n - 1) ≤ v then (v : Int) - 2 ^ n else v

/-- Read-geometry entry `i` (R159): n0, n1, s0, s1, and whether a reserved bit is set. -/
def geometry (d : SMap Byte) (i : Nat) : Nat × Nat × Int × Int × Bool :=
  let w := dmRead d (0xFF80 + 8 * i) 8
  (w % 4096 + 1, (w >>> 12) % 4096 + 1, signed 13 ((w >>> 24) % 8192), signed 13 ((w >>> 37) % 8192),
    w >>> 50 != 0)

/-- First row of the slot that a sequence selects (R135, R136). -/
def circRow (c : CircCfg) (seq : Nat) : Nat := c.base * 512 + seq % (max c.slots 1) * circSlotRows c

def Spm.region (m : Spm) (r : Nat) : Region := m.regions.get regionDefault r
def Spm.bank (m : Spm) (b : Nat) : Bank := m.banks.get bankDefault b
def Spm.setBank (m : Spm) (b : Nat) (x : Bank) : Spm := { m with banks := m.banks.set bankDefault b x }

/-- The rows that `count` rows of consecutive sequences from `first` occupy. -/
def circRows (c : CircCfg) (first count : Nat) : List Nat :=
  (List.range count).map (fun i => circRow c (first + i / circSlotRows c) + i % circSlotRows c)

/-- The pattern of a strided operand, outer index last (R141). -/
def strided (o : Int) (n0 n1 : Nat) (s0 s1 : Int) (count : Nat) : List Int :=
  (List.range (min count (n0 * n1))).map (fun m => o + ((m % n0 : Nat) : Int) * s0 + ((m / n0 : Nat) : Int) * s1)

/-- Source rows of one block of a transposed read (R142): 64, and with scale rows among them 68 (log entry 64, DESIGN CHOICE). -/
def blockRows : Option (Nat × Bool) → Nat
  | some (_, true) => 68
  | some (_, false) | none => 64

/-- Resolve a row operand that moves `count` rows; `elem` is the element size in bits for a transposed read, with whether
scale rows stand among the rows. A circular operand takes the region's next sequences (R136, R166). -/
def resolve (q : Seq) (m : Spm) (role : Role) (o : Word) (count : Nat) (elem : Option (Nat × Bool)) : Resolved × Spm :=
  if bit o 15 then
    let r := bits o 17 16
    let c := m.circ r
    let bad := !c.cfg.valid || !role.circ.contains r
    let k := (count + circSlotRows c.cfg - 1) / circSlotRows c.cfg
    let first := if role.writes then c.nextPut else c.nextTake
    let seqs := (List.range k).map (fun i => first + word i)
    let c' := if role.writes then { c with nextPut := first + word k } else { c with nextTake := first + word k }
    ({ role := role, offs := [], region := regionDefault 0, badMode := false, badCirc := bad,
       opnd := { rows := circRows c.cfg first.toNat count, trans := none, circ := some (Fin.ofNat 4 r, seqs) } },
     if bad then m else m.setCirc r c')
  else
    let reg := m.region (bits o 19 16)
    let off : Nat := (bits o 14 0 + if bit o 20 then (q.areg (bits o 24 21)).toNat else 0) % 2 ^ 32
    let mode := bits o 26 25
    let (n0, n1, s0, s1, rsv) := geometry q.dmem (bits o 31 28)
    let per := blockRows elem
    let blocks := count / per
    let (offs, bad, tr) : List Int × Bool × Option (Nat × Bool) :=
      if mode = 0 then ((List.range count).map (fun (i : Nat) => ((off + i : Nat) : Int)), false, none)
      else if mode = 1 then (strided off n0 n1 s0 s1 count, rsv || decide (n0 * n1 < count), none)
      else (strided off per (min n1 blocks) 1 s1 (per * min n1 blocks),
            rsv || role.writes || decide (count % per ≠ 0) || decide (n1 < blocks) ||
              !([1, 3, 7].contains role.port) || elem.isNone,
            elem)
    ({ role := role, offs := offs, region := reg, badMode := bad, badCirc := false,
       opnd := { rows := offs.map (fun x => ((reg.base : Int) + x).toNat), trans := tr, circ := none } }, m)

/-! ## The scratchpad checks (R149) -/

/-- The first offset that its region does not allow (R133). -/
def Resolved.outOfBound (r : Resolved) : Option Nat :=
  (r.offs.find? (fun x => !r.region.valid || decide (x < 0) || decide ((r.region.count1 : Int) < x) ||
    decide ((24575 : Int) < r.region.base + x))).map (fun x => ((r.region.base + x : Int) % 32768).toNat)

/-- The first row in a bank that the operand's port does not own (R131). -/
def Resolved.collision (m : Spm) (r : Resolved) : Option Nat :=
  if r.opnd.circ.isSome then none
  else r.opnd.rows.find? (fun x => (m.bank (x / 512)).owner != BankOwner.port (Fin.ofNat 8 r.role.port))

def Resolved.baseRows (r : Resolved) : List Nat := if r.opnd.circ.isSome then [] else r.opnd.rows

/-- The window's entries that a read races with (R140). -/
def racesWith (win : List WinEntry) (port : Nat) (q : Requester) (rows : List Nat) : List WinEntry :=
  win.filter (fun e => e.port == port && e.req != q && !e.ordered.contains q && e.rows.any (fun x => rows.contains x))

def Resolved.races (m : Spm) (r : Resolved) : List WinEntry :=
  if r.role.writes then [] else racesWith m.window r.role.port r.role.requester r.baseRows

/-- The first failing scratchpad check of a command's operands, in the order of R149 and R167: the event, the operand
it failed on, and the row. -/
def checkOperands (m : Spm) (repro : Bool) (ops : List Resolved) : Option (Nat × Role × Nat) :=
  match ops.findSome? (fun r => r.outOfBound.map (fun x => (0, r.role, x))) with
  | some e => some e
  | none =>
    match ops.findSome? (fun r => (r.collision m).map (fun x => (1, r.role, x))) with
    | some e => some e
    | none =>
      match ops.find? (fun r => r.badMode) with
      | some r => some (5, r.role, r.opnd.rows.headD 0)
      | none =>
        let racing := if repro then
            ops.findSome? (fun r => ((r.races m).head?).bind (fun e =>
              (r.baseRows.find? (fun x => e.rows.contains x)).map (fun x => (2, r.role, x))))
          else none
        match racing with
        | some e => some e
        | none => (ops.find? (fun r => r.badCirc)).map (fun r => (4, r.role, 0))

/-- INFO0 and INFO1 of an SPM event (R150). -/
def spmInfo (bitNo : Nat) (role : Role) (row : Nat) : Word × Word :=
  let ctx := match role with
    | .stream c _ => c.val
    | _ => 0
  (cause bitNo (row / 512 % 64 * 1024 + requesterCode role.requester * 16 + role.port), word (ctx * 65536 + row % 32768))

/-! ## Software tokens (R138) -/

/-- A wait is met when (count - target), read as signed, is 0 or more. -/
def Spm.waitMet (m : Spm) (w : Option (Byte × Word)) : Bool :=
  match w with
  | none => true
  | some (c, t) => !(m.tokens.get wordZero c.toNat - t).msb

def Spm.signal (m : Spm) (s : Option (Byte × Byte)) : Spm :=
  match s with
  | none => m
  | some (c, a) =>
    { m with tokens := m.tokens.set wordZero c.toNat (m.tokens.get wordZero c.toNat + BitVec.ofNat 32 a.toNat) }

/-- The wait and the signal of a command's sync word (R164). -/
def syncWait (q : Seq) (w : BitVec 128) : Option (Byte × Word) :=
  if cf w 3 28 24 = 0 then none else some (BitVec.ofNat 8 (cf w 3 23 16), lo32 (q.reg (cf w 3 28 24)))

def syncSignal (w : BitVec 128) : Option (Byte × Byte) :=
  if cf w 3 15 8 = 0 then none else some (BitVec.ofNat 8 (cf w 3 7 0), BitVec.ofNat 8 (cf w 3 15 8))

/-- The ticket of a signalling command and the sum after it (R138). -/
def Spm.ticket (m : Spm) (sg : Option (Byte × Byte)) : Option (Byte × Nat) × Spm :=
  match sg with
  | none => (none, m)
  | some (c, a) =>
    let t := m.tickets.get natZero c.toNat + a.toNat
    (some (c, t), { m with tickets := m.tickets.set natZero c.toNat t })

/-- A wait orders a requester after the window's writes that it covers; a wait that holds issue orders all (R140, R165). -/
def Spm.orderAfter (m : Spm) (w : Option (Byte × Word)) (who : Option Requester) : Spm :=
  match w with
  | none => m
  | some (c, t) =>
    { m with window := m.window.map (fun e =>
        match e.ticket with
        | some (c', k) =>
          if c' = c ∧ !(t - word k).msb then
            match who with
            | some q => { e with ordered := if e.ordered.contains q then e.ordered else q :: e.ordered }
            | none => { e with rows := [] }
          else e
        | none => e) }

/-! ## Interlocks between issued commands (R132, R139, R163) -/

/-- An access of an engine command: port and row in one number. -/
def access (port row : Nat) : Nat := port * 32768 + row

def accPort (a : Nat) : Nat := a / 32768
def accRow (a : Nat) : Nat := a % 32768

/-- An access of the later command waits for one of the earlier: through another port it waits for every earlier access
of the bank (R132); through the same port for the same row, unless it reads what another requester writes (R139). -/
def accessWaits (sameReq lateWrites earlyWrites : Bool) (late early : Nat) : Bool :=
  if accPort late = accPort early then
    late == early && (lateWrites || (earlyWrites && sameReq))
  else accRow late / 512 == accRow early / 512

def EngCmd.waitsFor (c d : EngCmd) : Bool :=
  let same := racer c.req == racer d.req
  c.reads.any (fun a => d.writes.any (accessWaits same false true a)) ||
  c.reads.any (fun a => d.reads.any (accessWaits same false false a)) ||
  c.writes.any (fun a => d.writes.any (accessWaits same true true a)) ||
  c.writes.any (fun a => d.reads.any (accessWaits same true false a))

/-- The commands issued before `c` whose accesses are not over. -/
def Core.pendingBefore (k : Core) (c : EngCmd) : List EngCmd :=
  k.inflight.filter (fun d => decide (d.id < c.id) && d.stage != .performed)

/-- Banks that a command touches, each with the port that touches it. -/
def EngCmd.bankPorts (c : EngCmd) : List (Nat × Nat) :=
  ((c.reads ++ c.writes).map (fun a => (accRow a / 512, accPort a))).eraseDups

/-- Banks that a command touches. -/
def EngCmd.banks (c : EngCmd) : List Nat := c.bankPorts.map (·.1)

/-- The rows of a command may be touched: no earlier access to wait for, no bank busy, and none that the command's port has
claimed and not taken over (R132, R143). A command that issued before such a claim runs to completion. -/
def Core.rowsFree (k : Core) (c : EngCmd) : Bool :=
  !((k.pendingBefore c).any (fun d => c.waitsFor d)) &&
  c.bankPorts.all (fun x =>
    let b := k.spm.bank x.1
    b.busy.isNone && (match b.takeover with
      | some first => decide (c.id < first) || b.owner != BankOwner.port (Fin.ofNat 8 x.2)
      | none => true))

def Core.queueOf (k : Core) (r : Requester) : List EngCmd := k.inflight.filter (fun d => d.req == r)

/-- Earlier commands of the same requester have been performed (R162). -/
def Core.inTurn (k : Core) (c : EngCmd) : Bool := !((k.pendingBefore c).any (fun d => d.req == c.req))

def Core.updateCmd (k : Core) (id : Nat) (f : EngCmd → EngCmd) : Core :=
  { k with inflight := k.inflight.map (fun d => if d.id = id then f d else d) }

/-! ## Circular slots (R136) -/

/-- The slot holds the item of this sequence. -/
def Circ.isFull (c : Circ) (seq : Word) : Bool :=
  let x := c.slot (c.index seq)
  x.full && x.expected == seq && !x.failed

/-- The slot is empty and expects this sequence. -/
def Circ.canPut (c : Circ) (seq : Word) : Bool :=
  let x := c.slot (c.index seq)
  !x.full && x.expected == seq

def Circ.put (c : Circ) (seq : Word) : Circ :=
  let i := c.index seq
  c.setSlot i { c.slot i with full := true }

/-- Release: the slot is empty and expects the sequence one lap later. -/
def Circ.release (c : Circ) (seq : Word) : Circ :=
  let i := c.index seq
  c.setSlot i { full := false, expected := seq + word c.cfg.slots, failed := false }

/-- The slot expects this sequence and its copy failed the landing check (R251). -/
def Circ.isFailed (c : Circ) (seq : Word) : Bool :=
  let x := c.slot (c.index seq)
  !x.full && x.expected == seq && x.failed

def Circ.mark (c : Circ) (b : Bool) (seq : Word) : Circ :=
  let i := c.index seq
  c.setSlot i { c.slot i with failed := b }

/-- The failed slots among those that operands name. -/
def Spm.failedSlots (m : Spm) (os : List Operand) : List (Fin 4 × Word) :=
  (os.map (fun o => match o.circ with
    | some (r, seqs) => (seqs.filter (m.circ r.val).isFailed).map (fun q => (r, q))
    | none => [])).flatten

/-- The mark goes once its consumer has been aborted; the slot then waits for the copy that is written again. -/
def Spm.clearFailed (m : Spm) (xs : List (Fin 4 × Word)) : Spm :=
  xs.foldl (fun m x => m.setCirc x.1.val ((m.circ x.1.val).mark false x.2)) m

def Spm.putSlots (m : Spm) (r : Nat) (seqs : List Word) : Spm :=
  m.setCirc r (seqs.foldl Circ.put (m.circ r))

def Spm.releaseSlots (m : Spm) (r : Nat) (seqs : List Word) : Spm :=
  m.setCirc r (seqs.foldl Circ.release (m.circ r))

/-- No bank of the slot that a sequence selects is being zeroed, woken or tested (R143, R145, R147). -/
def Spm.slotIdle (m : Spm) (r : Nat) (seq : Word) : Bool :=
  let c := (m.circ r).cfg
  let sz := circSlotRows c
  (List.range (sz / 512 + 1)).all (fun i =>
    (m.bank (min (circRow c seq.toNat + 512 * i) (circRow c seq.toNat + sz - 1) / 512)).busy.isNone)

/-- The slot holds the item of this sequence, and its rows may be read. -/
def Spm.slotFull (m : Spm) (r : Nat) (seq : Word) : Bool := (m.circ r).isFull seq && m.slotIdle r seq

/-- The slot is empty and expects this sequence, and its rows may be written. -/
def Spm.slotOpen (m : Spm) (r : Nat) (seq : Word) : Bool := (m.circ r).canPut seq && m.slotIdle r seq

/-- Every slot that an operand reads is full. -/
def Spm.fullFor (m : Spm) (o : Operand) : Bool :=
  match o.circ with
  | none => true
  | some (r, seqs) => seqs.all (m.slotFull r.val)

/-! ## Rows -/

def Spm.row (m : Spm) (x : Nat) : Row := m.rows.get (fun _ => 0) x
def Spm.setRow (m : Spm) (x : Nat) (r : Row) : Spm := { m with rows := m.rows.set (fun _ => 0) x r }

/-- Write rows in order: the later row of a pattern is the one that remains (R141). -/
def Spm.writeRows (m : Spm) : List Nat → List Row → Spm
  | x :: xs, r :: rs => (m.setRow x r).writeRows xs rs
  | _, _ => m

/-- Element `i` of a row of `e`-bit elements: 4-bit elements two to a byte, low nibble first (R25). -/
def rowElem (r : Row) (e i : Nat) : Nat := (r.toNat >>> (e * i)) % 2 ^ e

/-- The transpose of a block of 64 source rows (R142): output row j, segment k holds element (8 / size) j + k of source
rows 0 to 63, where 64 / e segments of 64 elements make a row. -/
def transposeBlock (e : Nat) (src : List Row) : List Row :=
  let seg := 64 / e
  (List.range 64).map (fun j =>
    rowOfElems e ((List.range (64 * seg)).map (fun t => rowElem (src.getD (t % 64) 0) e (seg * j + t / 64))))

/-- Split a list into chunks of `k`. -/
def chunksOf {α : Type} (k : Nat) : Nat → List α → List (List α)
  | 0, _ => []
  | n + 1, xs => xs.take k :: chunksOf k n (xs.drop k)

def transposeRows (e : Nat) (src : List Row) : List Row :=
  ((chunksOf 64 (src.length / 64) src).map (transposeBlock e)).flatten

/-- A block of 64 element rows with a scale row after each 16: the element rows are transposed, the scale rows stay as they
are (R142; the places of the scale rows are log entry 64, DESIGN CHOICE). -/
def transposeScaled (e : Nat) (src : List Row) : List Row :=
  let groups := chunksOf 17 4 src
  let out := transposeBlock e ((groups.map (List.take 16)).flatten)
  ((chunksOf 16 4 out).zip (groups.map (List.drop 16))).flatMap (fun g => g.1 ++ g.2)

def transposeScaledRows (e : Nat) (src : List Row) : List Row :=
  (chunksOf 68 (src.length / 68) src).flatMap (transposeScaled e)

/-- The rows an operand delivers, transposed if its mode says so. -/
def deliver (o : Operand) (raw : List Row) : List Row :=
  match o.trans with
  | none => raw
  | some (e, false) => transposeRows e raw
  | some (e, true) => transposeScaledRows e raw

/-- Row `x` as it was before each of the rival writes that the read comes before, newest first: whether it does is free for
each (R140, log entry 8, DESIGN CHOICE). `at_` numbers the choice. -/
def Spm.raced (m : Spm) (x : Nat) : List Nat → Nat → Row → Row
  | [], _, v => v
  | id :: t, at_, v =>
    match (m.window.find? (fun e => e.cmd == id)).bind (fun e => (e.old.find? (fun y => y.1 == x)).map (·.2)) with
    | some old => if Config.freeBool (at_ + x) then m.raced x t (at_ + 24576) old else v
    | none => m.raced x t (at_ + 24576) v

/-- What one row of a read returns: in blitz mode a row raced with returns old or new contents (R140). -/
def Spm.readRow (m : Spm) (races rivals : List Nat) (free x : Nat) : Row :=
  if races.contains x then m.raced x rivals free (m.row x) else m.row x

def Spm.readOperand (m : Spm) (races rivals : List Nat) (free : Nat) (o : Operand) : List Row :=
  deliver o (o.rows.map (m.readRow races rivals free))

end Sys2Proof.Machine
end

