-- ==== Sys2Proof/Machine/Issue.lean ====
section
/-!
DEFINITION. Issue (R160-R167, R172-R174): the command at the program counter is checked in the order of R167, predicated,
and either takes effect, is queued for an engine with everything it names captured, waits, or faults. A command whose
row is not the one at the program counter leaves the state as it is (log entry 2, DESIGN CHOICE); a wait leaves the state as it is and
counts one step (log entry 6, DESIGN CHOICE).
-/
namespace Sys2Proof.Machine

/-- The core is at the boundary where it can stop: no pass and no sweep holds working words (R62, R66). -/
def Core.atBoundary (k : Core) : Bool :=
  (List.range 16).all (fun p => (k.arr.parts.get partDefault p).running.isEmpty) && k.sch.running.isEmpty

/-- A traverse command of a task's cores has started and not completed (R287). -/
def State.travUnderWay (s : State) (t : Task) : Bool :=
  t.coreList.any (fun n => (s.core n).inflight.any (fun c =>
    c.req == .traverse && c.op != .signalOnly && c.stage != .queued))

/-- A job that is to be pre-empted or saved is at the point where its cores stop at their boundaries: a lift job's lift is
quiescent (R259), none of its traverse commands is in flight (R287), and no swap of its bundle is under way (R315). -/
def State.stops (s : State) (t : Task) (j : Job) : Bool :=
  match j.hold with
  | .running => false
  | .preempted | .saveHeld => true
  | .preempting | .saving => !s.jobSwaps j && (!j.lift || s.lift.state == .quiescent) && (!j.traverse || !s.travUnderWay t)

def State.jobStops (s : State) (n : Nat) : Bool :=
  match s.coreTask n with
  | some (_, t) =>
    match t.job with
    | some j => s.stops t j
    | none => false
  | none => false

/-- Passes, sweeps and issue may go on: the part runs, the core is hosted on a powered pcore with no fence due, and its job
is not held at a boundary (R62, R382, R334, R385). -/
def State.engineStarts (s : State) (n : Nat) : Bool := s.phase == .ready && s.coreAwake n && !s.jobStops n

/-- The sequencer of a core may issue (R65). -/
def State.canIssue (s : State) (n : Nat) : Bool := s.engineStarts n && (s.core n).seq.run == .running

/-- The engines of a core may do work: they run on to the boundary at which the core is to stop (R62, R382). -/
def State.engineRuns (s : State) (n : Nat) : Bool :=
  s.phase == .ready && s.coreUp n && ((s.coreAwake n && !s.jobStops n) || !(s.core n).atBoundary)

/-- A fault of the command at issue, on the SEQ page (R179): the sequencer issues no further command. -/
def State.seqFault (s : State) (n bitNo : Nat) : State :=
  let q := (s.core n).seq
  s.raiseFault n kSEQ bitNo (cause bitNo (opcodeOf q.fetch * 256 + boolNat q.bank))
    (word (q.loops.length * 65536 + q.pc % 8192))

/-- The SEQ page's details of a command that a scratchpad check stops at issue: SOURCE 1 and the event's bit on the SPM
page, where no earlier error holds them (R179; log entry 65, DEDUCED). -/
def State.spmSource (s : State) (n bitNo : Nat) : State :=
  let q := (s.core n).seq
  s.modPage (corePage n kSEQ) (fun x => if x.err == 0 then
    { x with info0 := word (0x200000 + bitNo * 65536 + opcodeOf q.fetch * 256 + boolNat q.bank),
             info1 := word (q.loops.length * 65536 + q.pc % 8192) } else x)

/-- A fault of a scratchpad check at issue, on the SPM page (R150), with its details on the SEQ page (R179). -/
def State.spmFault (s : State) (n bitNo : Nat) (role : Role) (row : Nat) : State :=
  (s.spmSource n bitNo).raiseFault n kSPM bitNo (spmInfo bitNo role row).1 (spmInfo bitNo role row).2

/-- The loops that end at command `at_` are resolved, innermost first (R172): the loops left, the next command, and the
iterations begun. -/
def resolveEnd (at_ : Nat) : List LoopFrame → List LoopFrame × Nat × Nat
  | [] => ([], at_ + 1, 0)
  | f :: t =>
    if f.endPc = at_ then
      if f.index + 1 < f.count then ({ f with index := f.index + 1 } :: t, f.start, 1)
      else resolveEnd at_ t
    else (f :: t, at_ + 1, 0)

/-- A command of the core has issued: the job's first command completes its LAUNCH (R357). -/
def State.noteIssue (s : State) (n : Nat) : State :=
  match (s.core n).task with
  | some t => s.modJob t (fun j => { j with tasked := true })
  | none => s

/-- The command has issued: the program counter moves past command `at_`, and the command counts (R172, R181). -/
def State.advanceFrom (s : State) (n at_ : Nat) : State :=
  let q := (s.core n).seq
  let (loops, pc, iters) := resolveEnd at_ q.loops
  let s := s.modCore n (fun c => { c with seq := { c.seq with loops := loops, pc := pc } })
  let s := (s.noteIssue n).count (corePage n kSEQ) 0x100 1
  if iters = 0 then s else s.count (corePage n kSEQ) 0x110 iters

def State.advance (s : State) (n : Nat) : State := s.advanceFrom n (s.core n).seq.pc

def State.modSeq (s : State) (n : Nat) (f : Seq → Seq) : State := s.modCore n (fun c => { c with seq := f c.seq })

def State.modSpm (s : State) (n : Nat) (f : Spm → Spm) : State := s.modCore n (fun c => { c with spm := f c.spm })

/-- The checks of R167, steps 1 to 3, for a row that is the command `isRow`; `bad` gives its reserved values. -/
def State.issue (s : State) (n : Nat) (isRow : BitVec 128 → Bool) (bad : Core → BitVec 128 → Bool)
    (off on : BitVec 128 → State → State) : State :=
  if s.canIssue n then
    let k := s.core n
    let w := k.seq.fetch
    if (cmdMask (opcodeOf w)).isNone then s.seqFault n 0
    else if isRow w then
      if badBits w || bad k w then s.seqFault n 1
      else if k.seq.predOn w then on w s
      else off w s
    else s
  else s

def isOp (op : Nat) (w : BitVec 128) : Bool := opcodeOf w == op

/-- Count a predicated-off command and pass it (R174). -/
def State.passOff (s : State) (n : Nat) : State := (s.count (corePage n kSEQ) 0x108 1).advance n

/-- A sequencer command takes effect at issue and the next command follows. -/
def State.seqCommand (s : State) (n op : Nat) (bad : Core → BitVec 128 → Bool) (f : BitVec 128 → Seq → Seq) : State :=
  s.issue n (isOp op) bad (fun _ s => s.passOff n) (fun w s => (s.modSeq n (f w)).advance n)

/-- The signal of a command that signals at issue: its ticket and its count (R138, R165). -/
def State.signalNow (s : State) (n : Nat) (sg : Option (Byte × Byte)) : State :=
  s.modSpm n (fun m => ((m.ticket sg).2).signal sg)

/-- A command whose wait holds issue (NOP, FENCE, CLAIM, REGION, PART; R165): it takes effect once the wait is met. -/
def State.heldCommand (s : State) (n op : Nat) (bad : Core → BitVec 128 → Bool)
    (act : BitVec 128 → State → State) : State :=
  s.issue n (isOp op) bad
    (fun w s => (s.signalNow n (syncSignal w)).passOff n)
    (fun w s =>
      let k := s.core n
      let wt := syncWait k.seq w
      if k.spm.waitMet wt then act w (s.modSpm n (fun m => m.orderAfter wt none))
      else s.count (corePage n kSPM) 0x128 1)

/-! ## Engine commands -/

/-- What an engine command captures at issue (R161), before its checks. -/
structure Capture where
  req    : Requester
  op     : EngOp
  ops    : List Resolved
  spm    : Spm                  -- with the sequences it takes
  seqErr : Option Nat           -- a failing check of R167 step 4
  dmR    : List (Nat × Nat)
  dmW    : List (Nat × Nat)
  deriving Inhabited

def Capture.reads (x : Capture) : List Nat :=
  (x.ops.map (fun r => if r.role.writes then [] else r.baseRows.map (access r.role.port))).flatten

def Capture.writes (x : Capture) : List Nat :=
  (x.ops.map (fun r => if r.role.writes then r.baseRows.map (access r.role.port) else [])).flatten

/-- Requesters whose commands wait in one queue of 16 (R160). -/
def Core.queueFull (k : Core) (r : Requester) : Bool := decide (16 ≤ (k.queueOf r).length)

/-- The window of a port has room for a writing command, or its oldest entry's command has completed (R140). -/
def Core.windowRoom (k : Core) (port : Nat) : Bool :=
  let own := k.spm.window.filter (fun e => e.port == port)
  decide (own.length < 32) || (match own with
    | e :: _ => !(k.inflight.any (fun d => d.id == e.cmd))
    | [] => true)

/-- Put a write into its port's window, dropping the oldest entry past 32 (R140). -/
def pushWindow (win : List WinEntry) (e : WinEntry) : List WinEntry :=
  let own := win.filter (fun x => x.port == e.port)
  (if own.length < 32 then win else win.erase (own.headD e)) ++ [e]

/-- The rows of a command that race with an earlier write (R140). -/
def raceRows (m : Spm) (ops : List Resolved) : List Nat :=
  ((ops.map (fun r => r.baseRows.filter (fun x => (r.races m).any (fun e => e.rows.contains x)))).flatten).eraseDups

/-- The writing commands that a command's reads race with, newest first (R140). -/
def raceRivals (m : Spm) (ops : List Resolved) : List Nat :=
  ((m.window.filter (fun e => ops.any (fun r => (r.races m).contains e))).map (·.cmd)).reverse.eraseDups

/-- The rows that a command writes, with its port and requester: it writes through one port, and has one place in the
window (R140). -/
def writePorts (ops : List Resolved) : List (Nat × Requester × List Nat) :=
  match ops.filter (fun r => r.role.writes && r.opnd.circ.isNone) with
  | [] => []
  | r :: t => [(r.role.port, r.role.requester, ((r :: t).map Resolved.baseRows).flatten)]

/-- The job of a core counts a may-vary operation (R330). -/
def State.vary (s : State) (n : Nat) : State :=
  match (s.core n).task with
  | some t => s.modJob t (fun j => { j with vary := j.vary + 1 })
  | none => s

/-- Queue a captured command: window, ticket and sequences are taken in program order, and issue passes it. -/
def State.enqueue (s : State) (n : Nat) (w : BitVec 128) (x : Capture) (races rivals : List Nat) : State :=
  let k := s.core n
  let sg := syncSignal w
  let (tk, m) := x.spm.ticket sg
  let wins := (writePorts x.ops).map (fun p =>
    { port := p.1, cmd := k.nextId, req := p.2.1, rows := p.2.2, ticket := tk, ordered := [], old := [] : WinEntry })
  let m := { m with window := wins.foldl pushWindow m.window }
  let q := k.seq
  let e : EngCmd :=
    { id := k.nextId, req := x.req, op := x.op, opcode := BitVec.ofNat 8 (opcodeOf w), pc := q.pc, bank := q.bank,
      wait := syncWait q w, sig := sg, port := (x.ops.map (fun r => r.role.port)).headD 0, reads := x.reads,
      writes := x.writes, dmR := x.dmR, dmW := x.dmW, stage := .queued, races := races, rivals := rivals, replays := 0,
      number := 0, counted := false, round := q.round, tile := q.tile, layer := q.layer, tracked := false, got := [],
      taken := 0, out := [], tags := 0, fail := none }
  let s := s.modCore n (fun c => { c with spm := m, inflight := c.inflight ++ [e], nextId := c.nextId + 1 })
  let s := if races.isEmpty then s else (s.count (corePage n kSPM) 0x118 1).vary n
  s.advance n

/-- A predicated-off engine command: its signal is added when every earlier command of its requester has completed
(R174). -/
def State.engineOff (s : State) (n : Nat) (w : BitVec 128) (req : Requester) : State :=
  let k := s.core n
  let sg := syncSignal w
  if sg.isNone then s.passOff n
  else if (k.queueOf req).isEmpty then (s.signalNow n sg).passOff n
  else if k.queueFull req then s.count (corePage n kSEQ) 0x120 1
  else
    let e : EngCmd :=
      { id := k.nextId, req := req, op := .signalOnly, opcode := BitVec.ofNat 8 (opcodeOf w), pc := k.seq.pc,
        bank := k.seq.bank, wait := none, sig := sg, port := 0, reads := [], writes := [], dmR := [], dmW := [],
        stage := .performed, races := [], rivals := [], replays := 0, number := 0, counted := false, round := 0, tile := 0,
        layer := 0, tracked := false, got := [], taken := 0, out := [], tags := 0, fail := none }
    (s.modCore n (fun c => { c with spm := (c.spm.ticket sg).2, inflight := c.inflight ++ [e],
                                    nextId := c.nextId + 1 })).passOff n

/-- Issue an engine command: R167 steps 4 and 5, then its queue, its port's window and the capture. `gate` makes any
further check at issue (R327); `onCollision` is what a bank collision does beside stopping issue (R63, R81); `perform`
runs the command if it is ready. -/
def State.engineOnGated (s : State) (n : Nat) (w : BitVec 128) (x : Capture) (gate : State → Option State)
    (onCollision : State → State) (perform : State → EngCmd → State) : State :=
  match x.seqErr with
  | some b => s.seqFault n b
  | none =>
    let k := s.core n
    let wt := syncWait k.seq w
    let m := x.spm.orderAfter wt (some (racer x.req))
    match checkOperands m (s.repro n) x.ops with
    | some (b, role, row) =>
      let s := s.spmFault n b role row
      if b = 1 then onCollision s else s
    | none =>
      match gate s with
      | some s => s
      | none =>
        if k.queueFull x.req then s.count (corePage n kSEQ) 0x120 1
        else if !((writePorts x.ops).all (fun p => k.windowRoom p.1)) then s.count (corePage n kSPM) 0x120 1
        else
          let id := k.nextId
          let s := s.enqueue n w { x with spm := m } (raceRows m x.ops) (raceRivals m x.ops)
          match (s.core n).inflight.find? (fun d => d.id == id) with
          | some c => perform s c
          | none => s

def State.engineOn (s : State) (n : Nat) (w : BitVec 128) (x : Capture) (onCollision : State → State)
    (perform : State → EngCmd → State) : State :=
  s.engineOnGated n w x (fun _ => none) onCollision perform

/-- The row of an engine command. -/
def State.engineCommand (s : State) (n : Nat) (isRow : BitVec 128 → Bool) (bad : Core → BitVec 128 → Bool)
    (req : BitVec 128 → Requester) (cap : BitVec 128 → Core → Capture) (onCollision : State → State)
    (perform : State → EngCmd → State) : State :=
  s.issue n isRow bad (fun w s => s.engineOff n w (req w))
    (fun w s => s.engineOn n w (cap w (s.core n)) onCollision perform)

/-- A reserved value in the row operand of W1. -/
def badW1 (_ : Core) (w : BitVec 128) : Bool := badOperand (cw w 1)

/-! ## Performing and completing (R162, R165) -/

/-- The command may make its first access: its turn in its queue, its wait met, its rows free (R138, R139, R162). -/
def Core.ready (k : Core) (c : EngCmd) : Bool :=
  c.stage == .queued && k.inTurn c && k.spm.waitMet c.wait && k.rowsFree c

/-- A read that races with a write not yet performed and that is to see the new content waits for it (log entry 8, DESIGN CHOICE). -/
def Core.raceHeld (k : Core) (free : Nat) (c : EngCmd) : Bool :=
  c.rivals.zipIdx.any (fun r => (k.pendingBefore c).any (fun d => d.id == r.1 &&
    d.writes.any (fun a => c.races.contains (accRow a) && !Config.freeBool (free + 24576 * r.2 + accRow a))))

/-- The free values of a racing read are spent (log entry 8, DESIGN CHOICE). -/
def State.spendRace (s : State) (c : EngCmd) : State :=
  if c.races.isEmpty then s else s.takeFree (24576 * c.rivals.length)

/-- Rows that a command writes: its window entry keeps the old rows for readers that race with it (R140). -/
def Spm.keepOld (m : Spm) (id : Nat) : Spm :=
  { m with window := m.window.map (fun e =>
      if e.cmd = id then { e with old := e.rows.map (fun x => (x, m.row x)) } else e) }

/-- Count rows that a command moved (R152). -/
def State.countRows (s : State) (n reads writes : Nat) : State :=
  let s := if reads = 0 then s else s.count (corePage n kSPM) 0x100 reads
  if writes = 0 then s else s.count (corePage n kSPM) 0x108 writes

def State.markStage (s : State) (n id : Nat) (st : Stage) : State :=
  s.modCore n (fun k => k.updateCmd id (fun d => { d with stage := st }))

/-- The signals of predicated-off commands at the front of a requester's queue are added (R174). -/
def Core.flushSignals (fuel : Nat) (k : Core) (r : Requester) : Core :=
  match fuel with
  | 0 => k
  | fuel + 1 =>
    match k.queueOf r with
    | [] => k
    | d :: _ =>
      if d.op == .signalOnly then
        Core.flushSignals fuel { k with spm := k.spm.signal d.sig,
                                        inflight := k.inflight.filter (fun e => e.id != d.id) } r
      else k

/-- A command completes: it leaves its queue and its signal takes effect (R138, R165). -/
def State.complete (s : State) (n : Nat) (c : EngCmd) : State :=
  s.modCore n (fun k =>
    Core.flushSignals 17 { k with spm := k.spm.signal c.sig, inflight := k.inflight.filter (fun e => e.id != c.id) } c.req)

/-- What holds a command back, counted as one step of its kind of wait (R152). -/
def State.countWait (s : State) (n : Nat) (c : EngCmd) : State :=
  let k := s.core n
  if !k.spm.waitMet c.wait then s.count (corePage n kSPM) 0x128 1
  else if !k.rowsFree c then s.count (corePage n kSPM) 0x120 1
  else s.count (corePage n kSPM) 0x130 1

/-- The rows that a command's read operand delivers now. -/
def State.readFor (s : State) (n : Nat) (c : EngCmd) (o : Operand) : List Row :=
  (s.core n).spm.readOperand c.races c.rivals s.free o

/-- The command's accesses are over: its rows count, and the free values of a racing read are spent. -/
def State.performed (s : State) (n : Nat) (c : EngCmd) (reads writes : Nat) : State :=
  ((s.markStage n c.id .performed).countRows n reads writes).spendRace c

/-- Write rows as a command's destination: into a circular region the slots become full (R136). -/
def State.writeFor (s : State) (n : Nat) (c : EngCmd) (o : Operand) (rows : List Row) : State :=
  s.modSpm n (fun m =>
    let m := (m.keepOld c.id).writeRows o.rows rows
    match o.circ with
    | some (r, seqs) => m.putSlots r.val seqs
    | none => m)

/-- Release the slots that a consumer has finished with (R136). -/
def State.releaseFor (s : State) (n : Nat) (o : Operand) : State :=
  match o.circ with
  | some (r, seqs) => s.modSpm n (fun m => m.releaseSlots r.val seqs)
  | none => s

def Core.command (k : Core) (id : Nat) : Option EngCmd := k.inflight.find? (fun d => d.id == id)

/-- The start of a command whose requester may have several under way: its wait is met, its rows are free, and every
earlier command of the requester has started. -/
def Core.startReady (k : Core) (c : EngCmd) : Bool :=
  c.stage == .queued && !(k.inflight.any (fun d => decide (d.id < c.id) && d.req == c.req && d.stage == .queued)) &&
    k.spm.waitMet c.wait && k.rowsFree c

/-- The slots of a circular operand in order: region, sequence, and the operand's rows in the slot. -/
def Spm.slotsOf (m : Spm) (o : Operand) : List (Fin 4 × Word × List Nat) :=
  match o.circ with
  | some (r, seqs) =>
    let sz := circSlotRows (m.circ r.val).cfg
    seqs.zipIdx.map (fun x => (r, x.1, (o.rows.drop (x.2 * sz)).take sz))
  | none => []

/-- A consumer that is not replayed meets a failed slot: it is aborted and the job faults (R251, R378). -/
def State.headerFault (s : State) (n id : Nat) (xs : List (Fin 4 × Word)) : State :=
  (s.modCore n (fun k => { k with spm := k.spm.clearFailed xs,
                                  inflight := k.inflight.filter (fun d => d.id != id) })).faultCore n pLFC 3

/-- Take the slots of circular sources that are full, in order, and release each: a VLOAD, a STREAM and the slabs of a
sweep that is not replayed do not hold their slots until they finish (R82, R209, R64). -/
def State.takeSlots (s : State) (n id : Nat) : List (Fin 4 × Word × List Nat) → State
  | [] => s
  | x :: t =>
    let k := s.core n
    if k.spm.slotFull x.1.val x.2.1 then
      State.takeSlots (s.modCore n (fun k =>
        { k.updateCmd id (fun d => { d with got := d.got ++ x.2.2.map k.spm.row, taken := d.taken + 1 }) with
          spm := k.spm.releaseSlots x.1.val [x.2.1] })) n id t
    else if (k.spm.circ x.1.val).isFailed x.2.1 then s.headerFault n id [(x.1, x.2.1)]
    else s

/-- Take what is there of a command's circular sources. -/
def State.gather (s : State) (n : Nat) (c : EngCmd) (srcs : List Operand) : State :=
  s.takeSlots n c.id (((srcs.map (s.core n).spm.slotsOf).flatten).drop c.taken)

/-- Every slot of the sources has been taken. -/
def Core.gathered (k : Core) (c : EngCmd) (srcs : List Operand) : Bool :=
  decide (((srcs.map k.spm.slotsOf).flatten).length ≤ c.taken)

/-- The rows of each source: those taken from slots, in order, or a read of its rows now. -/
def State.sources (s : State) (n : Nat) (c : EngCmd) : List Operand → List Row → List (List Row)
  | [], _ => []
  | o :: t, got =>
    if o.circ.isSome then deliver o (got.take o.rows.length) :: State.sources s n c t (got.drop o.rows.length)
    else s.readFor n c o :: State.sources s n c t got

/-- Rows that sources move. -/
def sourceRows (srcs : List Operand) : Nat := (srcs.map (fun o => o.rows.length)).foldl (· + ·) 0

/-- A consumer finishes with the circular slots of its sources: they are released (R136). -/
def State.releaseAll (s : State) (n : Nat) (srcs : List Operand) : State := srcs.foldl (fun s o => s.releaseFor n o) s

/-- Put items into their slots while each is empty and expects it (R136). -/
def State.putItems (s : State) (n id : Nat) : List SlotItem → State
  | [] => s.modCore n (fun k => k.updateCmd id (fun d => { d with out := [] }))
  | x :: t =>
    let k := s.core n
    if k.spm.slotOpen x.region.val x.seq then
      State.putItems ((s.modSpm n (fun m =>
        let m := m.writeRows x.dest x.rows
        if x.full then m.putSlots x.region.val [x.seq] else m)).countRows n 0 x.rows.length) n id t
    else s.modCore n (fun k => k.updateCmd id (fun d => { d with out := x :: t }))

/-- The items that rows make for a circular destination; rows that end short of a slot's last give no full token. -/
def Spm.itemsOf (m : Spm) (o : Operand) (rows : List Row) : List SlotItem :=
  match o.circ with
  | some (r, seqs) =>
    let sz := circSlotRows (m.circ r.val).cfg
    (seqs.zipIdx.map (fun x =>
      let dest := (o.rows.drop (x.2 * sz)).take sz
      let item := (rows.drop (x.2 * sz)).take sz
      { region := r, seq := x.1, dest := dest, rows := item, full := item.length == dest.length : SlotItem })).filter
        (fun i => !i.rows.isEmpty)
  | none => []

/-- Go on putting a command's items; with none left its accesses are over. -/
def State.pushOut (s : State) (n : Nat) (c : EngCmd) : State :=
  let s := s.putItems n c.id c.out
  match (s.core n).command c.id with
  | some d => if d.out.isEmpty then s.markStage n c.id .performed else s
  | none => s

/-- A command's results: rows of plain destinations are written at once, items of circular ones as their slots empty. -/
def State.deliverAll (s : State) (n : Nat) (c : EngCmd) (writes : List (Operand × List Row)) : State :=
  let plain := writes.filter (fun w => w.1.circ.isNone)
  let items := (writes.map (fun w => (s.core n).spm.itemsOf w.1 w.2)).flatten
  let s := s.modSpm n (fun m => plain.foldl (fun m w => m.writeRows w.1.rows w.2) (m.keepOld c.id))
  let s := s.countRows n 0 ((plain.map (fun w => w.2.length)).foldl (· + ·) 0)
  (s.markStage n c.id .started).pushOut n { c with out := items }

end Sys2Proof.Machine
end

