-- ==== Sys2Proof/Machine/Float.lean ====
section
/-!
DEFINITION. Numbers, formats and rounding (R24-R39, R46): every value is an exact dyadic number, and rounding happens
where the rules place it. Format codes are those of R169 and R185: 0 E4M3, 1 E5M2, 2 E2M1 (MXFP4), 3 BF16, 4 FP16,
5 INT8, 6 INT4, 7 FP32, 8 INT32.
-/
namespace Sys2Proof.Machine

/-- A value: NaN (never with payload or sign, R36), an infinity, or (-1)^neg * m * 2^e. -/
inductive Fp where
  | nan
  | inf (neg : Bool)
  | fin (neg : Bool) (m : Nat) (e : Int)
  deriving DecidableEq, Repr, Inhabited

/-- Mantissa bits, exponent bits, bias (R24). -/
structure Layout where
  mb   : Nat
  eb   : Nat
  bias : Nat
  deriving DecidableEq, Repr, Inhabited

def layoutOf : Nat → Layout
  | 0 => ⟨3, 4, 7⟩
  | 1 => ⟨2, 5, 15⟩
  | 2 => ⟨1, 2, 1⟩
  | 3 => ⟨7, 8, 127⟩
  | 4 => ⟨10, 5, 15⟩
  | _ => ⟨23, 8, 127⟩

/-- Element width in bits. -/
def fmtBits : Nat → Nat
  | 0 => 8 | 1 => 8 | 2 => 4 | 3 => 16 | 4 => 16 | 5 => 8 | 6 => 4 | _ => 32

def isIntFmt (c : Nat) : Bool := c == 5 || c == 6 || c == 8

def ofInt (v : Int) : Fp := .fin (decide (v < 0)) v.natAbs 0

/-- The value of a bit pattern of a format (R24, R25). -/
def decodeFmt (c b : Nat) : Fp :=
  if isIntFmt c then
    let n := fmtBits c
    ofInt (if 2 ^ (n - 1) ≤ b % 2 ^ n then (b % 2 ^ n : Nat) - (2 ^ n : Int) else (b % 2 ^ n : Nat))
  else
    let l := layoutOf c
    let neg := (b >>> (l.mb + l.eb)) % 2 == 1
    let ex := (b >>> l.mb) % 2 ^ l.eb
    let man := b % 2 ^ l.mb
    if ex = 2 ^ l.eb - 1 ∧ c ≠ 2 ∧ c ≠ 0 then (if man = 0 then .inf neg else .nan)
    else if c = 0 ∧ ex = 15 ∧ man = 7 then .nan
    else if ex = 0 then .fin neg man (1 - (l.bias : Int) - l.mb)
    else .fin neg (2 ^ l.mb + man) ((ex : Int) - l.bias - l.mb)

/-- The canonical NaN of a destination (R36). -/
def nanBits : Nat → Nat
  | 0 => 0x7F | 1 => 0x7F | 3 => 0x7FC0 | 4 => 0x7E00 | 7 => 0x7FC00000 | _ => 0

/-- The largest finite magnitude of a floating-point format (R24). -/
def maxFiniteBits : Nat → Nat
  | 0 => 0x7E | 1 => 0x7B | 2 => 0x7 | 3 => 0x7F7F | 4 => 0x7BFF | _ => 0x7F7FFFFF

def infBits (c : Nat) : Nat := (2 ^ (layoutOf c).eb - 1) * 2 ^ (layoutOf c).mb

/-- A rounding mode: to nearest even, or stochastic with the 32-bit generator word (R46). -/
inductive Rnd where
  | rne
  | sr (w : Nat)
  deriving DecidableEq, Repr, Inhabited

/-- |x| / 2^q rounded to an integer, where |x| = m * 2^e: ties to even, or floor(|x| / q + U) with U the word's upper 24
bits as a fraction (R46). -/
def roundQuantum (r : Rnd) (m : Nat) (e q : Int) : Nat :=
  if q ≤ e then m * 2 ^ (e - q).toNat
  else
    let d := (q - e).toNat
    match r with
    | .rne =>
      let k := m >>> d
      let rem := m % 2 ^ d
      if 2 ^ d < 2 * rem ∨ (2 ^ d = 2 * rem ∧ k % 2 = 1) then k + 1 else k
    | .sr w => (m * 2 ^ 24 + (w >>> 8) * 2 ^ d) >>> (d + 24)

def signBit (c : Nat) (neg : Bool) : Nat := if neg then 2 ^ (fmtBits c - 1) else 0

/-- Narrow a finite value to a floating-point format (R37): round to its precision, subnormal range included, then check
the range. Beyond max finite SAT gives max finite; without SAT infinity, or NaN for E4M3; an E2M1 element saturates. -/
def narrowFin (c : Nat) (sat : Bool) (r : Rnd) (neg : Bool) (m : Nat) (e : Int) : Nat :=
  if m = 0 then signBit c neg
  else
    let l := layoutOf c
    let p := l.mb + 1
    let emin : Int := 1 - l.bias
    let lg : Int := (Nat.log2 m : Int) + e
    let q : Int := (if lg < emin then emin else lg) - p + 1
    let k := roundQuantum r m e q
    let (k, q) := if k = 2 ^ p then (2 ^ (p - 1), q + 1) else (k, q)
    let mag := if k < 2 ^ (p - 1) then k else ((q + p - 1 + l.bias).toNat) * 2 ^ l.mb + (k - 2 ^ (p - 1))
    if mag ≤ maxFiniteBits c then signBit c neg + mag
    else if sat || c == 2 then signBit c neg + maxFiniteBits c
    else if c = 0 then nanBits 0
    else signBit c neg + infBits c

/-- Conversion to an integer format rounds and clamps; NaN gives 0 (R38). -/
def toIntFmt (c : Nat) (r : Rnd) (x : Fp) : Nat :=
  let n := fmtBits c
  let hi : Nat := 2 ^ (n - 1) - 1
  match x with
  | .nan => 0
  | .inf neg => if neg then hi + 1 else hi
  | .fin neg m e =>
    let k := roundQuantum r m e 0
    if neg then (2 ^ n - min k (hi + 1)) % 2 ^ n else min k hi

/-- Conversion of a value to a format's bits (R37, R38). -/
def convertTo (c : Nat) (sat : Bool) (r : Rnd) (x : Fp) : Nat :=
  if isIntFmt c then toIntFmt c r x
  else match x with
    | .nan => nanBits c
    | .inf neg =>
      if c = 0 then (if sat then signBit c neg + maxFiniteBits c else nanBits 0)
      else if c = 2 then signBit c neg + maxFiniteBits c
      else signBit c neg + infBits c
    | .fin neg m e => narrowFin c sat r neg m e

/-! ## FP32 arithmetic -/

def f32 (w : Word) : Fp := decodeFmt 7 w.toNat

/-- Round to FP32, to nearest even; an overflow becomes an infinity (R36). -/
def toF32 (x : Fp) : Word := word (convertTo 7 false .rne x)

def Fp.neg : Fp → Fp
  | .nan => .nan
  | .inf b => .inf !b
  | .fin b m e => .fin (!b) m e

/-- The exact sum of two dyadic numbers as a signed mantissa and exponent. -/
def dyAdd (a b : Int × Int) : Int × Int :=
  if a.2 ≤ b.2 then (a.1 + b.1 * 2 ^ (b.2 - a.2).toNat, a.2) else (a.1 * 2 ^ (a.2 - b.2).toNat + b.1, b.2)

def dyOf (neg : Bool) (m : Nat) (e : Int) : Int × Int := (if neg then -(m : Int) else m, e)

/-- Exact sum; opposite infinities give NaN (R36); a zero sum is +0 unless both are -0. -/
def Fp.add (x y : Fp) : Fp :=
  match x, y with
  | .nan, _ => .nan
  | _, .nan => .nan
  | .inf a, .inf b => if a = b then .inf a else .nan
  | .inf a, .fin _ _ _ => .inf a
  | .fin _ _ _, .inf b => .inf b
  | .fin a m e, .fin b k f =>
    let s := dyAdd (dyOf a m e) (dyOf b k f)
    if s.1 = 0 then .fin (a && b) 0 0 else .fin (decide (s.1 < 0)) s.1.natAbs s.2

/-- Exact product; infinity times zero gives NaN (R36). -/
def Fp.mul (x y : Fp) : Fp :=
  match x, y with
  | .nan, _ => .nan
  | _, .nan => .nan
  | .inf a, .inf b => .inf (a != b)
  | .inf a, .fin b k _ => if k = 0 then .nan else .inf (a != b)
  | .fin a m _, .inf b => if m = 0 then .nan else .inf (a != b)
  | .fin a m e, .fin b k f => .fin (a != b) (m * k) (e + f)

def fadd (a b : Word) : Word := toF32 ((f32 a).add (f32 b))
def fsub (a b : Word) : Word := toF32 ((f32 a).add (f32 b).neg)
def fmul (a b : Word) : Word := toF32 ((f32 a).mul (f32 b))
/-- a * b + c rounded once. -/
def ffma (a b c : Word) : Word := toF32 (((f32 a).mul (f32 b)).add (f32 c))

def f32Nan : Word := 0x7FC00000

/-- Order key of a number: -0 below +0 (IEEE 754 minimum and maximum). -/
def f32Key (a : Word) : Int := if a.msb then -((a.toNat - 2 ^ 31 : Nat) : Int) - 1 else a.toNat

/-- IEEE minimum and maximum; a NaN operand gives NaN (R33, R36). -/
def fmin (a b : Word) : Word :=
  if f32 a = .nan ∨ f32 b = .nan then f32Nan else if f32Key a ≤ f32Key b then a else b

def fmax (a b : Word) : Word :=
  if f32 a = .nan ∨ f32 b = .nan then f32Nan else if f32Key a ≤ f32Key b then b else a

/-! ## Groups (R28) -/

/-- The exact sum of a group's products, a dyadic number with its special values apart. -/
inductive GSum where
  | nan
  | inf (neg : Bool)
  | num (m : Int) (e : Int)
  deriving DecidableEq, Repr, Inhabited

def GSum.add (s : GSum) (x : Fp) : GSum :=
  match s, x with
  | .nan, _ => .nan
  | _, .nan => .nan
  | .inf a, .inf b => if a = b then .inf a else .nan
  | .inf a, .fin _ _ _ => .inf a
  | .num _ _, .inf b => .inf b
  | .num m e, .fin b k f => let r := dyAdd (m, e) (dyOf b k f); .num r.1 r.2

/-- One rounding to FP32; an exact zero sum gives +0. -/
def GSum.round : GSum → Word
  | .nan => f32Nan
  | .inf neg => toF32 (.inf neg)
  | .num m e => if m = 0 then 0 else toF32 (.fin (decide (m < 0)) m.natAbs e)

/-- The group value of a list of products. -/
def groupValue (ps : List Fp) : Word := (ps.foldl GSum.add (.num 0 0)).round

/-- The value of an element under a block scale byte (R26): 0xFF makes it NaN. -/
def scaled (s : Nat) (x : Fp) : Fp :=
  if s = 255 then .nan
  else match x with
    | .fin b m e => .fin b m (e + (s : Int) - 127)
    | y => y

/-! ## MX quantisation (R39) -/

/-- Quantise FP32 values to one MXFP4 block: scale byte and element codes. `rnd i` is the rounding of element `i`. -/
def quantBlock (rnd : Nat → Rnd) (vs : List Word) : Nat × List Nat :=
  let xs := vs.map f32
  if xs.any (fun x => match x with
    | .fin _ _ _ => false
    | .nan | .inf _ => true) then (0xFF, vs.map (fun _ => 0))
  else
    let a := (vs.map (fun v => v.toNat % 2 ^ 31)).foldl max 0
    match f32 (word a) with
    | .fin _ m e =>
      if m = 0 then (0, vs.map (fun _ => 0))
      else
        let x : Int := max (-127) (min 127 ((Nat.log2 m : Int) + e - 2))
        ((x + 127).toNat, xs.mapIdx (fun i v =>
          match v with
          | .fin b m e => narrowFin 2 true (rnd i) b m (e - x)
          | .nan | .inf _ => 0))
    | .nan | .inf _ => (0xFF, vs.map (fun _ => 0))

/-! ## Draws (R43, R46) -/

/-- What a draw takes from the job and the generator state at issue (R43). -/
structure Draw where
  seed  : BitVec 128
  job   : Word
  round : BitVec 24
  tile  : BitVec 16
  layer : BitVec 16
  deriving DecidableEq, Repr, Inhabited

/-- The word that element `i` draws for a purpose (R43). -/
def Draw.word (d : Draw) (purpose i : Nat) : Nat :=
  let k := fun j => d.seed.extractLsb' (32 * j) 32
  let c := fun j => match j with
    | 0 => BitVec.ofNat 32 (i / 4)
    | 1 => (BitVec.ofNat 16 d.round.toNat) ++ d.tile
    | 2 => (BitVec.ofNat 8 purpose) ++ (BitVec.ofNat 8 (d.round.toNat / 65536)) ++ d.layer
    | _ => d.job
  let (y0, y1, y2, y3) := ocg k c
  (match i % 4 with
   | 0 => y0
   | 1 => y1
   | 2 => y2
   | _ => y3).toNat

/-- Stochastic rounding of element `i` (purpose 0), or to nearest even (R46). -/
def Draw.rnd (d : Draw) (sr : Bool) (i : Nat) : Rnd := if sr then .sr (d.word 0 i) else .rne

/-- Dropout of element `i` under threshold `t` and an FP32 keep scale (R47): purpose 1. No command of the machine performs it
(log entry 86, DEDUCED). -/
def Draw.dropout (d : Draw) (t keep x : Word) (i : Nat) : Word := if d.word 1 i < t.toNat then 0 else fmul x keep

/-- The generator values of a core's job for a command that captured (round, tile, layer). -/
def State.draw (s : State) (n : Nat) (c : EngCmd) : Draw :=
  match s.coreJob n with
  | some j => { seed := j.seed, job := j.jobWord, round := c.round, tile := c.tile, layer := c.layer }
  | none => { seed := 0, job := 0, round := c.round, tile := c.tile, layer := c.layer }

end Sys2Proof.Machine
end

