-- ==== Sys2Proof/Machine/Tile.lean ====
section
/-!
DEFINITION. Weight tiles and products, shared by the array and the schuss path (R26-R31, R48-R50, R88-R91, R95, R96):
which formats meet, how a rank row spells its weights, how activation vectors lie in rows, and the group sums.
-/
namespace Sys2Proof.Machine

/-! ## Pairings (R27, R88) -/

/-- The two-MAC pairings: MXFP4 x MXFP4 and INT4 x INT4. -/
def paired (w a : Nat) : Bool := (w == 2 && a == 2) || (w == 6 && a == 6)

/-- R27 with the sparsity mode of R88. -/
def pairOk (w a sparse : Nat) : Bool :=
  ((decide (w ≤ 1) && decide (a ≤ 1)) || (w == 2 && decide (a ≤ 2)) || (w == 3 && a == 3) || (w == 4 && a == 4) ||
    (w == 5 && a == 5) || (w == 6 && (a == 6 || a == 5))) && (sparse == 0 || paired w a)

/-- The accumulator type is INT32 (R27). -/
def intPair (w : Nat) : Bool := w == 5 || w == 6

/-- K positions per rank (R27, R89). -/
def kPerRank (w a sparse : Nat) : Nat :=
  match sparse with
  | 0 => if paired w a then 2 else 1
  | 1 => 4
  | _ => 8

/-- Pass cadence c (R49). -/
def cadence (w : Nat) : Nat := if w = 3 ∨ w = 4 then 2 else 1

/-- Bits that one file's weights take in a rank row, without index and scale (R57, R91). -/
def elemBits (w a sparse : Nat) : Nat :=
  if w = 3 ∨ w = 4 then 16
  else if w = 2 ∨ w = 6 then (if paired w a || sparse != 0 then 8 else 4)
  else 8

/-- What a tile of weights is: formats, mode, ranks and files. -/
structure Shape where
  wfmt   : Nat
  afmt   : Nat
  sparse : Nat
  h      : Nat
  w      : Nat
  deriving DecidableEq, Repr, Inhabited

def Shape.kpr (t : Shape) : Nat := kPerRank t.wfmt t.afmt t.sparse
/-- Ranks of a band: those that hold one group of 32 K positions (R49, R90). -/
def Shape.band (t : Shape) : Nat := 32 / t.kpr
def Shape.eb (t : Shape) : Nat := elemBits t.wfmt t.afmt t.sparse
def Shape.mx (t : Shape) : Bool := t.wfmt == 2
def Shape.bands (t : Shape) : Nat := t.h / t.band

/-- Is rank `r` the bottom row of its band? -/
def Shape.bottom (t : Shape) (r : Nat) : Bool := (r + 1) % t.band == 0

/-- Bits of the row of rank `r` (R57, R91). -/
def Shape.rowBits (t : Shape) (r : Nat) : Nat :=
  t.w * t.eb + (if t.sparse = 0 then 0 else t.w * 4) + (if t.mx && t.bottom r then t.w * 8 else 0)

/-- Bytes of all rows of the tile. -/
def Shape.bytes (t : Shape) : Nat := ((List.range t.h).foldl (fun n r => n + t.rowBits r) 0) / 8

/-- `n` fields of `b` bits each, from bit 0 of a number. -/
def fieldsOf (b n v : Nat) : List Nat := (List.range n).map (fun i => (v >>> (b * i)) % 2 ^ b)

/-- Rows joined into one number, the first row lowest. -/
def rowsNat : List Row → Nat
  | [] => 0
  | r :: t => r.toNat + 2 ^ 4096 * rowsNat t

/-- Bytes joined into one number, the first byte lowest. -/
def bytesNat : List Byte → Nat := leNat

/-- The rows of the ranks listed, packed back to back from bit 0 of `v`: elements, indexes and, on a band's bottom row,
scales, each with its rank. -/
def parseRows (t : Shape) : List Nat → Nat → List (Nat × List Nat × List Nat × List Nat)
  | [], _ => []
  | r :: rs, v =>
    let e := t.w * t.eb
    let i := if t.sparse = 0 then 0 else t.w * 4
    let row := (r, fieldsOf t.eb t.w v, (if i = 0 then [] else fieldsOf 4 t.w (v >>> e)),
                (if t.mx && t.bottom r then fieldsOf 8 t.w (v >>> (e + i)) else []))
    row :: parseRows t rs (v >>> t.rowBits r)

/-- Parsed rows as working weights with every block present (R95). -/
def weightsOfRows (t : Shape) (rows : List (Nat × List Nat × List Nat × List Nat)) : Weights :=
  let at_ := fun (r : Nat) => (rows.find? (fun x => x.1 == r)).getD (r, [], [], [])
  { fmt := t.wfmt, sparse := t.sparse, kpr := t.kpr,
    elem := (List.range t.h).map (fun r => (at_ r).2.1.map (BitVec.ofNat 16)),
    idx := if t.sparse = 0 then [] else (List.range t.h).map (fun r => (at_ r).2.2.1.map (BitVec.ofNat 4)),
    scale := if t.mx then (List.range t.bands).map (fun b => (at_ (b * t.band + t.band - 1)).2.2.2.map (BitVec.ofNat 8))
             else [],
    absent := (List.range t.bands).map (fun _ => List.replicate t.w false) }

/-- Front rows arrive in decreasing rank order (R55), sweep rows in increasing rank order (R74). -/
def frontRanks (h : Nat) : List Nat := (List.range h).reverse

/-- Scratchpad rows of a front fed from the weight port (R57, R91). -/
def Shape.portRows (t : Shape) : Nat := (t.bytes + 511) / 512

/-! ## Activations (R26, R61, R73) -/

/-- Rows of a tensor of `n` elements: element rows and, for MXFP4, scale rows (R26). R26 gives a scale row to each 16
element rows and no place for it; here it stands directly after them, and after the last, partial group (log entry 64,
DESIGN CHOICE). -/
def tensorRows (fmt n : Nat) : Nat :=
  let e := (n * fmtBits fmt + 4095) / 4096
  if fmt = 2 then e + (e + 15) / 16 else e

/-- Element `e` of a tensor held in rows: its bits, and the scale byte of its block (0x7F, a scale of 1, where the format
has none). The scale row of an MXFP4 operand of PASS or VLOAD stands directly after its, at most 16, element rows: R26 does
not give its place (log entry 64, DESIGN CHOICE). -/
def tensorElem (fmt : Nat) (rows : List Row) (e : Nat) : Nat × Nat :=
  let per := 4096 / fmtBits fmt
  let j := e / per
  if fmt = 2 then
    let total := rows.length - (rows.length + 16) / 17
    let scaleRow := min (17 * (j / 16) + 16) (total + j / 16)
    (rowElem (rows.getD (j + j / 16) 0) 4 (e % per),
     rowElem (rows.getD scaleRow 0) 8 (j % 16 * 32 + e % per / 32))
  else (rowElem (rows.getD j 0) (fmtBits fmt) (e % per), 127)

/-! ## Group sums (R28-R31, R89, R90) -/

/-- The K positions, counted within the rank's group, and the weight bits of the stored elements of rank `r`. -/
def Shape.products (t : Shape) (r elem idx : Nat) : List (Nat × Nat) :=
  match t.sparse with
  | 0 => if t.kpr = 2 then [(2 * r, elem % 16), (2 * r + 1, elem / 16 % 16)] else [(r, elem)]
  | 1 => [(4 * r + idx % 4, elem % 16), (4 * r + idx / 4 % 4, elem / 16 % 16)]
  | _ => [(8 * r + idx % 4, elem % 16), (8 * r + 4 + idx / 4 % 4, elem / 16 % 16)]

/-- The value of band `b` of file `f` for an activation vector, or `none` for an absent block (R96). `act` gives the
bits and the scale byte of a K position of the tile. -/
def bandValue (t : Shape) (ws : Weights) (act : Nat → Nat × Nat) (b f : Nat) : Option Word :=
  if (ws.absent.getD b []).getD f false then none
  else
    let ps := ((List.range t.band).map (fun i =>
      let r := b * t.band + i
      t.products r (((ws.elem.getD r []).getD f 0).toNat) (((ws.idx.getD r []).getD f 0).toNat))).flatten
    let ws1 := if t.mx then ((ws.scale.getD b []).getD f 0).toNat else 127
    if intPair t.wfmt then
      let value := fun (c x : Nat) => match decodeFmt c x with
        | .fin neg m _ => if neg then -(m : Int) else m
        | .nan | .inf _ => 0
      some (BitVec.ofInt 32 ((ps.map (fun p => value t.wfmt p.2 * value t.afmt (act p.1).1)).foldl (· + ·) 0))
    else
      some (groupValue (ps.map (fun p =>
        (scaled ws1 (decodeFmt t.wfmt p.2)).mul (scaled (act p.1).2 (decodeFmt t.afmt (act p.1).1)))))

/-- Addition in the accumulator of the pairing: FP32 to nearest even, or INT32 modulo 2^32 (R29, R31). -/
def accAdd (wfmt : Nat) (a b : Word) : Word := if intPair wfmt then a + b else fadd a b

/-- The running sum of file `f` over the tile's bands in increasing K order, from its starting value (R29, R50). -/
def runningSum (t : Shape) (ws : Weights) (act : Nat → Nat × Nat) (start : Word) (f : Nat) : Word :=
  (List.range t.bands).foldl (fun acc b =>
    match bandValue t ws act b f with
    | some v => accAdd t.wfmt acc v
    | none => acc) start

/-! ## Drained entries (R54, R77, R169) -/

/-- The rounding of a conversion: INT32 to FP32 rounds to nearest even whatever the command says (R38). -/
def intRnd (fromInt : Bool) (fmt : Nat) (r : Rnd) : Rnd := if fromInt && fmt == 7 then .rne else r

/-- One entry converted to a format: read as FP32, or as INT32 where the drain names an integer source. -/
def drainEntry (fmt : Nat) (sat srcInt : Bool) (r : Rnd) (v : Word) : Nat :=
  convertTo fmt sat (intRnd srcInt fmt r) (if srcInt then decodeFmt 8 v.toNat else f32 v)

/-- Element size of a transposed read, by format code; an MXFP4 tensor has scale rows. -/
def elemOf (fmt : Nat) : Option (Nat × Bool) := if fmt ≤ 8 then some (fmtBits fmt, fmt == 2) else none

/-- The same for operands without scale rows among their rows: weights (R57), and the row engine's (R186, R195). -/
def plainElem (fmt : Nat) : Option (Nat × Bool) := (elemOf fmt).map (fun e => (e.1, false))

/-- Elements packed into rows of 512 bytes. -/
def packRows (fmt : Nat) (xs : List Nat) : List Row :=
  let per := 4096 / fmtBits fmt
  (chunksOf per ((xs.length + per - 1) / per) xs).map (rowOfElems (fmtBits fmt))

end Sys2Proof.Machine
end

