-- ==== Sys2Proof/Machine/Expander.lean ====
section
/-!
DEFINITION. The expander (R108-R128): slabs, their header and blocks, decoding tables, the table slots with TLOAD and the
end of a load, and the rebuilding of a tile for a front or a sweep.
-/
namespace Sys2Proof.Machine

/-! ## Errors of a feed (R125) -/

/-- A failed check: the PAGE_ERR bit of the EXP page, DETAIL, bitmap bit of the block, slab within the run, offset. -/
structure FeedErr where
  bit    : Nat
  detail : Nat
  block  : Nat
  run    : Nat
  off    : Nat
  deriving DecidableEq, Repr, Inhabited

/-- INFO0 and INFO1 for a consumer of a table slot (R125). -/
def FeedErr.info (e : FeedErr) (slot consumer : Nat) : Word × Word :=
  (word (e.detail * 2 ^ 24 + e.bit * 65536 + slot * 256 + consumer),
   word (e.block * 2 ^ 20 + e.run * 65536 + e.off % 65536))

/-! ## Decoding tables (R115) -/

/-- Code length of symbol `v` in a table image. -/
def tableLen (img : Row) (v : Nat) : Nat := rowElem img 8 (32 + v)

/-- The checks of a table load. -/
def tableOk (img : Row) : Bool :=
  let lens := (List.range 256).map (tableLen img)
  img.toNat % 65536 == 0x7AB1 && lens.all (fun l => decide (l ≤ 16)) && lens.any (fun l => decide (0 < l)) &&
    decide ((lens.map (fun l => if l = 0 then 0 else 2 ^ (16 - l))).foldl (· + ·) 0 ≤ 65536)

/-- The canonical code: for each length from 1 to 16 its first codeword and its symbols in increasing value. -/
def canonical (img : Row) : List (Nat × List Nat) :=
  ((List.range 16).foldl (fun (acc : Nat × List (Nat × List Nat)) i =>
    let syms := (List.range 256).filter (fun v => tableLen img v == i + 1)
    ((acc.1 + syms.length) * 2, acc.2 ++ [(acc.1, syms)])) (0, [])).2

/-- Read one code, most significant bit first, from bit `pos` of a strand of `len` bits: the symbol and the next bit, or
which of R121's two failures (3 no codeword, 4 out of bits). -/
def readCode (strand len : Nat) : List (Nat × List Nat) → Nat → Nat → Except Nat (Nat × Nat)
  | [], _, _ => .error 3
  | (first, syms) :: t, pos, code =>
    if len ≤ pos then .error 4
    else
      let code := code * 2 + (strand >>> pos) % 2
      if first ≤ code ∧ code < first + syms.length then .ok (syms.getD (code - first) 0, pos + 1)
      else readCode strand len t (pos + 1) code

/-- Decode `n` symbols. -/
def readSymbols (table : List (Nat × List Nat)) (strand len : Nat) : Nat → Nat → Except Nat (List Nat)
  | 0, _ => .ok []
  | n + 1, pos =>
    match readCode strand len table pos 0 with
    | .error d => .error d
    | .ok (v, pos) =>
      match readSymbols table strand len n pos with
      | .error d => .error d
      | .ok vs => .ok (v :: vs)

/-! ## Slabs (R108-R114) -/

/-- A slab as one number, its first byte lowest. -/
def slabByte (v i : Nat) : Nat := (v >>> (8 * i)) % 256

def slabField (v i n : Nat) : Nat := (v >>> (8 * i)) % 2 ^ (8 * n)

def slabBlocks (v : Nat) : Nat := slabField v 8 2
def slabLen (v : Nat) : Nat := slabField v 0xC 4
def slabFirst (v : Nat) : Nat := slabByte v 6
def slabBands (v : Nat) : Nat := slabByte v 7
def slabBitmap (v : Nat) : Nat := slabField v 0x20 32
def slabUsesTable (v : Nat) : Bool := slabByte v 4 / 8 % 2 == 1

/-- The CRC of the header and index table, with its own field taken as 0 (R110). -/
def slabCrc (v : Nat) : Nat :=
  let n := 64 + 4 * slabBlocks v
  crc32c ((List.range n).map (fun i => if 0x18 ≤ i ∧ i < 0x1C then (0 : Byte) else BitVec.ofNat 8 (slabByte v i)))

def popNat (n v : Nat) : Nat := ((List.range n).filter (fun i => v >>> i % 2 == 1)).length

/-- Blocks of the slab's bands, by bitmap bit, that the bitmap marks present. -/
def slabPresent (t : Shape) (v : Nat) : List Nat :=
  (List.range 256).filter (fun b => slabBitmap v >>> b % 2 == 1 && decide (b / (t.w / 64) < slabFirst v + slabBands v) &&
    decide (slabFirst v ≤ b / (t.w / 64)))

/-- Step 1 of R121, in its order: MAGIC, VERSION, HDR_CRC, reserved bits, SLAB_LEN, FORMAT, GEOMETRY, the run, BITMAP.
`next` is the band that the slab must start at, `last` whether it ends the run; tile height and width in squares. A
BAND_COUNT of 0 or above 64, for which R121 names no DETAIL, fails as the run (log entry 67, DESIGN CHOICE). -/
def headerErr (t : Shape) (next : Nat) (last : Bool) (v : Nat) : Option (Nat × Nat) :=
  let bad := fun (c : Bool) (d off : Nat) => if c then some (d, off) else none
  let fmt := t.wfmt + 16 * t.sparse + 64 * boolNat (paired t.wfmt t.afmt)
  let bands := slabFirst v + slabBands v
  (bad (slabField v 0 2 != 0x5B1A) 0 0).orElse fun _ =>
  (bad (slabByte v 2 != 1) 1 2).orElse fun _ =>
  (bad (slabField v 0x18 4 != slabCrc v) 2 0x18).orElse fun _ =>
  (bad (slabByte v 3 / 128 != 0) 8 3).orElse fun _ =>
  (bad (slabByte v 5 / 16 != 0) 8 5).orElse fun _ =>
  (bad (slabField v 0xA 2 != 0) 8 0xA).orElse fun _ =>
  (bad (slabField v 0x1C 4 != 0) 8 0x1C).orElse fun _ =>
  (bad (decide (slabLen v < 64 + 4 * slabBlocks v) || decide (65536 < slabLen v)) 7 0xC).orElse fun _ =>
  (bad (slabByte v 3 % 128 != fmt) 3 3).orElse fun _ =>
  (bad (slabByte v 5 % 4 + 1 != t.h / 64 || slabByte v 5 / 4 % 4 + 1 != t.w / 64) 4 5).orElse fun _ =>
  (bad (slabFirst v != next || slabBands v == 0 || decide (64 < slabBands v) || decide (t.bands < bands) ||
        (last && bands != t.bands)) 5 6).orElse fun _ =>
  bad ((slabPresent t v).length != popNat 256 (slabBitmap v) || popNat 256 (slabBitmap v) != slabBlocks v) 6 0x20

/-! ## Blocks (R112-R114) -/

/-- Element part of a block image in bytes, and its side part. -/
def Shape.elemPart (t : Shape) : Nat := 64 * t.band * t.eb / 8
def Shape.sidePart (t : Shape) : Nat := (if t.mx then 64 else 0) + (if t.sparse = 0 then 0 else 32 * t.band)

/-- Lengths of the strands of a prefix-coded block at offset `o`. -/
def strandLens (t : Shape) (v o : Nat) : List Nat :=
  (List.range (t.elemPart / 64)).map (fun i => slabByte v (o + t.sidePart + i))

def sumList (xs : List Nat) : Nat := xs.foldl (· + ·) 0

/-- Stored length of a block (R113). -/
def storedLen (t : Shape) (v o enc : Nat) : Nat :=
  match enc with
  | 0 => t.sidePart + t.elemPart
  | 1 => t.sidePart + t.elemPart / 64 + sumList (strandLens t v o)
  | 2 => t.sidePart + t.elemPart / 8 + popNat t.elemPart (v >>> (8 * (o + t.sidePart)))
  | _ => t.sidePart + 1

/-- Index entry `i`. -/
def slabEntry (v i : Nat) : Nat := slabField v (0x40 + 4 * i) 4
def entryOff (e : Nat) : Nat := e / 65536
def entryEnc (e : Nat) : Nat := e % 4

/-- The checks of the index table in step 2 of R121: first offset and order, and the reserved bits. R121 gives the reserved
bits (DETAIL 6) no place in its order: here they are tested before the offset of their entry, and the whole table before any
block (log entry 68, DESIGN CHOICE). -/
def indexErr (blocks : List Nat) (v : Nat) : Option (Nat × Nat × Nat) :=
  (List.range blocks.length).findSome? (fun i =>
    let e := slabEntry v i
    let o := entryOff e
    let b := blocks.getD i 0
    if e / 4 % 16384 ≠ 0 then some (6, b, 0x40 + 4 * i)
    else if (if i = 0 then o != 64 + 4 * slabBlocks v else decide (o ≤ entryOff (slabEntry v (i - 1)))) then
      some (0, b, 0x40 + 4 * i)
    else none)

/-- Spread the nonzero bytes of a sparse block over its presence map. -/
def spread (v : Nat) (map : Nat) : List Nat → Nat → List Nat
  | [], _ => []
  | i :: t, o =>
    if map >>> i % 2 = 1 then slabByte v o :: spread v map t (o + 1) else 0 :: spread v map t o

/-- Decode strands in order; the failing detail with its offset. -/
def readStrands (table : List (Nat × List Nat)) (v : Nat) : List Nat → Nat → Except (Nat × Nat) (List Nat)
  | [], _ => .ok []
  | l :: t, o =>
    match readSymbols table (slabField v o l) (8 * l) 64 0 with
    | .error d => .error (d, o)
    | .ok xs =>
      match readStrands table v t (o + l) with
      | .error e => .error e
      | .ok ys => .ok (xs ++ ys)

/-- The element bytes of block `i` of a slab, with the block checks of R121 step 2 in their order (and ENC 1 without a table,
R117): the stored length, then the strand lengths. -/
def blockElems (t : Shape) (table : List (Nat × List Nat)) (v i n : Nat) : Except (Nat × Nat) (List Nat) :=
  let e := slabEntry v i
  let o := entryOff e
  let limit := if i + 1 < n then entryOff (slabEntry v (i + 1)) else slabLen v
  let p := o + t.sidePart
  if entryEnc e = 1 ∧ slabUsesTable v = false then .error (5, 0x40 + 4 * i)
  else
    let badStrand := if entryEnc e = 1 then (strandLens t v o).findIdx? (fun l => decide (l < 8) || decide (128 < l)) else none
    if o + storedLen t v o (entryEnc e) ≠ limit then .error (1, o)
    else match badStrand with
      | some j => .error (2, p + j)
      | none =>
      match entryEnc e with
        | 0 => .ok ((List.range t.elemPart).map (fun j => slabByte v (p + j)))
        | 1 => readStrands table v (strandLens t v o) (p + t.elemPart / 64)
        | 2 => .ok (spread v (v >>> (8 * p)) (List.range t.elemPart) (p + t.elemPart / 8))
        | _ => .ok (List.replicate t.elemPart (slabByte v p))

/-- A rebuilt block: its bitmap bit, element bytes as one number, side part as one number, and whether prefix-coded. -/
structure Image where
  block  : Nat
  elems  : Nat
  side   : Nat
  coded  : Bool
  deriving DecidableEq, Repr, Inhabited

def bytesOf (xs : List Nat) : Nat := xs.foldr (fun x acc => x + 256 * acc) 0

/-- Rebuild the blocks of a slab, in decode order: bands decreasing for a front, increasing for a sweep (R120): what was
rebuilt before a block fails, and how it fails. -/
def slabImages (t : Shape) (front : Bool) (table : List (Nat × List Nat)) (run v : Nat) : List Image × Option FeedErr :=
  let present := slabPresent t v
  let per := t.w / 64
  let bands := (List.range (slabBands v)).map (fun b => slabFirst v + b)
  let order := ((if front then bands.reverse else bands).map (fun b =>
    (List.range per).map (fun j => b * per + j))).flatten.filter (fun b => present.contains b)
  match indexErr present v with
  | some (d, b, o) => ([], some { bit := 3, detail := d, block := b, run := run, off := o })
  | none =>
    order.foldl (fun acc b =>
      if acc.2.isSome then acc
      else
        let i := present.idxOf b
        match blockElems t table v i present.length with
        | .error (d, o) => (acc.1, some { bit := 3, detail := d, block := b, run := run, off := o })
        | .ok es =>
          let o := entryOff (slabEntry v i)
          (acc.1 ++ [{ block := b, elems := bytesOf es, side := slabField v o t.sidePart,
                       coded := entryEnc (slabEntry v i) == 1 }], none)) ([], none)

/-- The elements, indexes and scales of rank `r` in a block image (R112): the bottom rank's come first. -/
def Image.rank (t : Shape) (m : Image) (r : Nat) : List Nat × List Nat :=
  let place := t.band - 1 - r % t.band
  (fieldsOf t.eb 64 (m.elems >>> (64 * t.eb * place)),
   if t.sparse = 0 then [] else fieldsOf 4 64 (m.side >>> ((if t.mx then 512 else 0) + 256 * place)))

/-- Working weights of a tile from its block images; absent blocks are zero and flagged (R97). -/
def weightsOfImages (t : Shape) (ms : List Image) : Weights :=
  let per := t.w / 64
  let img := fun (b j : Nat) => ms.find? (fun m => m.block == b * per + j)
  { fmt := t.wfmt, sparse := t.sparse, kpr := t.kpr,
    elem := (List.range t.h).map (fun r => (((List.range per).map (fun j =>
      match img (r / t.band) j with
      | some m => (m.rank t r).1
      | none => List.replicate 64 0)).flatten).map (BitVec.ofNat 16)),
    idx := if t.sparse = 0 then [] else (List.range t.h).map (fun r => (((List.range per).map (fun j =>
      match img (r / t.band) j with
      | some m => (m.rank t r).2
      | none => List.replicate 64 0)).flatten).map (BitVec.ofNat 4)),
    scale := if t.mx then (List.range t.bands).map (fun b => (((List.range per).map (fun j =>
      match img b j with
      | some m => fieldsOf 8 64 m.side
      | none => List.replicate 64 0)).flatten).map (BitVec.ofNat 8)) else [],
    absent := (List.range t.bands).map (fun b => ((List.range per).map (fun j =>
      List.replicate 64 (img b j).isNone)).flatten) }

/-! ## A run of slabs (R116, R117, R120, R121) -/

/-- What a feed gives its consumer, with what it counts (R127): the rebuilt blocks, the slabs and their bytes and rows (R109)
read, the bands whose rows were emitted, and the check that ended it. -/
structure Feed where
  images : List Image
  slabs  : Nat
  bytes  : Nat
  rows   : Nat
  bands  : List Nat
  err    : Option FeedErr
  deriving DecidableEq, Repr, Inhabited

def Feed.none : Feed := { images := [], slabs := 0, bytes := 0, rows := 0, bands := [], err := Option.none }

/-- Check a slab's header and its table (R121 step 1, then R117), then rebuild its blocks. -/
def readSlab (t : Shape) (front : Bool) (slot : Nat) (ts : TabSlot) (next : Nat) (last : Bool) (run v : Nat) :
    Feed :=
  match headerErr t next last v with
  | some (d, o) => { Feed.none with err := some { bit := 2, detail := d, block := 0, run := run, off := o } }
  | none =>
    if slabUsesTable v && (slabByte v 4 % 8 != slot || !ts.valid || slabByte v 4 / 16 != ts.gen.toNat) then
      { Feed.none with err := some { bit := 0, detail := 0, block := 0, run := run, off := 4 } }
    else
      let (ms, e) := slabImages t front (if ts.valid then canonical ts.image else []) run v
      let all := (List.range (slabBands v)).map (fun b => slabFirst v + b)
      let per := t.w / 64
      let done := match e with
        | some e => all.filter (fun b => if front then decide (e.block / per < b) else decide (b < e.block / per))
        | none => all
      { images := ms, slabs := if e.isNone then 1 else 0, bytes := if e.isNone then slabLen v else 0,
        rows := (slabLen v + 511) / 512, bands := done, err := e }

/-- The band at which slab `j` of a run must start: band 0, then the previous slab's end (R121). A front reads the last slab
first; of a run that is not continuous R121 does not say which slab is at fault: here it is the later of the two, tested
against the header of the slab before it (log entry 69, DESIGN CHOICE). -/
def runStart (slabs : List Nat) (j : Nat) : Nat :=
  if j = 0 then 0 else let v := slabs.getD (j - 1) 0; slabFirst v + slabBands v

/-- Two feeds, one after the other. -/
def Feed.then (a b : Feed) : Feed :=
  { images := a.images ++ b.images, slabs := a.slabs + b.slabs, bytes := a.bytes + b.bytes, rows := a.rows + b.rows,
    bands := a.bands ++ b.bands, err := b.err }

/-- Rebuild a run of slabs. A front starts with the last slab of the run, a sweep with the first (R120). The first failing
check ends the feed. -/
def readRun (t : Shape) (front : Bool) (slot : Nat) (ts : TabSlot) (slabs : List Nat) : Feed :=
  let n := slabs.length
  let order := if front then (List.range n).reverse else List.range n
  order.foldl (fun (acc : Feed) j =>
    if acc.err.isSome then acc
    else acc.then (readSlab t front slot ts (runStart slabs j) (j + 1 == n) j (slabs.getD j 0))) Feed.none

/-- Rows of one slab slot (R109). -/
def slabRows : Nat := 128

/-- The slabs that an operand's rows hold. -/
def slabsOf (rows : List Row) : List Nat := (chunksOf slabRows (rows.length / slabRows) rows).map rowsNat

/-- Bytes of the rows that a feed emitted: the rank rows of its bands, but for a sweep those of bands that are absent in every
column, which it skips (R97). -/
def Feed.emitted (f : Feed) (t : Shape) (skips : Bool) : Nat :=
  sumList ((List.range t.h).map (fun r =>
    if f.bands.contains (r / t.band) && !(skips && !(f.images.any (fun m => m.block / (t.w / 64) == r / t.band)))
    then t.rowBits r else 0)) / 8

/-- Count what a feed read and emitted (R127), and the rows that it read (R109, R152): also one that a check ended. -/
def State.countFeed (s : State) (n : Nat) (f : Feed) (t : Shape) (skips : Bool) : State :=
  let p := corePage n kEXP
  let coded := (f.images.filter (fun m => m.coded)).length
  let absent := f.bands.length * (t.w / 64) - (f.images.filter (fun m => f.bands.contains (m.block / (t.w / 64)))).length
  (((((s.count p 0x100 f.slabs).count p 0x108 f.bytes).count p 0x110 (f.emitted t skips)).count p 0x118 coded).count p 0x120
    absent).countRows n f.rows 0

/-! ## Table slots (R116) -/

def Exp.slot (x : Exp) (i : Nat) : TabSlot := x.slots.get tabDefault i

def State.modExp (s : State) (n : Nat) (f : Exp → Exp) : State := s.modCore n (fun c => { c with exp := f c.exp })

def Exp.modSlot (x : Exp) (i : Nat) (f : TabSlot → TabSlot) : Exp := { x with slots := x.slots.set tabDefault i (f (x.slot i)) }

/-- The table slot that a consumer names; a replayable one holds it until its boundary (R116). -/
def EngCmd.tableSlot (c : EngCmd) : Option Nat :=
  match c.op with
  | .pass x => if x.wsrc = 1 ∧ (c.stage = .queued ∨ x.replay = true) then some x.tslot else none
  | .sweep x => if x.stream = false ∧ (c.stage = .queued ∨ x.replay = true) then some x.tslot else none
  | _ => none

def EngCmd.loadsSlot (c : EngCmd) : Option Nat :=
  match c.op with
  | .tload slot _ _ => some slot
  | _ => none

/-- A load of this slot issued before the command has not finished. -/
def Core.loadAhead (k : Core) (c : EngCmd) (slot : Nat) : Bool :=
  k.inflight.any (fun d => decide (d.id < c.id) && d.loadsSlot == some slot)

/-- A consumer of the slot issued before the command holds a reference. -/
def Core.consumerAhead (k : Core) (c : EngCmd) (slot : Nat) : Bool :=
  k.inflight.any (fun d => decide (d.id < c.id) && d.tableSlot == some slot)

/-- The load waits for references of its slot, or is loading: loads of other slots go past it (R116). -/
def Core.loadParked (k : Core) (c : EngCmd) : Bool :=
  c.stage == .started || (match c.loadsSlot with
    | some slot => k.spm.waitMet c.wait && k.rowsFree c && k.consumerAhead c slot
    | none => false)

/-- A table load may start: its wait is met, its row is free, no load of its slot is ahead of it, and those of other slots
ahead of it are parked (R116). -/
def Core.loadReady (k : Core) (c : EngCmd) (slot : Nat) : Bool :=
  c.stage == .queued && k.spm.waitMet c.wait && k.rowsFree c && !k.loadAhead c slot &&
    ((k.queueOf .expander).filter (fun d => decide (d.id < c.id) && d.op != .signalOnly)).all k.loadParked

/-- EXP_SLOTs_REFS (R128): consumers that hold a reference. -/
def Core.refs (k : Core) (slot : Nat) : Nat :=
  (k.inflight.filter (fun d => d.tableSlot == some slot && !k.loadAhead d slot)).length

/-! ## TLOAD -/

def captureTload (w : BitVec 128) (k : Core) : Capture :=
  let (r, m) := resolve k.seq k.spm .expander (cw w 1) 1 none
  { req := .expander, op := .tload (cf w 0 18 16) (cf w 0 23 20) r.opnd, ops := [r], spm := m, seqErr := none,
    dmR := [], dmW := [] }

/-- A table load waits for the slot's references, then reads its row and checks it (R115, R116). A failing image raises
TABLE_BAD and leaves the slot as it was. -/
def performTload (n : Nat) (s : State) (c : EngCmd) : State :=
  let k := s.core n
  match c.op with
  | .tload slot gen o =>
    if !k.loadReady c slot || k.raceHeld s.free c then s
    else if !k.spm.fullFor o then s.count (corePage n kEXP) 0x138 1
    else if k.consumerAhead c slot then s.count (corePage n kEXP) 0x140 1
    else
      let img := (s.readFor n c o).headD 0
      let s := ((s.countRows n 1 0).releaseFor n o).spendRace c
      if tableOk img then
        (s.markStage n c.id .started).modExp n (fun x => x.modSlot slot (fun t =>
          { t with loading := some (BitVec.ofNat 4 gen, img, BitVec.ofNat 15 (o.rows.headD 0)) }))
      else
        (s.modCore n (fun k => { k with inflight := k.inflight.filter (fun d => d.id != c.id) })).raiseFault n kEXP 1
          (word (0x10000 + slot * 256 + 31)) 0
  | _ => s

def execTload (n : CoreId) (s : State) : Host.Outcome State Fault Refusal :=
  .next (s.engineCommand n.val (isOp 0x40) (fun _ w => badOperand (cw w 1)) (fun _ => .expander) captureTload id
    (performTload n.val))

/-- A load ends: the slot is valid with the new image and generation, its source row is known, and the command completes
(R116, R128). -/
def execTableLoadDone (n : CoreId) (slot : Fin 8) (s : State) : Host.Outcome State Fault Refusal :=
  let k := s.core n.val
  match (k.exp.slot slot.val).loading, k.inflight.find? (fun d => d.stage == .started && d.loadsSlot == some slot.val) with
  | some (g, img, row), some c =>
    .next ((((s.modExp n.val (fun x => x.modSlot slot.val (fun t =>
      { t with valid := true, gen := g, image := img, loads := t.loads + 1, source := row, loading := none }))).count
        (corePage n.val kEXP) 0x128 1)).complete n.val c)
  | _, _ => .next s

end Sys2Proof.Machine
end

