-- ==== Sys2Proof/Machine/Flags.lean ====
section
/-!
DEFINITION. The tests and operations of the sequencer's ALU and CMP commands (R168). The part has no flag register: a
test writes a predicate.
-/
namespace Sys2Proof.Machine

/-- ALU operations, modulo 2^64; shifts take the low 6 bits of the second operand. -/
def aluOp (op : Nat) (a b : Word64) : Word64 :=
  let k := b.toNat % 64
  match op with
  | 0 => a + b
  | 1 => a - b
  | 2 => a &&& b
  | 3 => a ||| b
  | 4 => a ^^^ b
  | 5 => a <<< k
  | 6 => a >>> k
  | 7 => a.sshiftRight k
  | 8 => a * b
  | 9 => if a.slt b then a else b
  | 10 => if a.slt b then b else a
  | 11 => if a.ult b then a else b
  | _ => if a.ult b then b else a

/-- CMP conditions; 6 and 7 test bit (second operand mod 64) of the first. -/
def cmpTest (cond : Nat) (a b : Word64) : Bool :=
  match cond with
  | 0 => a == b
  | 1 => a != b
  | 2 => a.slt b
  | 3 => !a.slt b
  | 4 => a.ult b
  | 5 => !a.ult b
  | 6 => a.getLsbD (b.toNat % 64)
  | _ => !a.getLsbD (b.toNat % 64)

end Sys2Proof.Machine
end

