-- ==== Sys2Proof/Machine/Sequencer.lean ====
section
/-!
DEFINITION. The sequencer's own commands (R168, R172-R176).
-/
namespace Sys2Proof.Machine

abbrev Result := Host.Outcome State Fault Refusal

def noBad (_ : Core) (_ : BitVec 128) : Bool := false

/-- NOP: nothing; it takes a sync word, so it waits and signals at issue. -/
def execNop (n : CoreId) (s : State) : Result :=
  .next (s.issue n.val (isOp 0x00) noBad
    (fun w s => (s.signalNow n.val (syncSignal w)).passOff n.val)
    (fun w s =>
      let k := s.core n.val
      let wt := syncWait k.seq w
      if k.spm.waitMet wt then
        ((s.modSpm n.val (fun m => m.orderAfter wt none)).signalNow n.val (syncSignal w)).advance n.val
      else (s.count (corePage n.val kSEQ) 0x128 1).count (corePage n.val kSPM) 0x128 1))

/-- END (R176): with a switch armed, issue goes on at command 0 of the other bank, or waits for a loading bank, or raises
BANK_EMPTY; otherwise the program ends and drains. The loop stack is cleared. -/
def endCommand (s : State) (n : Nat) : State :=
  let q := (s.core n).seq
  let other := q.progBank (!q.bank)
  let counted := (s.noteIssue n).count (corePage n kSEQ) 0x100 1
  if !q.armed then counted.modSeq n (fun q => { q with loops := [], run := .draining })
  else match other.state with
    | .loading => s.count (corePage n kSEQ) 0x120 1
    | .valid =>
      counted.modSeq n (fun q =>
        let set := fun (b : Bool) (st : BankState) (q : Seq) =>
          if b then { q with bank1 := { q.bank1 with state := st } } else { q with bank0 := { q.bank0 with state := st } }
        let q' := set (!q.bank) .executing (set q.bank .valid q)
        { q' with loops := [], armed := false, bank := !q.bank, pc := 0 })
    | .empty | .executing => (counted.modSeq n (fun q => { q with loops := [] })).seqFault n 7

def execEndProg (n : CoreId) (s : State) : Result :=
  .next (s.issue n.val (isOp 0x01) noBad (fun _ s => s.passOff n.val) (fun _ s => endCommand s n.val))

/-- SWITCH arms a bank switch for the next END (R176). -/
def execSwitchBank (n : CoreId) (s : State) : Result :=
  .next (s.seqCommand n.val 0x02 noBad (fun _ q => { q with armed := true }))

/-- The engine mask of FENCE: does it name a requester? (R168) -/
def fenceCovers (w : BitVec 128) (r : Requester) : Bool :=
  let m := cf w 0 23 16
  let on := fun i => (m >>> i) % 2 == 1
  let named := fun (f : Nat) (i : Nat) => f == 0 || (f >>> i) % 2 == 1
  match r with
  | .part p => on 0 && named (cf w 1 15 0) p.val
  | .accPort => on 0
  | .schuss => on 1
  | .row => on 2
  | .expander => on 3
  | .ctx c => on 4 && named (cf w 1 31 16) c.val
  | .lift => on 5
  | .traverse => on 6
  | .rowPath => on 7
  | .release => false

/-- FENCE holds issue until the named earlier commands complete, then signals; it orders every later read after the
writes it covers (R140, R168). -/
def execFence (n : CoreId) (s : State) : Result :=
  .next (s.issue n.val (isOp 0x03) noBad
    (fun w s => (s.signalNow n.val (syncSignal w)).passOff n.val)
    (fun w s =>
      let k := s.core n.val
      let wt := syncWait k.seq w
      if !k.spm.waitMet wt then (s.count (corePage n.val kSEQ) 0x128 1).count (corePage n.val kSPM) 0x128 1
      else if k.inflight.any (fun d => fenceCovers w d.req) then s.count (corePage n.val kSEQ) 0x128 1
      else
        let s := s.modSpm n.val (fun m =>
          let m := m.orderAfter wt none
          { m with window := m.window.map (fun e => if fenceCovers w e.req then { e with rows := [] } else e) })
        (s.signalNow n.val (syncSignal w)).advance n.val))

/-- LI: gd takes the 64-bit immediate. -/
def execLi (n : CoreId) (s : State) : Result :=
  .next (s.seqCommand n.val 0x08 noBad (fun w q => q.setReg (cf w 0 20 16) (BitVec.ofNat 64 (cf w 1 31 0 + cf w 2 31 0 * 2 ^ 32))))

/-- The second operand of ALU and CMP: gb, or the sign-extended immediate. -/
def secondOperand (w : BitVec 128) (q : Seq) : Word64 :=
  if cf w 0 31 31 = 1 then (cw w 1).signExtend 64 else q.reg (cf w 0 30 26)

def execAlu (n : CoreId) (s : State) : Result :=
  .next (s.seqCommand n.val 0x09 (fun _ w => decide (12 < cf w 2 3 0))
    (fun w q => q.setReg (cf w 0 20 16) (aluOp (cf w 2 3 0) (q.reg (cf w 0 25 21)) (secondOperand w q))))

/-- CMP: pd takes the test, or pd AND or OR the test; pd = 0, COMBINE = 3 and reserved conditions are bad. -/
def execCmp (n : CoreId) (s : State) : Result :=
  .next (s.seqCommand n.val 0x0A
    (fun _ w => decide (7 < cf w 2 3 0) || decide (cf w 2 5 4 = 3) || decide (cf w 0 18 16 = 0))
    (fun w q =>
      let t := cmpTest (cf w 2 3 0) (q.reg (cf w 0 25 21)) (secondOperand w q)
      let p := cf w 0 18 16
      let old := q.preds.getLsbD p
      let v := match cf w 2 5 4 with
        | 0 => t
        | 1 => old && t
        | _ => old || t
      { q with preds := if v then q.preds ||| (1#8 <<< p) else q.preds &&& ~~~(1#8 <<< p) }))

/-- MOVA, by FORM. -/
def execMova (n : CoreId) (s : State) : Result :=
  .next (s.seqCommand n.val 0x0B noBad (fun w q =>
    let a := cf w 0 19 16
    let g := cf w 0 25 21
    match cf w 0 27 26 with
    | 0 => q.setAreg a (lo32 (q.reg g))
    | 1 => q.setReg g ((q.areg a).setWidth 64)
    | 2 => q.setAreg a (q.areg a + cw w 1)
    | _ => q.setAreg a (cw w 1)))

def execSetlc (n : CoreId) (s : State) : Result :=
  .next (s.seqCommand n.val 0x0C noBad (fun w q =>
    let v := if cf w 0 31 31 = 1 then cw w 1 else lo32 (q.reg (cf w 0 25 21))
    { q with lc := q.lc.set wordZero (cf w 0 17 16) v }))

/-- LIDX: the iteration index of the active loop on lc, or 0. -/
def execLidx (n : CoreId) (s : State) : Result :=
  .next (s.seqCommand n.val 0x0D noBad (fun w q =>
    let v := match q.loops.find? (fun f => f.lc.val == cf w 0 22 21) with
      | some f => f.index
      | none => 0
    q.setReg (cf w 0 20 16) (v.setWidth 64)))

/-- The data-memory address of LD and ST. -/
def ldstAddr (w : BitVec 128) (q : Seq) : Nat := ((q.reg (cf w 0 25 21)).toNat + cf w 1 15 0) % 65536

/-- The command reads general register `r` in its own fields: ALU and CMP a source, MOVA, SETLC, LD and ST their address and
data, CALL its argument registers (R168, R177). -/
def fieldReads (w : BitVec 128) (r : Nat) : Bool :=
  let src := cf w 0 25 21 == r
  match opcodeOf w with
  | 0x09 | 0x0A => src || (cf w 0 31 31 == 0 && cf w 0 30 26 == r)
  | 0x0B => src && cf w 0 27 26 == 0
  | 0x0C => src && cf w 0 31 31 == 0
  | 0x0E => src
  | 0x0F => src || cf w 0 20 16 == r
  | 0x49 => decide (8 ≤ r) && decide (r ≤ 15)
  | _ => false

/-- Engine commands that take E, from g16 to g31, and those that take E+1 (R164, R169-R171). -/
def extReads (w : BitVec 128) (r : Nat) : Bool :=
  let op := opcodeOf w
  let e := (op == 0x31 && (cf w 2 21 20 != 0 || cf w 2 29 29 == 1)) ||
    [0x32, 0x39, 0x3A, 0x48, 0x50, 0x58, 0x5A, 0x60, 0x61].contains op
  let e1 := (op == 0x31 && cf w 2 30 30 == 1) || [0x32, 0x3A, 0x58].contains op
  (e && 16 + cf w 0 15 12 == r) || (e1 && 16 + (cf w 0 15 12 + 1) % 16 == r)

/-- The command reads register `r`, its wait's target included (R164). -/
def readsReg (w : BitVec 128) (r : Nat) : Bool :=
  r != 0 && (fieldReads w r || extReads w r || (((cmdMask (opcodeOf w)).map (·.2.2.2)).getD false && cf w 3 28 24 == r))

/-- An LD's result is usable two steps after it issues: where the command that follows takes it, its issue waits one step,
which counts (R160, R181; log entry 66, DEDUCED). -/
def State.ldStall (s : State) (n r : Nat) : State :=
  let q := (s.core n).seq
  if q.predOn q.fetch && readsReg q.fetch r then s.count (corePage n kSEQ) 0x120 1 else s

/-- LD waits for every earlier command that writes any of its 8 bytes (R163). -/
def execLd (n : CoreId) (s : State) : Result :=
  .next (s.issue n.val (isOp 0x0E) noBad (fun _ s => s.passOff n.val)
    (fun w s =>
      let k := s.core n.val
      let a := ldstAddr w k.seq
      if a % 8 ≠ 0 then s.seqFault n.val 5
      else if k.inflight.any (fun d => d.dmW.any (dmMeet (a, 8))) then s.count (corePage n.val kSEQ) 0x130 1
      else ((s.modSeq n.val (fun q =>
        q.setReg (cf w 0 20 16) (BitVec.ofNat 64 (dmRead q.dmem a 8)))).advance n.val).ldStall n.val (cf w 0 20 16)))

/-- ST waits for every earlier command that reads or writes any of its 8 bytes (R163). -/
def execSt (n : CoreId) (s : State) : Result :=
  .next (s.issue n.val (isOp 0x0F) noBad (fun _ s => s.passOff n.val)
    (fun w s =>
      let k := s.core n.val
      let a := ldstAddr w k.seq
      if a % 8 ≠ 0 then s.seqFault n.val 5
      else if k.inflight.any (fun d => d.dmW.any (dmMeet (a, 8)) || d.dmR.any (dmMeet (a, 8))) then
        s.count (corePage n.val kSEQ) 0x130 1
      else (s.modSeq n.val (fun q =>
        { q with dmem := dmWrite q.dmem a 8 (q.reg (cf w 0 20 16)).toNat })).advance n.val))

/-- LOOP (R172, R173): the checks, then the body, or the command after END_PC where the count is 0. -/
def execLoop (n : CoreId) (s : State) : Result :=
  .next (s.issue n.val (isOp 0x10) noBad
    (fun w s => (s.count (corePage n.val kSEQ) 0x108 1).advanceFrom n.val (cf w 1 12 0))
    (fun w s =>
      let q := (s.core n.val).seq
      let e := cf w 1 12 0
      let k := cf w 0 17 16
      if decide (e ≤ q.pc) || q.loops.any (fun f => decide (f.endPc < e)) then s.seqFault n.val 2
      else if 4 ≤ q.loops.length then s.seqFault n.val 3
      else if q.loops.any (fun f => f.lc.val == k) then s.seqFault n.val 4
      else if q.lctr k = 0 then s.advanceFrom n.val e
      else
        let f : LoopFrame := { lc := Fin.ofNat 4 k, endPc := e, count := q.lctr k, index := 0, start := q.pc + 1 }
        (((s.noteIssue n.val).modSeq n.val (fun q => { q with loops := f :: q.loops, pc := q.pc + 1 })).count
          (corePage n.val kSEQ) 0x100 1).count (corePage n.val kSEQ) 0x110 1))

/-- The watermark rises to a larger round, and every open key begins to close (R327). -/
def Trk.raiseWatermark (t : Trk) (round : BitVec 24) : Trk :=
  if t.watermark < round then { t with watermark := round, closing := t.closing ++ t.openKeys, openKeys := [] } else t

/-- SETRNG sets the generator state and raises the core's watermark (R168, R327). -/
def execSetrng (n : CoreId) (s : State) : Result :=
  .next (s.issue n.val (isOp 0x11) noBad (fun _ s => s.passOff n.val)
    (fun w s =>
      let round := BitVec.ofNat 24 (cf w 1 31 16 + cf w 2 23 16 * 65536)
      (s.modCore n.val (fun c => { c with
        seq := { c.seq with round := round, tile := BitVec.ofNat 16 (cf w 1 15 0), layer := BitVec.ofNat 16 (cf w 2 15 0) },
        trk := c.trk.raiseWatermark round })).advance n.val))

end Sys2Proof.Machine
end

