-- ==== Sys2Proof/Machine/Tracks.lean ====
section
/-!
DEFINITION. Tracked drains (R326, R327): the term of an element, the keys of a core, and what a tracked drain does at
issue and when it completes.
-/
namespace Sys2Proof.Machine

/-- The term of a tracked element (R326). -/
def trackTerm (i : Word64) (fmt : Nat) (tile : BitVec 16) (bits : Nat) : Word64 :=
  let y : Word64 := BitVec.ofNat 64 (fmt * 2 ^ 56 + tile.toNat * 2 ^ 40) ||| BitVec.ofNat 64 bits
  let x := i * 0x9E3779B97F4A7C15 + y + 1
  let z := (x ^^^ (x >>> 31)) * 0xBF58476D1CE4E5B9
  z ^^^ (z >>> 29)

def Key.is (k : Key) (round : BitVec 24) (layer : BitVec 16) : Bool := k.round == round && k.layer == layer

/-- TRACK_LATE and TRACK_FULL at issue (R327). -/
def Trk.check (t : Trk) (round : BitVec 24) (layer : BitVec 16) : Option Nat :=
  if round < t.watermark then some 0
  else if decide (64 ≤ t.openKeys.length) && !(t.openKeys.any (fun k => k.is round layer)) then some 1
  else none

/-- A tracked drain issues with its key, which opens if it was not open. -/
def Trk.openKey (t : Trk) (round : BitVec 24) (layer : BitVec 16) : Trk :=
  if t.openKeys.any (fun k => k.is round layer) then
    { t with openKeys := t.openKeys.map (fun k => if k.is round layer then { k with pending := k.pending + 1 } else k) }
  else
    { t with openKeys := t.openKeys ++ [{ round := round, layer := layer, sum := 0, count := 0, pending := 1 }] }

/-- A tracked drain completes: its partial joins its key's sum and count. -/
def Trk.addPartial (t : Trk) (round : BitVec 24) (layer : BitVec 16) (sum : Word64) (count : Nat) : Trk :=
  let f := fun (k : Key) =>
    if k.is round layer then { k with sum := k.sum + sum, count := k.count + BitVec.ofNat 64 count, pending := k.pending - 1 }
    else k
  { t with openKeys := t.openKeys.map f, closing := t.closing.map f }

/-- Entries of the track ring (R338). -/
def trackRing : Nat := 0x8000

/-- The drain would close its key, which needs a ring entry that the full ring does not have (R327). -/
def Trk.ringBlocks (t : Trk) (round : BitVec 24) (layer : BitVec 16) : Bool :=
  decide (trackRing ≤ t.ring.length) && t.closing.any (fun k => k.is round layer && k.pending == 1)

def State.jobTracks (s : State) (n : Nat) : Bool :=
  match s.coreJob n with
  | some j => j.tracks
  | none => false

/-- The gate of a tracked drain at issue: TRACK_LATE or TRACK_FULL faults the job (R327, R337). -/
def State.trackGate (n opcode : Nat) (s : State) : Option State :=
  if s.jobTracks n then
    let k := s.core n
    let q := k.seq
    (k.trk.check q.round q.layer).map (fun b =>
      s.raiseFault n kTRK b (cause b q.layer.toNat)
        (word (q.round.toNat / 65536 * 2 ^ 24 + opcode * 65536 + q.round.toNat % 65536)))
  else none

/-- A tracked drain has issued: it carries its key (R326). -/
def State.trackIssued (n : Nat) (s : State) (c : EngCmd) : State :=
  if s.jobTracks n then
    s.modCore n (fun k =>
      { k.updateCmd c.id (fun d => { d with tracked := true }) with trk := k.trk.openKey c.round c.layer })
  else s

/-- The sum that a drain adds: element by element, the tensor index and the bits written. -/
def trackSum (fmt : Nat) (tile : BitVec 16) (xs : List (Word64 × Nat)) : Word64 :=
  xs.foldl (fun acc x => acc + trackTerm x.1 fmt tile x.2) 0

/-- A tracked drain has converted its elements (R326). -/
def State.trackDrain (s : State) (n : Nat) (c : EngCmd) (fmt : Nat) (xs : List (Word64 × Nat)) : State :=
  if c.tracked then
    let s := s.modCore n (fun k =>
      { k with trk := k.trk.addPartial c.round c.layer (trackSum fmt c.tile xs) xs.length })
    (s.count (corePage n kTRK) 0x100 1).count (corePage n kTRK) 0x108 xs.length
  else s

end Sys2Proof.Machine
end

