-- ==== Sys2Proof/Machine/Array.lean ====
section
/-!
DEFINITION. The matrix array (R48-R72, R88-R99): partitions, passes from issue to boundary, replays, drains and fills.
A pass computes its working words when it starts and commits them at its boundary (log entry 1, DESIGN CHOICE).
-/
namespace Sys2Proof.Machine

/-! ## Partitions (R59, R60) -/

def Arr.part (a : Arr) (p : Nat) : Part := a.parts.get partDefault p

def State.modArr (s : State) (n : Nat) (f : Arr → Arr) : State := s.modCore n (fun c => { c with arr := f c.arr })

def State.modPart (s : State) (n p : Nat) (f : Part → Part) : State :=
  s.modArr n (fun a => { a with parts := a.parts.set partDefault p (f (a.part p)) })

/-- The squares that a PART command gives partition `p`. -/
def partSquares (w : BitVec 128) (p : Nat) : List Nat :=
  (List.range 16).filter (fun q => cf w 0 31 16 >>> q % 2 == 1 &&
    (if q < 8 then cf w 1 31 0 >>> (4 * q) else cf w 2 31 0 >>> (4 * (q - 8))) % 16 == p)

/-- The rectangle that a set of squares is (R59), if it is one. -/
def rectangle (qs : List Nat) : Option Geom :=
  match qs with
  | [] => none
  | t :: _ =>
    let last := qs.getLastD t
    let h := last / 4 - t / 4 + 1
    let w := last % 4 - t % 4 + 1
    let all := ((List.range h).map (fun i => (List.range w).map (fun j => t + 4 * i + j))).flatten
    if t % 4 ≤ last % 4 ∧ qs = all then some { top := Fin.ofNat 16 t, h := h, w := w } else none

def Geom.ranks (g : Geom) : Nat := 64 * g.h
def Geom.files (g : Geom) : Nat := 64 * g.w
/-- First file of the partition, as a column of the accumulator (R52). -/
def Geom.col (g : Geom) : Nat := 64 * (g.top.val % 4)

def Geom.squares (g : Geom) : List Nat :=
  ((List.range g.h).map (fun i => (List.range g.w).map (fun j => g.top.val + 4 * i + j))).flatten

/-- INFO0 of an ARR event (R69). -/
def arrInfo (step source bitNo p : Nat) : Word := word (step * 65536 + source * 8192 + bitNo * 256 + p)

/-- Passes of a partition that have not started. -/
def EngCmd.queuedPass (c : EngCmd) (p : Nat) : Bool := c.stage == .queued && c.req == .part (Fin.ofNat 16 p)

/-- A program-class fault or a replay that is not allowed stops the partition (R63, R65): its queued passes and those
awaiting replay never start, and its weights are invalid. -/
def State.stopPartition (s : State) (n p source bitNo : Nat) : State :=
  let waits := ((s.core n).arr.part p).aborted
  (s.modPart n p (fun x =>
    { x with stopped := true, fault := word (source * 8192 + bitNo * 256), weights := none, aborted := [] })).modCore n
    (fun k => { k with inflight := k.inflight.filter (fun d => !(d.queuedPass p || waits.contains d.id)) })

/-- PART (R59, R60): the partitions whose squares change take their new geometry, the others carry on. A set of squares
that is no rectangle raises PART_SHAPE and the old geometry stays. Of several such sets the rules do not say which is
reported: it is that of the lowest partition, with its latest pass number (log entry 71, DESIGN CHOICE). -/
def execPart (n : CoreId) (s : State) : Host.Outcome State Fault Refusal :=
  .next (s.heldCommand n.val 0x30 noBad (fun w s =>
    match (List.range 16).find? (fun p => !(partSquares w p).isEmpty && (rectangle (partSquares w p)).isNone) with
    | some p => (s.raiseFault n.val kARR 3 (arrInfo 0 0 3 p) ((s.core n.val).arr.part p).seq).stopPartition n.val p 0 3
    | none =>
      let set := fun (s : State) (p : Nat) =>
        let g := rectangle (partSquares w p)
        s.modPart n.val p (fun x => if x.geom = g then x else { x with geom := g, fresh := true, lastLoad := none })
      let s := (List.range 16).foldl set s
      (s.signalNow n.val (syncSignal w)).advance n.val))

/-! ## Issue of a pass (R170) -/

/-- The tile of a pass, if its partition is defined. -/
def PassP.shape (x : PassP) : Option (Shape × Geom) :=
  x.geom.map (fun g => ({ wfmt := x.wfmt, afmt := x.afmt, sparse := x.sparse, h := g.ranks, w := g.files }, g))

/-- What a PASS captures. Its rows follow from the geometry in force at its place in program order. -/
def capturePass (w : BitVec 128) (k : Core) : Capture :=
  let e := k.seq.ext w
  let e1 := k.seq.ext1 w
  let p := cf w 0 19 16
  let wf := cf w 0 23 20
  let af := cf w 0 27 24
  let sp := cf w 0 29 28
  let cnt := cf w 2 9 0
  let wsrc := cf w 2 21 20
  let part := k.arr.part p
  let t : Shape := { wfmt := wf, afmt := af, sparse := sp, h := (part.geom.map Geom.ranks).getD 0,
                     w := (part.geom.map Geom.files).getD 0 }
  let ok := part.geom.isSome && pairOk wf af sp
  let (a, m) := resolve k.seq k.spm .act (cw w 1) (if ok then tensorRows af (cnt * t.h * t.kpr) else 0) (elemOf af)
  let (b, m) :=
    if wsrc = 1 then resolve k.seq m .expander (lo32 e) (if ok then slabRows * (cf w 2 28 25 + 1) else 0) none
    else if wsrc = 2 then resolve k.seq m .weight (lo32 e) (if ok then t.portRows else 0) (plainElem wf)
    else resolve k.seq m .weight 0 0 none
  let preload := cf w 2 29 29 = 1
  let (c, m) := if preload then resolve k.seq m .sum (hi32 e) ((t.w + 127) / 128) none else resolve k.seq m .sum 0 0 none
  let mask := cf w 2 30 30 = 1
  let (d, m) := if mask then resolve k.seq m .mask (lo32 e1) 1 none else resolve k.seq m .mask 0 0 none
  let ops := [a] ++ (if wsrc = 0 then [] else [b]) ++ (if preload then [c] else []) ++ (if mask then [d] else [])
  { req := .part (Fin.ofNat 16 p),
    op := .pass { p := Fin.ofNat 16 p, geom := part.geom, fresh := part.fresh, wfmt := wf, afmt := af, sparse := sp,
                  add := cf w 0 30 30 == 1, replay := cf w 0 31 31 == 1, n := cnt, accBase := cf w 2 14 10,
                  accRows := cf w 2 19 15 + 1, wsrc := wsrc, tslot := cf w 2 24 22, slabs := cf w 2 28 25 + 1,
                  act := a.opnd, wts := b.opnd, pre := if preload then some c.opnd else none,
                  mask := if mask then some (d.opnd, bits e1 34 32) else none,
                  load := if wsrc = 0 then part.lastLoad else none },
    ops := ops, spm := m, seqErr := none, dmR := [], dmW := [] }

/-- Reserved values of a PASS (R170). -/
def badPass (k : Core) (w : BitVec 128) : Bool :=
  badOperand (cw w 1) || decide (512 < cf w 2 9 0) || cf w 0 29 28 == 3 || cf w 2 21 20 == 3 ||
    (cf w 2 21 20 != 0 && badOperand (lo32 (k.seq.ext w))) ||
    (cf w 2 29 29 == 1 && badOperand (hi32 (k.seq.ext w))) || (cf w 2 30 30 == 1 && badOperand (lo32 (k.seq.ext1 w)))

/-- A bank collision on a port that the pass uses (R63). -/
def passCollision (n : Nat) (s : State) : State :=
  let p := cf (s.core n).seq.fetch 0 19 16
  (s.stopPartition n p 1 1).count (corePage n kARR) 0x130 1

/-- PASS: queued on its partition; the first of a new geometry is marked (R58), and the last that loads weights is known (R64). -/
def execPass (n : CoreId) (s : State) : Host.Outcome State Fault Refusal :=
  .next (s.engineCommand n.val (isOp 0x31) badPass (fun w => .part (Fin.ofNat 16 (cf w 0 19 16))) capturePass
    (passCollision n.val)
    (fun s c => match c.op with
      | .pass x => s.modPart n.val x.p.val (fun q =>
        { q with fresh := false, lastLoad := if x.wsrc = 0 then q.lastLoad else some c.id })
      | _ => s))

/-! ## Entries (R52, R53) -/

/-- Key of an accumulator entry. -/
def accKey (row slot file : Nat) : Nat := (row * 16 + slot) * 256 + file

def Arr.entry (a : Arr) (k : Nat) : Word := a.acc.get wordZero k

/-- Rows and files of a command's accumulator region: first row, rows, first file, files. -/
def EngCmd.region (c : EngCmd) : Option (Nat × Nat × Nat × Nat) :=
  match c.op with
  | .pass x => x.geom.map (fun g => (x.accBase, x.accRows, g.col, g.files))
  | .drain x => some (x.base, x.rows, x.file0, x.files)
  | .fill x => some (x.base, x.rows, x.file0, x.files)
  | _ => none

def overlap (a n b m : Nat) : Bool := decide (a < b + m) && decide (b < a + n)

def shareEntry (x y : Option (Nat × Nat × Nat × Nat)) : Bool :=
  match x, y with
  | some (r, n, f, m), some (r', n', f', m') => overlap r n r' n' && overlap f m f' m'
  | _, _ => false

def EngCmd.isPass (c : EngCmd) : Bool := match c.op with | .pass _ => true | _ => false
def EngCmd.isDrain (c : EngCmd) : Bool := match c.op with | .drain _ => true | _ => false
def EngCmd.isFill (c : EngCmd) : Bool := match c.op with | .fill _ => true | _ => false

/-- Started passes of a partition whose region shares an entry with the command's. -/
def Core.sharing (k : Core) (p : Nat) (c : EngCmd) : List Running :=
  ((k.arr.part p).running).filter (fun r => !r.working.isEmpty &&
    (match k.command r.cmd with
     | some d => shareEntry d.region c.region
     | none => false))

/-- Another partition's region still holds working words in an entry of the pass's region (R53). -/
def Core.accOverlap (k : Core) (p : Nat) (c : EngCmd) : Bool :=
  (List.range 16).any (fun q => q != p && !(k.sharing q c).isEmpty)

/-- The newest earlier value of an entry: a working word of an earlier pass, or the committed word (R53). -/
def Core.newest (k : Core) (p key : Nat) : Word :=
  match (k.arr.part p).running.reverse.findSome? (fun r => (r.working.find? (fun e => e.1 == key)).map (·.2)) with
  | some v => v
  | none => k.arr.entry key

/-! ## Start of a pass (R56, R58, R61) -/

/-- The weights that a keep pass may use (R58). -/
def Part.keeps (q : Part) (x : PassP) : Bool :=
  !x.fresh && (match q.weights with
    | some ws => ws.fmt == x.wfmt && ws.sparse == x.sparse && ws.kpr == kPerRank x.wfmt x.afmt x.sparse
    | none => false)

/-- Checks 1 to 4 of R61, in order. -/
def Part.startErr (q : Part) (x : PassP) : Option Nat :=
  if !pairOk x.wfmt x.afmt x.sparse then some 0
  else if x.geom.isNone then some 3
  else if x.wsrc = 0 && !q.keeps x then some 4
  else if decide (32 < x.accBase + x.accRows) || decide (16 * x.accRows < x.n) then some 1
  else none

/-- A pass begins: it takes the partition's next sequence number (R72), or is a replay, which counts (R64, R71). -/
def State.beginPass (s : State) (n : Nat) (c : EngCmd) (x : PassP) (replay : Bool) : State :=
  if replay then
    (s.modCore n (fun k => k.updateCmd c.id (fun d => { d with replays := d.replays + 1 }))).count (corePage n kARR) 0x138 1
  else
    let seq := ((s.core n).arr.part x.p.val).seq + 1
    (s.modPart n x.p.val (fun q => { q with seq := seq })).modCore n (fun k => k.updateCmd c.id (fun d =>
      { d with stage := .started, number := seq }))

/-- The sequence number of a pass or sweep that has begun. -/
def Core.numberOf (k : Core) (id : Nat) : Word := ((k.command id).map (·.number)).getD 0

/-- The replays of a pass or sweep that have begun. -/
def Core.replaysOf (k : Core) (id : Nat) : Nat := ((k.command id).map (·.replays)).getD 0

def Core.dropCmd (k : Core) (id : Nat) : Core := { k with inflight := k.inflight.filter (fun d => d.id != id) }

/-- A check of R61 fails: the pass faults before it loads weights or writes an entry. Earlier passes finish (R66). -/
def State.passFault (s : State) (n : Nat) (c : EngCmd) (x : PassP) (replay : Bool) (bitNo : Nat) : State :=
  let s := s.beginPass n c x replay
  let s := s.raiseFault n kARR bitNo (arrInfo 0 0 bitNo x.p.val) ((s.core n).numberOf c.id)
  ((s.modCore n (fun k => k.dropCmd c.id)).stopPartition n x.p.val 0 bitNo).count (corePage n kARR) 0x130 1

/-- Vectors that enter (R98, R99). -/
def PassP.entered (x : PassP) (mask : Row) : List Nat :=
  match x.mask with
  | none => List.range x.n
  | some (_, i) => (List.range x.n).filter (fun v => mask.getLsbD (512 * i + v))

/-- The weights that a loading pass brings: from its expander run, whose feed ends at a failing check, or from the weight
port. -/
def State.loadWeights (s : State) (n : Nat) (c : EngCmd) (x : PassP) (t : Shape) : Weights × Option Feed :=
  let rows := s.readFor n c x.wts
  if x.wsrc = 1 then
    let f := readRun t true x.tslot ((s.core n).exp.slot x.tslot) (slabsOf rows)
    (weightsOfImages t f.images, some f)
  else (weightsOfRows t (parseRows t (frontRanks t.h) (rowsNat rows)), none)

/-- The working words of a pass: the sum of each entered vector and file under SET or ADD, and +0 for a skipped vector
under SET (R53, R99). -/
def Core.passWords (k : Core) (x : PassP) (t : Shape) (g : Geom) (ws : Weights) (act pre : List Row)
    (entered : List Nat) : List (Nat × Word) :=
  let kk := t.h * t.kpr
  ((List.range x.n).map (fun v =>
    let key := fun f => accKey (x.accBase + v / 16) (v % 16) (g.col + f)
    if entered.contains v then
      (List.range t.w).map (fun f =>
        let start : Word := if x.pre.isSome then word (rowElem (pre.getD (f / 128) 0) 32 (f % 128)) else 0
        let sum := runningSum t ws (fun i => tensorElem x.afmt act (v * kk + i)) start f
        (key f, accAdd x.wfmt sum (if x.add then k.newest x.p.val (key f) else 0)))
    else if x.add then []
    else (List.range t.w).map (fun f => (key f, (0 : Word))))).flatten

/-! ### Held weight sources (R64) -/

/-- A replayable keep pass in flight uses the weights of this loading pass. -/
def Core.keepsLoad (k : Core) (id : Nat) : Bool :=
  k.inflight.any (fun d => match d.op with
    | .pass x => x.wsrc == 0 && x.replay && x.load == some id
    | _ => false)

/-- The weight source of a loading pass is still needed: by the pass, if replayable, until its boundary, and by replayable keep
passes that use its weights (R64). -/
def Core.needsLoad (k : Core) (l : Load) : Bool :=
  k.keepsLoad l.cmd.id || (match l.cmd.op with
    | .pass x => x.replay && (k.command l.cmd.id).isSome
    | _ => false)

/-- Release the weight sources of the partition that nothing needs, and forget the loads that no keep pass can name. A keep
pass that issues after the release replays from the rows as they then stand (log entry 72, DEDUCED). -/
def State.settleLoads (s : State) (n p : Nat) : State :=
  let k := s.core n
  let q := k.arr.part p
  let done := q.loads.filter (fun l => l.held && !k.needsLoad l)
  let s := done.foldl (fun s l => match l.cmd.op with
    | .pass x => s.releaseFor n x.wts
    | _ => s) s
  s.modPart n p (fun q => { q with
    loads := (q.loads.map (fun l => { l with held := l.held && k.needsLoad l })).filter (fun l =>
      l.held || q.lastLoad == some l.cmd.id || k.keepsLoad l.cmd.id) })

/-- A pass's work counts once, its replays excluded (R71, R127). -/
def State.countPass (s : State) (n : Nat) (c : EngCmd) (x : PassP) (t : Shape) (feed : Option Feed) (rows entered : Nat) :
    State :=
  if c.counted then s
  else
    let s := s.modCore n (fun k => k.updateCmd c.id (fun d => { d with counted := true }))
    let s := s.countRows n (rows + if x.wsrc = 2 then x.wts.rows.length else 0) 0
    let s := match feed with
      | some f => s.countFeed n f t false
      | none => s
    (s.count (corePage n kARR) 0x110 entered).count (corePage n kARR) 0x100
      (cadence x.wfmt * entered + if x.wsrc = 0 then 0 else t.h)

/-- The pass is in the array: it begins and counts, takes its weights and holds its working words. -/
def State.enterPass (s : State) (n : Nat) (c : EngCmd) (x : PassP) (t : Shape) (g : Geom) (ws : Weights)
    (feed : Option Feed) (replay : Bool) : State :=
  let act := s.readFor n c x.act
  let pre := (x.pre.map (s.readFor n c)).getD []
  let mask := ((x.mask.map (fun m => s.readFor n c m.1)).getD []).headD 0
  let entered := x.entered mask
  let words := (s.core n).passWords x t g ws act pre entered
  let s := (s.beginPass n c x replay).modPart n x.p.val (fun q =>
    { q with weights := some ws, aborted := q.aborted.filter (· != c.id),
             loads := if x.wsrc = 0 || q.loads.any (fun l => l.cmd.id == c.id) then q.loads
                      else q.loads ++ [{ cmd := c, held := true }],
             running := q.running ++ [{ cmd := c.id, working := words }] })
  let s := s.spendRace c
  let s := (if x.replay then s else s.releaseFor n x.act).settleLoads n x.p.val
  s.countPass n c x t feed (x.act.rows.length + pre.length + (x.mask.map (fun m => m.1.rows.length)).getD 0) entered.length

/-- A slab that feeds the pass fails a check (R117, R121): program class, the partition stops (R63). What the feed read and
emitted before it counts (R127). -/
def State.feedFault (s : State) (n : Nat) (c : EngCmd) (x : PassP) (t : Shape) (f : Feed) (e : FeedErr) (replay : Bool) :
    State :=
  let s := s.beginPass n c x replay
  let s := if c.counted then s else s.countFeed n f t false
  let i := e.info x.tslot x.p.val
  ((((s.raiseFault n kEXP e.bit i.1 i.2).modCore n (fun k => k.dropCmd c.id)).stopPartition n x.p.val 2 e.bit).count
    (corePage n kARR) 0x130 1)

/-- The command is a pass or a sweep with its replayable flag set (R61, R75). -/
def Core.replayable (k : Core) (id : Nat) : Bool :=
  match k.command id with
  | some c =>
    match c.op with
    | .pass x => x.replay
    | .sweep x => x.replay
    | _ => false
  | none => false

/-- REPLAY_MAX of the core's array (R70). -/
def State.replayMax (s : State) (n k : Nat) : Nat := bits (s.reg (corePage n k) 0x40) 5 4

/-- A pass or sweep that aborts may be replayed: its flag is set and fewer than REPLAY_MAX replays of it have begun (R64,
R81). -/
def State.mayReplay (s : State) (n k id : Nat) : Bool :=
  (s.core n).replayable id && decide ((s.core n).replaysOf id < s.replayMax n k)

/-- Passes of one partition abort together (R63, R64), the first of them given: they await replay in program order, or
REPLAY_FAIL faults the job. Where a pass may be replayed and a later one aborted with it may not, the rules do not say
whether the first is still replayed: none is (log entry 73, DESIGN CHOICE). -/
def State.abortPasses (s : State) (n p step source bitNo : Nat) (hit : List Nat) : State :=
  let seq := (s.core n).numberOf (hit.headD 0)
  if hit.all (s.mayReplay n kARR) then
    (s.modPart n p (fun q => { q with weights := none, aborted := hit ++ q.aborted.filter (fun i => !hit.contains i) })).raise
      (corePage n kARR) 5 (arrInfo step source bitNo p) seq
  else
    let s := s.raiseFault n kARR 6 (arrInfo step source bitNo p) seq
    (s.modCore n (fun k => hit.foldl Core.dropCmd k)).stopPartition n p source bitNo

/-- A pass that reads a failed landing slot is aborted at its start (R251): it waits for the copy written again, or
REPLAY_FAIL faults the job. -/
def State.passHeader (s : State) (n : Nat) (c : EngCmd) (x : PassP) (replay : Bool) (bad : List (Fin 4 × Word)) : State :=
  (((s.beginPass n c x replay).modSpm n (fun m => m.clearFailed bad)).count (corePage n kARR) 0x130 1).abortPasses n x.p.val 0 4 3
    [c.id]

/-- An earlier pass of another geometry still has to use a square of the pass: its last vector leaves each square before the
pass's first enters it (R60). -/
def Core.squareHeld (k : Core) (c : EngCmd) (x : PassP) (g : Geom) : Bool :=
  k.inflight.any (fun d => decide (d.id < c.id) && (match d.op with
    | .pass y => (y.p != x.p || y.geom != x.geom) && (y.geom.map Geom.squares).any (fun qs => qs.any g.squares.contains) &&
        (d.stage == .queued || (k.arr.part y.p.val).aborted.contains d.id)
    | _ => false))

/-- The pass writes this entry: a file of its partition, and a vector that enters or, under SET, any (R53, R99). -/
def PassP.writesKey (x : PassP) (t : Shape) (g : Geom) (entered : List Nat) (key : Nat) : Bool :=
  let v := (key / 4096 - x.accBase) * 16 + key / 256 % 16
  decide (x.accBase ≤ key / 4096) && decide (v < x.n) && decide (g.col ≤ key % 256) && decide (key % 256 < g.col + t.w) &&
    (!x.add || entered.contains v)

/-- An entry that the pass writes already holds the working words of two uncommitted passes (R53). -/
def Core.thirdWrite (k : Core) (x : PassP) (t : Shape) (g : Geom) (entered : List Nat) : Bool :=
  let rs := (k.arr.part x.p.val).running
  rs.any (fun a => rs.any (fun b => decide (a.cmd < b.cmd) && a.working.any (fun e =>
    x.writesKey t g entered e.1 && b.working.any (fun f => f.1 == e.1))))

/-- The weights with which a pass runs: those it loads, those in the partition, or for a replayed keep pass those of the
load that it names, from its source (R64). -/
def State.passWeights (s : State) (n : Nat) (c : EngCmd) (x : PassP) (t : Shape) : Option (Weights × Option Feed) :=
  let q := (s.core n).arr.part x.p.val
  if x.wsrc ≠ 0 then some (s.loadWeights n c x t)
  else match q.weights, q.loads.find? (fun l => x.load == some l.cmd.id) with
    | some ws, _ => some (ws, none)
    | none, some l =>
      match l.cmd.op with
      | .pass y => some (s.loadWeights n l.cmd y t)
      | _ => none
    | none, none => none

/-- Start a pass whose checks 1 to 4 hold, once its sources are there, its squares are free (R60) and the interlocks of R53
and R54 allow; ACC_OVERLAP is checked as it starts, before the waits of its writes. -/
def State.startPass (s : State) (n : Nat) (c : EngCmd) (x : PassP) (t : Shape) (g : Geom) (replay : Bool) : State :=
  let k := s.core n
  let bad := k.spm.failedSlots ([x.act] ++ (if x.wsrc = 0 then [] else [x.wts]) ++ x.pre.toList)
  let entered := x.entered (((x.mask.map (fun m => s.readFor n c m.1)).getD []).headD 0)
  if !bad.isEmpty then s.passHeader n c x replay bad
  else if k.raceHeld s.free c then s
  else if !(k.spm.fullFor x.act) then (s.count (corePage n kARR) 0x120 1).count (corePage n kSPM) 0x130 1
  else if x.wsrc != 0 && !(k.spm.fullFor x.wts) then
    ((s.count (corePage n kARR) 0x118 1).count (corePage n kSPM) 0x130 1).count (corePage n kEXP) 0x138
      (boolNat (x.wsrc == 1))
  else if x.wsrc == 1 && k.loadAhead c x.tslot then s.count (corePage n kARR) 0x118 1
  else if k.squareHeld c x g then s.count (corePage n kARR) 0x120 1
  else if k.accOverlap x.p.val c then s.passFault n c x replay 2
  else if k.inflight.any (fun d => decide (d.id < c.id) && d.isFill && shareEntry d.region c.region) ||
      k.thirdWrite x t g entered then s.count (corePage n kARR) 0x128 1
  else match s.passWeights n c x t with
    | none => s.passFault n c x replay 4
    | some (ws, feed) =>
      match feed.bind (·.err) with
      | some e => s.feedFault n c x t (feed.getD .none) e replay
      | none => s.enterPass n c x t g ws feed replay

/-- PASS_START: the partition's next queued pass, after the checks of R61. -/
def execPassStart (n : CoreId) (p : Fin 16) (s : State) : Host.Outcome State Fault Refusal :=
  let k := s.core n.val
  let q := k.arr.part p.val
  match k.inflight.find? (fun d => d.queuedPass p.val) with
  | none => .next s
  | some c =>
    match c.op with
    | .pass x =>
      if !s.engineStarts n.val || q.stopped || !q.aborted.isEmpty then .next s
      else if !k.startReady c then .next (s.countWait n.val c)
      else match q.startErr x with
        | some b => .next (s.passFault n.val c x false b)
        | none =>
          match x.shape with
          | some (t, g) => .next (s.startPass n.val c x t g false)
          | none => .next s
    | _ => .next s

/-! ## Boundary and replay (R62, R64) -/

/-- The commit of the partition's oldest pass: its working words become committed, its sources are released, its
command completes (R53, R62, R64). -/
def State.commitPass (s : State) (n : Nat) (c : EngCmd) (x : PassP) (r : Running) : State :=
  let p := x.p.val
  let s := s.modArr n (fun a => { a with acc := r.working.foldl (fun m e => m.set wordZero e.1 e.2) a.acc })
  let s := s.modPart n p (fun q => { q with running := q.running.filter (fun y => y.cmd != c.id) })
  let s := if x.replay then s.releaseFor n x.act else s
  ((s.complete n c).settleLoads n p).count (corePage n kARR) 0x108 1

/-- PASS_BOUNDARY: the commit waits for every earlier drain of a shared entry (R54). -/
def execPassBoundary (n : CoreId) (p : Fin 16) (s : State) : Host.Outcome State Fault Refusal :=
  let k := s.core n.val
  match (k.arr.part p.val).running.head? with
  | none => .next s
  | some r =>
    match k.command r.cmd with
    | none => .next s
    | some c =>
      match c.op with
      | .pass x =>
        if s.phase != .ready then .next s
        else if k.inflight.any (fun d => decide (d.id < c.id) && d.isDrain && d.stage != .performed &&
            shareEntry d.region c.region) then
          .next (s.count (corePage n.val kARR) 0x128 1)
        else .next (s.commitPass n.val c x r)
      | _ => .next s

/-- A transient abort of the pass with this command and every later one of the partition that has begun (R63, R64).
`source` and `bitNo` are the page and event reported. -/
def State.abortPass (s : State) (n p cmd source bitNo : Nat) : State :=
  let hit := (((s.core n).arr.part p).running.filter (fun r => decide (cmd ≤ r.cmd))).map (·.cmd)
  if hit.isEmpty then s
  else
    let s := s.modPart n p (fun q => { q with running := q.running.filter (fun r => decide (r.cmd < cmd)) })
    (s.count (corePage n kARR) 0x130 hit.length).abortPasses n p 1 source bitNo hit

/-- Replay one aborted pass if it is the partition's next. -/
def State.replayPass (n p : Nat) (s : State) (id : Nat) : State :=
  let k := s.core n
  let q := k.arr.part p
  match k.command id with
  | some c =>
    match c.op with
    | .pass x =>
      match x.shape with
      | some (t, g) => if q.aborted.head? = some id ∧ q.stopped = false then s.startPass n c x t g true else s
      | none => s
    | _ => s
  | none => s

/-- PASS_REPLAY: the aborted passes of the partition, in program order, from the same inputs (R64). -/
def execPassReplay (n : CoreId) (p : Fin 16) (s : State) : Host.Outcome State Fault Refusal :=
  if s.engineStarts n.val then
    .next (((s.core n.val).arr.part p.val).aborted.foldl (State.replayPass n.val p.val) s)
  else .next s

/-! ## DRAIN and FILL (R54, R169) -/

def drainFmtOk (f : Nat) : Bool := f == 0 || f == 1 || (decide (3 ≤ f) && decide (f ≤ 8))

def captureDrain (fill : Bool) (w : BitVec 128) (k : Core) : Capture :=
  let rows := cf w 0 25 21 + 1
  let files := cf w 2 15 8 + 1
  let fmt := if fill then 7 else cf w 0 29 26
  let cnt := (rows * 16 * files * fmtBits fmt + 4095) / 4096
  let (r, m) := resolve k.seq k.spm (if fill then .sum else .drain) (cw w 1) cnt none
  let x : DrainP := { base := cf w 0 20 16, rows := rows, fmt := fmt, sat := !fill && cf w 0 30 30 == 1,
                      sr := !fill && cf w 0 31 31 == 1, file0 := cf w 2 7 0, files := files,
                      srcInt := !fill && cf w 2 16 16 == 1, e := k.seq.ext w, rowLen := lo32 (k.seq.ext1 w),
                      opnd := r.opnd }
  { req := .accPort, op := if fill then .fill x else .drain x, ops := [r], spm := m, seqErr := none, dmR := [],
    dmW := [] }

/-- The entries of a drain, vector by vector and within a vector file by file: vector index, file place, key. -/
def DrainP.entries (x : DrainP) : List (Nat × Nat × Nat) :=
  ((List.range (16 * x.rows)).map (fun v =>
    (List.range x.files).map (fun f => (v, f, accKey (x.base + v / 16) (v % 16) (x.file0 + f))))).flatten

/-- Index of an element in its whole tensor: E + v * row length + f (R169). -/
def tensorIndex (e : Word64) (rowLen : Word) (v f : Nat) : Word64 :=
  e + BitVec.ofNat 64 v * rowLen.setWidth 64 + BitVec.ofNat 64 f

/-- A drain or fill past row 31 or file 255 raises ACC_RANGE when it starts (R54). It belongs to no partition and no pass:
R69 does not say what PARTITION and PASS_SEQ then hold, and both are 0 (log entry 74, DESIGN CHOICE). -/
def State.accRange (s : State) (n : Nat) (c : EngCmd) : State :=
  (s.modCore n (fun k => { k with inflight := k.inflight.filter (fun d => d.id != c.id) })).raiseFault n kARR 1
    (arrInfo 2 0 1 0) 0

def DrainP.inRange (x : DrainP) : Bool := decide (x.base + x.rows ≤ 32) && decide (x.file0 + x.files ≤ 256)

/-- A drain or fill waits for the commit of every earlier pass of a shared entry, and for earlier accesses (R54). -/
def Core.passAhead (k : Core) (c : EngCmd) : Bool :=
  k.inflight.any (fun d => decide (d.id < c.id) && d.isPass && shareEntry d.region c.region)

/-- The elements of a drain with the bits written, in order. -/
def Core.drained (k : Core) (x : DrainP) (d : Draw) : List (Word64 × Nat) :=
  x.entries.map (fun y =>
    let i := tensorIndex x.e x.rowLen y.1 y.2.1
    (i, drainEntry x.fmt x.sat x.srcInt (d.rnd x.sr i.toNat) (k.arr.entry y.2.2)))

def performAcc (n : Nat) (s : State) (c : EngCmd) : State :=
  let k := s.core n
  match c.op with
  | .drain x =>
    if !k.inTurn c || c.stage != .queued || !k.spm.waitMet c.wait then s
    else if !x.inRange then s.accRange n c
    else if !k.ready c || k.passAhead c then s
    else if c.tracked && k.trk.ringBlocks c.round c.layer then s.count (corePage n kTRK) 0x118 1
    else
      let xs := k.drained x (s.draw n c)
      let s := s.writeFor n c x.opnd (packRows x.fmt (xs.map (·.2)))
      (s.trackDrain n c x.fmt xs).performed n c 0 x.opnd.rows.length
  | .fill x =>
    if !k.inTurn c || c.stage != .queued || !k.spm.waitMet c.wait then s
    else if !x.inRange then s.accRange n c
    else if !k.ready c || k.passAhead c || k.raceHeld s.free c then s
    else
      let rows := s.readFor n c x.opnd
      let s := s.modArr n (fun a => { a with acc := (x.entries.zipIdx).foldl (fun m y =>
        m.set wordZero y.1.2.2 (word (rowElem (rows.getD (y.2 / 128) 0) 32 (y.2 % 128)))) a.acc })
      s.performed n c x.opnd.rows.length 0
  | _ => s

def badDrain (_ : Core) (w : BitVec 128) : Bool := badOperand (cw w 1) || !drainFmtOk (cf w 0 29 26)

/-- DRAIN: a tracked drain passes TRACK_LATE and TRACK_FULL and opens its key (R326, R327). -/
def execDrain (n : CoreId) (s : State) : Host.Outcome State Fault Refusal :=
  .next (s.issue n.val (isOp 0x32) badDrain (fun w s => s.engineOff n.val w .accPort)
    (fun w s => s.engineOnGated n.val w (captureDrain false w (s.core n.val)) (State.trackGate n.val 0x32) id
      (fun s c =>
        let s := s.trackIssued n.val c
        performAcc n.val s (((s.core n.val).command c.id).getD c))))

def execFill (n : CoreId) (s : State) : Host.Outcome State Fault Refusal :=
  .next (s.engineCommand n.val (isOp 0x33) badW1 (fun _ => .accPort) (captureDrain true) id (performAcc n.val))

/-! ## Watchdog (R66) -/

/-- ARRAY_HANG: the hung passes abort and the partition counts as being at a boundary; replayable ones wait for the new
host, others fault the job. The report fences the pcore where its fence bit is set (R381). -/
def execArrayHang (n : CoreId) (p : Fin 16) (s : State) : Host.Outcome State Fault Refusal :=
  let k := s.core n.val
  let q := k.arr.part p.val
  let hit := q.running.map (·.cmd)
  let seq := k.numberOf (hit.headD 0)
  if !bit (s.reg (corePage n.val kARR) 0x40) 0 || hit.isEmpty || s.phase != .ready then .next s
  else
    let fences := bit (s.page (corePage n.val kARR)).fence 7
    let replays := fences && hit.all (s.mayReplay n.val kARR)
    let s := s.count (corePage n.val kARR) 0x130 hit.length
    let s := s.raise (corePage n.val kARR) 7 (arrInfo 1 0 7 p.val) seq
    let s := s.modPart n.val p.val (fun q => { q with running := [], weights := none })
    if replays then .next (s.modPart n.val p.val (fun q => { q with aborted := hit ++ q.aborted }))
    else
      let s := if fences then s.raiseFault n.val kARR 6 (arrInfo 1 0 7 p.val) seq
        else s.faultCore n.val (corePage n.val kARR) 7
      .next ((s.modCore n.val (fun k => hit.foldl Core.dropCmd k)).stopPartition n.val p.val 0 7)

end Sys2Proof.Machine
end

