-- ==== Sys2Proof/Machine/LiftLink.lean ====
section
/-!
DEFINITION. The link layer of the lift (R238-R245): frames and their header, what a receiver checks, retry, credit and
link control. A chair is sent frame by frame within one step (log entry 1, DESIGN CHOICE).
-/
namespace Sys2Proof.Machine

def dirNat : Dir → Nat
  | .uphill => 0
  | .downhill => 1

/-- The direction of travel of what arrives at a port (R238). -/
def arrivingDir : Side → Dir
  | .up => .downhill
  | .down => .uphill

/-! ## Link state (R265-R269) -/

/-- LFT_LINK.STATE: 0 down, 1 training, 2 up, 3 retraining. -/
def State.linkState (s : State) (x : Side) : Nat := bits (s.reg (pLFT x) 0x48) 1 0

def State.linkUp (s : State) (x : Side) : Bool := s.linkState x == 2

/-- LFT_LINK and the lane table. -/
def State.setLink (s : State) (x : Side) (lanes : BitVec 32) (state : Nat) : State :=
  let s := s.setReg (pLFT x) 0x48 (word (popcount lanes * 256 + state))
  let s := if lanes = 0 then s else s.modLiftPort x (fun p => { p with trained := p.trained + 1 })
  (List.range 32).foldl (fun s l =>
    s.setReg (pLFT x) (0x400 + 4 * l) (if lanes.getLsbD l then 0x80000000#32 else 0)) s

def LiftPort.acked (p : LiftPort) : BitVec 16 := p.txSeq - BitVec.ofNat 16 p.replay.length

/-- Report an event of an LFT page: the last acknowledged sequence, and the sequence concerned (R266). -/
def State.linkEventAt (s : State) (x : Side) (bitNo : Nat) (seq : BitVec 16) : State :=
  s.raise (pLFT x) bitNo (cause bitNo (bits (s.reg (pLFT x) 0x48) 13 8))
    (((s.liftPort x).acked - 1) ++ seq)

/-- An event whose sequence is the oldest that is not acknowledged (log entry 48, DEDUCED). -/
def State.linkEvent (s : State) (x : Side) (bitNo : Nat) : State := s.linkEventAt x bitNo (s.liftPort x).acked

/-- RETRY_MAX; 0 is treated as 1 (R267). -/
def State.retryMax (s : State) (x : Side) : Nat := max 1 (bits (s.reg (pLFT x) 0x40) 5 2)

/-! ## Sending (R243, R244) -/

/-- The frame that a port sends last in its sequence, with its link fields as they stand. -/
def State.emitFrame (s : State) (x : Side) (fcs : Fcs) (h : List Byte) (seq : BitVec 16) (data : List Byte) : State :=
  let p := s.liftPort x
  let hdr := h.take 2 ++ linkBytes p.nakDue true p.demandFreed seq p.rxSeq p.freed ++ h.drop 10
  let s := if p.nakDue then s.count (pLFT x) 0x128 1 else s
  ((s.modLiftPort x (fun p => { p with nakDue := false })).emit (.liftFrame x (s.liftMac x) fcs hdr data)).count (pLFT x) 0x100 1

/-- Send a new chair frame: it takes the next LINK_SEQ and a place in the replay buffer. While the link retrains it waits
there, and the resend after the retraining is its first sending (R243). -/
def State.sendFrame (s : State) (x : Side) (h : FrameHdr) (data : List Byte) : State :=
  let p := s.liftPort x
  let hdr := h.bytes (linkBytes false true 0 p.txSeq 0 0)
  let up := s.linkUp x
  let s := if up then s.emitFrame x .good hdr p.txSeq data else s
  s.modLiftPort x (fun p =>
    { p with txSeq := p.txSeq + 1, replay := p.replay ++ [{ seq := p.txSeq, hdr := hdr, data := data, sends := boolNat up }] })

/-- Resend the replay buffer from its oldest frame; a frame already sent RETRY_MAX + 1 times stops it (R243). -/
def State.resendFrames (s : State) (x : Side) : State :=
  let p := s.liftPort x
  if p.replay.any (fun f => decide (s.retryMax x + 1 ≤ f.sends)) then s
  else
    let s := p.replay.foldl (fun s f => s.emitFrame x .good f.hdr f.seq f.data) s
    (s.modLiftPort x (fun p => { p with replay := p.replay.map (fun f => { f with sends := f.sends + 1 }) })).count
      (pLFT x) 0x130 p.replay.length

/-- PROTOCOL, at the frame with LINK_SEQ `seq`: the link retrains (R244, R265). -/
def State.protocolError (s : State) (x : Side) (seq : BitVec 16) : State :=
  let s := s.linkEventAt x 4 seq
  s.setReg (pLFT x) 0x48 (word (bits (s.reg (pLFT x) 0x48) 13 8 * 256 + 3))

/-! ## Receiving (R241, R243, R244) -/

/-- What a receiver makes of a frame. -/
inductive Verdict where
  | ok | foreign | stale | silent | error
  deriving DecidableEq, Repr, Inhabited

def chairFrames (rows : Nat) : Nat := (rows + 15) / 16

/-- Reserved bits of a lift header. -/
def liftReserved (h : List Byte) : Bool :=
  leAt h 1 1 / 32 != 0 || leAt h 2 1 / 32 != 0 || leAt h 3 1 != 0 || leAt h 0xA 1 / 128 != 0 ||
    leAt h 0x1D 1 / 8 != 0 || leAt h 0x1E 1 / 64 != 0 || leAt h 0x1F 5 != 0

/-- The field ranges of R241 for every frame: ORIGIN, DIR and DATA_LEN. -/
def State.frameRange (s : State) (x : Side) (h : List Byte) (len : Nat) : Bool :=
  decide (leAt h 0xA 1 < s.liftLen) && leAt h 1 1 / 4 % 2 == dirNat (arrivingDir x) && leAt h 0xE 2 == len

/-- The further ranges of a chair frame: LINK_SEQ, and DATA_LEN and FRAME_INDEX with CHAIR_ROWS. -/
def State.chairRange (s : State) (x : Side) (h : List Byte) (len : Nat) : Bool :=
  let kind := leAt h 1 1 % 4
  let rows := leAt h 0x1C 1 + 1
  let idx := leAt h 0x1D 1
  leAt h 4 2 == (s.liftPort x).rxSeq.toNat &&
    (if kind = 3 then len == 32 && idx == 0
     else decide (rows ≤ 128) && decide (idx < chairFrames rows) && len == 512 * min 16 (rows - 16 * idx))

/-- The checks of R241 after the FCS, in order. A formation frame comes before there is an identifier and an epoch to compare
with: step 3 of R242 compares them (log entry 48, DEDUCED). -/
def State.headerVerdict (s : State) (x : Side) (f : LiftFrame) : Verdict :=
  let h := f.hdr
  let ftype := leAt h 0 1 / 16
  let older := ((BitVec.ofNat 16 (leAt h 0xC 2)) - s.lift.epoch).toInt < 0
  if f.etype.toNat ≠ bits (s.reg pLFC 0x48) 15 0 then .foreign
  else if !f.dstOk then .error
  else if leAt h 0 1 % 16 != 1 || liftReserved h then .error
  else if leAt h 0x24 4 ≠ crc32c (h.take 2 ++ (h.drop 0xA).take 0x1A) then .error
  else if ftype ≠ 2 ∧ leAt h 0xB 1 ≠ s.liftId then .error
  else if ftype ≠ 2 ∧ leAt h 0xC 2 ≠ s.lift.epoch.toNat then (if ftype = 0 ∧ older then .stale else .error)
  else if !s.frameRange x h f.data.length then .error
  else if ftype = 0 then (if s.chairRange x h f.data.length then .ok else .error)
  else if ftype = 1 then (if f.data.length = 0 then .ok else .error)
  else if ftype ≤ 3 then .ok
  else .error

def State.verdict (s : State) (x : Side) (f : LiftFrame) : Verdict :=
  match f.fcs with
  | .bad => .error
  | .inverted => .silent
  | .good => s.headerVerdict x f

/-- A link error on a chair frame: NAK with the next expected sequence, once per gap. -/
def State.setNak (s : State) (x : Side) : State :=
  s.modLiftPort x (fun p => if p.nakSent then p else { p with nakDue := true, nakSent := true })

/-- The link fields of an accepted frame: acknowledgements, credit, NAK (R243, R244). -/
def State.linkFields (s : State) (x : Side) (h : List Byte) : State :=
  let p := s.liftPort x
  let flags := leAt h 2 1
  let acks := (BitVec.ofNat 16 (leAt h 6 2) - p.acked).toNat
  let credit := BitVec.ofNat 16 (leAt h 8 2)
  let more := (credit - p.creditSeen).toNat
  let dem := BitVec.ofNat 3 (flags / 4)
  let demMore := (dem - p.demandSeen).toNat
  if decide (p.replay.length < acks) || decide (p.sentUsed < more) || decide (p.demandUsed < demMore) then
    s.protocolError x (BitVec.ofNat 16 (leAt h 4 2))
  else
    let s := s.modLiftPort x (fun p => { p with
      replay := p.replay.drop acks, creditSeen := credit, sentUsed := p.sentUsed - more, demandSeen := dem,
      demandUsed := p.demandUsed - demMore })
    if flags % 2 = 1 then s.resendFrames x else s

/-- Every frame that a port receives is checked, whether or not the station is formed: `act` takes one that passes; `chair`
says that a formed station answers an error with NAK, and `cut` is what a frame cut through before its FCS failed leaves (R241,
R249). -/
def State.screen (s : State) (x : Side) (f : LiftFrame) (chair : Bool) (cut act : State → State) : State :=
  if s.phase != .ready || !s.linkUp x then s
  else match s.verdict x f with
    | .foreign => s.count (pLFT x) 0x150 1
    | .stale => s.count pLFC 0x140 1
    | .silent => cut s
    | .error =>
      let s := (cut s).count (pLFT x) 0x120 1
      if chair && s.lift.isFormed then s.setNak x else s
    | .ok => act s

/-- A received frame of the row that `mine` describes, at a formed station: `act` applies an accepted one. -/
def State.receive (s : State) (x : Side) (f : LiftFrame) (mine : List Byte → Bool) (chair : Bool)
    (cut act : State → State) : State :=
  s.screen x f chair cut (fun s => if s.lift.isFormed && mine f.hdr then act (s.linkFields x f.hdr) else s)

/-- A received message of the lift: formation and ring frames are FTYPE 2, notices and quiesce frames FTYPE 3 (R240). -/
def State.receiveMsg (s : State) (x : Side) (f : LiftFrame) (ftype : Nat) (act : State → State) : State :=
  s.screen x f false id (fun s => if leAt f.hdr 0 1 / 16 = ftype then act s else s)

/-! ## Commands of the link -/

/-- LINK_CONTROL_FRAME: ACK_SEQ, CREDIT and NAK (R245). -/
def execLinkControlFrame (side : Side) (f : LiftFrame) (s : State) : Host.Outcome State Fault Refusal :=
  .next (s.receive side f (fun h => leAt h 0 1 / 16 == 1) false id id)

/-- LINK_CONTROL_SEND (R245). -/
def execLinkControlSend (side : Side) (s : State) : Host.Outcome State Fault Refusal :=
  if s.phase != .ready || !s.linkUp side || !s.lift.isFormed then .next s
  else
    let p := s.liftPort side
    let h : FrameHdr := { ftype := 1, kind := 0, down := side == .down, first := false, last := false,
                          origin := s.liftPos, id := s.liftId, epoch := s.lift.epoch.toNat, len := 0, mask := 0, seq := 0,
                          rows1 := 0, index := 0, core := 0 }
    let s := if p.nakDue then s.count (pLFT side) 0x128 1 else s
    .next ((s.modLiftPort side (fun p => { p with nakDue := false })).emit
      (.linkControl side (s.liftMac side) (h.bytes (linkBytes p.nakDue false p.demandFreed 0 p.rxSeq p.freed)) (liftPad 0)))

/-- ACK_TIMEOUT: the sender resends from its oldest unacknowledged frame (R243). -/
def execAckTimeout (side : Side) (s : State) : Host.Outcome State Fault Refusal :=
  if s.phase == .ready && s.linkUp side && s.lift.isFormed then .next (s.resendFrames side) else .next s

/-- RETRY_LIMIT: a frame sent RETRY_MAX + 1 times is not acknowledged; the link retrains (R243). -/
def execRetryLimit (side : Side) (s : State) : Host.Outcome State Fault Refusal :=
  if s.phase == .ready && s.linkUp side &&
      (s.liftPort side).replay.any (fun f => decide (s.retryMax side + 1 ≤ f.sends)) then
    let s := s.linkEvent side 2
    .next (s.setReg (pLFT side) 0x48 (word (bits (s.reg (pLFT side) 0x48) 13 8 * 256 + 3)))
  else .next s

/-- FOREIGN_FRAME: a frame of another EtherType or a MAC control frame is counted and discarded (R239, R241). -/
def execForeignFrame (side : Side) (s : State) : Host.Outcome State Fault Refusal :=
  if s.phase == .ready && s.linkUp side then .next (s.count (pLFT side) 0x150 1) else .next s

end Sys2Proof.Machine
end

