-- ==== Sys2Proof/Machine/Slice.lean ====
section
/-!
DEFINITION. The core's view of its HBM slice (R203): units, the user area, and the window of slice-accessing commands
(R211).
-/
namespace Sys2Proof.Machine

/-- A range of units lies in the user area (R203). -/
def inUser (lo hi : Int) : Bool := decide (0 ≤ lo) && decide (hi < (sliceUser / 512 : Nat))

def State.modStr (s : State) (n : Nat) (f : Str → Str) : State := s.modCore n (fun c => { c with str := f c.str })

/-- A slice in self-refresh begins to leave it (R411). -/
def State.wakeSlice (s : State) (n : Nat) : State :=
  s.modStr n (fun x => { x with waking := x.waking || x.asleep })

/-- Is the command still under way? -/
def Core.isInflight (k : Core) (id : Nat) : Bool := k.inflight.any (fun d => d.id == id)

/-- A new slice command may enter the window: it has room, or its oldest entry has completed (R211). -/
def Core.sliceRoom (k : Core) : Bool :=
  decide (k.str.window.length < 32) || (match k.str.window with
    | e :: _ => !(k.isInflight e.cmd)
    | [] => true)

/-- Enter the window with the lowest and highest byte touched (R211). -/
def State.enterSlice (s : State) (n : Nat) (e : SliceWin) : State :=
  s.modStr n (fun x => { x with window := (if x.window.length < 32 then x.window else x.window.drop 1) ++ [e] })

/-- The gate of a slice command at issue: it waits for room in the window. -/
def State.sliceGate (n : Nat) (uses : Bool) (s : State) : Option State :=
  if uses && !(s.core n).sliceRoom then some (s.count (corePage n kSTR) 0x128 1) else none

/-- An earlier command of the window touches the same bytes, one of the two writes, and it has not ended (R211). -/
def Core.sliceHazard (k : Core) (id : Nat) : Bool :=
  match k.str.window.find? (fun e => e.cmd == id) with
  | none => false
  | some e => k.str.window.any (fun d => decide (d.cmd < e.cmd) && decide (d.lo ≤ e.hi) && decide (e.lo ≤ d.hi) &&
      (d.writes || e.writes) && k.inflight.any (fun c => c.id == d.cmd && c.stage != .performed))

/-- Units `u` to `u + count - 1` of the core's slice. -/
def State.units (s : State) (n u count : Nat) : List Row := (List.range count).map (fun i => s.unit n (u + i))

/-- Write units one by one. -/
def State.setUnits (s : State) (n : Nat) (xs : List (Nat × Row)) : State :=
  xs.foldl (fun s x => s.setUnit n x.1 x.2) s

end Sys2Proof.Machine
end

