-- ==== Sys2Proof/Machine/Schuss.lean ====
section
/-!
DEFINITION. The schuss path (R73-R87, R94, R484): vector loads, sweeps from issue to boundary, drains of the sum store,
and the watchdog. A sweep computes its working words when it starts and commits them at its boundary (log entry 1, DESIGN CHOICE).
-/
namespace Sys2Proof.Machine

def State.modSch (s : State) (n : Nat) (f : Sch → Sch) : State := s.modCore n (fun c => { c with sch := f c.sch })

def Sch.vec (x : Sch) (i : Nat) : Option VecSlot := x.vecs.get (fun _ => none) i

/-- INFO0 of an SCH event (R84). -/
def schInfo (step source bitNo : Nat) : Word := word (step * 65536 + source * 8192 + bitNo * 256)

/-- Key of a sum-store entry (R77). -/
def sumKey (col slot : Nat) : Nat := col * 16 + slot

def Sch.entry (x : Sch) (k : Nat) : Word := x.sums.get wordZero k

/-! ## VLOAD (R73, R82) -/

def captureVload (w : BitVec 128) (k : Core) : Capture :=
  let fmt := cf w 0 23 20
  let klen := 32 * (cf w 2 8 0 + 1)
  let (r, m) := resolve k.seq k.spm .vload (cw w 1) (tensorRows fmt klen) (elemOf fmt)
  { req := .schuss, op := .vload (cf w 0 19 16) fmt klen r.opnd, ops := [r], spm := m, seqErr := none, dmR := [],
    dmW := [] }

/-- The sweep names this vector slot. -/
def EngCmd.sweepsSlot (c : EngCmd) (slot : Nat) : Bool :=
  match c.op with
  | .sweep x => x.vecs.getLsbD slot
  | _ => false

/-- The schuss path stops (R81, R65): its queued commands and the sweeps that await replay never start. -/
def State.stopSchuss (s : State) (n : Nat) : State :=
  s.modCore n (fun k =>
    { k with sch := { k.sch with stopped := true, aborted := [] },
             inflight := k.inflight.filter (fun d =>
               !((d.req == .schuss && d.stage == .queued) || k.sch.aborted.contains d.id)) })

/-- A vector load that meets a failed slot is aborted (R251, R84): it is not replayed, so REPLAY_FAIL faults the job. -/
def State.vloadHeader (s : State) (n : Nat) (c : EngCmd) (bad : List (Fin 4 × Word)) : State :=
  let s := s.modSpm n (fun m => m.clearFailed bad)
  ((s.raiseFault n kSCH 4 (schInfo 2 4 3) (s.core n).sch.seq).modCore n (fun k => k.dropCmd c.id)).stopSchuss n

/-- A vector load waits for the boundary of every earlier sweep that names its slot (R78), then copies its rows and
releases each landing slot (R82). -/
def performVload (n : Nat) (s : State) (c : EngCmd) : State :=
  match c.op with
  | .vload slot fmt klen o =>
    let k := s.core n
    let bad := k.spm.failedSlots [o]
    if !k.startReady c || k.raceHeld s.free c || k.inflight.any (fun d => decide (d.id < c.id) && d.sweepsSlot slot) then s
    else if !bad.isEmpty then s.vloadHeader n c bad
    else
      let s := s.gather n c [o]
      match (s.core n).command c.id with
      | none => s
      | some c =>
        if !(s.core n).gathered c [o] then s
        else
          let rows := (s.sources n c [o] c.got).headD []
          let s := s.modSch n (fun x =>
            { x with vecs := x.vecs.set (fun _ => none) slot (some { fmt := fmt, klen := klen, rows := rows }) })
          (s.count (corePage n kSCH) 0x110 rows.length).performed n c o.rows.length 0
  | _ => s

/-- A bank collision on the schuss-and-row port stops the path (R81); a sweep that it stops counts as aborted (R86). -/
def schussCollision (n : Nat) (s : State) : State :=
  let sweep := opcodeOf (s.core n).seq.fetch == 0x39
  let s := s.stopSchuss n
  if sweep then s.count (corePage n kSCH) 0x128 1 else s

def execVload (n : CoreId) (s : State) : Host.Outcome State Fault Refusal :=
  .next (s.engineCommand n.val (isOp 0x38) (fun _ w => badOperand (cw w 1) || decide (6 < cf w 0 23 20))
    (fun _ => .schuss) captureVload (schussCollision n.val) (performVload n.val))

/-! ## Sweep geometry (R75, R76, R120) -/

/-- File tiles: first column of the tile within the sweep, and its width; 256 files, the last the remaining ones. -/
def SweepP.fileTiles (x : SweepP) : List (Nat × Nat) :=
  (List.range ((x.cols + 255) / 256)).map (fun i => (256 * i, min 256 (x.cols - 256 * i)))

/-- K tiles: first K position and length; the last covers the remainder. -/
def SweepP.kTiles (x : SweepP) : List (Nat × Nat) :=
  (List.range ((x.klen + x.tile - 1) / x.tile)).map (fun i => (x.tile * i, min x.tile (x.klen - x.tile * i)))

/-- The product shape of one tile. -/
def SweepP.shapeOf (x : SweepP) (w kl : Nat) : Shape :=
  { wfmt := x.wfmt, afmt := x.afmt, sparse := x.sparse, h := kl / kPerRank x.wfmt x.afmt x.sparse, w := w }

/-- The slab that holds a tile has whole squares. -/
def Shape.squared (t : Shape) : Shape := { t with h := (t.h + 63) / 64 * 64 }

/-- Bytes of one file tile of stream-fed weights, and the 512-byte units it takes (R484). -/
def SweepP.fileTileBytes (x : SweepP) (w : Nat) : Nat := sumList (x.kTiles.map (fun kt => (x.shapeOf w kt.2).bytes))
def SweepP.fileTileUnits (x : SweepP) (w : Nat) : Nat := (x.fileTileBytes w + 511) / 512
def SweepP.streamUnits (x : SweepP) : Nat := sumList (x.fileTiles.map (fun ft => x.fileTileUnits ft.2))

/-- Slots of the vectors that a mask names, in increasing slot number. -/
def maskSlots (m : BitVec 16) : List Nat := (List.range 16).filter (fun i => m.getLsbD i)

def captureSweep (w : BitVec 128) (k : Core) : Capture :=
  let e := k.seq.ext w
  let stream := cf w 1 12 12 == 1
  let x0 : SweepP :=
    { vecs := BitVec.ofNat 16 (cf w 0 31 16), wfmt := cf w 1 3 0, afmt := cf w 1 7 4, sparse := cf w 1 9 8,
      add := cf w 1 10 10 == 1, replay := cf w 1 11 11 == 1, stream := stream, tslot := cf w 1 15 13,
      ctx := Fin.ofNat 16 (cf w 1 19 16), slabs := cf w 1 23 20 + 1, klen := 32 * (cf w 2 8 0 + 1),
      tile := 32 * (cf w 2 12 9 + 1), col0 := cf w 2 24 13, cols := 64 * (cf w 2 30 25 + 1), wts := default,
      slice := e, pre := none }
  let runs := x0.fileTiles.length * x0.kTiles.length
  let (a, m) := if stream then resolve k.seq k.spm .expander 0 0 none
    else resolve k.seq k.spm .expander (lo32 e) (slabRows * x0.slabs * runs) none
  let preload := cf w 1 24 24 == 1
  let prows := (maskSlots x0.vecs).length * ((x0.cols + 127) / 128)
  let (b, m) := if preload then resolve k.seq m .schRd (hi32 e) prows (elemOf 7) else resolve k.seq m .schRd 0 0 none
  { req := .schuss, op := .sweep { x0 with wts := a.opnd, pre := if preload then some b.opnd else none },
    ops := (if stream then [] else [a]) ++ (if preload then [b] else []), spm := m, seqErr := none, dmR := [], dmW := [] }

def badSweep (k : Core) (w : BitVec 128) : Bool :=
  cf w 0 31 16 == 0 || cf w 1 9 8 == 3 || (cf w 1 12 12 == 0 && badOperand (lo32 (k.seq.ext w))) ||
    (cf w 1 24 24 == 1 && badOperand (hi32 (k.seq.ext w)))

/-- The byte range of a stream-fed sweep enters the slice window (R484, R211). -/
def sweepIssued (n : Nat) (s : State) (c : EngCmd) : State :=
  match c.op with
  | .sweep x =>
    if x.stream then
      s.enterSlice n { cmd := c.id, lo := x.slice.toNat, hi := x.slice.toNat + 512 * x.streamUnits - 1, writes := false }
    else s
  | _ => s

def execSweep (n : CoreId) (s : State) : Host.Outcome State Fault Refusal :=
  .next (s.issue n.val (isOp 0x39) badSweep (fun w s => s.engineOff n.val w .schuss)
    (fun w s => s.engineOnGated n.val w (captureSweep w (s.core n.val)) (State.sliceGate n.val (cf w 1 12 12 == 1))
      (schussCollision n.val) (sweepIssued n.val)))

/-! ## Start of a sweep (R75, R76) -/

/-- The checks of R75, in order. -/
def Sch.startErr (v : Sch) (x : SweepP) : Option Nat :=
  let vs := (maskSlots x.vecs).map v.vec
  if !pairOk x.wfmt x.afmt x.sparse then some 0
  else if decide (16384 < x.klen) || vs.any (fun y => match y with | some z => decide (z.klen < x.klen) | none => false) ||
      decide (4096 < x.col0 + x.cols) then some 1
  else if vs.any Option.isNone then some 2
  else if vs.any (fun y => match y with | some z => z.fmt != x.afmt | none => false) then some 0
  else none

/-- A sweep begins: it takes the path's next sequence number (R84), or is a replay, which counts (R81, R86). -/
def State.beginSweep (s : State) (n : Nat) (c : EngCmd) (replay : Bool) : State :=
  if replay then
    (s.modCore n (fun k => k.updateCmd c.id (fun d => { d with replays := d.replays + 1 }))).count (corePage n kSCH) 0x130 1
  else
    let seq := (s.core n).sch.seq + 1
    s.modCore n (fun k => { k.updateCmd c.id (fun d => { d with stage := .started, number := seq }) with
                            sch := { k.sch with seq := seq } })

/-- A sweep faults when it starts: the schuss path stops (R81). `page` is the page that reports, with its event's details. -/
def State.sweepFault (s : State) (n : Nat) (c : EngCmd) (replay : Bool) (page bitNo : Nat) (info0 info1 : Word) : State :=
  (((s.beginSweep n c replay).raiseFault n page bitNo info0 info1).modCore n (fun k => k.dropCmd c.id)).stopSchuss n |>.count
    (corePage n kSCH) 0x128 1

/-- STR_RANGE of a stream-fed sweep: E misaligned, or a unit outside the user area (R484). -/
def SweepP.rangeErr (x : SweepP) : Option Nat :=
  let a := x.slice.toNat
  if a % 512 ≠ 0 then some 0
  else if !inUser (a / 512 : Nat) ((a / 512 + x.streamUnits : Nat) - 1) then some 1
  else none

/-- One tile of a sweep: first column within the sweep, first K position, shape, weights. -/
structure SweepTile where
  col   : Nat
  k0    : Nat
  shape : Shape
  ws    : Weights
  deriving DecidableEq, Repr, Inhabited

/-- Stream-fed weights: the rank rows of each K tile of a file tile, back to back (R484). -/
def sweepRowsTiles (x : SweepP) (col w v : Nat) : List (Nat × Nat) → Nat → List SweepTile
  | [], _ => []
  | kt :: t, at_ =>
    let sh := x.shapeOf w kt.2
    { col := col, k0 := kt.1, shape := sh, ws := weightsOfRows sh (parseRows sh (List.range sh.h) (v >>> at_)) } ::
      sweepRowsTiles x col w v t (at_ + 8 * sh.bytes)

def streamTiles (x : SweepP) (fetch : Nat → Nat → List Row) : List (Nat × Nat) → Nat → List SweepTile
  | [], _ => []
  | ft :: t, u =>
    let m := x.fileTileUnits ft.2
    sweepRowsTiles x ft.1 ft.2 (rowsNat (fetch u m)) x.kTiles 0 ++ streamTiles x fetch t (u + m)

/-- Expander-fed weights: run `j` takes the next SLABS slabs, file tile by file tile and within it K tile by K tile
(R120); each tile with what its feed counts. A failing check ends the last feed, whose tile is not whole. -/
def expanderTiles (x : SweepP) (ts : TabSlot) (slabs : List Nat) : List (SweepTile × Feed) :=
  let runs := (x.fileTiles.map (fun ft => x.kTiles.map (fun kt => (ft, kt)))).flatten
  (runs.zipIdx).foldl (fun (acc : List (SweepTile × Feed)) r =>
    if acc.any (fun y => y.2.err.isSome) then acc
    else
      let sh := x.shapeOf r.1.1.2 r.1.2.2
      let f := readRun sh.squared false x.tslot ts ((slabs.drop (x.slabs * r.2)).take x.slabs)
      acc ++ [({ col := r.1.1.1, k0 := r.1.2.1, shape := sh, ws := weightsOfImages sh.squared f.images }, f)]) []

/-- Bands of a tile that are absent in every column: their rows are skipped (R97), file tile by file tile (log entry 70,
DEDUCED). -/
def SweepTile.skipped (t : SweepTile) : Nat :=
  ((List.range t.shape.bands).filter (fun b => (t.ws.absent.getD b []).all id)).length

/-- Work steps of a tile: 512 stored weight elements a step, 256 in BF16 and FP16 (R74, R86, R94, R97). -/
def SweepTile.steps (t : SweepTile) : Nat :=
  let stored := if t.shape.sparse = 0 then t.shape.kpr else 2
  let per := 512 / cadence t.shape.wfmt
  ((t.shape.h - t.shape.band * t.skipped) * stored * t.shape.w + per - 1) / per

/-- The newest value of an entry: an earlier sweep's working word, or the committed word (R76). -/
def Sch.newest (x : Sch) (key : Nat) : Word :=
  match x.running.reverse.findSome? (fun r => (r.working.find? (fun e => e.1 == key)).map (·.2)) with
  | some v => v
  | none => x.entry key

/-- The working words of a sweep (R76): the first K tile starts from the preload value and is added under SET or ADD,
each later tile is added to what the previous one left. -/
def Sch.sweepWords (v : Sch) (x : SweepP) (tiles : List SweepTile) (pre : List Row) : List (Nat × Word) :=
  let per := (x.cols + 127) / 128
  ((maskSlots x.vecs).zipIdx.map (fun m =>
    let vec := (v.vec m.1).getD default
    (x.fileTiles.map (fun ft => (List.range ft.2).map (fun f =>
      let col := ft.1 + f
      let key := sumKey (x.col0 + col) m.1
      let start : Word := if x.pre.isSome then word (rowElem (pre.getD (m.2 * per + col / 128) 0) 32 (col % 128)) else 0
      (key, (tiles.filter (fun t => t.col == ft.1)).foldl (fun (acc : Word) t =>
        let sum := runningSum t.shape t.ws (fun i => tensorElem x.afmt vec.rows (t.k0 + i)) (if t.k0 = 0 then start else 0) f
        accAdd x.wfmt sum (if t.k0 = 0 then (if x.add then v.newest key else 0) else acc)) 0)))).flatten)).flatten

/-- Columns and vectors of a command of the schuss path. -/
def EngCmd.sumRegion (c : EngCmd) : Option (Nat × Nat × BitVec 16) :=
  match c.op with
  | .sweep x => some (x.col0, x.cols, x.vecs)
  | .sdrain x => some (x.col0, x.cols, x.vecs)
  | _ => none

def shareSum (x y : Option (Nat × Nat × BitVec 16)) : Bool :=
  match x, y with
  | some (c, n, v), some (c', n', v') => overlap c n c' n' && (v &&& v') != 0
  | _, _ => false

def EngCmd.isSweep (c : EngCmd) : Bool := match c.op with | .sweep _ => true | _ => false
def EngCmd.isSdrain (c : EngCmd) : Bool := match c.op with | .sdrain _ => true | _ => false

/-- What the feeds of a sweep read and emitted counts once (R127, R152). -/
def State.countFeeds (s : State) (n : Nat) (c : EngCmd) (feeds : List (SweepTile × Feed)) : State :=
  if c.counted then s else feeds.foldl (fun s ft => s.countFeed n ft.2 ft.1.shape true) s

/-- A sweep's work counts once, its replays excluded (R86). -/
def State.countSweep (s : State) (n : Nat) (c : EngCmd) (x : SweepP) (tiles : List SweepTile)
    (feeds : List (SweepTile × Feed)) (pre : Nat) : State :=
  if c.counted then s
  else
    let s := (s.modCore n (fun k => k.updateCmd c.id (fun d => { d with counted := true }))).countRows n pre 0
    let s := s.countFeeds n c feeds
    let s := if x.stream then s.count (corePage n kSTR) 0x108 x.streamUnits else s
    s.count (corePage n kSCH) 0x100 (sumList (tiles.map SweepTile.steps))

/-- The sweep's tiles are there: it begins and counts, and holds its working words. -/
def State.enterSweep (s : State) (n : Nat) (c : EngCmd) (x : SweepP) (tiles : List SweepTile)
    (feeds : List (SweepTile × Feed)) (replay : Bool) : State :=
  let pre := (x.pre.map (s.readFor n c)).getD []
  let words := (s.core n).sch.sweepWords x tiles pre
  let s := (s.beginSweep n c replay).modSch n (fun v =>
    { v with running := v.running ++ [{ cmd := c.id, working := words }], aborted := v.aborted.filter (· != c.id) })
  (s.spendRace c).countSweep n c x tiles feeds pre.length

/-- Sweeps abort together (R81), the first of them given: they await replay in program order, or REPLAY_FAIL faults the job. -/
def State.abortSweeps (s : State) (n step source bitNo : Nat) (hit : List Nat) : State :=
  let seq := (s.core n).numberOf (hit.headD 0)
  if hit.all (s.mayReplay n kSCH) then
    (s.modSch n (fun v => { v with aborted := hit ++ v.aborted.filter (fun i => !hit.contains i) })).raise (corePage n kSCH) 3
      (schInfo step source bitNo) seq
  else
    ((s.raiseFault n kSCH 4 (schInfo step source bitNo) seq).modCore n (fun k => hit.foldl Core.dropCmd k)).stopSchuss n

/-- A sweep that reads a failed landing slot is aborted at its start (R251, R81). -/
def State.sweepHeader (s : State) (n : Nat) (c : EngCmd) (replay : Bool) (bad : List (Fin 4 × Word)) : State :=
  (((s.beginSweep n c replay).modSpm n (fun m => m.clearFailed bad)).count (corePage n kSCH) 0x128 1).abortSweeps n 0 4 3 [c.id]

/-- Start a sweep whose checks hold, once its weights are there and no entry waits for an earlier commit (R77, R211). -/
def State.startSweep (s : State) (n : Nat) (c : EngCmd) (x : SweepP) (replay : Bool) : State :=
  let k := s.core n
  let bad := k.spm.failedSlots (if x.stream then [] else [x.wts])
  if !bad.isEmpty then s.sweepHeader n c replay bad
  else if k.raceHeld s.free c then s
  else if k.inflight.any (fun d => decide (d.id < c.id) && d.isSweep && d.stage == .started && shareSum d.sumRegion c.sumRegion)
  then s.count (corePage n kSCH) 0x120 1
  else if x.stream then
    match x.rangeErr with
    | some d => s.sweepFault n c replay kSTR 0 (word (d * 2 ^ 24 + x.ctx.val * 32)) 0
    | none =>
      if k.sliceHazard c.id then s.count (corePage n kSTR) 0x128 1
      else s.enterSweep n c x (streamTiles x (s.units n) x.fileTiles (x.slice.toNat / 512)) [] replay
  else if k.loadAhead c x.tslot then s.count (corePage n kSCH) 0x118 1
  else
    let s := if x.replay then s else s.gather n c [x.wts]
    match (s.core n).command c.id with
    | none => s
    | some c =>
      if !(if x.replay then k.spm.fullFor x.wts else (s.core n).gathered c [x.wts]) then
        ((s.count (corePage n kSCH) 0x118 1).count (corePage n kSPM) 0x130 1).count (corePage n kEXP) 0x138 1
      else
        let rows := if x.replay then s.readFor n c x.wts else (s.sources n c [x.wts] c.got).headD []
        let feeds := expanderTiles x ((s.core n).exp.slot x.tslot) (slabsOf rows)
        match feeds.findSome? (fun f => f.2.err) with
        | some e =>
          let i := e.info x.tslot 16
          (s.countFeeds n c feeds).sweepFault n c replay kEXP e.bit i.1 i.2
        | none => s.enterSweep n c x (feeds.map (·.1)) feeds replay

/-- A sweep may start: its wait is met, its rows are free, and of the path's commands before it only drains are queued, whose
own waits are met: they wait for a commit, and the sweep may write working words past them (R78). -/
def Core.sweepReady (k : Core) (c : EngCmd) : Bool :=
  c.stage == .queued && k.spm.waitMet c.wait && k.rowsFree c &&
    ((k.queueOf .schuss).filter (fun d => decide (d.id < c.id) && d.stage == .queued)).all (fun d =>
      d.isSdrain && k.spm.waitMet d.wait)

/-- SWEEP_START: an aborted sweep that awaits replay first (R81), else the next queued sweep, after the checks of R75. -/
def execSweepStart (n : CoreId) (s : State) : Host.Outcome State Fault Refusal :=
  let k := s.core n.val
  if !s.engineStarts n.val || k.sch.stopped then .next s
  else match k.sch.aborted with
    | id :: _ =>
      match k.command id with
      | some c =>
        match c.op with
        | .sweep x => .next (s.startSweep n.val c x true)
        | _ => .next s
      | none => .next s
    | [] =>
      match k.inflight.find? (fun d => d.isSweep && d.stage == .queued) with
      | none => .next s
      | some c =>
        match c.op with
        | .sweep x =>
          if !k.sweepReady c then .next (s.countWait n.val c)
          else match k.sch.startErr x with
            | some b => .next (s.sweepFault n.val c false kSCH b (schInfo 0 0 b) (k.sch.seq + 1))
            | none => .next (s.startSweep n.val c x false)
        | _ => .next s

/-! ## Boundary and aborts (R77, R78, R81) -/

/-- SWEEP_BOUNDARY: the oldest sweep commits once every earlier drain has read the entries they share (R78); a
replayable sweep's slabs are released. -/
def execSweepBoundary (n : CoreId) (s : State) : Host.Outcome State Fault Refusal :=
  let k := s.core n.val
  match k.sch.running.head? with
  | none => .next s
  | some r =>
    match k.command r.cmd with
    | none => .next s
    | some c =>
      match c.op with
      | .sweep x =>
        if s.phase != .ready then .next s
        else if k.inflight.any (fun d => decide (d.id < c.id) && d.isSdrain && d.stage != .performed &&
            shareSum d.sumRegion c.sumRegion) then .next s
        else
          let s := s.modSch n.val (fun v =>
            { v with sums := r.working.foldl (fun m e => m.set wordZero e.1 e.2) v.sums,
                     running := v.running.filter (fun y => y.cmd != c.id) })
          let s := if x.replay then s.releaseFor n.val x.wts else s
          .next ((s.complete n.val c).count (corePage n.val kSCH) 0x108 1)
      | _ => .next s

/-- A transient abort of the sweeps that have begun, from command `cmd` on (R81). -/
def State.abortSweep (s : State) (n cmd source bitNo : Nat) : State :=
  let hit := ((s.core n).sch.running.filter (fun r => decide (cmd ≤ r.cmd))).map (·.cmd)
  if hit.isEmpty then s
  else
    let s := s.modSch n (fun v => { v with running := v.running.filter (fun r => decide (r.cmd < cmd)) })
    (s.count (corePage n kSCH) 0x128 hit.length).abortSweeps n 1 source bitNo hit

/-- SCHUSS_HANG: as R66 for the schuss path (R81). -/
def execSchussHang (n : CoreId) (s : State) : Host.Outcome State Fault Refusal :=
  let k := s.core n.val
  let hit := k.sch.running.map (·.cmd)
  let seq := k.numberOf (hit.headD 0)
  if !bit (s.reg (corePage n.val kSCH) 0x40) 0 || hit.isEmpty || s.phase != .ready then .next s
  else
    let fences := bit (s.page (corePage n.val kSCH)).fence 5
    let replays := fences && hit.all (s.mayReplay n.val kSCH)
    let s := (s.count (corePage n.val kSCH) 0x128 hit.length).raise (corePage n.val kSCH) 5 (schInfo 1 0 5) seq
    let s := s.modSch n.val (fun v => { v with running := [] })
    if replays then .next (s.modSch n.val (fun v => { v with aborted := hit ++ v.aborted }))
    else
      let s := if fences then s.raiseFault n.val kSCH 4 (schInfo 1 0 5) seq
        else s.faultCore n.val (corePage n.val kSCH) 5
      .next ((s.modCore n.val (fun k => hit.foldl Core.dropCmd k)).stopSchuss n.val)

/-! ## SDRAIN (R77, R169) -/

def captureSdrain (w : BitVec 128) (k : Core) : Capture :=
  let vecs := BitVec.ofNat 16 (cf w 0 31 16)
  let cols := 64 * (cf w 2 17 12 + 1)
  let fmt := cf w 2 21 18
  let cnt := ((maskSlots vecs).length * cols * fmtBits fmt + 4095) / 4096
  let (r, m) := resolve k.seq k.spm .schWr (cw w 1) cnt none
  { req := .schuss,
    op := .sdrain { vecs := vecs, col0 := cf w 2 11 0, cols := cols, fmt := fmt, sat := cf w 2 22 22 == 1,
                    sr := cf w 2 23 23 == 1, srcInt := cf w 2 24 24 == 1, e := k.seq.ext w, rowLen := lo32 (k.seq.ext1 w),
                    opnd := r.opnd },
    ops := [r], spm := m, seqErr := none, dmR := [], dmW := [] }

/-- The elements of a drain with the bits written: vector by vector in increasing slot number, column by column; `v` is
the vector's place among the named slots (R169). -/
def Sch.drained (v : Sch) (x : SdrainP) (d : Draw) : List (Word64 × Nat) :=
  ((maskSlots x.vecs).zipIdx.map (fun m => (List.range x.cols).map (fun f =>
    let i := tensorIndex x.e x.rowLen m.2 f
    (i, drainEntry x.fmt x.sat x.srcInt (d.rnd x.sr i.toNat) (v.entry (sumKey (x.col0 + f) m.1)))))).flatten

/-- SDRAIN waits for the commit of every earlier sweep of a shared entry; columns past 4,095 raise SCH_RANGE, which
stops the path (R77, R78, R378). -/
def performSdrain (n : Nat) (s : State) (c : EngCmd) : State :=
  let k := s.core n
  match c.op with
  | .sdrain x =>
    if !k.startReady c then s
    else if 4096 < x.col0 + x.cols then
      ((s.raiseFault n kSCH 1 (schInfo 2 0 1) k.sch.seq).modCore n (fun k => k.dropCmd c.id)).stopSchuss n
    else if k.inflight.any (fun d => decide (d.id < c.id) && d.isSweep && shareSum d.sumRegion c.sumRegion) then s
    else if c.tracked && k.trk.ringBlocks c.round c.layer then s.count (corePage n kTRK) 0x118 1
    else
      let xs := k.sch.drained x (s.draw n c)
      let s := s.writeFor n c x.opnd (packRows x.fmt (xs.map (·.2)))
      (s.trackDrain n c x.fmt xs).performed n c 0 x.opnd.rows.length
  | _ => s

def execSdrain (n : CoreId) (s : State) : Host.Outcome State Fault Refusal :=
  .next (s.issue n.val (isOp 0x3A) (fun _ w => badOperand (cw w 1) || !drainFmtOk (cf w 2 21 18))
    (fun w s => s.engineOff n.val w .schuss)
    (fun w s => s.engineOnGated n.val w (captureSdrain w (s.core n.val)) (State.trackGate n.val 0x3A) (schussCollision n.val)
      (fun s c =>
        let s := s.trackIssued n.val c
        performSdrain n.val s (((s.core n.val).command c.id).getD c))))

end Sys2Proof.Machine
end

