-- ==== Sys2Proof/Machine/Lift.lean ====
section
/-!
DEFINITION. The lift (R18-R23, R246-R260): loss and stall, the chairs a station holds, launching, forwarding and landing,
demand laps, return laps and the quiesce frame.
-/
namespace Sys2Proof.Machine

/-! ## Lift jobs and events -/

/-- Tasks whose job is a lift job (R349). -/
def State.liftTasks (s : State) : List Nat :=
  (List.range 64).filter (fun t => match (s.task t).bind (·.job) with
    | some j => j.lift
    | none => false)

/-- A LIFT notice (R363) to ring 0. -/
def State.liftEvent (s : State) (ev pos side : Nat) : State :=
  let pay := ev + pos * 2 ^ 8 + side * 2 ^ 16 + s.liftLen * 2 ^ 24 + s.lift.epoch.toNat * 2 ^ 32 + s.liftId * 2 ^ 48
  s.post 0 { type := 4, error := false, ctx := 0xFFFF, time := s.time, payload := BitVec.ofNat 128 pay }

/-- INFO0 of an LFC event (R262). -/
def lfcInfo (detail bitNo core pos : Nat) : Word := cause bitNo (detail * 2 ^ 24 + core % 64 * 256 + pos % 128)

/-- Commands of a core that read region 0, the lift landing region. -/
def EngCmd.readsLanding (c : EngCmd) : Bool :=
  let names := fun (o : Operand) => match o.circ with
    | some (r, _) => r.val == 0
    | none => false
  match c.op with
  | .pass x => names x.act || names x.wts || (x.pre.map names).getD false
  | .sweep x => names x.wts
  | _ => false

/-- Passes and sweeps that wait on or hold landing slots are aborted and not replayed, with the later passes of their
partitions (R256, R63). -/
def State.abortLanding (s : State) (n : Nat) : State :=
  let k := s.core n
  let hit := k.inflight.filter EngCmd.readsLanding
  let gone := fun (d : EngCmd) => hit.any (fun h => h.req == d.req && decide (h.id ≤ d.id) &&
    (match d.op with
     | .pass _ => true
     | .sweep _ => true
     | _ => false))
  let dropped := (k.inflight.filter gone).map (·.id)
  let keep := fun (r : Running) => !dropped.contains r.cmd
  let started := ((List.range 16).map (fun p => ((k.arr.part p).running.filter (fun r => !keep r)).length)).foldl (· + ·) 0
  let s := s.modCore n (fun k => { k with
    inflight := k.inflight.filter (fun d => !dropped.contains d.id),
    sch := { k.sch with running := k.sch.running.filter keep,
                        aborted := k.sch.aborted.filter (fun i => !dropped.contains i) },
    arr := { k.arr with parts := (List.range 16).foldl (fun m p =>
      let q := k.arr.part p
      m.set partDefault p { q with running := q.running.filter keep,
                                   aborted := q.aborted.filter (fun i => !dropped.contains i) }) k.arr.parts } })
  let s := if started = 0 then s else s.count (corePage n kARR) 0x130 started
  let swept := (k.sch.running.filter (fun r => !keep r)).length
  if swept = 0 then s else s.count (corePage n kSCH) 0x128 swept

/-- Chairs, contributions, laps and the lift queues' commands are discarded (R256, steps 2 and 3). A link that stays up
returns the entries. -/
def State.dropLift (s : State) (linksStay : Bool) : State :=
  let dem := (s.lift.demands.filter (fun d => d.2.2)).length
  let port := fun (x : Side) (p : LiftPort) =>
    let d := p.rxDemand.length + (if x == .down then dem else 0)
    { p with rxDemand := [], rxChair := none, through := none, rxGrad := [], sentUsed := p.sentUsed - p.through.getD 0,
             replay := if linksStay then p.replay else [], freed := p.freed + BitVec.ofNat 16 p.rxUsed, rxUsed := 0,
             demandFreed := p.demandFreed + BitVec.ofNat 3 d }
  let s := (s.modLiftPort .up (port .up)).modLiftPort .down (port .down)
  let s := s.modLift (fun l => { l with ownQ := [], held := [], demands := [], contribs := [], laps := [],
                                        turnUp := 0, turnDown := 0 })
  (List.range 64).foldl (fun s n =>
    s.modCore n (fun k => { k with inflight := k.inflight.filter (fun d => d.req != .lift) })) s

/-- Every lift job of the station faults with an LFC event (R256 step 4), its held batches with it (R314); the traverse of a
coupled job is told. -/
def State.faultLift (s : State) (bitNo : Nat) : State :=
  let code := s.faultCode pLFC bitNo
  s.liftTasks.foldl (fun s t =>
    match (s.task t).bind (·.job), s.task t with
    | some j, some x =>
      let s := (x.coreList.foldl State.abortLanding s).modJob t (fun j => { j with held := [] })
      if j.fault.isSome then s else (s.faultLocal t code).tellPeers j false true
    | _, _ => s) s

/-- The station enters the broken state (R256). -/
def State.breakLift (s : State) (pos side : Nat) : State :=
  let s := s.modLift (fun l => { l with state := .broken, asked := false })
  let s := s.raise pLFC 1 (lfcInfo side 1 0 pos) 0
  ((s.dropLift false).faultLift 1).liftEvent 1 pos side

/-- The station declares a loss with a side's port gone: it tells the other side (R256). -/
def State.declareLoss (s : State) (x : Side) (side : Nat) : State :=
  if s.lift.isFormed then
    (s.breakLift s.liftPos side).sendMsg (otherSide x) (.notice false s.liftPos side)
  else s

/-- A deliberate break: side 3, told to both sides (R260). -/
def State.deliberateBreak (s : State) : State :=
  let s := s.breakLift s.liftPos 3
  (s.sendMsg .up (.notice false s.liftPos 3)).sendMsg .down (.notice false s.liftPos 3)

/-- After a stall, which may be a station's failed swap, station 0 arms its bundles again (R314; log entry 84, DESIGN CHOICE). -/
def State.rearm (s : State) : State :=
  (List.range 64).foldl (fun s b => if (s.bundle b).released then s.modBundle b (fun x => { x with released := false }) else s) s

/-- A stall, own or reported: the lift jobs fault and the lift stays formed (R258). -/
def State.stallLift (s : State) (pos : Nat) : State :=
  let s := s.raise pLFC 2 (lfcInfo 0 2 0 pos) 0
  (((s.faultLift 2).dropLift true).liftEvent 2 pos 0).rearm

/-- LIFT_NOTICE: a loss breaks the lift, a stall faults its jobs, at a formed station and again at one already broken; the
notice goes on until a link on that side is down or it is back at the station that sent it (R256, R258; log entry 51, DEDUCED). -/
def execLiftNotice (side : Side) (stall : Framed Bool) (position : BitVec 7) (failedSide : BitVec 2) (s : State) :
    Host.Outcome State Fault Refusal :=
  .next (s.receiveMsg side stall.frame 3 (fun s =>
    if !(s.lift.isFormed || s.lift.state == .broken) || position.toNat == s.liftPos then s
    else
      let out := otherSide side
      let s' := if stall.body then s.stallLift position.toNat else s.breakLift position.toNat failedSide.toNat
      if s.linkUp out then s'.sendMsg out (.notice stall.body position.toNat failedSide.toNat) else s'))

/-- LOSS_TIMEOUT: a port has seen no valid frame for LFC_LOSS.TIMEOUT_US (R256). -/
def execLossTimeout (side : Side) (s : State) : Host.Outcome State Fault Refusal :=
  if s.phase == .ready then .next (s.declareLoss side 2) else .next s

/-- LINK_RETRAIN_DONE: RETRAINED and a resend, or LINK_DOWN and the loss of the station (R243). -/
def execLinkRetrainDone (side : Side) (lanes : BitVec 32) (s : State) : Host.Outcome State Fault Refusal :=
  if s.phase != .ready || s.linkState side ≠ 3 then .next s
  else
    let s := s.count (pLFT side) 0x148 1
    if lanes = BitVec.allOnes 32 then
      let s := (s.setLink side lanes 2).linkEvent side 1
      .next ((s.modLiftPort side (fun p => { p with replay := p.replay.map (fun f => { f with sends := 0 }) })).resendFrames side)
    else .next (((s.setLink side lanes 0).linkEvent side 0).declareLoss side (sideNat side))

/-! ## Held chairs, regions and credit (R18, R244, R250) -/

def chairSize (c : Chair) : Nat := chairFrames c.hdr.rows

def State.freeEntries (s : State) (x : Side) (k : Nat) : State :=
  s.modLiftPort x (fun p => { p with rxUsed := p.rxUsed - k, freed := p.freed + BitVec.ofNat 16 k })

/-- Chairs with nothing left to do leave, and their entries are freed. -/
def State.settleHeld (s : State) : State :=
  let done := s.lift.held.filter (fun h => h.left == 0 && !h.waiting)
  let s := done.foldl (fun s h => match h.side with
    | some x => s.freeEntries x (chairSize h.chair)
    | none => s) s
  s.modLift (fun l => { l with held := l.held.filter (fun h => !(h.left == 0 && !h.waiting)) })

/-- The first core of a mask that the part does not present (R18, R385). -/
def State.unpresented (s : State) (mask : Word64) : Option Nat :=
  (setBits mask).find? (fun n => !s.isPresented n || (s.hostOf n).isNone)

/-- The first core of a mask without a lift landing region (R250). -/
def State.regionless (s : State) (mask : Word64) : Option Nat :=
  (setBits mask).find? (fun n => (s.core n).task.isNone || !((s.core n).spm.circ 0).cfg.valid)

/-- A chair that no region takes is discarded: LIFT_ARG with DETAIL 8, and the lift's jobs fault (R250). -/
def State.noRegion (s : State) (h : ChairHdr) (n : Nat) : State :=
  let code := s.faultCode pLFC 4
  let s := s.raise pLFC 4 (lfcInfo 8 4 n h.origin) h.seq
  s.liftTasks.foldl (fun s t => s.faultTask t code) s

/-- A mask that names a core not presented is a chair-header fault: the chair is discarded, and each copy fails its check in
its turn, so that the pass that reads the slot faults (R18, R251; log entry 49, DEDUCED). -/
def State.badMask (s : State) (h : ChairHdr) (n : Nat) : State :=
  let s := s.raise pLFC 3 (lfcInfo 0 3 n h.origin) h.seq
  let here := (setBits h.mask).filter (fun c => s.isPresented c && (s.hostOf c).isSome && ((s.core c).spm.circ 0).cfg.valid)
  s.modLift (fun l => { l with held := l.held ++
    [{ chair := { hdr := h, rows := [] }, side := none, left := here.foldl (fun m c => m ||| (1#64 <<< c)) 0, waiting := false,
       stale := 0, bad := true, grad := none }] })

/-- The station at which R21 retires a chair. -/
def State.retires (s : State) (h : ChairHdr) : Bool :=
  let n := s.liftLen
  match h.dir with
  | .uphill => s.liftPos == (h.origin + n - 1) % n
  | .downhill => s.liftPos == (h.origin + 1) % n

def turnOf (l : Lift) : Dir → Nat
  | .uphill => l.turnUp
  | .downhill => l.turnDown

def setTurn (l : Lift) (d : Dir) (k : Nat) : Lift :=
  match d with
  | .uphill => { l with turnUp := k }
  | .downhill => { l with turnDown := k }

/-- A port can take the frames of a whole chair: credit and replay room, beside what a chair cut through still needs (R243,
R244). -/
def State.credit (s : State) (x : Side) (k : Nat) : Bool := decide ((s.liftPort x).sentUsed + k ≤ 512)
def State.replayRoom (s : State) (x : Side) (k : Nat) : Bool := 
  decide ((s.liftPort x).replay.length + (s.liftPort x).through.getD 0 + k ≤ 64)

/-- The frame header of frame `i` of a chair. -/
def State.chairHead (s : State) (h : ChairHdr) (i : Nat) : FrameHdr :=
  { ftype := 0, kind := h.kind.val, down := h.dir == .downhill, first := i == 0, last := i + 1 == chairFrames h.rows,
    origin := h.origin, id := s.liftId, epoch := s.lift.epoch.toNat, len := 512 * min 16 (h.rows - 16 * i), mask := h.mask,
    seq := h.seq, rows1 := h.rows - 1, index := i, core := h.core }

def rowBytes (rows : List Row) : List Byte := (rows.map (fun r => leBytes 512 r.toNat)).flatten

/-- `n` rows from bytes. -/
def bytesToRows : Nat → List Byte → List Row
  | 0, _ => []
  | n + 1, bs => BitVec.ofNat 4096 (leNat (bs.take 512)) :: bytesToRows n (bs.drop 512)

/-- Send every frame of a chair back to back. -/
def State.sendChair (s : State) (x : Side) (c : Chair) : State :=
  let k := chairSize c
  let s := (List.range k).foldl (fun s i =>
    s.sendFrame x (s.chairHead c.hdr i) (rowBytes ((c.rows.drop (16 * i)).take 16))) s
  s.modLiftPort x (fun p => { p with sentUsed := p.sentUsed + k })

/-! ## Demand chairs (R252) -/

/-- Frame header of a demand chair: one frame of 32 data bytes. -/
def State.demandHead (s : State) (h : ChairHdr) : FrameHdr :=
  { ftype := 0, kind := 3, down := h.dir == .downhill, first := true, last := true, origin := h.origin, id := s.liftId,
    epoch := s.lift.epoch.toNat, len := 32, mask := 0, seq := h.seq, rows1 := 0, index := 0, core := h.core }

/-- Send the demand chairs that wait, while the neighbour has a demand entry free; they go ahead of chairs. -/
def State.sendDemands (fuel : Nat) (s : State) : State :=
  match fuel with
  | 0 => s
  | fuel + 1 =>
    match s.lift.demands with
    | [] => s
    | (h, bits, held) :: t =>
      if decide (4 ≤ (s.liftPort .up).demandUsed) || !s.replayRoom .up 1 || !s.linkUp .up then s
      else
        let s := s.sendFrame .up (s.demandHead h) (leBytes 32 bits.toNat)
        let s := s.modLiftPort .up (fun p => { p with demandUsed := p.demandUsed + 1 })
        let s := s.modLift (fun l => { l with demands := t })
        let s := if held then (s.modLiftPort .down (fun p => { p with demandFreed := p.demandFreed + 1 })).count pLFC 0x110 1
          else s.count pLFC 0x100 1
        State.sendDemands fuel s

def Lift.lap (l : Lift) (d : Nat) : DemandLap :=
  (l.laps.find? (fun a => a.lap == d)).getD { lap := d, bits := 0, own := 0, others := 0, sent := false }

def Lift.setLap (l : Lift) (a : DemandLap) : Lift :=
  if l.laps.any (fun b => b.lap == a.lap) then { l with laps := l.laps.map (fun b => if b.lap == a.lap then a else b) }
  else { l with laps := l.laps ++ [a] }

/-- The demand cores of LFC_DEMAND_CORES. -/
def State.demandCores (s : State) : Word64 := s.reg pLFC 0x5C ++ s.reg pLFC 0x58

/-- A started DEMAND of a core: its command and data-memory address. -/
def Core.openDemand (k : Core) : Option (Nat × Nat) :=
  k.inflight.findSome? (fun d => match d.op with
    | .demand a => if d.stage == .started then some (d.id, a) else none
    | _ => none)

/-- A lap that holds every mask completes: the OR is written to each demand core's address, every DEMAND of the lap is
performed, and the next demand chairs may enter (R252). -/
def State.finishLap (s : State) (d : Nat) : State :=
  let a := s.lift.lap d
  if a.sent && decide (s.liftLen - 1 ≤ a.others) then
    let s := (setBits a.own).foldl (fun s n =>
      match (s.core n).openDemand with
      | some (id, addr) =>
        (s.modSeq n (fun q => { q with dmem := dmWrite q.dmem addr 32 a.bits.toNat })).markStage n id .performed
      | none => s) s
    (s.modLift (fun l => { l with laps := l.laps.filter (fun b => b.lap != d), demanded := l.demanded + 1 })).count
      pLFC 0x120 1
  else s

/-- OR a received mask into its lap and pass the chair on (R252). -/
def State.takeDemand (s : State) (h : ChairHdr) (bits : BitVec 256) : State :=
  let a := s.lift.lap h.seq.toNat
  let s := s.modLift (fun l => l.setLap { a with bits := a.bits ||| bits, others := a.others + 1 })
  let s :=
    if s.retires h then (s.modLiftPort .down (fun p => { p with demandFreed := p.demandFreed + 1 })).count pLFC 0x118 1
    else State.sendDemands 8 (s.modLift (fun l => { l with demands := l.demands ++ [(h, bits, true)] }))
  s.finishLap h.seq.toNat

/-- Demand chairs that waited for an accumulator enter, in order. -/
def State.admitDemands (fuel : Nat) (s : State) : State :=
  match fuel with
  | 0 => s
  | fuel + 1 =>
    match (s.liftPort .down).rxDemand with
    | [] => s
    | (h, bits) :: t =>
      if h.seq.toNat < s.lift.demanded + 4 then
        State.admitDemands fuel ((s.modLiftPort .down (fun p => { p with rxDemand := t })).takeDemand h bits)
      else s

/-! ## Lift commands (R246, R252, R254) -/

/-- LIFT_ARG: program class; the core's lift queue stops with it. -/
def State.liftArg (s : State) (n detail pos : Nat) (seq : Word) : State :=
  let s := (s.raise pLFC 4 (lfcInfo detail 4 n pos) seq).faultCore n pLFC 4
  let s := s.modCore n (fun k => { k with inflight := k.inflight.filter (fun d => d.req != .lift) })
  s.modLift (fun l => { l with ownQ := l.ownQ.filter (fun o => !(o.core == n && o.chair.isNone)) })

/-- Does the core run a lift job? -/
def State.inLiftJob (s : State) (n : Nat) : Bool :=
  match s.coreJob n with
  | some j => j.lift
  | none => false

def captureLaunch (w : BitVec 128) (k : Core) : Capture :=
  let rows := cf w 2 6 0 + 1
  let slice := cf w 0 19 19 == 1
  let e1 := k.seq.ext1 w
  let (r, m) := resolve k.seq k.spm .liftRd (cw w 1) (if slice then 0 else rows) none
  { req := .lift,
    op := .launch { dir := if cf w 0 16 16 = 0 then .uphill else .downhill, kind := cf w 0 18 17, slice := slice,
                    rows := rows, mask := k.seq.ext w, seq := lo32 e1, unit := (hi32 e1).toNat, opnd := r.opnd },
    ops := if slice then [] else [r], spm := m, seqErr := none, dmR := [], dmW := [] }

/-- A LAUNCH takes its place in the launch order and, from the slice, in the slice window (R211, R247). -/
def launchIssued (n : Nat) (s : State) (c : EngCmd) : State :=
  match c.op with
  | .launch x =>
    let s := s.modLift (fun l => { l with ownQ := l.ownQ ++ [{ core := n, cmd := c.id, chair := none }] })
    if x.slice then s.enterSlice n { cmd := c.id, lo := 512 * x.unit, hi := 512 * (x.unit + x.rows) - 1, writes := false } else s
  | _ => s

def State.launchErr (s : State) (n : Nat) (x : LaunchP) : Option Nat :=
  if !s.lift.isFormed then some 0
  else if x.mask = 0 then some 1
  else if (s.unpresented x.mask).isSome then some 2
  else if x.kind = 1 then some 3
  else if !s.inLiftJob n then some 7
  else none

/-- Units of a slice read; a unit outside the user area cannot be addressed by the lift (R203) and gives a free value. -/
def State.launchUnits (s : State) (n : Nat) (x : LaunchP) : List Row :=
  (List.range x.rows).map (fun i =>
    if 512 * (x.unit + i) < sliceUser then s.unit n (x.unit + i) else Config.freeRow (s.free + i))

/-- A LAUNCH reads its rows; its chair then waits to leave (R246). -/
def performLaunch (n : Nat) (s : State) (c : EngCmd) : State :=
  let k := s.core n
  match c.op with
  | .launch x =>
    let x := { x with mask := x.mask <<< s.coreBase n }
    if !k.ready c || k.raceHeld s.free c || s.lift.state == .quiescing || s.lift.state == .quiescent then s
    else match s.launchErr n x with
      | some d => s.liftArg n d s.liftPos x.seq
      | none =>
        if x.slice && k.str.asleep then s.count (corePage n kSTR) 0x120 1
        else if x.slice && k.sliceHazard c.id then s.count (corePage n kSTR) 0x128 1
        else
          let rows := if x.slice then s.launchUnits n x else s.readFor n c x.opnd
          let h : ChairHdr := { kind := Fin.ofNat 4 x.kind, dir := x.dir, origin := s.liftPos, mask := x.mask, seq := x.seq,
                                rows := x.rows, core := 0 }
          let s := s.modLift (fun l => { l with ownQ := l.ownQ.map (fun o =>
            if o.core == n && o.cmd == c.id then { o with chair := some { hdr := h, rows := rows } } else o) })
          let s := if x.slice then s.takeFree x.rows else s
          s.performed n c (if x.slice then 0 else rows.length) 0
  | _ => s

/-- LAUNCH: a place in the launch order. One from the slice is read under COMMAND_COMPLETION (R215, R246). -/
def execLaunch (n : CoreId) (s : State) : Host.Outcome State Fault Refusal :=
  .next (s.issue n.val (isOp 0x58) (fun k w => badW1 k w || cf w 0 18 17 == 3) (fun w s => s.engineOff n.val w .lift)
    (fun w s => s.engineOnGated n.val w (captureLaunch w (s.core n.val)) (State.sliceGate n.val (cf w 0 19 19 == 1)) id
      (fun s c =>
        let s := launchIssued n.val s c
        if cf w 0 19 19 = 1 then s else performLaunch n.val s c)))

def captureDemand (w : BitVec 128) (_ : Core) : Capture :=
  let a := cf w 1 15 0
  { req := .lift, op := .demand a, ops := [], spm := default, seqErr := if a % 32 = 0 then none else some 5,
    dmR := [(a, 32)], dmW := [(a, 32)] }

/-- A DEMAND contributes its mask to its lap; the last demand core launches the station's chair (R252). -/
def performDemand (n : Nat) (s : State) (c : EngCmd) : State :=
  let k := s.core n
  match c.op with
  | .demand a =>
    let d := k.lift
    if !k.ready c || s.lift.state == .quiescing || s.lift.state == .quiescent then s
    else if !s.lift.isFormed then s.liftArg n 0 s.liftPos (word d)
    else if !((s.coreJob n).any (fun j => bit j.demandCores n)) then s.liftArg n 5 s.liftPos (word d)
    else if !s.inLiftJob n then s.liftArg n 7 s.liftPos (word d)
    else if s.lift.demanded + 4 ≤ d then s
    else
      let mask := BitVec.ofNat 256 (dmRead k.seq.dmem a 32)
      let s := (s.modCore n (fun k => { k with lift := k.lift + 1 })).markStage n c.id .started
      let l := s.lift.lap d
      let own := l.own ||| (1#64 <<< n)
      let all := own &&& s.demandCores == s.demandCores
      let l := { l with own := own, bits := l.bits ||| mask, sent := l.sent || all }
      let s := s.modLift (fun v => v.setLap l)
      let s := if all then
          let own := ((setBits own).map (fun i => if i = n then mask else
            match (s.core i).openDemand with
            | some (_, a) => BitVec.ofNat 256 (dmRead (s.core i).seq.dmem a 32)
            | none => 0)).foldl (· ||| ·) 0
          let h : ChairHdr := { kind := 3, dir := .uphill, origin := s.liftPos, mask := 0, seq := word d, rows := 1, core := n }
          State.sendDemands 8 (s.modLift (fun v => { v with demands := v.demands ++ [(h, own, false)] }))
        else s
      State.admitDemands 4 (s.finishLap d)
  | _ => s

def execDemand (n : CoreId) (s : State) : Host.Outcome State Fault Refusal :=
  .next (s.engineCommand n.val (isOp 0x59) noBad (fun _ => .lift)
    (fun w k => { captureDemand w k with spm := k.spm }) id (performDemand n.val))

/-! ## Return laps (R253, R254) -/

def captureGrad (w : BitVec 128) (k : Core) : Capture :=
  let rows := cf w 2 6 0 + 1
  let (r, m) := resolve k.seq k.spm .liftRd (cw w 1) rows none
  { req := .lift,
    op := .grad { dir := if cf w 0 16 16 = 0 then .uphill else .downhill, origin := cf w 0 23 17, rows := rows,
                  seq := lo32 (k.seq.ext w), opnd := r.opnd },
    ops := [r], spm := m, seqErr := none, dmR := [], dmW := [] }

/-- Chairs of the contribution buffer in use in one direction. -/
def Lift.buffered (l : Lift) (d : Dir) : Nat :=
  (l.contribs.filter (fun c => c.x.dir == d)).length +
    (l.ownQ.filter (fun o => match o.chair with
      | some c => c.hdr.kind.val == 1 && c.hdr.dir == d
      | none => false)).length

/-- The station that a return lap starts at. -/
def State.gradFirst (s : State) (x : GradP) : Bool :=
  let n := s.liftLen
  match x.dir with
  | .uphill => s.liftPos == (x.origin + 1) % n
  | .downhill => s.liftPos == (x.origin + n - 1) % n

/-- Lane-by-lane FP32 addition (R253). -/
def addLanes (a b : Row) : Row :=
  rowOfElems 32 ((List.range 128).map (fun i => (fadd (word (rowElem a 32 i)) (word (rowElem b 32 i))).toNat))

/-- An arriving gradient chair meets its contribution: a row mismatch breaks the lift, else the sum goes on, or lands at
the origin (R253, R254). -/
def State.addGrad (s : State) (x : Side) (c : Chair) (g : Contribution) : State :=
  let s := s.modLift (fun l => { l with contribs := l.contribs.erase g })
  if c.hdr.rows ≠ g.x.rows then
    let s := s.freeEntries x (chairSize c)
    let code := s.faultCode pLFC 4
    let s := s.raise pLFC 4 (lfcInfo 6 4 g.core c.hdr.origin) c.hdr.seq
    let s := s.liftTasks.foldl (fun s t => match (s.task t).bind (·.job) with
      | some j => if j.fault.isSome then s else (s.faultLocal t code).tellPeers j false true
      | none => s) s
    if s.lift.isFormed then s.deliberateBreak else s
  else
    let sum : Chair := { c with rows := List.zipWith addLanes c.rows g.rows }
    let s := s.count pLFC 0x128 1
    if s.liftPos = g.x.origin then
      (s.modLift (fun l => { l with held := l.held ++
        [{ chair := sum, side := some x, left := 1#64 <<< g.core, waiting := false, stale := 0, bad := false,
           grad := some (g.core, g.cmd) }] }))
    else
      (s.markStage g.core g.cmd .performed).modLift (fun l => { l with held := l.held ++
        [{ chair := sum, side := some x, left := 0, waiting := true, stale := 0, bad := false, grad := none }] })

/-- A GRAD reads its contribution: the first station sends it, the others hold it for the chair. -/
def performGrad (n : Nat) (s : State) (c : EngCmd) : State :=
  let k := s.core n
  match c.op with
  | .grad x =>
    if !k.ready c || k.raceHeld s.free c || s.lift.state == .quiescing || s.lift.state == .quiescent then s
    else if !s.lift.isFormed then s.liftArg n 0 x.origin x.seq
    else if s.liftLen ≤ x.origin then s.liftArg n 4 x.origin x.seq
    else if !s.inLiftJob n then s.liftArg n 7 x.origin x.seq
    else if 16 ≤ s.lift.buffered x.dir then s
    else
      let rows := s.readFor n c x.opnd
      if s.gradFirst x then
        let h : ChairHdr := { kind := 1, dir := x.dir, origin := x.origin, mask := 1#64 <<< n, seq := x.seq, rows := x.rows,
                              core := n }
        ((s.modLift (fun l => { l with ownQ := l.ownQ ++ [{ core := n, cmd := c.id, chair := some { hdr := h, rows := rows } }] })).count
          pLFC 0x128 1).performed n c rows.length 0
      else
        let g : Contribution := { core := n, cmd := c.id, x := x, rows := rows }
        let s := s.modLift (fun l => { l with contribs := l.contribs ++ [g] })
        let s := (s.performed n c rows.length 0).markStage n c.id .started
        let y := otherSide (dirSide x.dir)
        match (s.liftPort y).rxGrad.find? (fun ch => ch.hdr.origin == x.origin && ch.hdr.core == n && ch.hdr.seq == x.seq &&
            ch.hdr.dir == x.dir) with
        | some ch => (s.modLiftPort y (fun p => { p with rxGrad := p.rxGrad.erase ch })).addGrad y ch g
        | none => s
  | _ => s

def execGrad (n : CoreId) (s : State) : Host.Outcome State Fault Refusal :=
  .next (s.engineCommand n.val (isOp 0x5A) badW1 (fun _ => .lift) captureGrad id (performGrad n.val))

/-! ## Egress (R247, R248) -/

/-- Own chairs in launch order, those of dropped commands left out. -/
def State.ownLive (s : State) : List OwnChair :=
  s.lift.ownQ.filter (fun o => o.chair.isSome || (s.core o.core).isInflight o.cmd)

/-- The slot's sequence `q` of a landing region has landed: the slot holds it or has gone past it. -/
def Circ.hasLanded (c : Circ) (q : Nat) : Bool :=
  let x := c.slot (c.index (word q))
  decide ((0 : Int) < (x.expected - word q).toInt) || (x.expected == word q && x.full)

/-- Every sequence below `q - W` has landed on the cores of the mask (R247). -/
def State.windowOpen (s : State) (mask : Word64) (q : Nat) : Bool :=
  let lim := q - max 1 (bits (s.reg pLFC 0x4C) 6 0)
  (setBits mask).all (fun n =>
    let c := (s.core n).spm.circ 0
    let m := max 1 c.cfg.slots
    (List.range (min m lim)).all (fun i => c.hasLanded (i + (lim - 1 - i) / m * m)))

/-- The own chair that may leave in a direction: the first of the launch order, its window open. -/
def State.ownReady (s : State) (d : Dir) : Option (OwnChair × Chair) :=
  match s.ownLive with
  | [] => none
  | o :: _ => match o.chair with
    | none => none
    | some c =>
      if c.hdr.dir == d && (c.hdr.kind.val == 1 || s.windowOpen c.hdr.mask c.hdr.seq.toNat) then some (o, c) else none

/-- The forwarded chair that is next in a direction. -/
def State.forwardReady (s : State) (d : Dir) : Option Held :=
  s.lift.held.find? (fun h => h.waiting && h.chair.hdr.dir == d)

/-- An own chair leaves, and lands on the station's own cores (R20). One for a core that is no longer presented is a
chair-header fault (R18); one without landing regions is discarded (R250). -/
def State.sendOwn (s : State) (d : Dir) (o : OwnChair) (c : Chair) : State :=
  let s := s.modLift (fun l => { l with ownQ := s.ownLive.erase o })
  let lands := c.hdr.kind.val != 1
  match (if lands then s.unpresented c.hdr.mask else none), (if lands then s.regionless c.hdr.mask else none) with
  | some n, _ => s.badMask c.hdr n
  | none, some n => s.noRegion c.hdr n
  | none, none =>
    let s := s.sendChair (dirSide d) c
    let s := s.modLift (fun l => setTurn l d (s.liftLen - 2))
    if c.hdr.kind.val = 1 then s
    else (s.modLift (fun l => { l with held := l.held ++
      [{ chair := c, side := none, left := c.hdr.mask, waiting := false, stale := 0, bad := false, grad := none }] })).count
        pLFC 0x100 1

/-- A held chair is forwarded whole. -/
def State.sendHeld (s : State) (d : Dir) (h : Held) : State :=
  let s := s.sendChair (dirSide d) h.chair
  let s := s.modLift (fun l => setTurn { l with held := l.held.map (fun g => if g = h then { g with waiting := false } else g) } d
    (turnOf l d - 1))
  (s.count pLFC 0x110 1).settleHeld

/-- The egress sends one own chair, then up to N - 2 forwarded ones (R248): the choice when both queues hold chairs. -/
def State.ownTurn (s : State) (d : Dir) : Bool := turnOf s.lift d == 0

/-- The chair that leaves next in a direction: an own one or a forwarded one (R248). -/
inductive NextChair where
  | own (o : OwnChair) (c : Chair)
  | forward (h : Held)
  deriving DecidableEq, Repr, Inhabited

def NextChair.frames : NextChair → Nat
  | .own _ c => chairSize c
  | .forward h => chairSize h.chair

def State.nextChair (s : State) (d : Dir) : Option NextChair :=
  match s.ownReady d, s.forwardReady d with
  | some (o, c), some h => some (if s.ownTurn d then .own o c else .forward h)
  | some (o, c), none => some (.own o c)
  | none, some h => some (.forward h)
  | none, none => none

/-- What keeps the next chair from leaving by a formed station's link: credit, or a full replay buffer. -/
inductive SendWait where
  | credit | replay
  deriving DecidableEq, Repr, Inhabited

def State.sendWait (s : State) (d : Dir) : Option SendWait :=
  let x := dirSide d
  if s.phase != .ready || !s.lift.isFormed || !s.linkUp x || (s.liftPort x).through.isSome then none
  else match s.nextChair d with
    | none => none
    | some c =>
      if !s.credit x c.frames then some .credit else if !s.replayRoom x c.frames then some .replay else none

/-- The next own chair waits for the launch window (R247). -/
def State.waitsForWindow (s : State) : Bool :=
  match s.ownLive with
  | o :: _ => s.lift.isFormed && (match o.chair with
    | some c => c.hdr.kind.val != 1 && !s.windowOpen c.hdr.mask c.hdr.seq.toNat
    | none => false)
  | [] => false

/-- CHAIR_SEND: demand chairs first; then a whole chair, own or forwarded, when credit and replay room allow. -/
def execChairSend (d : Dir) (s : State) : Host.Outcome State Fault Refusal :=
  let x := dirSide d
  if s.phase != .ready || !s.lift.isFormed || !s.linkUp x then .next s
  else
    let s := if d == .uphill then State.sendDemands 8 s else s
    if (s.liftPort x).through.isSome || (s.sendWait d).isSome then .next s
    else match s.nextChair d with
      | some (.own o c) => .next (s.sendOwn d o c)
      | some (.forward h) => .next (s.sendHeld d h)
      | none => .next s

/-! ## Arrival (R241, R249, R250) -/

def chairHdrOf (x : Side) (h : List Byte) : ChairHdr :=
  { kind := Fin.ofNat 4 (leAt h 1 1), dir := arrivingDir x, origin := leAt h 0xA 1 % 128,
    mask := BitVec.ofNat 64 (leAt h 0x10 8), seq := BitVec.ofNat 32 (leAt h 0x18 4), rows := leAt h 0x1C 1 + 1,
    core := leAt h 0x1E 1 % 64 }

/-- The frame can leave at once, cut-through: its chair is already leaving, or the egress is free for the whole chair. The rest
of a chair that is leaving follows also while the egress link retrains, into the replay buffer (R243). -/
def State.canThrough (s : State) (h : ChairHdr) (i : Nat) : Bool :=
  let y := dirSide h.dir
  if s.retires h then false
  else if 0 < i then (s.liftPort y).through.isSome
  else
    s.linkUp y && (s.liftPort y).through.isNone && (s.unpresented h.mask).isNone && (s.regionless h.mask).isNone &&
      (s.forwardReady h.dir).isNone && (h.dir == .downhill || s.lift.demands.isEmpty) &&
      ((s.ownReady h.dir).isNone || !s.ownTurn h.dir) && s.credit y (chairFrames h.rows) && s.replayRoom y (chairFrames h.rows)

/-- The outgoing copy of a frame whose FCS failed ends with an inverted FCS, and takes no sequence (R249). -/
def State.cutBad (s : State) (x : Side) (f : LiftFrame) : State :=
  let h := chairHdrOf x f.hdr
  if s.headerVerdict x f == .ok && leAt f.hdr 0 1 / 16 == 0 && h.kind.val % 2 == 0 && s.canThrough h (leAt f.hdr 0x1D 1) &&
      s.linkUp (dirSide h.dir) then
    let y := dirSide h.dir
    s.emitFrame y .inverted ((s.chairHead h (leAt f.hdr 0x1D 1)).bytes (linkBytes false true 0 0 0 0)) (s.liftPort y).txSeq f.data
  else s

/-- The same for a demand chair, which passes at once while its lap is open and the egress has a demand entry (R249, R252). -/
def State.cutBadDemand (s : State) (x : Side) (f : LiftFrame) : State :=
  let h := chairHdrOf x f.hdr
  if s.headerVerdict x f == .ok && leAt f.hdr 0 1 / 16 == 0 && h.kind.val == 3 && !s.retires h && s.linkUp .up &&
      s.lift.demands.isEmpty && decide ((s.liftPort .up).demandUsed < 4) && s.replayRoom .up 1 &&
      decide (h.seq.toNat < s.lift.demanded + 4) then
    s.emitFrame .up .inverted ((s.demandHead h).bytes (linkBytes false true 0 0 0 0)) (s.liftPort .up).txSeq f.data
  else s

/-- A whole chair has arrived: it is placed for landing and, unless retired or already cut through, for forwarding. -/
def State.chairArrived (s : State) (x : Side) (c : Chair) (thr : Bool) : State :=
  match s.unpresented c.hdr.mask with
  | some n => (s.freeEntries x (chairSize c)).badMask c.hdr n
  | none => match s.regionless c.hdr.mask with
    | some n => (s.freeEntries x (chairSize c)).noRegion c.hdr n
    | none =>
      let ret := s.retires c.hdr
      let s := if ret then s.count pLFC 0x118 1 else if thr then s.count pLFC 0x110 1 else s
      (s.modLift (fun l => { l with held := l.held ++
        [{ chair := c, side := some x, left := c.hdr.mask, waiting := !ret && !thr, stale := 0, bad := false,
           grad := none }] })).settleHeld

/-- The chair that a frame joins: its header, its rows so far, and the frames of an unfinished chair that it ends; none for
the rest of a chair that was discarded (R256, R258). -/
def LiftPort.joins (p : LiftPort) (h : ChairHdr) (i : Nat) : Option (ChairHdr × List Row × Nat) :=
  match p.rxChair with
  | none => if i = 0 then some (h, [], 0) else none
  | some (h0, rows, k) => if i = k then some (h0, rows, 0) else if i = 0 then some (h, [], k) else none

/-- One accepted frame of a tensor, gradient or activation chair: its entry is taken, it is cut through where it can be,
and the last one completes the chair. -/
def State.takeFrame (s : State) (x : Side) (f : LiftFrame) : State :=
  let h := chairHdrOf x f.hdr
  let i := leAt f.hdr 0x1D 1
  let last := i + 1 == chairFrames h.rows
  let rows := bytesToRows (f.data.length / 512) f.data
  let y := dirSide h.dir
  let s := (s.modLiftPort x (fun p => { p with rxSeq := p.rxSeq + 1, nakSent := false })).count (pLFT x) 0x108 1
  match (s.liftPort x).joins h i with
  | none => s.modLiftPort x (fun p => { p with freed := p.freed + 1 })
  | some (h0, before, ended) =>
  let s := s.modLiftPort x (fun p => { p with
    rxUsed := p.rxUsed + 1 - ended, freed := p.freed + BitVec.ofNat 16 ended,
    rxChair := if last then none else some (h0, before ++ rows, i + 1) })
  let s := if 0 < ended then s.modLiftPort y (fun p =>
      { p with through := none, sentUsed := p.sentUsed - p.through.getD 0 }) else s
  let thr := h.kind.val != 1 && s.canThrough h i
  let s := if thr then
      let s := s.sendFrame y (s.chairHead h i) f.data
      let s := s.modLiftPort y (fun p => { p with
        through := if last then none else some (chairFrames h.rows - 1 - i),
        sentUsed := if i = 0 then p.sentUsed + chairFrames h.rows else p.sentUsed })
      if i = 0 then s.modLift (fun l => setTurn l h.dir (turnOf l h.dir - 1)) else s
    else s
  if last then
    let c : Chair := { hdr := h0, rows := before ++ rows }
    if h.kind.val = 1 then
      match s.lift.contribs.find? (fun g => g.x.origin == h.origin && g.core == h.core && g.x.seq == h.seq && g.x.dir == h.dir) with
      | some g => s.addGrad x c g
      | none => s.modLiftPort x (fun p => { p with rxGrad := p.rxGrad ++ [c] })
    else s.chairArrived x c thr
  else s

/-- CHAIR_FRAME: a frame of a tensor or activation chair. -/
def execChairFrame (side : Side) (f : LiftFrame) (s : State) : Host.Outcome State Fault Refusal :=
  .next (s.receive side f (fun h => leAt h 0 1 / 16 == 0 && leAt h 1 1 % 2 == 0) true (fun s => s.cutBad side f)
    (fun s => s.takeFrame side f))

/-- GRAD_CHAIR_RX: a frame of a gradient chair. -/
def execGradChairRx (side : Side) (f : LiftFrame) (s : State) : Host.Outcome State Fault Refusal :=
  .next (s.receive side f (fun h => leAt h 0 1 / 16 == 0 && leAt h 1 1 % 4 == 1) true id (fun s => s.takeFrame side f))

/-- DEMAND_CHAIR_RX: ORed into its lap at once, or held in its demand entry while four laps are open (R252). -/
def execDemandChairRx (side : Side) (f : LiftFrame) (s : State) : Host.Outcome State Fault Refusal :=
  .next (s.receive side f (fun h => leAt h 0 1 / 16 == 0 && leAt h 1 1 % 4 == 3) true (fun s => s.cutBadDemand side f) (fun s =>
    let h := chairHdrOf side f.hdr
    let s := (s.modLiftPort side (fun p => { p with rxSeq := p.rxSeq + 1, nakSent := false })).count (pLFT side) 0x108 1
    State.admitDemands 4
      (s.modLiftPort side (fun p => { p with rxDemand := p.rxDemand ++ [(h, BitVec.ofNat 256 (leNat f.data))] }))))

/-! ## Landing (R250, R251) -/

/-- A copy that core `n` can take: the slot of its sequence is empty and expects it, in a bank that is not busy. -/
def State.landable (s : State) (n : Nat) (h : Held) : Bool :=
  bit h.left n && ((s.core n).spm.circ 0).cfg.valid && (s.core n).spm.slotOpen 0 h.chair.hdr.seq

/-- A chair waits for its landing slot (R264). -/
def State.waitsToLand (s : State) : Bool :=
  s.lift.held.any (fun h => !h.bad && (setBits h.left).any (fun n => !s.landable n h))

/-- CHAIR_LAND: the first copy that the core's lift writer can land. `hdrOk` is the check of HDR_CRC at the last level of
the fan-out tree: where it fails the slot is marked failed and the copy is written again. A copy that was under way to an
old pcore is discarded and written again. -/
def execChairLand (n : CoreId) (hdrOk : Bool) (s : State) : Host.Outcome State Fault Refusal :=
  if s.phase != .ready || (s.hostOf n.val).isNone then .next s
  else match s.lift.held.find? (s.landable n.val) with
    | none =>
      if s.lift.held.any (fun h => bit h.left n.val) then .next (s.count (corePage n.val kSPM) 0x130 1) else .next s
    | some h =>
      let upd := fun (g : Held) (s : State) => s.modLift (fun l => { l with held := l.held.map (fun a => if a = h then g else a) })
      let q := h.chair.hdr.seq
      if bit h.stale n.val then
        .next (((upd { h with stale := h.stale &&& ~~~(1#64 <<< n.val) } s).count pLFC 0x140 1).count pLFC 0x148 1)
      else if !hdrOk || h.bad then
        let s := s.modSpm n.val (fun m => m.setCirc 0 ((m.circ 0).mark true q))
        let s := s.raise pLFC 3 (lfcInfo 0 3 n.val h.chair.hdr.origin) q
        .next (if h.bad then s else s.count pLFC 0x148 1)
      else
        let c := (s.core n.val).spm.circ 0
        let dest := (List.range (min h.chair.rows.length (circSlotRows c.cfg))).map (fun i => circRow c.cfg q.toNat + i)
        let s := s.modSpm n.val (fun m =>
          ((m.writeRows dest h.chair.rows).setCirc 0 ((m.circ 0).mark false q)).putSlots 0 [q])
        let s := (s.count (corePage n.val kSPM) 0x108 dest.length).count pLFC 0x108 1
        let s := upd { h with left := h.left &&& ~~~(1#64 <<< n.val) } s
        let s := match h.grad with
          | some (k, id) => s.markStage k id .performed
          | none => s
        .next s.settleHeld

/-! ## Stall and quiesce (R258, R259) -/

/-- A chair or a contribution is buffered at the station (R259). -/
def State.chairsHere (s : State) : Bool :=
  !s.lift.held.isEmpty || s.ownLive.any (fun o => o.chair.isSome) || !s.lift.contribs.isEmpty || !s.lift.demands.isEmpty ||
    [Side.up, Side.down].any (fun x => !(s.liftPort x).rxGrad.isEmpty || (s.liftPort x).rxChair.isSome ||
      !(s.liftPort x).rxDemand.isEmpty)

/-- The station holds a chair or a launch. -/
def State.holdsChair (s : State) : Bool := s.chairsHere || !s.ownLive.isEmpty || !s.lift.laps.isEmpty

/-- A landed slot of a lift job has not been released. -/
def State.holdsLanding (s : State) : Bool :=
  s.liftTasks.any (fun t => match s.task t with
    | some x => x.coreList.any (fun n =>
        let c := (s.core n).spm.circ 0
        (List.range c.cfg.slots).any (fun i => (c.slot i).full))
    | none => false)

/-- A command of a core, issued or next to issue, waits on one of the token counters from `base` on, `k` of them. -/
def Core.waitsOn (c : Core) (base k : Nat) : Bool :=
  (((c.inflight.filter (fun d => d.stage == .queued)).map (·.wait)) ++ [syncWait c.seq c.seq.fetch]).any (fun w =>
    !c.spm.waitMet w && (match w with
      | some (i, _) => decide (base ≤ i.toNat) && decide (i.toNat < base + k)
      | none => false))

/-- A core of a lift job waits on an admit counter while a swap of the job's bundle is pending: the load timeout bounds that
wait (R314). -/
def State.admitWait (s : State) : Bool :=
  s.liftTasks.any (fun t => match s.task t, (s.task t).bind (·.job) with
    | some x, some j => (match j.bundle with
      | some b => (s.bundle b.val).newMan.isSome &&
          x.coreList.any (fun n => (s.core n).waitsOn j.tokenBase (s.bundle b.val).man.layers)
      | none => false)
    | _, _ => false)

/-- LIFT_STALL: a chair, a launch or a landing slot held without progress for LFC_WDOG.TIMEOUT_MS while every link is up, and no
core waits at the gate of a pending swap; the station sends a lift notice. -/
def execLiftStall (s : State) : Host.Outcome State Fault Refusal :=
  if s.phase == .ready && s.lift.isFormed && s.linkUp .up && s.linkUp .down && (s.holdsChair || s.holdsLanding) &&
      !s.admitWait then
    .next ((s.stallLift s.liftPos).sendMsg .up (.notice true s.liftPos 0))
  else .next s

/-- This station is at the lap boundary: nothing in flight or buffered, and every landed slot released. Commands that the lift
has not started stay queued (R259). -/
def State.lapQuiet (s : State) : Bool :=
  !s.chairsHere && [Side.up, Side.down].all (fun x => (s.liftPort x).replay.isEmpty) && !s.holdsLanding

/-- The station asks for pre-emption of the lift's job: a quiesce frame goes round (R259). -/
def State.askQuiesce (s : State) : State :=
  if s.lift.state == .formed then
    (s.modLift (fun l => { l with state := .quiescing, asked := true })).sendMsg .up (.quiesce false)
  else s

/-- The lift is quiescent: its job's cores stop at their next pass boundary; a LIFT notice says so (R259, R363). -/
def State.enterQuiescent (s : State) : State :=
  let s := s.modLift (fun l => { l with state := .quiescent })
  let s := s.liftTasks.foldl (fun s t => s.modJob t (fun j =>
    { j with hold := if j.hold == .running then .preempting else j.hold })) s
  s.liftEvent 3 s.liftPos 0

/-- QUIESCE_FRAME: the first circuit stops new lift commands; the second confirms the lap boundary, each station passing it
on once it is quiet. A station whose job reads a SWAPPING bundle holds the first (R315). A frame that must be held leaves the
state until it can go on (log entry 2, DESIGN CHOICE). -/
def execQuiesceFrame (second : Framed Bool) (s : State) : Host.Outcome State Fault Refusal :=
  .next (s.receiveMsg .down second.frame 3 (fun s =>
    if !second.body then
      if s.lift.state == .formed then
        if s.liftTasks.any s.swapHolds then s
        else (s.modLift (fun l => { l with state := .quiescing })).sendMsg .up (.quiesce false)
      else if s.lift.state == .quiescing && s.lift.asked && s.lapQuiet then s.sendMsg .up (.quiesce true)
      else s
    else if s.lift.state == .quiescing && s.lapQuiet then
      if s.lift.asked then (s.modLift (fun l => { l with asked := false })).enterQuiescent
      else s.enterQuiescent.sendMsg .up (.quiesce true)
    else s))

end Sys2Proof.Machine
end

