-- ==== Sys2Proof/Machine/TraverseLink.lean ====
section
/-!
DEFINITION. The traverse ports as Ethernet ports (R270-R278): the link, the check of a packet, flows with go-back-N and
the rate limiter, and sending.
-/
namespace Sys2Proof.Machine

/-! ## The link (R270, R271, R278) -/

/-- TRV_LINK.STATE: 0 down, 1 training, 2 up, 3 retraining. -/
def State.trvState (s : State) (p : TPort) : Nat := bits (s.reg (pTRV p) 0x44) 1 0

def State.trvUp (s : State) (p : TPort) : Bool := s.trvState p == 2

/-- TRV_LINK and the lane table (R291, R293). -/
def State.setTrvLink (s : State) (p : TPort) (lanes : BitVec 8) (state : Nat) : State :=
  let s := s.setReg (pTRV p) 0x44 (word (popcount lanes * 256 + state))
  let s := if lanes = 0 then s else s.modTrv p (fun t => { t with trained := t.trained + 1 })
  (List.range 8).foldl (fun s l => s.setReg (pTRV p) (0x400 + 4 * l) (if lanes.getLsbD l then 0x80000000#32 else 0)) s

/-- The registers that take effect when the port trains (R291). -/
def trainedRegs : List Nat := [0x40, 0x4C, 0x54, 0x58, 0x5C, 0x60, 0x64, 0x68, 0x6C]

/-- Report an event of a TRV page (R289, R290). -/
def State.trvRaise (s : State) (p : TPort) (bitNo detail core coord : Nat) : State :=
  s.raise (pTRV p) bitNo (cause bitNo (detail * 2 ^ 24 + core % 64 * 256)) (word (coord % 2 ^ 15))

/-- Tasks whose job is a traverse job (R349). -/
def State.trvTasks (s : State) : List Nat :=
  (List.range 64).filter (fun t => match (s.task t).bind (·.job) with
    | some j => j.traverse
    | none => false)

/-- A TRV event faults every traverse job of the station, which sends the aborts (R286, R378). -/
def State.trvFault (s : State) (p : TPort) (bitNo detail core coord : Nat) : State :=
  let code := s.faultCode (pTRV p) bitNo
  s.trvTasks.foldl (fun s t => s.faultTask t code) (s.trvRaise p bitNo detail core coord)

/-- The traverse epoch of the running job (TRV_JOB). -/
def State.trvEpoch (s : State) (p : TPort) : BitVec 16 := BitVec.ofNat 16 (bits (s.reg (pTRV p) 0x80) 15 0)

/-! ## The check of a packet (R274) -/

/-- VERSION, reserved bits, HDR_CRC, and a data length that the packet has. A TYPE above 5 and KIND 3, which R273 does not
assign, fail as reserved bits do (log entry 81, DEDUCED). -/
def trvHeaderOk (h : List Byte) (data : List Byte) : Bool :=
  h.length == 40 && leAt h 0 1 % 16 == 1 && decide (leAt h 0 1 / 16 ≤ 5) && leAt h 1 1 / 16 == 0 && leAt h 1 1 / 4 % 4 != 3 &&
    leAt h 3 1 < 128 && leAt h 5 1 < 128 && leAt h 6 1 < 64 && leAt h 0x17 1 == 0 && leAt h 0x16 1 / 64 == 0 &&
    leAt h 0x20 4 == 0 && leAt h 0x24 4 == crc32c (h.take 0x24) && leAt h 0x1C 2 == data.length && data.length % 512 == 0

/-- The part's own address on a port (R271). -/
def State.ownAddress (s : State) (p : TPort) : BitVec 128 := (s.trvOuter p (s.coord p)).src

/-- The checks of R274 before VERSION: FCS, EtherType and tag, destination address, IPv4 header checksum, UDP destination port
and UDP checksum. The tag is the one that the port itself sends (log entry 81, DEDUCED). -/
def State.outerOk (s : State) (p : TPort) (x : TrvPacket) : Bool :=
  let v6 := bit (s.trvReg p 0x40) 2
  let qos := s.reg (pTRV p) 0x50
  x.fcs && x.ipv6 == v6 && x.vlan == (if bit qos 31 then some (BitVec.ofNat 12 (bits qos 27 16)) else none) &&
    x.dst == s.ownAddress p && (v6 || x.ipSum) && x.dstPort.toNat == bits (s.trvReg p 0x4C) 15 0 && x.udpSum

/-- The fields of a header. -/
def trvHdrOf (h : List Byte) : TrvHdr :=
  { type := leAt h 0 1 / 16, ece := leAt h 1 1 % 2 == 1, last := leAt h 1 1 / 2 % 2 == 1, kind := leAt h 1 1 / 4 % 4,
    src := leAt h 2 2 % 2 ^ 15, dst := leAt h 4 2 % 2 ^ 15, core := leAt h 6 1 % 64, phase := leAt h 7 1,
    psn := word (leAt h 8 4), ack := word (leAt h 0xC 4), seq := word (leAt h 0x10 4), param := word (leAt h 0x14 4),
    rows := leAt h 0x18 2, offset := leAt h 0x1A 2, len := leAt h 0x1C 2, epoch := BitVec.ofNat 16 (leAt h 0x1E 2) }

/-! ## Flows (R275-R277) -/

/-- TRV_RTO: 0 is treated as 1 (R291). -/
def State.rtoInit (s : State) (p : TPort) : Nat := max 1 (bits (s.reg (pTRV p) 0x70) 15 0)

def Flow.is (f : Flow) (peer : BitVec 15) (sends : Bool) : Bool := f.peer == peer && f.sends == sends

/-- The flow to a peer, or from it. -/
def State.flowOf (s : State) (p : TPort) (peer : BitVec 15) (sends : Bool) : Option Flow :=
  (s.trv p).flows.find? (fun f => f.is peer sends)

def State.flow (s : State) (p : TPort) (peer : BitVec 15) : Option Flow := s.flowOf p peer true

def State.modFlow (s : State) (p : TPort) (peer : BitVec 15) (sends : Bool) (g : Flow → Flow) : State :=
  s.modTrv p (fun t => { t with flows := t.flows.map (fun f => if f.is peer sends then g f else f) })

/-- The next sequence number to a peer, and the next one expected from it. They outlive the flows' recycling, so that flow
state affects timing only (R275; log entry 83, DESIGN CHOICE). -/
def State.txPsn (s : State) (p : TPort) (peer : BitVec 15) : Word := (s.trv p).txPsn.get (fun _ => 0) peer.toNat
def State.rxPsn (s : State) (p : TPort) (peer : BitVec 15) : Word := (s.trv p).rxPsn.get (fun _ => 0) peer.toNat

/-- A flow holds no unacknowledged packet. -/
def Flow.idle (f : Flow) : Bool := f.unacked.isEmpty && f.got == 0

/-- The flow to or from a peer, made the most recently used, with a packet of an epoch; a new one recycles the least recently
used flow whose packets are all acknowledged. `none`: all 1,024 hold unacknowledged packets. -/
def State.useFlow (s : State) (p : TPort) (peer : BitVec 15) (sends : Bool) (epoch : BitVec 16) : Option State :=
  let fs := (s.trv p).flows
  let used := fun (f : Flow) => { f with job := f.job || epoch != 0, epoch := epoch }
  match s.flowOf p peer sends with
  | some f => some (s.modTrv p (fun t => { t with flows := fs.erase f ++ [used f] }))
  | none =>
    let f : Flow := used { peer := peer, sends := sends, job := false, epoch := 0, unacked := [], got := 0, ece := false,
                           nak := false, rtoUs := s.rtoInit p, rate := 1000000, cut := false }
    if fs.length < 1024 then some (s.modTrv p (fun t => { t with flows := fs ++ [f] }))
    else match fs.find? Flow.idle with
      | some old => some (s.modTrv p (fun t => { t with flows := fs.erase old ++ [f] }))
      | none => none

/-- A packet that carries nothing but its type, its epoch and the flow's numbers. -/
def State.flowPacket (s : State) (p : TPort) (f : Flow) (type : Nat) (ece : Bool) : State :=
  let n := s.rxPsn p f.peer
  s.sendTrv p { type := type, ece := ece, last := false, kind := 0, src := s.coord p, dst := f.peer.toNat, core := 0,
                phase := 0, psn := n, ack := n, seq := 0, param := 0, rows := 0, offset := 0, len := 0, epoch := f.epoch } []

/-- Acknowledge what a flow has received (R276, R277). -/
def State.sendAck (s : State) (p : TPort) (peer : BitVec 15) : State :=
  match s.flowOf p peer false with
  | some f => (s.modFlow p peer false (fun f => { f with got := 0, ece := false })).flowPacket p f 1 f.ece
  | none => s

/-- One NAK per gap (R276). -/
def State.sendNak (s : State) (p : TPort) (peer : BitVec 15) : State :=
  match s.flowOf p peer false with
  | some f =>
    if f.nak then s
    else ((s.modFlow p peer false (fun f => { f with nak := true })).flowPacket p f 2 false).count (pTRV p) 0x130 1
  | none => s

/-- A receiver's checks of R274: what comes after JOB_EPOCH goes to `f`, with the header's fields. A row's packet is of the
row's type; a sound one of another type leaves the state as it is (log entry 81, DEDUCED). -/
def State.trvReceive (s : State) (p : TPort) (x : TrvPacket) (type : Nat) (f : TrvHdr → State → State) : State :=
  let h := trvHdrOf x.hdr
  if s.phase != .ready || !s.trvUp p then s
  else if !s.outerOk p x || !trvHeaderOk x.hdr x.data then
    let s := s.count (pTRV p) 0x158 1
    if type = 0 ∧ h.type = 0 then s.sendNak p (BitVec.ofNat 15 h.src) else s
  else if h.type ≠ type then s
  else if h.epoch != 0 && h.epoch != s.trvEpoch p then s.count (pTRV p) 0x160 1
  else f h s

/-- The rate falls to a part of itself, never below 1 % of line rate (R277). -/
def State.cutRate (s : State) (p : TPort) (peer : BitVec 15) (num den : Nat) : State :=
  (s.modFlow p peer true (fun f => { f with rate := max 10000 (f.rate * num / den) })).count (pTRV p) 0x140 1

/-- Send the unacknowledged packets of a flow again, oldest first. -/
def State.resendFlow (s : State) (p : TPort) (f : Flow) : State :=
  (f.unacked.foldl (fun s x => s.sendTrv p { x.hdr with ack := s.rxPsn p f.peer } x.data) s).count (pTRV p) 0x128
    f.unacked.length

/-! ## Messages (R279, R280) -/

/-- A message by the command that sends it, its destination and its phase. -/
def TrvMsg.is (m : TrvMsg) (core cmd : Nat) (dst : BitVec 15) (phase : Nat) : Bool :=
  m.core == core && m.cmd == cmd && m.dst == dst && m.phase == phase

def State.modMsg (s : State) (p : TPort) (m : TrvMsg) (g : TrvMsg → TrvMsg) : State :=
  s.modTrv p (fun t => { t with out := t.out.map (fun x => if x.is m.core m.cmd m.dst m.phase then g x else x) })

def State.findMsg (s : State) (p : TPort) (m : TrvMsg) : Option TrvMsg :=
  (s.trv p).out.find? (fun x => x.is m.core m.cmd m.dst m.phase)

/-- The header of a message's packet. -/
def State.msgHdr (s : State) (p : TPort) (m : TrvMsg) (type : Nat) : TrvHdr :=
  { type := type, ece := false, last := false, kind := m.kind, src := s.coord p, dst := m.dst.toNat, core := m.dstCore,
    phase := m.phase, psn := 0, ack := s.rxPsn p m.dst, seq := m.seq, param := m.param,
    rows := m.rows.length - 1, offset := 0, len := 0, epoch := m.epoch }

def State.sendRequest (s : State) (p : TPort) (m : TrvMsg) : State := s.sendTrv p (s.msgHdr p m 3) []

/-- Rows of a full data packet (R272). -/
def State.packetRows (s : State) (p : TPort) : Nat := if bit (s.trvReg p 0x40) 3 then 8 else 16

/-- Send packets of a granted message while its flow's window of 256 has room and no pause is in force. -/
def State.sendPackets (fuel : Nat) (s : State) (p : TPort) (m : TrvMsg) : State :=
  match fuel with
  | 0 => s
  | fuel + 1 =>
    match s.findMsg p m, s.flow p m.dst with
    | some m, some f =>
      if m.rows.length ≤ m.sent || decide (256 ≤ f.unacked.length) || (s.trv p).paused then s
      else
        let k := min (s.packetRows p) (m.rows.length - m.sent)
        let last := decide (m.rows.length ≤ m.sent + k)
        let data := rowBytes ((m.rows.drop m.sent).take k)
        let n := s.txPsn p m.dst
        let h := { s.msgHdr p m 0 with last := last, psn := n, offset := m.sent, len := data.length }
        let s := s.sendTrv p h data
        let s := s.modTrv p (fun t => { t with txPsn := t.txPsn.set (fun _ => 0) m.dst.toNat (n + 1) })
        let s := s.modFlow p m.dst true (fun f => { f with unacked := f.unacked ++ [{ hdr := h, data := data }] })
        let s := s.modMsg p m (fun m => { m with sent := m.sent + k, lastPsn := if last then some n else m.lastPsn })
        State.sendPackets fuel s p m
    | _, _ => s

/-- Ask for a message's grant once its flow is there, and send what is granted (R275, R280). -/
def State.pumpMsg (p : TPort) (s : State) (m : TrvMsg) : State :=
  if !s.trvUp p then s
  else match s.findMsg p m with
    | none => s
    | some m =>
      if m.asked && (!m.granted || decide (m.rows.length ≤ m.sent)) then s
      else match s.useFlow p m.dst true m.epoch with
        | some s => if m.granted then State.sendPackets 256 s p m
          else (s.modMsg p m (fun m => { m with asked := true })).sendRequest p m
        | none => s

/-- A message waits for its grant, or for a flow (R275, R285). -/
def State.msgWaits (s : State) (p : TPort) (m : TrvMsg) : Bool :=
  !m.granted || (decide (m.sent < m.rows.length) && (s.flow p m.dst).isNone)

/-! ## Serving a shard (R303) -/

/-- This station's position in a bundle. -/
def State.station (s : State) : Nat := if s.lift.isFormed then s.liftPos else 0

/-- What the control firmware of a loading part asks a peer for: the shard by manifest digest and lift position, and how many
segments from which on; the 512 data bytes of a request with JOB_EPOCH 0 (log entry 82, DESIGN CHOICE). -/
def shardAsk (digest : BitVec 512) (position first count : Nat) : List Byte :=
  leBytes 64 digest.toNat ++ leBytes 2 position ++ leBytes 2 first ++ leBytes 2 count ++ leBytes 442 0

def State.askShard (s : State) (p : TPort) (peer : BitVec 15) (digest : BitVec 512) (position first count : Nat) : State :=
  s.sendTrv p { type := 3, ece := false, last := false, kind := 1, src := s.coord p, dst := peer.toNat, core := 0, phase := 0,
                psn := 0, ack := s.rxPsn p peer, seq := 0, param := 0, rows := 0, offset := 0, len := 512, epoch := 0 }
    (shardAsk digest position first count)

/-- The bundle slot that still holds what is served: the manifest digest, VERIFIED or ARMED. -/
def State.holdsShard (s : State) (b : Nat) (digest : BitVec 512) : Bool :=
  let x := s.bundle b
  (x.state == .verified || x.state == .armed) && x.man.digest == digest

/-- The message that carries segment `i` of a bundle slot, of kind receive with JOB_EPOCH 0. -/
def State.segmentMsg (s : State) (v : Serve) (g : Segment) : TrvMsg :=
  { core := 64 + v.slot, cmd := v.next, dst := v.peer, dstCore := g.core, kind := 1, phase := 0, seq := word v.next, param := 0,
    rows := s.units g.core (g.place / 512) (g.len / 512), epoch := 0, asked := false, granted := false, sent := 0,
    lastPsn := none }

/-- The next segment of a shard that is being served goes out once the one before it has been acknowledged. -/
def State.serveNext (p : TPort) (s : State) (v : Serve) : State :=
  if (s.trv p).out.any (fun m => m.epoch == 0 && m.dst == v.peer) then s
  else
    let rest := (s.trv p).serves.erase v
    match (s.bundle v.slot).segs[v.next]? with
    | some g =>
      if v.left = 0 ∨ !s.holdsShard v.slot v.digest then s.modTrv p (fun t => { t with serves := rest })
      else
        let m := s.segmentMsg v g
        State.pumpMsg p (s.modTrv p (fun t => { t with
          out := t.out ++ [m], serves := { v with next := v.next + 1, left := v.left - 1 } :: rest })) m
    | none => s.modTrv p (fun t => { t with serves := rest })

/-- A peer asks for the part's shard: the part answers with its directory, or that it does not hold the shard at that position,
and sends the segments in directory order. -/
def State.takeAsk (s : State) (p : TPort) (peer : BitVec 15) (ask : List Byte) : State :=
  let digest := BitVec.ofNat 512 (leAt ask 0 64)
  match (List.range 64).find? (fun b => s.holdsShard b digest) with
  | some b =>
    if leAt ask 64 2 = s.station then
      let v : Serve := { peer := peer, slot := b, digest := digest, next := leAt ask 66 2, left := leAt ask 68 2 }
      let s := s.modTrv p (fun t => { t with serves := t.serves ++ [v] })
      State.serveNext p (s.emit (.shardAnswer p peer (some (s.bundle b).dir))) v
    else s.emit (.shardAnswer p peer none)
  | none => s.emit (.shardAnswer p peer none)

def State.pump (s : State) (p : TPort) : State :=
  let s := (s.trv p).out.foldl (State.pumpMsg p) s
  (s.trv p).serves.foldl (State.serveNext p) s

/-! ## Events of the port itself -/

/-- TRV_PORT_TRAINED: all 8 lanes bring the port up with the registers of R291 in force, and it announces its address. -/
def execTrvPortTrained (port : TPort) (lanes : BitVec 8) (s : State) : Host.Outcome State Fault Refusal :=
  if s.phase != .ready || (s.trvState port != 1 && s.trvState port != 3) then .next s
  else if lanes = BitVec.allOnes 8 then
    let s := s.setTrvLink port lanes 2
    let s := s.modTrv port (fun t => { t with inForce := trainedRegs.foldl (fun m o =>
      m.set (Blk.regReset .trv) o (s.reg (pTRV port) o)) t.inForce })
    .next ((s.emit (.announce port (s.trvOuter port (s.coord port)))).pump port)
  else
    let lost := s.trvState port == 3
    let s := s.setTrvLink port lanes 0
    .next (if lost then s.trvRaise port 0 0 0 0 else s)

/-- A packet that is not a traverse packet, an ARP request or a neighbour solicitation for the part (R271). -/
def execForeignPacket (port : TPort) (s : State) : Host.Outcome State Fault Refusal :=
  if s.phase == .ready && s.trvUp port then .next (s.count (pTRV port) 0x168 1) else .next s

/-- ARP_REQUEST: answered for the part's own IPv4 address; any other is foreign (R271). -/
def execArpRequest (port : TPort) (target : Word) (senderMac : BitVec 48) (s : State) : Host.Outcome State Fault Refusal :=
  if s.phase != .ready || !s.trvUp port then .next s
  else if !bit (s.trvReg port 0x40) 2 && s.ownAddress port == target.setWidth 128 then
    .next (s.emit (.arpReply port senderMac (s.trvOuter port (s.coord port))))
  else .next (s.count (pTRV port) 0x168 1)

/-- NEIGHBOUR_SOLICITATION: answered for the part's own IPv6 address (R271). -/
def execNeighbourSolicitation (port : TPort) (target : BitVec 128) (senderMac : BitVec 48) (s : State) :
    Host.Outcome State Fault Refusal :=
  if s.phase == .ready && s.trvUp port then
    if bit (s.trvReg port 0x40) 2 && s.ownAddress port == target then
      .next (s.emit (.arpReply port senderMac (s.trvOuter port (s.coord port))))
    else .next (s.count (pTRV port) 0x168 1)
  else .next s

/-- PFC_PAUSE_FRAME: honoured for the priority in TRV_QOS.PCP (R278). -/
def execPfcPauseFrame (port : TPort) (priority : BitVec 3) (s : State) : Host.Outcome State Fault Refusal :=
  if s.phase == .ready && s.trvUp port && priority.toNat == bits (s.reg (pTRV port) 0x50) 15 13 then
    .next (s.modTrv port (fun t => { t with paused := true }))
  else .next s

/-- PFC_PAUSE_END: the pause is over after `ns` nanoseconds, which count in TRV_PFC_PAUSE, and what it held goes out (R278). -/
def execPfcPauseEnd (port : TPort) (ns : Nat) (s : State) : Host.Outcome State Fault Refusal :=
  if s.phase == .ready && (s.trv port).paused then
    let q := (s.trv port).waitQ
    let s := s.modTrv port (fun t => { t with paused := false, waitQ := [] })
    let s := q.foldl (fun s x => s.emitTrv port x.1 x.2) s
    .next ((s.count (pTRV port) 0x150 ns).pump port)
  else .next s

/-- PFC_STORM: a pause longer than TRV_PFC.LIMIT_MS; the part goes on honouring it (R278). -/
def execPfcStorm (port : TPort) (s : State) : Host.Outcome State Fault Refusal :=
  if s.phase == .ready && (s.trv port).paused then .next (s.trvRaise port 5 0 0 0) else .next s

/-- TRV_ACK_SEND: 2 us after the last unacknowledged packet (R276). -/
def execTrvAckSend (port : TPort) (peer : BitVec 15) (s : State) : Host.Outcome State Fault Refusal :=
  if s.phase == .ready && s.trvUp port && ((s.flowOf port peer false).map (fun f => decide (0 < f.got))).getD false then
    .next (s.sendAck port peer)
  else .next s

/-- TRV_RTO_EXPIRY: the flow resends from its oldest unacknowledged packet, its timeout doubles and its rate halves;
requests without a grant are sent again (R276, R277). -/
def execTrvRtoExpiry (port : TPort) (peer : BitVec 15) (s : State) : Host.Outcome State Fault Refusal :=
  if s.phase != .ready || !s.trvUp port then .next s
  else
    let s := match s.flow port peer with
      | none => s
      | some f =>
        if f.unacked.isEmpty then s
        else ((s.resendFlow port f).modFlow port peer true (fun f =>
          { f with rtoUs := min (2 * f.rtoUs) (max f.rtoUs (bits (s.reg (pTRV port) 0x70) 31 16)) })).cutRate port peer 1 2
    .next (((s.trv port).out.filter (fun m => m.dst == peer && m.asked && !m.granted)).foldl
      (fun s m => s.sendRequest port m) s)

/-- CC_WINDOW: a window ends; one without ECE raises the rate by TRV_CC.INC_PERMILLE (R277). -/
def execCcWindow (port : TPort) (peer : BitVec 15) (s : State) : Host.Outcome State Fault Refusal :=
  if s.phase != .ready then .next s
  else
    let inc := bits (s.reg (pTRV port) 0x78) 7 0
    .next (s.modFlow port peer true (fun f =>
      if f.cut then { f with cut := false } else { f with rate := min 1000000 (f.rate + 1000 * inc) }))

/-- ABORT_RESEND: the second and third abort packets (R286). -/
def execAbortResend (port : TPort) (s : State) : Host.Outcome State Fault Refusal :=
  let t := s.trv port
  if s.phase == .ready && decide (0 < t.aborts) then
    .next ((s.sendAborts port t.abortEpoch t.abortTo).modTrv port (fun t => { t with aborts := t.aborts - 1 }))
  else .next s

end Sys2Proof.Machine
end

