-- ==== Sys2Proof/Machine/Clock.lean ====
section
/-!
DEFINITION. One edge of the time counter (R467), and the counters of nanoseconds that it moves (R264, R268, R292, R416,
R421, R471).
-/
namespace Sys2Proof.Machine

/-- Nanoseconds that one edge of the time counter adds to a counter while its condition holds. -/
def State.tickIf (s : State) (p off : Nat) (c : Bool) : State := if c then s.count p off 10 else s

/-- The counters of the lift's waits: a chair for its landing slot, the next own chair for the window, and, at each port, a
chair for credit or for the replay buffer (R264, R268). -/
def State.tickLift (s : State) : State :=
  let s := (s.tickIf pLFC 0x130 s.waitsToLand).tickIf pLFC 0x138 s.waitsForWindow
  [Dir.uphill, Dir.downhill].foldl (fun s d =>
    let x := dirSide d
    (s.tickIf (pLFT x) 0x138 (s.sendWait d == some .credit)).tickIf (pLFT x) 0x140 (s.sendWait d == some .replay)) s

/-- TRV_GRANT_WAIT: each message that waits for its grant or for a flow adds its nanoseconds (R275, R292). -/
def State.tickTrv (s : State) : State :=
  [TPort.A, TPort.B].foldl (fun s p =>
    let k := (s.trv p).out.countP (s.msgWaits p)
    if k = 0 then s else s.count (pTRV p) 0x148 (10 * k)) s

/-- What passes when no command waits: one edge of the time counter, which adds exactly 10 at each reference edge and in
holdover runs on from the internal oscillator (R467), and the counters that count its nanoseconds (log entry 5, DESIGN CHOICE).
The counter stands while the reset inputs hold the part, and while the reference is away and holdover has not been entered. -/
def State.idle (s : State) : State :=
  if s.phase == .off || s.phase == .inReset || !(s.refOk || s.holdover) then s
  else
    let rates := s.reg pPWR 0x4C
    let s := { s with time := s.time + 10 }
    ((((s.tickIf pTIM 0x108 s.holdover).tickIf pMRG 0x108 ((List.range 4).any (fun d => (s.die d).stretched))).tickIf pPWR 0x108
      (decide (bits rates 31 16 < max 750 (min 1900 (bits (s.reg pMRG 0x44) 15 0))))).tickIf pPWR 0x110
      (decide (bits rates 15 0 < 1900))).tickLift.tickTrv

end Sys2Proof.Machine
end

