-- ==== Sys2Proof/Machine/FuncTables.lean ====
section
/-!
DEFINITION. The function tables of the row engine (R187, R188). A table entry is the exact real value rounded once to
FP32: the value is computed here to 160 binary places, which decides that rounding.
-/
namespace Sys2Proof.Machine

/-- Binary places of the fixed-point values below. -/
def fixP : Nat := 160

/-- Integer square root, bit by bit from bit `b - 1`. -/
def isqrtFrom (x : Nat) : Nat → Nat → Nat
  | 0, r => r
  | b + 1, r => isqrtFrom x b (if (r + 2 ^ b) * (r + 2 ^ b) ≤ x then r + 2 ^ b else r)

def isqrt (x : Nat) : Nat := isqrtFrom x (Nat.log2 x / 2 + 1) 0

/-- A fixed-point value rounded once to FP32. -/
def fixRound (neg : Bool) (v : Nat) : Word := toF32 (.fin neg v (-(fixP : Int)))

/-- ln 2, as the sum of 1 / (k 2^k). -/
def ln2Fix : Nat := (List.range 170).foldl (fun acc k => acc + 2 ^ fixP / ((k + 1) * 2 ^ (k + 1))) 0

/-- 2^(i/256): eight square roots of 2^i. -/
def exp2Fix (i : Nat) : Nat := (List.range 8).foldl (fun v _ => isqrt (v * 2 ^ fixP)) (2 ^ i * 2 ^ fixP)

/-- ln (1 + i/256) = 2 artanh (i / (512 + i)). -/
def lnFix (i : Nat) : Nat :=
  ((List.range 64).foldl (fun (acc : Nat × Nat) k => (acc.1 + acc.2 / (2 * k + 1), acc.2 * i * i / ((512 + i) * (512 + i))))
    (0, 2 ^ (fixP + 1) * i / (512 + i))).1

/-- The four table functions. -/
inductive TFun where
  | exp | log | rsqrt | recip
  deriving DecidableEq, Repr, Inhabited

/-- T, C1 and C2 of segment `i`: g, g' and g''/2 at the segment's start, each rounded once. -/
def TFun.entry (f : TFun) (i : Nat) : Word × Word × Word :=
  let one := 2 ^ fixP
  match f with
  | .exp =>
    let g := exp2Fix i
    (fixRound false g, fixRound false (g * ln2Fix / one), fixRound false (g * ln2Fix / one * ln2Fix / one / 2))
  | .log => (fixRound false (lnFix i), fixRound false (one * 256 / (256 + i)),
      fixRound true (one * 65536 / (2 * (256 + i) * (256 + i))))
  | .rsqrt =>
    let g := isqrt (one * one * 128 / (128 + i))
    (fixRound false g, fixRound true (g * 128 / (2 * (128 + i))),
      fixRound false (3 * g * 16384 / (8 * (128 + i) * (128 + i))))
  | .recip => (fixRound false (one * 256 / (256 + i)), fixRound true (one * 65536 / ((256 + i) * (256 + i))),
      fixRound false (one * 16777216 / ((256 + i) * (256 + i) * (256 + i))))

/-- fma(d, fma(d, C2, C1), T) with the exact offset d, each rounded once. -/
def TFun.poly (f : TFun) (i : Nat) (d : Fp) : Word :=
  let (t, c1, c2) := f.entry i
  toF32 ((d.mul (f32 (toF32 ((d.mul (f32 c2)).add (f32 c1))))).add (f32 t))

/-- x times 2^n, rounded once. -/
def scaleF32 (x : Word) (n : Int) : Word :=
  match f32 x with
  | .fin s m e => toF32 (.fin s m (e + n))
  | y => toF32 y

def f32One : Word := 0x3F800000
def f32Inf : Word := 0x7F800000
def f32NegInf : Word := 0xFF800000
def f32NegZero : Word := 0x80000000

/-- EXP of a finite nonzero number: t = RNE(x * log2 e), its floor and its fraction. Beyond 1,024 in magnitude q * 2^n
lies outside FP32 on either side. -/
def expFinite (x : Word) : Word :=
  let t := fmul x 0x3FB8AA3B
  match f32 t with
  | .fin s m e =>
    if e ≤ 0 ∧ m < 2 ^ 10 * 2 ^ (-e).toNat then
      let k := (-e).toNat
      let v : Int := if s then -(m : Int) else m
      let n : Int := v / 2 ^ k
      let frac : Nat := (v - n * 2 ^ k).toNat
      let i := frac * 256 / 2 ^ k
      scaleF32 (TFun.poly .exp i (.fin false (frac * 256 - i * 2 ^ k) (-((k + 8 : Nat) : Int)))) n
    else if s then 0 else f32Inf
  | .inf s => if s then 0 else f32Inf
  | .nan => f32Nan

/-- The segment and exact offset of a magnitude m * 2^e, and the exponent that is taken out of it: `half` keeps that
exponent even and uses 128 segments to the unit. -/
def segmentOf (half : Bool) (m : Nat) (e : Int) : Nat × Fp × Int :=
  let m := m * 2 ^ 24
  let e := e - 24
  let k := Nat.log2 m
  let ex := e + k
  let k := if half && ex % 2 != 0 then k - 1 else k
  let den := if half then 7 else 8
  let num := (m - 2 ^ k) * 2 ^ den
  let i := num / 2 ^ k
  (i, .fin false (num - i * 2 ^ k) (-((k + den : Nat) : Int)), e + k)

/-- A table function of an FP32 value (R187), with the special values of its second table. -/
def TFun.eval (f : TFun) (x : Word) : Word :=
  match f32 x with
  | .nan => f32Nan
  | .inf neg =>
    match f with
    | .exp => if neg then 0 else f32Inf
    | .log => if neg then f32Nan else f32Inf
    | .rsqrt => if neg then f32Nan else 0
    | .recip => if neg then f32NegZero else 0
  | .fin neg m e =>
    if m = 0 then
      match f with
      | .exp => f32One
      | .log => f32NegInf
      | .rsqrt => if neg then f32NegInf else f32Inf
      | .recip => if neg then f32NegInf else f32Inf
    else match f with
      | .exp => expFinite x
      | .log =>
        if neg then f32Nan
        else
          let (i, d, ex) := segmentOf false m e
          ffma (toF32 (ofInt ex)) 0x3F317218 (TFun.poly .log i d)
      | .rsqrt =>
        if neg then f32Nan
        else
          let (i, d, ex) := segmentOf true m e
          scaleF32 (TFun.poly .rsqrt i d) (-(ex / 2))
      | .recip =>
        let (i, d, ex) := segmentOf false m e
        scaleF32 (TFun.poly .recip i d ^^^ (if neg then f32NegZero else 0)) (-ex)

/-- The sign flipped; a NaN stays the canonical NaN (R36). -/
def fneg (x : Word) : Word := if f32 x = .nan then f32Nan else x ^^^ f32NegZero
def fabs (x : Word) : Word := if f32 x = .nan then f32Nan else x &&& 0x7FFFFFFF

/-- SIGMOID and SILU (R188). -/
def fsigmoid (x : Word) : Word := TFun.eval .recip (fadd f32One (TFun.eval .exp (fneg x)))
def fsilu (x : Word) : Word := fmul x (fsigmoid x)

/-- CLASS lane code (R186). -/
def fclass (x : Word) : Word :=
  match f32 x with
  | .nan => 4
  | .inf neg => if neg then 11 else 3
  | .fin neg m _ =>
    let c : Word := if m = 0 then 0 else if x.toNat % 2 ^ 31 < 2 ^ 23 then 1 else 2
    if neg then c + 8 else c

end Sys2Proof.Machine
end

