-- ==== Sys2Proof/Machine/RowEngine.lean ====
section
/-!
DEFINITION. The row engine's operations (R183-R188): lanes, ROWOP commands with their checks and results, holds.
-/
namespace Sys2Proof.Machine

/-! ## Lanes (R33, R34, R183) -/

/-- Lanes of a row as FP32 values: 128 FP32, or 256 BF16 widened exactly. -/
def lanesOf (fmt : Nat) (r : Row) : List Word :=
  if fmt = 3 then (List.range 256).map (fun i => word (rowElem r 16 i * 65536))
  else (List.range 128).map (fun i => word (rowElem r 32 i))

/-- A row of FP32 results: each NaN canonical, BF16 rounded to nearest even (R33, R36). -/
def rowOfLanes (fmt : Nat) (xs : List Word) : Row :=
  if fmt = 3 then rowOfElems 16 (xs.map (fun x => convertTo 3 false .rne (f32 x)))
  else rowOfElems 32 (xs.map (fun x => convertTo 7 false .rne (f32 x)))

def laneCount (fmt : Nat) : Nat := if fmt = 3 then 256 else 128

/-- The reduction tree over the lanes of one row (R34). -/
def reduceTree (f : Word → Word → Word) : Nat → List Word → Word
  | 0, xs => xs.headD 0
  | k + 1, xs =>
    let h := xs.length / 2
    if h = 0 then xs.headD 0 else reduceTree f k (List.zipWith f (xs.take h) (xs.drop h))

/-- The reduction of rows of lanes: each row by the tree, the row results combined in increasing row order (R34). -/
def reduceRows (f : Word → Word → Word) : List (List Word) → Word
  | [] => 0
  | r :: t => t.foldl (fun acc x => f acc (reduceTree f 8 x)) (reduceTree f 8 r)

/-! ## Operations (R186) -/

def rowopCodes : List Nat :=
  [0x00, 0x01, 0x02, 0x03, 0x04, 0x05, 0x06, 0x07, 0x08, 0x10, 0x11, 0x12, 0x13, 0x14, 0x15, 0x20, 0x21, 0x22, 0x28,
   0x30, 0x38]

/-- Operations that take operand B. -/
def takesB (code : Nat) : Bool := decide (1 ≤ code) && decide (code ≤ 6)

def isReduction (code : Nat) : Bool := code == 0x20 || code == 0x21 || code == 0x22

/-- Formats that a conversion takes: all but MXFP4 and INT4. -/
def cvtFmt (f : Nat) : Bool := decide (f ≤ 8) && f != 2 && f != 6

/-- The checks of R186, in order: ROW_OP, ROW_FORMAT, ROW_ARG. -/
def RowopP.startErr (x : RowopP) : Option Nat :=
  if !rowopCodes.contains x.code then some 0
  else if (if x.code = 0x30 then !(cvtFmt x.sfmt && cvtFmt x.dfmt)
      else x.sfmt != x.dfmt || (if x.code = 0x00 ∨ x.code = 0x38 then decide (8 < x.sfmt) else x.sfmt != 7 && x.sfmt != 3))
  then some 1
  else if x.resv ≠ 0 || (x.code == 0x38 && x.rows != 1) ||
      (isReduction x.code && (x.elow == 0 || decide (4096 < x.elow.toNat) || x.rows % max x.elow.toNat 1 != 0))
  then some 2
  else none

/-- The lane operation of an elementwise code, on A, B and the hold's lane. -/
def laneOp (code : Nat) (a b c : Word) : Word :=
  match code with
  | 0x01 => fadd a b
  | 0x02 => fsub a b
  | 0x03 => fmul a b
  | 0x04 => ffma a b c
  | 0x05 => fmin a b
  | 0x06 => fmax a b
  | 0x07 => fneg a
  | 0x08 => fabs a
  | 0x10 => TFun.eval .exp a
  | 0x11 => TFun.eval .log a
  | 0x12 => TFun.eval .rsqrt a
  | 0x13 => TFun.eval .recip a
  | 0x14 => fsigmoid a
  | _ => fsilu a

/-- Function-table evaluations per lane (R201): a sigmoid takes two. -/
def tableUses (code : Nat) : Nat :=
  if decide (0x10 ≤ code) && decide (code ≤ 0x13) then 1 else if code == 0x14 || code == 0x15 then 2 else 0

/-- Rows written. -/
def rowopDst (code rows sfmt dfmt g : Nat) : Nat :=
  if code = 0x38 then 0
  else if isReduction code then (rows / max g 1 + 127) / 128
  else if code = 0x28 then (if sfmt = 3 then 2 * rows else rows)
  else if code = 0x30 then (rows * (4096 / fmtBits sfmt) * fmtBits dfmt + 4095) / 4096
  else rows

/-- The segments of a reduction, `g` rows each. -/
def segments (g : Nat) (rows : List Row) : List (List Row) := chunksOf g (rows.length / max g 1) rows

/-- The result rows of an operation from its A rows, B rows and the hold (R186). -/
def RowopP.result (x : RowopP) (d : Draw) (as bs : List Row) (hold : Row) : List Row :=
  if x.code = 0x00 then as
  else if isReduction x.code then
    let f := if x.code = 0x20 then fadd else if x.code = 0x21 then fmax else fmin
    packRows 7 ((segments x.elow.toNat as).map (fun seg => (reduceRows f (seg.map (lanesOf x.sfmt))).toNat))
  else if x.code = 0x28 then packRows 8 ((as.map (fun r => (lanesOf x.sfmt r).map (fun v => (fclass v).toNat))).flatten)
  else if x.code = 0x30 then
    let per := 4096 / fmtBits x.sfmt
    let elems := (as.map (fun r => (List.range per).map (rowElem r (fmtBits x.sfmt)))).flatten
    packRows x.dfmt (elems.zipIdx.map (fun e =>
      convertTo x.dfmt x.sat (intRnd (x.sfmt == 8) x.dfmt (d.rnd x.sr ((x.elow.toNat + e.2) % 2 ^ 32))) (decodeFmt x.sfmt e.1)))
  else
    let hl := lanesOf x.sfmt hold
    as.zipIdx.map (fun r =>
      let la := lanesOf x.sfmt r.1
      let lb := if x.bhold then hl else lanesOf x.sfmt (bs.getD r.2 0)
      rowOfLanes x.sfmt (la.zipIdx.map (fun v => laneOp x.code v.1 (lb.getD v.2 0) (hl.getD v.2 0))))

/-! ## Holds (R183, R189) -/

/-- What a hold reads as. One that a routine left undefined reads a free value. -/
def RowEng.hold (r : RowEng) (i : Nat) : Row :=
  match r.freed.find? (fun e => e.hold == i) with
  | some e => Config.holdFill e.routine e.slots e.source i
  | none => r.holds.get (fun _ => 0) i

def RowEng.setHold (r : RowEng) (i : Nat) (v : Row) : RowEng :=
  { r with holds := r.holds.set (fun _ => 0) i v, freed := r.freed.filter (fun e => e.hold != i) }

/-! ## The commands -/

/-- INFO0 of a ROW event (R199). -/
def rowInfo (routine bitNo code : Nat) : Word := word (routine * 65536 + bitNo * 256 + code)

def State.modRow (s : State) (n : Nat) (f : RowEng → RowEng) : State := s.modCore n (fun c => { c with row := f c.row })

/-- A row-engine fault (R197): rows written stay, the engine stops and its queue with it. -/
def State.rowFault (s : State) (n routine bitNo code item : Nat) : State :=
  (s.raiseFault n kROW bitNo (rowInfo routine bitNo code) (word item)).modCore n (fun k =>
    { k with row := { k.row with stopped := true }, inflight := k.inflight.filter (fun d => d.req != .row) })

/-- The routine and the operation code of a row-engine command, as a ROW event reports them (R199). -/
def EngCmd.rowNames (c : EngCmd) : Nat × Nat :=
  match c.op with
  | .rowop x => (0, x.code)
  | .call x => (x.routine, 0)
  | _ => (0, 0)

/-- The names of the command at the front of the row engine's queue. -/
def Core.rowNames (k : Core) : Nat × Nat := (((k.queueOf .row).head?).map EngCmd.rowNames).getD (0, 0)

/-- A row command that ended at a bad index raises ROW_INDEX once the items before it are out (R194). -/
def State.rowEnd (s : State) (n id : Nat) : State :=
  match (s.core n).command id with
  | some d =>
    match d.stage, d.fail with
    | .performed, some i => s.rowFault n d.rowNames.1 3 d.rowNames.2 i
    | _, _ => s
  | none => s

/-- What a ROWOP captures. -/
def captureRowop (w : BitVec 128) (k : Core) : Capture :=
  let e := k.seq.ext w
  let eh := hi32 e
  let code := cf w 0 23 16
  let rows := bits eh 11 0 + 1
  let sfmt := bits eh 15 12
  let dfmt := bits eh 19 16
  let bhold := bit eh 22
  let streamB := takesB code && !bhold
  let (a, m) := resolve k.seq k.spm .rowRd (cw w 1) rows (plainElem sfmt)
  let (b, m) := if streamB then resolve k.seq m .rowRd (lo32 e) rows (plainElem sfmt) else resolve k.seq m .rowRd 0 0 none
  let (c, m) := resolve k.seq m .rowWr (cw w 2) (rowopDst code rows sfmt dfmt (lo32 e).toNat) none
  { req := .row,
    op := .rowop { code := code, rows := rows, sfmt := sfmt, dfmt := dfmt, sat := bit eh 20, sr := bit eh 21,
                   bhold := bhold, hold := bits eh 26 23, resv := bits eh 31 27, elow := lo32 e, srcA := a.opnd,
                   srcB := if streamB then some b.opnd else none, dst := c.opnd },
    ops := [a] ++ (if streamB then [b] else []) ++ (if code = 0x38 then [] else [c]), spm := m, seqErr := none,
    dmR := [], dmW := [] }

/-- Reserved values of a ROWOP's operands. -/
def badRowop (k : Core) (w : BitVec 128) : Bool :=
  let e := k.seq.ext w
  badOperand (cw w 1) || badOperand (cw w 2) ||
    (takesB (cf w 0 23 16) && !bit (hi32 e) 22 && badOperand (lo32 e))

/-- The operands that an operation reads. -/
def RowopP.sources (x : RowopP) : List Operand := x.srcA :: x.srcB.toList

/-- A row command runs when it is ready: its checks, its sources, its result (R184, R186). It reads its circular sources once
every slot is full, and releases them when it completes (R136). -/
def performRowop (n : Nat) (s : State) (c : EngCmd) : State :=
  let k := s.core n
  match c.op with
  | .rowop x =>
    if c.stage == .started then s.pushOut n c
    else if !k.ready c || k.raceHeld s.free c then s
    else match x.startErr with
      | some b => s.rowFault n 0 b x.code 0
      | none =>
        let srcs := x.sources
        let bad := k.spm.failedSlots srcs
        if !bad.isEmpty then s.headerFault n c.id bad
        else if !(srcs.all k.spm.fullFor) then s.count (corePage n kSPM) 0x130 1
        else
          let as := s.readFor n c x.srcA
          let bs := (x.srcB.map (s.readFor n c)).getD []
          let hold := k.row.hold x.hold
          let s := s.countRows n (sourceRows srcs) 0
          let s := s.count (corePage n kROW) 0x100 (as.length + bs.length)
          let s := s.count (corePage n kROW) 0x118 (tableUses x.code * laneCount x.sfmt * as.length)
          let s := s.spendRace c
          if x.code = 0x38 then
            (s.modRow n (fun r => { r.setHold x.hold (as.headD 0) with
              valid := r.valid ||| (1#16 <<< x.hold) })).markStage n c.id .performed
          else s.deliverAll n c [(x.dst, x.result (s.draw n c) as bs hold)]
  | _ => s

/-- The row is the ROWOP with this operation code; a code that no operation has is any of them. -/
def isRowop (code : Nat) (w : BitVec 128) : Bool :=
  opcodeOf w == 0x48 && (cf w 0 23 16 == code || !rowopCodes.contains (cf w 0 23 16))

/-- A ROWOP command, by operation code. -/
def State.rowop (s : State) (n code : Nat) : State :=
  s.engineCommand n (isRowop code) badRowop (fun _ => .row) captureRowop id (performRowop n)

def execCopy (n : CoreId) (s : State) : Host.Outcome State Fault Refusal := .next (s.rowop n.val 0x00)
def execAdd (n : CoreId) (s : State) : Host.Outcome State Fault Refusal := .next (s.rowop n.val 0x01)
def execSub (n : CoreId) (s : State) : Host.Outcome State Fault Refusal := .next (s.rowop n.val 0x02)
def execMul (n : CoreId) (s : State) : Host.Outcome State Fault Refusal := .next (s.rowop n.val 0x03)
def execFma (n : CoreId) (s : State) : Host.Outcome State Fault Refusal := .next (s.rowop n.val 0x04)
def execMin (n : CoreId) (s : State) : Host.Outcome State Fault Refusal := .next (s.rowop n.val 0x05)
def execMax (n : CoreId) (s : State) : Host.Outcome State Fault Refusal := .next (s.rowop n.val 0x06)
def execNeg (n : CoreId) (s : State) : Host.Outcome State Fault Refusal := .next (s.rowop n.val 0x07)
def execAbs (n : CoreId) (s : State) : Host.Outcome State Fault Refusal := .next (s.rowop n.val 0x08)
def execExp (n : CoreId) (s : State) : Host.Outcome State Fault Refusal := .next (s.rowop n.val 0x10)
def execLog (n : CoreId) (s : State) : Host.Outcome State Fault Refusal := .next (s.rowop n.val 0x11)
def execRsqrt (n : CoreId) (s : State) : Host.Outcome State Fault Refusal := .next (s.rowop n.val 0x12)
def execRecip (n : CoreId) (s : State) : Host.Outcome State Fault Refusal := .next (s.rowop n.val 0x13)
def execSigmoid (n : CoreId) (s : State) : Host.Outcome State Fault Refusal := .next (s.rowop n.val 0x14)
def execSilu (n : CoreId) (s : State) : Host.Outcome State Fault Refusal := .next (s.rowop n.val 0x15)
def execRsum (n : CoreId) (s : State) : Host.Outcome State Fault Refusal := .next (s.rowop n.val 0x20)
def execRmax (n : CoreId) (s : State) : Host.Outcome State Fault Refusal := .next (s.rowop n.val 0x21)
def execRmin (n : CoreId) (s : State) : Host.Outcome State Fault Refusal := .next (s.rowop n.val 0x22)
def execClassify (n : CoreId) (s : State) : Host.Outcome State Fault Refusal := .next (s.rowop n.val 0x28)
def execCvt (n : CoreId) (s : State) : Host.Outcome State Fault Refusal := .next (s.rowop n.val 0x30)
def execHold (n : CoreId) (s : State) : Host.Outcome State Fault Refusal := .next (s.rowop n.val 0x38)

end Sys2Proof.Machine
end

