-- ==== Sys2Proof/Machine/Book.lean ====
section
/-!
DEFINITION. The book of resident routines (R189-R196): the argument slots of each routine, the rows they name, the checks
at its start, and what it computes. Every intermediate value is FP32 (R191; log entry 36, DEDUCED).
-/
namespace Sys2Proof.Machine

/-! ## Arguments (R189, R190) -/

/-- The routine numbers of book version 1. -/
def bookRoutines : List Nat :=
  [0x0001, 0x0002, 0x0010, 0x0020, 0x0030, 0x0040, 0x0041, 0x0042, 0x0050, 0x0051, 0x0052, 0x0060, 0x0061, 0x0062]

/-- Argument slots of a routine, and the bits used of its packed slots. -/
def bookSlots : Nat → Nat × List (Nat × Nat)
  | 0x0001 => (6, [(3, 26)])
  | 0x0002 => (7, [(3, 26)])
  | 0x0010 => (5, [(2, 26)])
  | 0x0020 => (7, [(5, 21)])
  | 0x0030 => (8, [(5, 31)])
  | 0x0040 => (5, [(3, 24)])
  | 0x0041 => (5, [(3, 24)])
  | 0x0042 => (6, [(3, 24), (5, 4)])
  | 0x0050 => (5, [(3, 5)])
  | 0x0051 => (5, [(3, 4)])
  | 0x0052 => (6, [(3, 10)])
  | 0x0060 => (10, [(5, 26)])
  | 0x0061 => (5, [(3, 16)])
  | _ => (5, [(3, 22)])

/-- A nonzero unused slot or bit among slots 0 to 13. -/
def slotsBad (r : Nat) (slots : List Word) : Bool :=
  let (n, packed) := bookSlots r
  (slots.drop n).any (fun v => v != 0) ||
    packed.any (fun p => (slots.getD p.1 0).toNat >>> p.2 != 0)

def slotAt (slots : List Word) (i : Nat) : Word := slots.getD i 0
def ceilDiv (a b : Nat) : Nat := (a + b - 1) / b

/-- Rows of `d` elements of a format that start on a row boundary. -/
def rowsFor (d fmt : Nat) : Nat := ceilDiv (d * fmtBits fmt) 4096

/-- More rows than any region holds: a longer range fails its bound check at the same row. -/
def rowCap (n : Nat) : Nat := min n 24577

/-- One operand of a routine: its slot, whether it is written, its rows and its format. -/
structure BookOp where
  slot  : Nat
  write : Bool
  rows  : Nat
  fmt   : Nat
  deriving DecidableEq, Repr, Inhabited

def bRead (slot rows fmt : Nat) : BookOp := { slot := slot, write := false, rows := rowCap rows, fmt := fmt }
def bWrite (slot rows fmt : Nat) : BookOp := { slot := slot, write := true, rows := rowCap rows, fmt := fmt }

/-- Rows of a ROPE table: a strided operand names its pattern, a linear one its region from the offset on (log entry 37, DEDUCED). -/
def ropeTableRows (k : Core) (o : Word) : Nat :=
  if bit o 15 then circSlotRows (k.spm.circ (bits o 17 16)).cfg
  else
    let off := (bits o 14 0 + if bit o 20 then (k.seq.areg (bits o 24 21)).toNat else 0) % 2 ^ 32
    if bits o 26 25 = 1 then
      let g := geometry k.seq.dmem (bits o 31 28)
      g.1 * g.2.1
    else (k.spm.region (bits o 19 16)).count1 + 1 - off

/-- The rows that a routine's arguments name (R190-R196). A destination that is read before it is written is listed once
for each. -/
def bookOps (k : Core) (r : Nat) (a : List Word) : List BookOp :=
  let g := slotAt a
  match r with
  | 0x0001 | 0x0002 =>
    let d := bits (g 3) 15 0; let fi := bits (g 3) 19 16; let fo := bits (g 3) 23 20; let n := (g 4).toNat
    [bRead 0 (n * rowsFor d fi) fi, bWrite 1 (n * rowsFor d fo) fo, bRead 2 (rowsFor d fi) fi] ++
      (if r = 2 then [bRead 6 (rowsFor d fi) fi] else [])
  | 0x0010 =>
    let d := bits (g 2) 15 0; let fi := bits (g 2) 19 16; let fo := bits (g 2) 23 20; let n := (g 3).toNat
    [bRead 0 (n * rowsFor d fi) fi, bWrite 1 (n * rowsFor d fo) fo]
  | 0x0020 =>
    let hd := bits (g 5) 7 0; let heads := bits (g 5) 15 8; let f := bits (g 5) 19 16; let n := (g 6).toNat
    [bRead 0 (n * heads * rowsFor hd f) f, bWrite 1 (n * heads * rowsFor hd f) f, bRead 2 (ropeTableRows k (g 2)) 7,
     bRead 3 (ropeTableRows k (g 3)) 7, bRead 4 (ceilDiv n 128) 8]
  | 0x0030 =>
    let n := bits (g 5) 14 0; let e := bits (g 5) 23 15
    [bRead 0 (n * ceilDiv e 128) 7, bRead 1 (ceilDiv n 4096) 5, bWrite 2 (e * ceilDiv n 512) 5,
     bWrite 3 (e * ceilDiv n 128) 7, bWrite 4 4 8]
  | 0x0040 =>
    let m := bits (g 3) 15 0; let rpi := bits (g 3) 23 16
    [bRead 0 ((g 4).toNat * rpi) 5, bWrite 1 (m * rpi) 5, bRead 2 (ceilDiv m 128) 8]
  | 0x0041 =>
    let m := bits (g 3) 15 0; let rpi := bits (g 3) 23 16
    [bRead 0 (m * rpi) 5, bWrite 1 ((g 4).toNat * rpi) 5, bRead 2 (ceilDiv m 128) 8]
  | 0x0042 =>
    let m := bits (g 3) 15 0; let rpi := bits (g 3) 23 16
    [bRead 0 (m * rpi) 5, bRead 1 ((g 4).toNat * rpi) 5, bWrite 1 ((g 4).toNat * rpi) 5, bRead 2 (ceilDiv m 128) 8]
  | 0x0050 =>
    let f := bits (g 3) 3 0; let el := (g 4).toNat
    [bRead 0 (rowsFor el f) f, bWrite 1 (rowsFor el 2) 2, bWrite 2 (ceilDiv (rowsFor el 2) 16) 5]
  | 0x0051 =>
    let f := bits (g 3) 3 0; let el := (g 4).toNat
    [bRead 0 (rowsFor el 2) 2, bRead 1 (ceilDiv (rowsFor el 2) 16) 5, bWrite 2 (rowsFor el f) f]
  | 0x0052 =>
    let fi := bits (g 3) 3 0; let fo := bits (g 3) 7 4; let el := (g 4).toNat
    [bRead 0 (rowsFor el fi) fi, bWrite 1 (rowsFor el fo) fo, bWrite 2 1 7]
  | 0x0060 =>
    let kc := bits (g 5) 15 0; let fi := bits (g 5) 19 16; let fo := bits (g 5) 23 20; let n := (g 6).toNat
    let q := ceilDiv n 128
    [bRead 0 (n * rowsFor kc fi) fi, bWrite 1 (n * rowsFor kc fo) fo, bRead 2 q 7, bRead 3 q 7, bWrite 2 q 7,
     bWrite 3 q 7, bWrite 4 q 7]
  | 0x0061 =>
    let d := bits (g 3) 15 0; let n := (g 4).toNat
    [bRead 0 (n * rowsFor d 7) 7, bRead 1 (n * rowsFor d 7) 7, bRead 2 (ceilDiv n 128) 7, bWrite 0 (n * rowsFor d 7) 7]
  | _ =>
    let d := bits (g 3) 15 0; let fo := bits (g 3) 19 16; let n := (g 4).toNat
    [bRead 0 (n * rowsFor d 7) 7, bWrite 1 (n * rowsFor d fo) fo, bRead 2 (ceilDiv n 128) 7]

/-- Data-memory bytes that a routine reads and writes (R177, R193): demand mask, then counts. -/
def bookDm (r : Nat) (a : List Word) : List (Nat × Nat) :=
  if r = 0x0030 then
    let p := slotAt a 5
    (if bit p 29 then [(bits (slotAt a 7) 15 0, 32)] else []) ++
      (if bit p 30 then [(bits (slotAt a 7) 31 16, 8 * bits p 23 15)] else [])
  else []

/-! ## Checks at the start (R189-R196, R197) -/

/-- The formats and arguments of a routine: ROW_FORMAT (1) or ROW_ARG (2). The formats that a row-engine operation takes
are FP32 and BF16, those that a conversion gives all but MXFP4 and INT4 (R186; log entry 38, DEDUCED). -/
def bookErr (r : Nat) (a : List Word) : Option Nat :=
  let g := slotAt a
  let inOk := fun (f : Nat) => f == 7 || f == 3
  let fmt := match r with
    | 0x0001 | 0x0002 => inOk (bits (g 3) 19 16) && cvtFmt (bits (g 3) 23 20)
    | 0x0010 => inOk (bits (g 2) 19 16) && cvtFmt (bits (g 2) 23 20)
    | 0x0020 => inOk (bits (g 5) 19 16)
    | 0x0042 => inOk (bits (g 5) 3 0)
    | 0x0050 => inOk (bits (g 3) 3 0)
    | 0x0051 => inOk (bits (g 3) 3 0)
    | 0x0052 => inOk (bits (g 3) 3 0) && cvtFmt (bits (g 3) 7 4)
    | 0x0060 => inOk (bits (g 5) 19 16) && cvtFmt (bits (g 5) 23 20)
    | 0x0062 => cvtFmt (bits (g 3) 19 16)
    | _ => true
  let arg := match r with
    | 0x0030 =>
      let n := bits (g 5) 14 0; let e := bits (g 5) 23 15; let k := bits (g 5) 27 24
      decide (n < 64) || decide (16384 < n) || n % 64 != 0 || e == 0 || decide (256 < e) || k == 0 ||
        decide (min 8 e < k) || decide (n < (g 6).toNat) || (bit (g 5) 29 && bits (g 7) 15 0 % 32 != 0) ||
        (bit (g 5) 30 && bits (g 7) 31 16 % 8 != 0)
    | 0x0040 | 0x0041 | 0x0042 => bits (g 3) 23 16 == 0
    | _ => false
  if slotsBad r a then some 2 else if !fmt then some 1 else if arg then some 2 else none

/-! ## Reading vectors -/

/-- A token's elements as rows of lanes; lanes past `d` read as +0 (R191). -/
def tokenLanes (fmt d : Nat) (rows : List Row) (v : Nat) : List (List Word) :=
  let per := laneCount fmt
  (List.range (rowsFor d fmt)).map (fun j =>
    ((lanesOf fmt (rows.getD (v * rowsFor d fmt + j) 0)).zipIdx).map (fun x => if j * per + x.2 < d then x.1 else 0))

/-- Apply a function to the elements of a token, and +0 to the lanes past them. -/
def mapLanes (d per : Nat) (f : Nat → Word → Word) (rows : List (List Word)) : List (List Word) :=
  rows.zipIdx.map (fun r => r.1.zipIdx.map (fun x => if r.2 * per + x.2 < d then f (r.2 * per + x.2) x.1 else 0))

def flatLanes (d : Nat) (rows : List (List Word)) : List Word := (rows.flatten).take d

/-- A sum over one token by R34, taken row by row in order. -/
def tokenSum (rows : List (List Word)) : Word := reduceRows fadd rows

/-- A maximum over a token's elements. -/
def listMax (xs : List Word) : Word := xs.foldl fmax f32NegInf

/-- Results of a token in the out format, from a row boundary, zero bytes after the last (R191). `base` is the element
index of the routine's first element, `i0` the token's first element (R189). -/
def outRows (d : Draw) (fmt : Nat) (sat sr : Bool) (base : Word64) (i0 : Nat) (xs : List Word) : List Row :=
  packRows fmt (xs.zipIdx.map (fun x => convertTo fmt sat (d.rnd sr (base.toNat + i0 + x.2)) (f32 x.1)))

/-- Lane `v` of rows of 128 FP32 or INT32 lanes. -/
def laneAt (rows : List Row) (v : Nat) : Word := word (rowElem (rows.getD (v / 128) 0) 32 (v % 128))

/-- Rows of 128 lanes that hold `n` values; the lanes past them hold values that the spec does not state (log entry 39, DESIGN CHOICE). -/
def laneRows (fill : Nat → Word) (xs : List Word) : List Row :=
  (List.range (ceilDiv xs.length 128)).map (fun j =>
    rowOfElems 32 ((List.range 128).map (fun i =>
      if j * 128 + i < xs.length then (xs.getD (j * 128 + i) 0).toNat else (fill (j * 128 + i)).toNat)))

/-- Addition of a reciprocal: 1/D rounded once. -/
def recipOf (d : Nat) : Word :=
  if d = 0 then 0 else toF32 (.fin false (2 ^ 64 / d * 2 + (if 2 ^ 64 % d = 0 then 0 else 1)) (-65))

/-! ## What the routines compute -/

/-- What a routine gives: rows for destinations by slot, data-memory writes, the function-table evaluations, the work
steps, and where it stopped with ROW_INDEX. -/
structure BookRes where
  writes : List (Nat × List Row)
  dm     : List (Nat × Nat × Nat)     -- address, bytes, value
  tabs   : Nat
  steps  : Nat
  bad    : Option Nat
  deriving DecidableEq, Repr, Inhabited

def bookRes (writes : List (Nat × List Row)) (tabs steps : Nat) : BookRes :=
  { writes := writes, dm := [], tabs := tabs, steps := steps, bad := none }

/-- What a routine runs with: its number, argument slots, source rows, generator, element index and data memory. -/
structure BookEnv where
  r    : Nat
  a    : List Word
  src  : List Row
  d    : Draw
  base : Word64
  dm   : SMap Byte
  deriving DecidableEq, Repr, Inhabited

/-- A value of result `j` of the routine that the spec does not state (R317; log entry 39, DESIGN CHOICE). -/
def BookEnv.fill (v : BookEnv) (j i : Nat) : Word := Config.resultFill v.r v.a v.src (2 ^ 32 * j + i)

/-- RMSNORM and LAYERNORM (R191). -/
def bookNorm (layer : Bool) (v : BookEnv) (x gam bet : List Row) : BookRes :=
  let g := slotAt v.a
  let d := bits (g 3) 15 0; let fi := bits (g 3) 19 16; let fo := bits (g 3) 23 20; let n := (g 4).toNat
  let per := laneCount fi
  let rd := recipOf d
  let gs := flatLanes d (tokenLanes fi d gam 0)
  let bs := flatLanes d (tokenLanes fi d bet 0)
  let one := fun (t : Nat) =>
    let xs := tokenLanes fi d x t
    let mu := fmul (tokenSum xs) rd
    let xs := if layer then mapLanes d per (fun _ y => fsub y mu) xs else xs
    let r := TFun.eval .rsqrt (ffma (tokenSum (mapLanes d per (fun _ y => fmul y y) xs)) rd (g 5))
    let ys := (flatLanes d xs).zipIdx.map (fun y =>
      if layer then ffma (fmul y.1 r) (gs.getD y.2 0) (bs.getD y.2 0) else fmul (fmul y.1 r) (gs.getD y.2 0))
    outRows v.d fo (bit (g 3) 25) (bit (g 3) 24) v.base (t * d) ys
  bookRes [(1, ((List.range n).map one).flatten)] n (n * (if layer then 5 else 3) * rowsFor d fi)

/-- A 32-bit argument read as a signed count. -/
def signedArg (w : Word) : Int := w.toInt

/-- SOFTMAX (R191). -/
def bookSoftmax (v : BookEnv) (x : List Row) : BookRes :=
  let g := slotAt v.a
  let d := bits (g 2) 15 0; let fi := bits (g 2) 19 16; let fo := bits (g 2) 23 20; let n := (g 3).toNat
  let per := laneCount fi
  let one := fun (t : Nat) =>
    let xs := mapLanes d per (fun j y =>
      if bit (g 2) 24 && decide ((t : Int) + signedArg (g 4) < j) then f32NegInf else y) (tokenLanes fi d x t)
    let m := listMax (flatLanes d xs)
    let ps := mapLanes d per (fun _ y => TFun.eval .exp (fsub y m)) xs
    let rc := TFun.eval .recip (tokenSum ps)
    let ys := if m = f32NegInf then List.replicate d (0 : Word) else (flatLanes d ps).map (fun p => fmul p rc)
    outRows v.d fo false (bit (g 2) 25) v.base (t * d) ys
  bookRes [(1, ((List.range n).map one).flatten)] (n * (d + 1)) (n * 3 * rowsFor d fi)

/-- One head of ROPE (R192). An element that no pair holds has no stated value (log entry 39, DESIGN CHOICE). -/
def ropeHead (layout : Nat) (fill : Nat → Word) (xs cs ss : List Word) : List Word :=
  let hd := xs.length
  let h := hd / 2
  (List.range hd).map (fun i =>
    if 2 * h ≤ i then fill i
    else
      let p := if layout = 0 then i / 2 else i % h
      let first := if layout = 0 then i % 2 == 0 else decide (i < h)
      let x0 := xs.getD (if layout = 0 then 2 * p else p) 0
      let x1 := xs.getD (if layout = 0 then 2 * p + 1 else p + h) 0
      let c := cs.getD p 0
      let s := ss.getD p 0
      if first then ffma x0 c (fneg (fmul x1 s)) else ffma x0 s (fmul x1 c))

def bookRope (v : BookEnv) (x cos sin pos : List Row) : BookRes :=
  let g := slotAt v.a
  let hd := bits (g 5) 7 0; let heads := bits (g 5) 15 8; let f := bits (g 5) 19 16; let n := (g 6).toNat
  let rh := rowsFor hd f
  let at_ := fun (t : Nat) => (laneAt pos t).toInt
  let isBad := fun (t : Nat) => decide (at_ t < 0) || decide ((cos.length : Int) ≤ at_ t) || decide ((sin.length : Int) ≤ at_ t)
  let bad := (List.range n).find? isBad
  let one := fun (t : Nat) =>
    let p := (at_ t).toNat
    let cs := lanesOf 7 (cos.getD p 0)
    let ss := lanesOf 7 (sin.getD p 0)
    ((List.range heads).map (fun h =>
      let xs := flatLanes hd (tokenLanes f hd x (t * heads + h))
      packRows f ((ropeHead (bits (g 5) 20 20) (fun i => v.fill 1 ((t * heads + h) * 256 + i)) xs cs ss).map (fun y =>
        convertTo f false .rne (f32 y))))).flatten
  { bookRes [(1, ((List.range (bad.getD n)).map one).flatten)] 0 (n * (2 + heads * rh)) with bad := bad }

/-! ### Routing (R100-R102, R193) -/

/-- Rank order of scores: the higher first, NaN below -infinity, -0 equal to +0; smaller key ranks first (R101). -/
def rankKey (s : Word) : Int :=
  match f32 s with
  | .nan => 2 ^ 40
  | _ => if s.toNat % 2 ^ 31 = 0 then 0 else if s.msb then ((s.toNat - 2 ^ 31 : Nat) : Int) else -(s.toNat : Int)

/-- The best expert not yet chosen: the smallest key, then the lowest number. -/
def bestOf (scores : List Word) (chosen : List Nat) : Nat :=
  let free := (List.range scores.length).filter (fun e => !chosen.contains e)
  free.foldl (fun b e => if rankKey (scores.getD e 0) < rankKey (scores.getD b 0) then e else b) (free.headD 0)

/-- The top `k` experts in rank order. -/
def topK (scores : List Word) : Nat → List Nat → List Nat
  | 0, chosen => chosen
  | k + 1, chosen => topK scores k (chosen ++ [bestOf scores chosen])

/-- Gates of a token's choices (R193). -/
def gatesOf (norm : Bool) (scores : List Word) (choices : List Nat) : List Word :=
  let ss := choices.map (fun e => scores.getD e 0)
  if norm then
    let ex := ss.map (fun s => TFun.eval .exp (fsub s (ss.headD 0)))
    let tot := (ex.drop 1).foldl fadd (ex.headD 0)
    ex.map (fun e => fmul e (TFun.eval .recip tot))
  else ss

/-- Offer choices in rank order, within a rank in token order (R102): accepted pairs with their gates, and the accepted
and dropped counts by expert. -/
structure Routed where
  taken : List (Nat × Nat × Word)   -- token, expert, gate
  acc   : List Nat
  drop  : List Nat
  deriving DecidableEq, Repr, Inhabited

def bump (xs : List Nat) (i : Nat) : List Nat := xs.modify i (· + 1)

def offer (cap : Nat) (r : Routed) (x : Nat × Nat × Word) : Routed :=
  if r.acc.getD x.2.1 0 < cap then { r with taken := r.taken ++ [x], acc := bump r.acc x.2.1 }
  else { r with drop := bump r.drop x.2.1 }

def routeBlock (k cap : Nat) (choices : List (List (Nat × Word))) : Routed :=
  let offers := ((List.range k).map (fun rk =>
    (choices.zipIdx.filterMap (fun c => (c.1[rk]?).map (fun x => (c.2, x.1, x.2)))))).flatten
  offers.foldl (offer cap) { taken := [], acc := List.replicate 256 0, drop := List.replicate 256 0 }

def bookTopk (v : BookEnv) (sc live : List Row) : BookRes :=
  let g := slotAt v.a
  let p := g 5
  let n := bits p 14 0; let e := bits p 23 15; let k := bits p 27 24
  let per := ceilDiv e 128
  let isLive := fun (t : Nat) => (live.getD (t / 4096) 0).getLsbD (t % 4096)
  let choices := (List.range n).map (fun t =>
    if isLive t then
      let scores := flatLanes e ((List.range per).map (fun j => lanesOf 7 (sc.getD (t * per + j) 0)))
      let cs := topK scores k []
      cs.zip (gatesOf (bit p 28) scores cs)
    else [])
  let r := routeBlock k (g 6).toNat choices
  let nb := ceilDiv n 512
  let masks := ((List.range e).map (fun x => (List.range nb).map (fun j =>
    BitVec.ofNat 4096 ((r.taken.filter (fun y => y.2.1 == x && y.1 / 512 == j)).foldl (fun m y => m ||| 2 ^ (y.1 % 512)) 0)))).flatten
  let gates := ((List.range e).map (fun x => (List.range (ceilDiv n 128)).map (fun j =>
    rowOfElems 32 ((List.range 128).map (fun i =>
      match r.taken.find? (fun y => y.2.1 == x && y.1 == j * 128 + i) with
      | some y => convertTo 7 false .rne (f32 y.2.2)
      | none => 0))))).flatten
  let counts := packRows 8 (r.acc ++ r.drop)
  let ma := bits (g 7) 15 0; let ca := bits (g 7) 31 16
  let mask := (List.range e).foldl (fun m x => if 0 < r.acc.getD x 0 then m ||| 2 ^ x else m) (dmRead v.dm ma 32)
  let dmMask := if bit p 29 then [(ma, 32, mask)] else []
  let dm1 := dmMask.foldl (fun d w => dmWrite d w.1 w.2.1 w.2.2) v.dm
  let dmCount := if bit p 30 then (List.range e).map (fun x =>
      (ca + 8 * x, 8, (dmRead dm1 (ca + 8 * x) 8 + r.acc.getD x 0) % 2 ^ 64)) else []
  { writes := [(2, masks), (3, gates), (4, counts)], dm := dmMask ++ dmCount,
    tabs := if bit p 28 then ((List.range n).filter isLive).length * (k + 1) else 0,
    steps := n * (k + 1) * per + 2 * e * nb, bad := none }

/-! ### Items (R194) -/

/-- Index `i`, or `none` where it is negative or not below the item count. -/
def itemIndex (idx : List Row) (items i : Nat) : Option Nat :=
  let x := (laneAt idx i).toInt
  if 0 ≤ x ∧ x < items then some x.toNat else none

/-- The first bad index. -/
def badIndex (idx : List Row) (items m : Nat) : Option Nat := (List.range m).find? (fun i => (itemIndex idx items i).isNone)

def itemSteps (mult m rpi : Nat) : Nat := mult * m * rpi + ceilDiv m 128

def bookGather (v : BookEnv) (table idx : List Row) : BookRes :=
  let g := slotAt v.a
  let m := bits (g 3) 15 0; let rpi := bits (g 3) 23 16; let items := (g 4).toNat
  let bad := badIndex idx items m
  let rows := ((List.range (bad.getD m)).map (fun i =>
    (List.range rpi).map (fun q => table.getD (((itemIndex idx items i).getD 0) * rpi + q) 0))).flatten
  { bookRes [(1, rows)] 0 (itemSteps 1 m rpi) with bad := bad }

/-- The writes of SCATTER in increasing index order: table row and source row. -/
def scatterPlan (idx : List Row) (items m rpi : Nat) : List (Nat × Nat) :=
  ((List.range ((badIndex idx items m).getD m)).map (fun i =>
    (List.range rpi).map (fun q => (((itemIndex idx items i).getD 0) * rpi + q, i * rpi + q)))).flatten

/-! ### Quantisation (R195) -/

def bookQuantMx (v : BookEnv) (x : List Row) : BookRes :=
  let g := slotAt v.a
  let f := bits (g 3) 3 0; let sr := bit (g 3) 4; let el := (g 4).toNat
  let xs := ((x.map (lanesOf f)).flatten).take el
  let xs := xs ++ List.replicate ((32 - el % 32) % 32) 0
  let blocks := (chunksOf 32 (xs.length / 32) xs).zipIdx.map (fun b =>
    quantBlock (fun i => v.d.rnd sr (v.base.toNat + 32 * b.2 + i)) b.1)
  bookRes [(1, packRows 2 ((blocks.map (·.2)).flatten)), (2, packRows 5 (blocks.map (·.1)))] 0 (rowsFor el f)

def bookDequantMx (v : BookEnv) (x sc : List Row) : BookRes :=
  let g := slotAt v.a
  let f := bits (g 3) 3 0; let el := (g 4).toNat
  let ys := (List.range el).map (fun i =>
    let e := rowElem (x.getD (i / 1024) 0) 4 (i % 1024)
    let s := rowElem (sc.getD (i / 16384) 0) 8 (i / 32 % 512)
    convertTo f false .rne (scaled s (decodeFmt 2 e)))
  bookRes [(2, packRows f ys)] 0 (rowsFor el f + ceilDiv (rowsFor el 2) 16)

def bookQuantFp8 (v : BookEnv) (x : List Row) : BookRes :=
  let g := slotAt v.a
  let fi := bits (g 3) 3 0; let fo := bits (g 3) 7 4; let el := (g 4).toNat
  let xs := ((x.map (lanesOf fi)).flatten).take el
  let ys := xs.map (fun y => fmul y (g 5))
  let amax := (xs.map fabs).foldl fmax 0
  bookRes [(1, outRows v.d fo (bit (g 3) 9) (bit (g 3) 8) v.base 0 ys), (2, laneRows (v.fill 2) [amax])] 0 (rowsFor el fi)

/-! ### Attention (R196) -/

/-- One query of ATTN_PROB: p, m', l', alpha. -/
def attnQuery (fi kc : Nat) (scale m l : Word) (masked : Nat → Bool) (rows : List (List Word)) :
    List Word × Word × Word × Word :=
  let per := laneCount fi
  let ss := mapLanes kc per (fun j y => if masked j then f32NegInf else fmul y scale) rows
  let m' := fmax m (listMax (flatLanes kc ss))
  let none' := m' == f32NegInf
  let alpha := if none' then f32One else TFun.eval .exp (fsub m m')
  let ps := mapLanes kc per (fun _ y => if none' then 0 else TFun.eval .exp (fsub y m')) ss
  (flatLanes kc ps, m', fadd (fmul l alpha) (tokenSum ps), alpha)

def bookAttnProb (v : BookEnv) (sRows mRows lRows : List Row) : BookRes :=
  let g := slotAt v.a
  let kc := bits (g 5) 15 0; let fi := bits (g 5) 19 16; let fo := bits (g 5) 23 20; let n := (g 6).toNat
  let causal := bit (g 5) 24
  let qs := (List.range n).map (fun t =>
    attnQuery fi kc (g 7) (laneAt mRows t) (laneAt lRows t)
      (fun j => causal && decide ((g 9).toNat + t < (g 8).toNat + j)) (tokenLanes fi kc sRows t))
  let p := (qs.zipIdx.map (fun q => outRows v.d fo false (bit (g 5) 25) v.base (q.2 * kc) q.1.1)).flatten
  bookRes [(1, p), (2, laneRows (v.fill 2) (qs.map (fun q => q.2.1))), (3, laneRows (v.fill 3) (qs.map (fun q => q.2.2.1))),
      (4, laneRows (v.fill 4) (qs.map (fun q => q.2.2.2)))] (n * (kc + 1))
    (2 * n * rowsFor kc fi + 2 * ceilDiv n 128)

def bookAttnMerge (v : BookEnv) (o x al : List Row) : BookRes :=
  let g := slotAt v.a
  let d := bits (g 3) 15 0; let n := (g 4).toNat
  let rows := ((List.range n).map (fun t =>
    let os := flatLanes d (tokenLanes 7 d o t)
    let xs := flatLanes d (tokenLanes 7 d x t)
    packRows 7 ((List.zipWith (fun a b => ffma a (laneAt al t) b) os xs).map (·.toNat)))).flatten
  bookRes [(0, rows)] 0 (2 * n * ceilDiv d 128 + ceilDiv n 128)

def bookAttnFinal (v : BookEnv) (o l : List Row) : BookRes :=
  let g := slotAt v.a
  let d := bits (g 3) 15 0; let fo := bits (g 3) 19 16; let n := (g 4).toNat
  let rows := ((List.range n).map (fun t =>
    let lt := laneAt l t
    let os := flatLanes d (tokenLanes 7 d o t)
    let ys := if lt = 0 then os.map (fun _ => (0 : Word)) else os.map (fun y => fmul y (TFun.eval .recip lt))
    outRows v.d fo (bit (g 3) 21) (bit (g 3) 20) v.base (t * d) ys)).flatten
  bookRes [(1, rows)] n (n * ceilDiv d 128 + ceilDiv n 128)

/-- A routine's result from its read operands in the order of `bookOps`. -/
def bookRun (r : Nat) (v : BookEnv) (srcs : List (List Row)) : BookRes :=
  let x := fun (i : Nat) => srcs.getD i []
  match r with
  | 0x0001 => bookNorm false v (x 0) (x 1) []
  | 0x0002 => bookNorm true v (x 0) (x 1) (x 2)
  | 0x0010 => bookSoftmax v (x 0)
  | 0x0020 => bookRope v (x 0) (x 1) (x 2) (x 3)
  | 0x0030 => bookTopk v (x 0) (x 1)
  | 0x0040 => bookGather v (x 0) (x 1)
  | 0x0050 => bookQuantMx v (x 0)
  | 0x0051 => bookDequantMx v (x 0) (x 1)
  | 0x0052 => bookQuantFp8 v (x 0)
  | 0x0060 => bookAttnProb v (x 0) (x 1) (x 2)
  | 0x0061 => bookAttnMerge v (x 0) (x 1) (x 2)
  | _ => bookAttnFinal v (x 0) (x 1)

/-! ## CALL (R177, R189) -/

/-- Argument slots 0 to 13 from g8 to g14. -/
def callSlots (q : Seq) : List Word :=
  ((List.range 7).map (fun i => [lo32 (q.reg (8 + i)), hi32 (q.reg (8 + i))])).flatten

def captureCall (w : BitVec 128) (k : Core) : Capture :=
  let r := cf w 0 31 16
  let a := callSlots k.seq
  let known := bookRoutines.contains r
  let ops := if known then bookOps k r a else []
  let (rs, m) := ops.foldl (fun (acc : List Resolved × Spm) o =>
    let (x, m) := resolve k.seq acc.2 (if o.write then .rowWr else .rowRd) (slotAt a o.slot) o.rows (plainElem o.fmt)
    (acc.1 ++ [x], m)) ([], k.spm)
  { req := .row, op := .call { routine := r, slots := a, index := k.seq.reg 15, opnds := rs.map (·.opnd) },
    ops := rs, spm := m, seqErr := if known then none else some 6,
    dmR := if known then bookDm r a else [], dmW := if known then bookDm r a else [] }

/-- A reserved value in an operand that a routine's arguments name. -/
def badCall (k : Core) (w : BitVec 128) : Bool :=
  let r := cf w 0 31 16
  let a := callSlots k.seq
  bookRoutines.contains r && (bookOps k r a).any (fun o => badOperand (slotAt a o.slot))

/-- The captured operands of a call that are read, and those that are written with their slots. -/
def CallP.reads (k : Core) (x : CallP) : List Operand :=
  (((bookOps k x.routine x.slots).zip x.opnds).filter (fun p => !p.1.write)).map (·.2)

def CallP.writesTo (k : Core) (x : CallP) (slot : Nat) : Option Operand :=
  (((bookOps k x.routine x.slots).zip x.opnds).find? (fun p => p.1.write && p.1.slot == slot)).map (·.2)

/-- SCATTER and SCATTER_ADD write the table's rows one by one in increasing index order: the scratchpad after them. -/
def scatterRows (add : Bool) (fmt : Nat) (x : List Row) (dest : Nat → Nat) (plan : List (Nat × Nat)) (m : Spm) : Spm :=
  plan.foldl (fun m p =>
    let at_ := dest p.1
    let v := x.getD p.2 0
    m.setRow at_ (if add then
        rowOfLanes fmt (List.zipWith fadd (lanesOf fmt (m.row at_)) (lanesOf fmt v)) else v)) m

/-- The items of a scatter into a circular table: each slot's rows that the plan writes, with what they hold after it; the
slots become full once the whole plan is done (R184, R194). -/
def scatterItems (before after : Spm) (o : Operand) (plan : List (Nat × Nat)) (whole : Bool) : List SlotItem :=
  (before.slotsOf o).map (fun x =>
    let dest := (plan.map (fun p => o.rows.getD p.1 0)).filter (fun y => x.2.2.contains y)
    { region := x.1, seq := x.2.1, dest := dest, rows := dest.map after.row, full := whole : SlotItem })

/-- Holds 8 to 15 are left undefined by a routine (R189): free values. -/
def RowEng.clobber (r : RowEng) (v : BookEnv) : RowEng :=
  { r with holds := r.holds.filter (fun e => decide (e.1 < 8)),
           freed := (List.range 8).map (fun i => { hold := 8 + i, routine := v.r, slots := v.a, source := v.src }) }

def CallP.isScatter (x : CallP) : Bool := x.routine == 0x0041 || x.routine == 0x0042

/-- A routine's result: its steps and table uses count, holds 8 to 15 go, its data memory is written and its rows are
delivered; a bad index is reported once the items before it are out (R189, R194, R201). -/
def State.callResult (s : State) (n : Nat) (c : EngCmd) (v : BookEnv) (res : BookRes)
    (out : State → BookRes → State) : State :=
  let p := corePage n kROW
  let s := ((s.count p 0x100 res.steps).count p 0x118 res.tabs).modCore n (fun k =>
    { k.updateCmd c.id (fun d => { d with fail := res.bad }) with
      row := k.row.clobber v,
      seq := { k.seq with dmem := res.dm.foldl (fun d w => dmWrite d w.1 w.2.1 w.2.2) k.seq.dmem } })
  (out s res).rowEnd n c.id

/-- SCATTER and SCATTER_ADD (R194): the table's rows are written at once, or slot by slot as a circular table's slots empty
(R184). -/
def State.scatter (s : State) (n : Nat) (c : EngCmd) (x : CallP) (got : List (List Row)) (v : BookEnv) : State :=
  let idx := (got.getLast?).getD []
  let m := bits (slotAt x.slots 3) 15 0
  let rpi := bits (slotAt x.slots 3) 23 16
  let items := (slotAt x.slots 4).toNat
  let bad := badIndex idx items m
  let plan := scatterPlan idx items m rpi
  let o := (x.writesTo (s.core n) 1).getD default
  let write := fun (sp : Spm) => scatterRows (x.routine == 0x0042) (bits (slotAt x.slots 5) 3 0) (got.headD [])
    (fun i => o.rows.getD i 0) plan sp
  s.callResult n c v { bookRes [] 0 (itemSteps (if x.routine = 0x0042 then 2 else 1) m rpi) with bad := bad } (fun s _ =>
    if o.circ.isSome then
      let sp := (s.core n).spm
      (s.markStage n c.id .started).pushOut n { c with out := scatterItems sp (write sp) o plan bad.isNone }
    else ((s.modSpm n (fun sp => write (sp.keepOld c.id))).countRows n 0 plan.length).markStage n c.id .performed)

def performCall (n : Nat) (s : State) (c : EngCmd) : State :=
  let k := s.core n
  match c.op with
  | .call x =>
    if c.stage == .started then (s.pushOut n c).rowEnd n c.id
    else if !k.ready c || k.raceHeld s.free c then s
    else match bookErr x.routine x.slots with
      | some b => s.rowFault n x.routine b 0 0
      | none =>
        let srcs := x.reads k
        let bad := k.spm.failedSlots srcs
        if !bad.isEmpty then s.headerFault n c.id bad
        else if !(srcs.all k.spm.fullFor) then s.count (corePage n kSPM) 0x130 1
        else
          let got := srcs.map (s.readFor n c)
          let env : BookEnv := { r := x.routine, a := x.slots, src := got.flatten, d := s.draw n c, base := x.index,
                                 dm := k.seq.dmem }
          let s := (s.countRows n (sourceRows srcs) 0).spendRace c
          if x.isScatter then s.scatter n c x got env
          else s.callResult n c env (bookRun x.routine env got) (fun s res =>
            s.deliverAll n c (res.writes.filterMap (fun w => (x.writesTo k w.1).map (fun o => (o, w.2)))))
  | _ => s

/-- ROW_HANG counts only time in which the front command could go on: not while it waits on a token, on rows, or on a full or
an empty slot (R197). -/
def State.rowGoes (s : State) (n : Nat) (c : EngCmd) : Bool :=
  let k := s.core n
  match c.stage with
  | .queued => k.ready c && !k.raceHeld s.free c && (match c.op with
      | .rowop x => x.sources.all k.spm.fullFor
      | .call x => (x.reads k).all k.spm.fullFor
      | _ => false)
  | .started => match c.out with
    | x :: _ => k.spm.slotOpen x.region.val x.seq
    | [] => true
  | .performed => c.op != .signalOnly

/-- ROW_HANG (R197): hardware class, handled as R119: the job faults, the pcore is fenced by the report. -/
def execRowHang (n : CoreId) (s : State) : Host.Outcome State Fault Refusal :=
  let k := s.core n.val
  if !bit (s.reg (corePage n.val kROW) 0x40) 0 || !((k.queueOf .row).head?.any (s.rowGoes n.val)) || s.phase != .ready then
    .next s
  else .next (s.rowFault n.val k.rowNames.1 4 k.rowNames.2 0)

def isCall (r : Nat) (w : BitVec 128) : Bool :=
  opcodeOf w == 0x49 && (cf w 0 31 16 == r || !bookRoutines.contains (cf w 0 31 16))

/-- A CALL command, by routine number; a number that no routine has is any of them, and raises BOOK_NONE. A call that issues
is counted (R181). -/
def State.call (s : State) (n r : Nat) : State :=
  s.engineCommand n (isCall r) badCall (fun _ => .row) captureCall id
    (fun s c => performCall n (s.count (corePage n kSEQ) 0x118 1) c)

def execRmsnorm (n : CoreId) (s : State) : Host.Outcome State Fault Refusal := .next (s.call n.val 0x0001)
def execLayernorm (n : CoreId) (s : State) : Host.Outcome State Fault Refusal := .next (s.call n.val 0x0002)
def execSoftmax (n : CoreId) (s : State) : Host.Outcome State Fault Refusal := .next (s.call n.val 0x0010)
def execRope (n : CoreId) (s : State) : Host.Outcome State Fault Refusal := .next (s.call n.val 0x0020)
def execTopkRoute (n : CoreId) (s : State) : Host.Outcome State Fault Refusal := .next (s.call n.val 0x0030)
def execGather (n : CoreId) (s : State) : Host.Outcome State Fault Refusal := .next (s.call n.val 0x0040)
def execScatter (n : CoreId) (s : State) : Host.Outcome State Fault Refusal := .next (s.call n.val 0x0041)
def execScatterAdd (n : CoreId) (s : State) : Host.Outcome State Fault Refusal := .next (s.call n.val 0x0042)
def execQuantMx (n : CoreId) (s : State) : Host.Outcome State Fault Refusal := .next (s.call n.val 0x0050)
def execDequantMx (n : CoreId) (s : State) : Host.Outcome State Fault Refusal := .next (s.call n.val 0x0051)
def execQuantFp8 (n : CoreId) (s : State) : Host.Outcome State Fault Refusal := .next (s.call n.val 0x0052)
def execAttnProb (n : CoreId) (s : State) : Host.Outcome State Fault Refusal := .next (s.call n.val 0x0060)
def execAttnMerge (n : CoreId) (s : State) : Host.Outcome State Fault Refusal := .next (s.call n.val 0x0061)
def execAttnFinal (n : CoreId) (s : State) : Host.Outcome State Fault Refusal := .next (s.call n.val 0x0062)

end Sys2Proof.Machine
end

