-- ==== Sys2Proof/Machine/Scratchpad.lean ====
section
/-!
DEFINITION. The scratchpad's commands and events: the row path (R169), claims (R131, R132), regions (R133), releases of
circular slots (R136), bank power (R143), self-test (R145, R146) and zeroing after a kill (R147).
-/
namespace Sys2Proof.Machine

/-! ## Banks -/

/-- A valid base-and-bound region covers the bank. -/
def Spm.covered (m : Spm) (b : Nat) : Bool :=
  (List.range 16).any (fun r =>
    let x := m.region r
    x.valid && decide (x.base / 512 ≤ b) && decide (b ≤ (x.base + x.count1) / 512))

/-- A circular region holds the bank. -/
def Spm.circBank (m : Spm) (b : Nat) : Bool :=
  match (m.bank b).owner with
  | .circ _ => true
  | .free | .port _ => false

/-- A bank is idle when it is unclaimed, not covered, and not held by a circular region (R143). -/
def Spm.idleBank (m : Spm) (b : Nat) : Bool := (m.bank b).owner == .free && !m.covered b

/-- Zero every logical row of a bank. -/
def Spm.zeroBank (m : Spm) (b : Nat) : Spm := { m with rows := m.rows.filter (fun e => e.1 / 512 != b) }

/-- Gate an idle bank where AUTO_PWR is 1, whose contents are lost; wake a gated bank that a claim or a region names
(R143). An operation that holds the bank goes on (R145). -/
def Spm.repowerBank (auto : Bool) (m : Spm) (b : Nat) : Spm :=
  let x := m.bank b
  if x.busy.isSome then m
  else if m.idleBank b then
    if auto && x.powered then (m.zeroBank b).setBank b { x with powered := false } else m
  else if x.powered then m
  else m.setBank b { x with powered := true, busy := some .waking }

def Spm.repower (auto : Bool) (m : Spm) : Spm := (List.range 48).foldl (Spm.repowerBank auto) m

def State.autoPwr (s : State) (n : Nat) : Bool := bit (s.reg (corePage n kSPM) 0x40) 0

/-- The scratchpad on a new host: the rows of banks that are claimed, covered or held by a circular region are copied, the
others read as zeros; a test of the old host's banks has no part in it (R148). -/
def Spm.moved (auto : Bool) (m : Spm) : Spm :=
  Spm.repower auto ((List.range 48).foldl (fun m b =>
    let x := m.bank b
    let m := if x.busy == some .testing then m.setBank b { x with busy := none } else m
    if m.idleBank b then m.zeroBank b else m) m)

/-- Banks whose rows a move copies, and which the old host then zeroes (R148). -/
def Spm.copiedBanks (m : Spm) : Nat := (List.range 48).countP (fun b => !m.idleBank b)

/-! ## Row path -/

def captureRows (load : Bool) (w : BitVec 128) (k : Core) : Capture :=
  let n := cf w 0 22 16 + 1
  let a := cf w 2 15 0
  let (r, m) := resolve k.seq k.spm (if load then .seqRd else .seqWr) (cw w 1) n none
  { req := .rowPath, op := if load then .rowld r.opnd a else .rowst r.opnd a, ops := [r], spm := m,
    seqErr := if a % 512 = 0 then none else some 5,
    dmR := if load then [] else [(a, 512 * n)], dmW := if load then [(a, 512 * n)] else [] }

/-- Rows into data memory, one 512-byte row after another; addresses wrap modulo 2^16. -/
def rowsToMemory (d : SMap Byte) (a : Nat) : List Row → SMap Byte
  | [] => d
  | r :: t => rowsToMemory (dmWrite d a 512 r.toNat) (a + 512) t

/-- ROWLD and ROWST through port 6. -/
def performRowPath (n : Nat) (s : State) (c : EngCmd) : State :=
  let k := s.core n
  if !k.ready c || k.raceHeld s.free c then s
  else match c.op with
    | .rowld o a =>
      let rows := s.readFor n c o
      (s.modSeq n (fun q => { q with dmem := rowsToMemory q.dmem a rows })).performed n c o.rows.length 0
    | .rowst o a =>
      let rows := (List.range o.rows.length).map (fun i => BitVec.ofNat 4096 (dmRead k.seq.dmem (a + 512 * i) 512))
      (s.writeFor n c o rows).performed n c 0 o.rows.length
    | _ => s

def execRowld (n : CoreId) (s : State) : Result :=
  .next (s.engineCommand n.val (isOp 0x20) badW1 (fun _ => .rowPath) (captureRows true) id (performRowPath n.val))

def execRowst (n : CoreId) (s : State) : Result :=
  .next (s.engineCommand n.val (isOp 0x21) badW1 (fun _ => .rowPath) (captureRows false) id (performRowPath n.val))

/-! ## Claims and regions -/

def claimOwner (p : Nat) : BankOwner := if p = 0 then .free else .port (Fin.ofNat 8 p)

/-- One bank changes its owner; the new owner takes it at once when nothing holds it (R132). -/
def Core.claimBank (p : Nat) (k : Core) (b : Nat) : Core :=
  let x := k.spm.bank b
  if x.owner == claimOwner p then k
  else
    let used := k.inflight.any (fun d => d.stage != .performed && d.banks.contains b)
    { k with spm := k.spm.setBank b { x with owner := claimOwner p,
                                             takeover := if (used || x.busy.isSome) && p != 0 then some k.nextId else none } }

/-- The banks a CLAIM names. -/
def claimBanks (w : BitVec 128) : List Nat :=
  (List.range 48).filter (fun b => (cf w 1 31 0 + cf w 2 15 0 * 2 ^ 32) >>> b % 2 == 1)

/-- CLAIM (R132): a bank of a circular region raises CLAIM_BAD and no owner changes. -/
def execClaim (n : CoreId) (s : State) : Result :=
  .next (s.heldCommand n.val 0x28 (fun _ w => decide (7 < cf w 0 19 16)) (fun w s =>
    let k := s.core n.val
    let banks := claimBanks w
    let p := cf w 0 19 16
    match banks.find? k.spm.circBank with
    | some b => (s.spmSource n.val 3).raiseFault n.val kSPM 3 (cause 3 (b * 1024 + 7 * 16)) (word (b * 512))
    | none =>
      let changed := (banks.filter (fun b => (k.spm.bank b).owner != claimOwner p)).length
      let s := s.modCore n.val (fun k =>
        let k := banks.foldl (Core.claimBank p) k
        { k with spm := Spm.repower (s.autoPwr n.val) { k.spm with claimSeq := k.spm.claimSeq + 1 } })
      let s := if changed = 0 then s else s.count (corePage n.val kSPM) 0x110 changed
      (s.signalNow n.val (syncSignal w)).advance n.val))

/-- The new owner takes the bank once the earlier commands of other ports that touch it, and any operation that holds
it, have ended (R132). -/
def execClaimTakeover (n : CoreId) (bank : Fin 48) (s : State) : Result :=
  let k := s.core n.val
  let x := k.spm.bank bank.val
  let others := k.inflight.any (fun d => d.stage != .performed &&
    (d.reads ++ d.writes).any (fun a => accRow a / 512 == bank.val && BankOwner.port (Fin.ofNat 8 (accPort a)) != x.owner))
  if x.takeover.isSome && x.busy.isNone && !others then
    .next (s.modSpm n.val (fun m => m.setBank bank.val { x with takeover := none }))
  else .next s

/-- REGION (R133): the entry is replaced in program order; a base row or a count outside R133's ranges raises
REGION_BOUND. -/
def execRegion (n : CoreId) (s : State) : Result :=
  .next (s.heldCommand n.val 0x29 noBad (fun w s =>
    let base := cf w 1 14 0
    let count1 := cf w 2 14 0
    let valid := cf w 0 20 20 == 1
    if valid && (decide (24575 < base) || decide (24575 < count1)) then
      (s.spmSource n.val 0).raiseFault n.val kSPM 0 (cause 0 (base / 512 % 64 * 1024 + 7 * 16)) (word base)
    else
      let s := s.modSpm n.val (fun m => Spm.repower (s.autoPwr n.val)
        { m with regions := m.regions.set regionDefault (cf w 0 19 16) { base := base, count1 := count1, valid := valid } })
      (s.signalNow n.val (syncSignal w)).advance n.val))

/-! ## Releases -/

/-- RELEASE takes the region's next sequences at issue; an absent region raises CIRC_BAD. -/
def captureRelease (w : BitVec 128) (k : Core) : Capture :=
  let r := cf w 0 17 16
  let c := k.spm.circ r
  let cnt := cf w 1 14 0
  let op : Resolved := { role := .seqRd, offs := [], region := regionDefault 0, badMode := false,
                         badCirc := !c.cfg.valid, opnd := default }
  { req := .release, op := .release (Fin.ofNat 4 r) ((List.range cnt).map (fun i => c.nextTake + word i)), ops := [op],
    spm := if c.cfg.valid then k.spm.setCirc r { c with nextTake := c.nextTake + word cnt } else k.spm,
    seqErr := none, dmR := [], dmW := [] }

/-- Empty slots in order while each holds its item. -/
def State.emptySlots (s : State) (n id : Nat) (r : Fin 4) : List Word → State
  | [] => s.markStage n id .performed
  | q :: t =>
    if ((s.core n).spm.circ r.val).isFull q then
      State.emptySlots (s.modCore n (fun k =>
        { k.updateCmd id (fun d => { d with stage := .started, taken := d.taken + 1 }) with
          spm := k.spm.releaseSlots r.val [q] })) n id r t
    else s

/-- A RELEASE waits on each slot's full token and empties it, slot by slot (R169). -/
def performRelease (n : Nat) (s : State) (c : EngCmd) : State :=
  match c.op with
  | .release r seqs =>
    if c.stage == .started || (s.core n).ready c then s.emptySlots n c.id r (seqs.drop c.taken) else s
  | _ => s

def execRelease (n : CoreId) (s : State) : Result :=
  .next (s.engineCommand n.val (isOp 0x2A) noBad (fun _ => .release) captureRelease id (performRelease n.val))

/-! ## Bank operations -/

/-- A woken bank has been zeroed and is free for use (R143). -/
def execBankWakeDone (n : CoreId) (bank : Fin 48) (s : State) : Result :=
  let x := (s.core n.val).spm.bank bank.val
  if x.busy == some .waking then
    .next ((s.modSpm n.val (fun m => (m.zeroBank bank.val).setBank bank.val { x with busy := none })).count
      (corePage n.val kSPM) 0x138 512)
  else .next s

/-- The zeroing of a killed task's banks ends (R147). -/
def execSpmZeroDone (n : CoreId) (s : State) : Result :=
  let m := (s.core n.val).spm
  let banks := (List.range 48).filter (fun b => (m.bank b).busy == some .zeroing)
  if banks.isEmpty then .next s
  else
    .next ((s.modSpm n.val (fun m =>
      Spm.repower (s.autoPwr n.val)
        (banks.foldl (fun m b => (m.zeroBank b).setBank b { m.bank b with busy := none }) m))).count
      (corePage n.val kSPM) 0x138 (512 * banks.length))

/-- A requested scratchpad self-test of a pcore's bank that has not been done (R356). -/
def State.bankTest (s : State) (p b : Nat) : Bool := s.host.tests.contains (1, p * 64 + b)

/-- SPM_BIST_START: a requested test starts on an idle bank of the hosted core, where its SPM page enables tests, or on any
bank of a pcore that hosts nothing (R145, R151). -/
def execSpmBistStart (pcore : Nat) (bank : Fin 48) (s : State) : Result :=
  if 68 ≤ pcore then .fault .noSuchUnit
  else if !s.bankTest pcore bank.val || s.phase != .ready then .next s
  else match s.hosted pcore with
    | some n =>
      let m := (s.core n).spm
      let x := m.bank bank.val
      if m.idleBank bank.val && x.busy.isNone && bit (s.reg (corePage n kSPM) 0x40) 1 then
        .next (s.modSpm n (fun m => m.setBank bank.val { x with busy := some .testing, powered := true }))
      else .next s
    | none =>
      let x := s.pcore pcore
      if x.state == .testing || x.state == .hosting then .next s
      else .next (s.modPcore pcore (fun p => { p with before := p.state, state := .testing, testKind := 1, testResult := 3 }))

/-- Spares of a bank that no row is remapped to, lowest first (R144). -/
def freeSpares (used : List (Nat × Nat)) : List Nat := (List.range 16).filter (fun i => !(used.any (fun e => e.1 == i)))

/-- The entries that remap failing rows of a bank to its next free spares, while there are some (R144, R145). -/
def remapRows (used : List (Nat × Nat)) (rows : List Nat) : List (Nat × Nat) := (freeSpares used).zip rows

/-- The last bank of a pcore under test is done: the pcore goes back to what it was (R398). -/
def State.testOver (s : State) (p : Nat) (failed : Bool) : State :=
  let x := s.pcore p
  let result := if failed || x.testResult == 2 then 2 else 3
  if (List.range 48).any (s.bankTest p) then s.modPcore p (fun x => { x with testResult := result })
  else
    let s := s.count (pPCR p) 0x110 1
    let s := if result = 2 then s.count (pPCR p) 0x118 1 else s
    s.modPcore p (fun x => { x with testKind := 1, testResult := if result = 2 then 2 else 1,
                                    state := if x.state == .testing then x.before else x.state })

/-- A bank self-test ends (R145, R146): 528 physical rows tested, failing rows remapped and journalled, the bank zeroed.
A row without a spare raises SPARE_EXHAUSTED on a hosted pcore, which is fenced; a spare pcore stops being eligible. -/
def execSpmBistDone (pcore : Nat) (bank : Fin 48) (failing : List (Fin 512)) (s : State) : Result :=
  if 68 ≤ pcore then .fault .noSuchUnit
  else if !s.bankTest pcore bank.val || s.phase != .ready then .next s
  else
    let p := s.pcore pcore
    let used := p.spares.get (fun _ => []) bank.val
    let added := remapRows used (failing.map (·.val))
    let k := added.length
    let short := decide (k < failing.length)
    let remap := fun (s : State) =>
      let s := s.modPcore pcore (fun p => { p with spares := p.spares.set (fun _ => []) bank.val (used ++ added) })
      let s := s.modHost (fun h => { h with tests := h.tests.filter (fun t => t != (1, pcore * 64 + bank.val)) })
      { s with toJournal := s.toJournal ++ added.map (fun (e : Nat × Nat) => Repair.mk 1 [pcore, bank.val, e.2, e.1]) }
    match s.hosted pcore with
    | some n =>
      let x := (s.core n).spm.bank bank.val
      if x.busy == some .testing then
        let s := remap s
        let s := s.modSpm n (fun m =>
          Spm.repower (s.autoPwr n) ((m.zeroBank bank.val).setBank bank.val { x with busy := none }))
        let s := s.count (corePage n kSPM) 0x140 528
        let s := if k = 0 then s else s.count (corePage n kSPM) 0x148 k
        let info := fun (e : Nat) => cause e (bank.val * 1024 + 11 * 16)
        let row := word (bank.val * 512 + (failing.headD 0).val)
        let s := if k = 0 then s else s.raise (corePage n kSPM) 6 (info 6) row
        let s := if short then s.raiseHardware n kSPM 7 (info 7) row else s
        .next (s.testOver pcore short)
      else .next s
    | none =>
      if p.state == .testing && p.testKind == 1 then
        let s := (remap s).testOver pcore short
        if short then
          let code := (s.faultCode (pPCR pcore) 2).toNat
          let s : State := { s with toJournal := s.toJournal ++ [Repair.mk 3 [pcore, code]] }
          let drop := fun (x : PcState) => if x == .spare || x == .released then PcState.ineligible else x
          let s := s.modPcore pcore (fun p => { p with state := drop p.state, before := drop p.before })
          .next (s.raise (pPCR pcore) 2 (cause 2 0) (word s.epoch.toNat))
        else .next s
      else .next s

end Sys2Proof.Machine
end

