-- ==== Sys2Proof/Machine/Stream.lean ====
section
/-!
DEFINITION. The stream engine (R203-R212, R220, R221): descriptors, STREAM with its checks, completion and watchdog, and
the drills. A STREAM performs all its transfers at once when its waits are over (log entry 7, DESIGN CHOICE).
-/
namespace Sys2Proof.Machine

/-! ## Descriptors (R208, R209) -/

def descField (d : BitVec 256) (byte n : Nat) : Nat := (d.toNat >>> (8 * byte)) % 2 ^ (8 * n)

def descDims (d : BitVec 256) : Nat := min (d.toNat % 8 + 1) 5
def descZero (d : BitVec 256) : Bool := d.getLsbD 3
def descCount (d : BitVec 256) (i : Nat) : Nat := descField d (2 + 2 * i) 2 + 1
def descStride (d : BitVec 256) (i : Nat) : Int := signed 32 (descField d (0xC + 4 * i) 4)

/-- A nonzero reserved field, a DIMS - 1 of 5 to 7 included (R208, R209). -/
def descReserved (d : BitVec 256) : Bool :=
  decide (4 < d.toNat % 8) || d.toNat >>> 4 % 4096 != 0 ||
    (List.range 5).any (fun i => decide (descDims d ≤ i) && (descCount d i != 1 || descStride d i != 0))

/-- N, the number of units moved. -/
def descUnits (d : BitVec 256) : Nat := (List.range (descDims d)).foldl (fun n i => n * descCount d i) 1

/-- Slice unit of transfer `x` from base unit `b`. -/
def descUnit (d : BitVec 256) (b : Int) (x : Nat) : Int :=
  ((List.range (descDims d)).foldl (fun (acc : Int × Nat) i =>
    (acc.1 + (acc.2 % descCount d i : Nat) * descStride d i, acc.2 / descCount d i)) (b, x)).1

/-- Lowest and highest unit of the pattern. -/
def descSpan (d : BitVec 256) (b : Int) : Int × Int :=
  (List.range (descDims d)).foldl (fun (acc : Int × Int) i =>
    let v := ((descCount d i - 1 : Nat) : Int) * descStride d i
    (acc.1 + min v 0, acc.2 + max v 0)) (b, b)

def Str.descriptor (x : Str) (i : Nat) : BitVec 256 := x.desc.get (fun _ => 0) i
def Str.quotaOf (x : Str) (c : Nat) : Nat := x.quota.get (fun _ => 64) c

/-! ## STREAM (R169, R206, R209-R211) -/

def captureStream (w : BitVec 128) (k : Core) : Capture :=
  let c := Fin.ofNat 16 (cf w 0 19 16)
  let out := cf w 0 20 20 == 1
  let d := k.str.descriptor (cf w 2 9 0)
  let n := descUnits d
  let linear := !bit (cw w 1) 15 && bits (cw w 1) 26 25 == 0
  let cnt := if descZero d && out then 0 else if linear then min n 24577 else if 2 ^ 32 ≤ n then 0 else n
  let (r, m) := resolve k.seq k.spm (.stream c (!out)) (cw w 1) cnt none
  { req := .ctx c,
    op := .stream { ctx := c, out := out, preset := cf w 0 22 21, desc := cf w 2 9 0, e := k.seq.ext w, opnd := r.opnd },
    ops := [r], spm := m, seqErr := none, dmR := [], dmW := [] }

/-- The command's bytes enter the slice window (R211). -/
def streamIssued (n : Nat) (s : State) (c : EngCmd) : State :=
  match c.op with
  | .stream x =>
    let span := descSpan ((s.core n).str.descriptor x.desc) (x.e.toNat / 512 : Nat)
    s.enterSlice n { cmd := c.id, lo := (512 * span.1).toNat, hi := (512 * span.2 + 511).toNat, writes := x.out }
  | _ => s

/-- A byte range of a core's slice lies in a bundle's extent (R301). -/
def State.inExtent (s : State) (n lo hi : Nat) : Bool :=
  (List.range 64).any (fun b => (s.bundle b).extents.any (fun e =>
    e.1.val == n && decide (e.2.1 < hi) && decide (lo < e.2.1 + e.2.2)))

/-- The checks at the start, in the order of R209 and R224: PAGE_ERR bit and DETAIL. -/
def State.streamErr (s : State) (n : Nat) (x : StreamP) : Option (Nat × Nat) :=
  let k := s.core n
  let d := k.str.descriptor x.desc
  let b : Int := (x.e.toNat / 512 : Nat)
  let span := descSpan d b
  if k.str.quotaOf x.ctx.val = 0 then some (3, 0)
  else if x.out && x.preset == 1 then some (2, 0)
  else if x.e.toNat % 512 ≠ 0 then some (0, 0)
  else if !inUser span.1 span.2 then some (0, 1)
  else if x.out && s.inExtent n (512 * span.1.toNat) (512 * span.2.toNat + 512) && (List.range (descUnits d)).any (fun i =>
      let u := (descUnit d b i).toNat
      s.inExtent n (512 * u) (512 * u + 512)) then some (0, 5)
  else if descReserved d then some (0, 2)
  else if descZero d && !x.out then some (0, 3)
  else if 2 ^ 32 ≤ descUnits d then some (0, 4)
  else match x.opnd.circ with
    | some (r, _) => if descUnits d % circSlotRows (k.spm.circ r.val).cfg ≠ 0 then some (1, 0) else none
    | none => none

/-- INFO0 of an STR event (R224). -/
def strInfo (detail bitNo ctx : Nat) : Word := word (detail * 2 ^ 24 + bitNo * 65536 + ctx * 32)

/-- The command uses the core's slice (R206). -/
def EngCmd.usesSlice (c : EngCmd) : Bool :=
  match c.op with
  | .stream _ => true
  | .sweep x => x.stream
  | .launch x => x.slice
  | .trav x => x.coll == some 0
  | _ => false

/-- A command of another preset waits until the earlier ones that use the slice have ended (R206). -/
def Core.wheelBusy (k : Core) (c : EngCmd) : Bool :=
  k.inflight.any (fun d => decide (d.id < c.id) && d.usesSlice && d.stage != .performed)

/-- The preset that the oldest waiting command awaits (R225); 0 with none waiting. -/
def Core.presetAwaited (k : Core) : Nat :=
  ((k.inflight.filterMap (fun c => match c.op with
    | .stream x => if k.ready c && x.preset != k.str.preset && k.wheelBusy c then some x.preset else none
    | _ => none)).head?).getD 0

/-- Drop a command from its queue without its signal. -/
def State.dropCmd (s : State) (n id : Nat) : State :=
  s.modCore n (fun k => { k with inflight := k.inflight.filter (fun d => d.id != id) })

/-- What keeps a STREAM from starting: its turn, its wait or its rows (`some none`), or a wait that an STR counter counts:
the slice's self-refresh, an earlier slice command, another preset (R206, R211, R411). -/
def State.streamHeld (s : State) (n : Nat) (c : EngCmd) (x : StreamP) : Option (Option Nat) :=
  let k := s.core n
  if !k.ready c || k.raceHeld s.free c then some none
  else if k.str.asleep then some (some 0x120)
  else if k.sliceHazard c.id then some (some 0x128)
  else if x.preset != k.str.preset && k.wheelBusy c then some (some 0x130)
  else none

/-- `count` transfers of the command are issued: it holds a tag for each, up to its context's quota, until it completes. Where
they are more than its tags the rest wait for tags, and STR_QUOTA_WAIT counts steps that the spec does not number (R212). -/
def State.holdTags (s : State) (n id quota count : Nat) : State :=
  let s := s.modCore n (fun k => k.updateCmd id (fun d => { d with tags := min quota count }))
  if quota < count then s.countFree (corePage n kSTR) 0x118 else s

/-- The units of a STREAM, in the order of its transfers (R209). -/
def Core.streamUnits (k : Core) (x : StreamP) : List Nat :=
  let d := k.str.descriptor x.desc
  (List.range (descUnits d)).map (fun i => (descUnit d (x.e.toNat / 512 : Nat) i).toNat)

/-- The transfers toward the slice that have their rows: those of the slots that are full, each slot released as its units
are written (R209). -/
def State.streamOut (s : State) (n : Nat) (c : EngCmd) (x : StreamP) (us : List Nat) : State :=
  let p := corePage n kSTR
  let quota := (s.core n).str.quotaOf x.ctx.val
  let old := c.got.length
  let s := s.gather n c [x.opnd]
  match (s.core n).command c.id with
  | none => s
  | some c =>
    let all := (s.core n).gathered c [x.opnd]
    let rows := if x.opnd.circ.isSome then c.got.drop old else (s.sources n c [x.opnd] c.got).headD []
    let s := ((s.setUnits n ((us.drop old).zip rows)).count p 0x110 rows.length).holdTags n c.id quota (old + rows.length)
    if all then s.performed n c rows.length 0 else (s.countRows n rows.length 0).count (corePage n kSPM) 0x130 1

/-- A STREAM goes on as far as it can: its checks when it starts, then its transfers. With `move` false a command that reads
the slice stops after its checks, so that a stack may report on its reads (R215). -/
def performStream (move : Bool) (n : Nat) (s : State) (c : EngCmd) : State :=
  let k := s.core n
  match c.op with
  | .stream x =>
    let p := corePage n kSTR
    if c.stage == .started then s.pushOut n c
    else match s.streamHeld n c x with
      | some none => s
      | some (some w) => s.count p w 1
      | none =>
        let s := s.modStr n (fun v => { v with preset := x.preset })
        match s.streamErr n x with
        | some (b, d) => (s.raiseFault n kSTR b (strInfo d b x.ctx.val) (word x.desc)).dropCmd n c.id
        | none =>
          let us := k.streamUnits x
          let quota := k.str.quotaOf x.ctx.val
          if x.out then
            if descZero (k.str.descriptor x.desc) then
              (((s.setUnits n (us.map (fun u => (u, (0 : Row))))).count p 0x110 us.length).holdTags n c.id quota
                us.length).markStage n c.id .performed
            else s.streamOut n c x us
          else if !move then (if c.tags = 0 then s.holdTags n c.id quota us.length else s)
          else
            let s := if c.tags = 0 then s.holdTags n c.id quota us.length else s
            (s.count p 0x108 us.length).deliverAll n c [(x.opnd, us.map (s.unit n))]
  | _ => s

/-- Tags that a core's transfers hold: a context's, or all (R212, R225, R227). -/
def Core.tagsHeld (k : Core) (mine : EngCmd → Bool) : Nat :=
  ((k.inflight.filter mine).map EngCmd.tags).foldl (· + ·) 0

/-- STREAM: issued to its context, with its bytes in the slice window. If it may start it is checked, and a command toward
the slice moves its units; one that reads the slice moves them under STREAM_COMPLETE. -/
def execStream (n : CoreId) (s : State) : Host.Outcome State Fault Refusal :=
  .next (s.issue n.val (isOp 0x50) badW1 (fun w s => s.engineOff n.val w (.ctx (Fin.ofNat 16 (cf w 0 19 16))))
    (fun w s => s.engineOnGated n.val w (captureStream w (s.core n.val)) (State.sliceGate n.val true) id
      (fun s c => performStream false n.val (streamIssued n.val s c) c)))

/-- A STREAM completes; a predicated-off entry only gives its signal (R174, R226). -/
def State.streamDone (s : State) (n : Nat) (d : EngCmd) : State :=
  match d.op with
  | .stream _ => (s.complete n d).count (corePage n kSTR) 0x100 1
  | _ => s.complete n d

/-- STREAM_COMPLETE: the context's oldest command goes on, or completes when every transfer has been performed (R209). -/
def execStreamComplete (n : CoreId) (c : Fin 16) (s : State) : Host.Outcome State Fault Refusal :=
  if !s.engineRuns n.val then .next s
  else match ((s.core n.val).queueOf (.ctx c)).head? with
    | none => .next s
    | some d =>
      if d.stage == .performed then .next (s.streamDone n.val d)
      else
        let s' := performStream true n.val s d
        match (s'.core n.val).command d.id with
        | some d' =>
          if d'.stage == .performed then .next (s'.streamDone n.val d')
          else .next s'
        | none => .next s'

/-- STREAM_HANG: no progress of transfers that hold tags; hardware class; the job faults and the report fences the pcore
(R223, R119). A command that waits on R206 or R211 holds none. -/
def execStreamHang (n : CoreId) (c : Fin 16) (s : State) : Host.Outcome State Fault Refusal :=
  let k := s.core n.val
  if !bit (s.reg (corePage n.val kSTR) 0x40) 0 || s.phase != .ready then .next s
  else match (k.queueOf (.ctx c)).head? with
    | none => .next s
    | some d =>
      let desc := match d.op with
        | .stream x => x.desc
        | _ => 0
      if d.tags = 0 then .next s
      else .next ((s.raiseFault n.val kSTR 7 (strInfo 0 7 c.val) (word desc)).dropCmd n.val d.id)

/-! ## Drills (R220, R221) -/

def drillOp (w : Word64) : Nat := bits w 7 0
def drillA (w : Word64) : Nat := bits w 10 8
def drillB (w : Word64) : Nat := bits w 14 12
def drillImm16 (w : Word64) : Nat := bits w 31 16
def drillImm32 (w : Word64) : Word := hi32 w

def Drill.reg (d : Drill) (i : Nat) : Word64 := d.d.get (fun _ => 0) i

/-- Drill instructions that move units, and those of them that need write slots (R204, R221). -/
def drillMoves (op : Nat) : Bool := [0x10, 0x11, 0x12, 0x13].contains op
def drillWrites (op : Nat) : Bool := op == 0x10 || op == 0x12

def drillOps : List Nat := [0x01, 0x02, 0x03, 0x10, 0x11, 0x12, 0x13, 0x20, 0x21, 0x3F]

/-- A drill runs while the core has no job, or while its job is held at a save or resume point (R220). -/
def State.drillRuns (s : State) (n : Nat) : Bool :=
  (s.core n).str.drill.running && !(s.core n).str.asleep && (s.phase == .ready || s.phase == .booting) &&
  (match s.coreJob n with
   | none => true
   | some j => j.hold == .preempted || j.hold == .saving || j.hold == .saveHeld)

def State.modDrill (s : State) (n : Nat) (f : Drill → Drill) : State :=
  s.modStr n (fun x => { x with drill := f x.drill })

/-- Past instruction `pc`: a loop that ends there runs its body again while its counter, one less, is nonzero. -/
def drillNext (c : SMap Word) (pc : Nat) : List (Fin 2 × Nat × Nat) → SMap Word × Nat × List (Fin 2 × Nat × Nat)
  | [] => (c, pc + 1, [])
  | f :: t =>
    if f.2.2 = pc then
      let v := c.get wordZero f.1.val - 1
      let c := c.set wordZero f.1.val v
      if v = 0 then drillNext c pc t else (c, f.2.1, f :: t)
    else (c, pc + 1, f :: t)

def Drill.advance (d : Drill) : Drill :=
  let (c, pc, loops) := drillNext d.c d.pc d.loops
  { d with c := c, pc := pc, loops := loops }

/-- DRILL_BAD stops the drill (R221). -/
def State.drillBad (s : State) (n : Nat) : State :=
  (s.modDrill n (fun d => { d with running := false })).raise (corePage n kSTR) 5 (strInfo 0 5 16) 0

/-- The tags of the drill context (R220). -/
def State.drillQuota (s : State) (n : Nat) : Nat :=
  match s.coreJob n with
  | none => 1024
  | some _ => 1024 - ((List.range 16).map (s.core n).str.quotaOf).foldl (· + ·) 0

/-- The preset under which a drill runs: the one its header names, or the one in force (R206, R220). -/
def Str.drillPreset (x : Str) : Nat := x.drill.preset.getD x.preset

/-- What a drill instruction waits for, as the STR counter of the wait: a preset's change, a tag, a slot of its kind. -/
def State.drillHeld (s : State) (n op : Nat) : Option Nat :=
  let k := s.core n
  if k.str.drillPreset != k.str.preset && k.inflight.any (fun d => d.usesSlice && d.stage != .performed) then some 0x130
  else if drillMoves op && s.drillQuota n == 0 then some 0x118
  else if drillWrites op && k.str.drillPreset == 1 then some 0x120
  else none

/-- Content of a unit under a pattern (R221). Patterns 5 to 7 are not given: free values. -/
def State.patternRow (s : State) (n p u : Nat) : Row :=
  let bytes := fun (b : Nat) => BitVec.ofNat 4096 (b * ((2 ^ 4096 - 1) / 255))
  match p with
  | 0 => 0
  | 1 => bytes 0xFF
  | 2 => if u % 2 = 0 then bytes 0x55 else bytes 0xAA
  | 3 => rowOfElems 64 ((List.range 64).map (fun i => 512 * u + 8 * i))
  | 4 => ocgRow (s.reg (corePage n kSTR) 0x5C) (s.physSlice n) u
  | _ => Config.freeRow (s.free + u)

/-- Units of a drill instruction: d(B) units from unit dA at a stride, or `none` if one lies outside the slice or in a
reserved part that is not the drills' (R203, R221; log entry 33, DEDUCED). -/
def drillUnits (d : Drill) (w : Word64) (stride : Int) : Option (List Nat) :=
  let cnt := (d.reg (drillB w)).toNat
  let a := (d.reg (drillA w)).toInt
  let last := a + ((cnt - 1 : Nat) : Int) * stride
  if cnt = 0 then some []
  else if 0 ≤ min a last ∧ max a last < (sliceUnits : Nat) then
    let us := (List.range cnt).map (fun (i : Nat) => (a + (i : Int) * stride).toNat)
    if us.all drillReach then some us else none
  else none

/-- The bytes of a save image, its sections laid out as R334 lists them (log entry 17, DESIGN CHOICE). -/
opaque Config.saveImageBytes : SaveImage → List Byte

/-- The content of a core's image slot (R334). -/
def State.slotImage (s : State) (n slot : Nat) : Option SaveImage := s.saves.get (fun _ => none) (2 * n + slot)

/-- A unit as drills read it: in an image slot, the image's bytes (R203, R334). -/
def State.drillUnit (s : State) (n u : Nat) : Row :=
  match slicePart u with
  | .save i => match s.slotImage n i.val with
    | some y =>
      let at_ := 512 * u - (if i = 0 then 0x4FC000000 else 0x4FD800000)
      BitVec.ofNat 4096 (leAt (Config.saveImageBytes y) at_ 512)
    | none => s.unit n u
  | .user | .trackRing | .calibration | .drills => s.unit n u

/-- Drills write units. A save image whose slot they write into is gone (R203). -/
def State.drillWrite (s : State) (n : Nat) (xs : List (Nat × Row)) : State :=
  let s := s.setUnits n xs
  let hit := (List.range 2).filter (fun i => xs.any (fun x => slicePart x.1 == .save (Fin.ofNat 2 i)))
  { s with saves := hit.foldl (fun m i => m.set (fun _ => none) (2 * n + i) none) s.saves }

/-- A drill of the firmware begins, with every register 0 and its failures counted afresh (R220, R225). -/
def State.startDrill (s : State) (n : Nat) (preset : Option Nat) (code : SMap Word64)
    (next : Option (Option Nat × SMap Word64)) : State :=
  s.modDrill n (fun d => { Drill.reset with code := code, running := true, preset := preset, log := d.log, next := next })

/-- One drill instruction: `body` is what it does before the drill goes on, under the drill's preset. An instruction that no
row has is DRILL_BAD under any of them; a row that is not the one at the drill's place leaves the state (log entry 2, DESIGN
CHOICE). -/
def State.drillStep (s : State) (n op : Nat) (body : Word64 → State → State) : State :=
  if s.drillRuns n then
    let d := (s.core n).str.drill
    let w := d.code.get (fun _ => 0) d.pc
    if !drillOps.contains (drillOp w) || decide (512 ≤ d.pc) then s.drillBad n
    else if drillOp w = op then
      match s.drillHeld n op with
      | some off => s.count (corePage n kSTR) off 1
      | none => body w (s.modStr n (fun x => { x with preset := x.drillPreset }))
    else s
  else s

def State.drillDone (s : State) (n : Nat) : State := s.modDrill n Drill.advance

def execDset (n : CoreId) (s : State) : Host.Outcome State Fault Refusal :=
  .next (s.drillStep n.val 0x01 (fun w s =>
    (s.modDrill n.val (fun d => { d with d := d.d.set (fun _ => 0) (drillA w) ((drillImm32 w).signExtend 64) })).drillDone n.val))

def execDadd (n : CoreId) (s : State) : Host.Outcome State Fault Refusal :=
  .next (s.drillStep n.val 0x02 (fun w s =>
    (s.modDrill n.val (fun d =>
      { d with d := d.d.set (fun _ => 0) (drillA w) (d.reg (drillB w) + (drillImm32 w).signExtend 64) })).drillDone n.val))

/-- DLOOP: a count of 0 skips the body; a third level is DRILL_BAD. -/
def execDloop (n : CoreId) (s : State) : Host.Outcome State Fault Refusal :=
  .next (s.drillStep n.val 0x03 (fun w s =>
    let d := (s.core n.val).str.drill
    let i := drillA w % 2
    if 2 ≤ d.loops.length then s.drillBad n.val
    else
      let s := s.modDrill n.val (fun d => { d with c := d.c.set wordZero i (drillImm32 w) })
      if drillImm32 w = 0 then
        s.modDrill n.val (fun d => Drill.advance { d with pc := drillImm16 w })
      else s.modDrill n.val (fun d =>
        { d with pc := d.pc + 1, loops := (Fin.ofNat 2 i, d.pc + 1, drillImm16 w) :: d.loops })))

def execDfill (n : CoreId) (s : State) : Host.Outcome State Fault Refusal :=
  .next (s.drillStep n.val 0x10 (fun w s =>
    match drillUnits (s.core n.val).str.drill w (drillImm32 w).toInt with
    | none => s.drillBad n.val
    | some us =>
      let s' := s.drillWrite n.val (us.map (fun u => (u, s.patternRow n.val (drillImm16 w % 8) u)))
      ((s'.takeFree sliceUnits).count (corePage n.val kSTR) 0x140 us.length).drillDone n.val))

/-- A unit's place in its stack (R203): stack, channel, bank, row. -/
def State.unitPlace (s : State) (n u : Nat) : Nat × Nat × Nat × Nat :=
  let ch := 10 * s.physSlice n + u % 10
  let c := u / 10
  (ch / 32, ch % 32, c / 4 % 32, c / 128)

/-- Mark a unit's row for sparing (R215, R216). -/
def State.markRow (s : State) (n u : Nat) : State :=
  let (st, ch, bank, row) := s.unitPlace n u
  s.modChan st ch (fun x => { x with marked := if x.marked.contains (bank, row) then x.marked else x.marked ++ [(bank, row)] })

/-- DCHECK: mismatching units are counted, the first 16 logged, and their rows marked (R216, R222). -/
def execDcheck (n : CoreId) (s : State) : Host.Outcome State Fault Refusal :=
  .next (s.drillStep n.val 0x11 (fun w s =>
    match drillUnits (s.core n.val).str.drill w (drillImm32 w).toInt with
    | none => s.drillBad n.val
    | some us =>
      let bad := us.filter (fun u => s.drillUnit n.val u != s.patternRow n.val (drillImm16 w % 8) u)
      let s := bad.foldl (fun s u => s.markRow n.val u) s
      let p := corePage n.val kSTR
      let s := s.setReg p 0x58 (s.reg p 0x58 + word bad.length)
      let s := s.modDrill n.val (fun d => { d with log := (d.log ++ bad).take 16 })
      ((s.takeFree sliceUnits).count p 0x140 us.length).drillDone n.val))

/-- DSAVE and DLOAD: d(B) scratchpad rows from row IMM16 and consecutive units from dA. -/
def State.drillMove (s : State) (n : Nat) (load : Bool) (w : Word64) : State :=
  match drillUnits (s.core n).str.drill w 1 with
  | none => s.drillBad n
  | some us =>
    let r := drillImm16 w
    if 24576 < r + us.length then s.drillBad n
    else
      let s :=
        if load then s.modSpm n (fun m => m.writeRows ((List.range us.length).map (r + ·)) (us.map (s.drillUnit n)))
        else s.drillWrite n (us.zipIdx.map (fun u => (u.1, (s.core n).spm.row (r + u.2))))
      (s.count (corePage n kSTR) 0x140 us.length).drillDone n

def execDsave (n : CoreId) (s : State) : Host.Outcome State Fault Refusal :=
  .next (s.drillStep n.val 0x12 (fun w s => s.drillMove n.val false w))

def execDload (n : CoreId) (s : State) : Host.Outcome State Fault Refusal :=
  .next (s.drillStep n.val 0x13 (fun w s => s.drillMove n.val true w))

/-- DWAIT: every transfer of the drill has completed. -/
def execDwait (n : CoreId) (s : State) : Host.Outcome State Fault Refusal :=
  .next (s.drillStep n.val 0x20 (fun _ s => s.drillDone n.val))

def execDmark (n : CoreId) (s : State) : Host.Outcome State Fault Refusal :=
  .next (s.drillStep n.val 0x21 (fun w s => (s.setReg (corePage n.val kSTR) 0x54 (drillImm32 w)).drillDone n.val))

def execDend (n : CoreId) (s : State) : Host.Outcome State Fault Refusal :=
  .next (s.drillStep n.val 0x3F (fun _ s =>
    match (s.core n.val).str.drill.next with
    | some (preset, code) => s.startDrill n.val preset code none
    | none => s.modDrill n.val (fun d => { d with running := false, pc := 0, loops := [] })))

/-! ## Zeroing and the slice test (R222) -/

/-- One drill instruction (R221). -/
def drillWord (op a b imm16 imm32 : Nat) : Word64 :=
  BitVec.ofNat 64 (op + a * 256 + b * 4096 + imm16 * 65536 + imm32 * 2 ^ 32)

/-- A drill that runs a DFILL or DCHECK of pattern 4 over the parts of the slice that drills reach (R203). -/
def patternDrill (op : Nat) : SMap Word64 :=
  [drillWord 1 0 0 0 0, drillWord 1 1 0 0 (0x4FF000000 / 512), drillWord 1 2 0 0 (0x4FF200000 / 512),
   drillWord 1 3 0 0 (sliceUnits - 0x4FF200000 / 512), drillWord op 0 1 4 1, drillWord op 2 3 4 1, drillWord 0x20 0 0 0 0,
   drillWord 0x3F 0 0 0 0].zipIdx.map (fun x => (x.2, x.1))

/-- The slice drill check: pattern 4 is written under preset 2 and then checked under preset 1. -/
def State.startSliceTest (s : State) (n : Nat) : State :=
  (s.setReg (corePage n kSTR) 0x58 0).startDrill n (some 2) (patternDrill 0x10) (some (some 1, patternDrill 0x11))

/-- The firmware zeroes a byte range of a core's slice: DFILL pattern 0 under preset 2. -/
def State.zeroUnits (s : State) (n base len : Nat) : State :=
  let us := (List.range ((base + len + 511) / 512 - base / 512)).map (base / 512 + ·)
  ((s.drillWrite n (us.map (fun u => (u, (0 : Row))))).count (corePage n kSTR) 0x140 us.length).modStr n
    (fun x => { x with preset := 2 })

/-- A bundle extent is zeroed (R309). -/
def State.zeroExtent (s : State) (n base len : Nat) : State :=
  s.setUnits n ((List.range ((base + len + 511) / 512 - base / 512)).map (fun i => (base / 512 + i, (0 : Row))))

/-- The core may run a drill now, none being under way (R220). -/
def State.mayDrill (s : State) (n : Nat) : Bool :=
  !(s.core n).str.asleep && !(s.core n).str.drill.running && s.phase == .ready &&
  (match s.coreJob n with
   | none => true
   | some j => j.hold == .preempted || j.hold == .saving || j.hold == .saveHeld)

end Sys2Proof.Machine
end

