-- ==== Sys2Proof/Machine/Traverse.lean ====
section
/-!
DEFINITION. Traverse messages and collectives (R279-R286): XSEND and XREDUCE, requests and grants, landing, receive
windows, the reductions, and aborts.
-/
namespace Sys2Proof.Machine

/-! ## E operands (R279, R282) -/

/-- Members of a group (R294). -/
def State.group (s : State) (p : TPort) (g : Nat) : BitVec 256 :=
  BitVec.ofNat 256 ((List.range 8).foldl (fun a w => a + (s.reg (pTRV p) (0x800 + 0x20 * g + 4 * w)).toNat * 2 ^ (32 * w)) 0)

def TravP.op (x : TravP) : Nat := bits x.e 17 16
def TravP.fmt (x : TravP) : Nat := bits x.e 19 18
def TravP.param (x : TravP) (coll : Nat) : Word :=
  word (coll % 16 + x.op * 16 + x.fmt * 64 + bits x.e 5 0 * 256 + bits x.e 15 8 * 16384)

/-- Is the core's job a traverse job (R349)? -/
def State.inTrvJob (s : State) (n : Nat) : Bool :=
  match s.coreJob n with
  | some j => j.traverse
  | none => false

/-- The slice range of a RECV is a range of whole units in the user area and in no extent (R281, R301). -/
def State.recvRange (s : State) (n : Nat) (x : TravP) : Bool :=
  x.e.toNat % 512 == 0 && x.e.toNat + 512 * x.rows ≤ sliceUser && !s.inExtent n x.e.toNat (x.e.toNat + 512 * x.rows)

/-- Details 2 to 5 of TRV_ARG for a collective. -/
def State.collErr (s : State) (x : TravP) (k : Nat) : Option Nat :=
  let g := s.group x.port (bits x.e 5 0)
  if 5 < k then some 5
  else if !bit g (s.ownTrv x.port) then some 2
  else if popcount g < 2 then some 3
  else if (decide (k ≤ 2) && x.rows % (16 * popcount g) != 0) || ((k == 3 || k == 4) && x.rows % 16 != 0) then some 4
  else if bits x.e 7 6 ≠ 0 || bits x.e 31 20 ≠ 0 || decide (2 ≤ x.op) || decide (3 ≤ x.fmt) ||
      (k == 4 && decide (popcount g ≤ bits x.e 15 8)) then some 5
  else none

/-- TRV_ARG at the start of a command (R280-R282, R349): the DETAIL. -/
def State.trvErr (s : State) (n : Nat) (x : TravP) : Option Nat :=
  let own := match x.coll with
    | none =>
      if bits x.e 14 0 = s.coord x.port then some 0
      else if !s.isPresented (bits x.e 20 15) then some 1
      else if bits x.e 31 22 ≠ 0 then some 5
      else none
    | some 0 => if s.recvRange n x then none else some 6
    | some k => s.collErr x k
  match own with
  | some d => some d
  | none => if s.inTrvJob n then none else some 7

/-! ## Landing in region 1 (R136, R137) -/

/-- Every slot of the sequences is empty and expects its sequence. -/
def State.canLand (s : State) (n : Nat) (seq : Word) (slots : Nat) : Bool :=
  let m := (s.core n).spm
  (m.circ 1).cfg.valid && (List.range slots).all (fun i => m.slotOpen 1 (seq + word i))

/-- Rows of a message of `total` rows from row `off`; a slot whose last row has landed becomes full. -/
def State.landRows (s : State) (n : Nat) (seq : Word) (total off : Nat) (rows : List Row) : State :=
  let cfg := ((s.core n).spm.circ 1).cfg
  let k := circSlotRows cfg
  let dest := (List.range rows.length).map (fun i => circRow cfg (seq + word ((off + i) / k)).toNat + (off + i) % k)
  let fin := off + rows.length
  let full := (List.range ((total + k - 1) / k)).filter (fun j =>
    decide (off < min total ((j + 1) * k)) && decide (min total ((j + 1) * k) ≤ fin))
  (s.modSpm n (fun m => (m.writeRows dest rows).putSlots 1 (full.map (fun j => seq + word j)))).count (corePage n kSPM) 0x108 rows.length

/-! ## Instances -/

def State.modOpen (s : State) (p : TPort) (core cmd : Nat) (g : TrvOpen → TrvOpen) : State :=
  s.modTrv p (fun t => { t with opens := t.opens.map (fun o => if o.core = core ∧ o.cmd = cmd then g o else o) })

def State.findOpen (s : State) (p : TPort) (core cmd : Nat) : Option TrvOpen :=
  (s.trv p).opens.find? (fun o => o.core == core && o.cmd == cmd)

/-- The instance or receive that a message belongs to. -/
def State.openFor (s : State) (p : TPort) (core kind : Nat) (seq : Word) : Option TrvOpen :=
  (s.trv p).opens.find? (fun o => o.core == core && (o.coll == 0) == (kind == 1) && o.number == seq.toNat)

def TrvOpen.op (o : TrvOpen) : Nat := bits o.e 17 16
def TrvOpen.fmt (o : TrvOpen) : Nat := bits o.e 19 18
def TrvOpen.root (o : TrvOpen) : Nat := bits o.e 15 8

/-- First sequence of the result of a rank (R282). -/
def State.resultSeq (s : State) (o : TrvOpen) (rank : Nat) : Word :=
  if o.coll = 1 ∨ o.coll = 3 then o.base + word (rank * s.landSlots o.core o.chunkRows) else o.base

/-- Traverse position of a rank. -/
def TrvOpen.position (o : TrvOpen) (rank : Nat) : Nat := (setBits o.group).getD rank 0

/-- Lane-by-lane reduction of two rows (R284). -/
def reduceRow (op fmt : Nat) (a b : Row) : Row :=
  if fmt = 2 then
    rowOfElems 32 ((List.range 128).map (fun i =>
      let x := word (rowElem a 32 i)
      let y := word (rowElem b 32 i)
      (if op = 0 then x + y else if x.slt y then y else x).toNat))
  else
    let f := if fmt = 1 then 3 else 7
    rowOfLanes f (List.zipWith (fun x y => laneOp (if op = 0 then 0x01 else 0x06) x y 0) (lanesOf f a) (lanesOf f b))

/-- Copies of a chunk to every other member (phase 1), or the chunks of a source to their members (phase 0). -/
def State.sendCopies (s : State) (p : TPort) (o : TrvOpen) (phase : Nat) (rows : Nat → List Row) : State :=
  let own := rankOf o.group (s.ownTrv p)
  let x : TravP := { port := p, coll := some o.coll, rows := o.rows, e := o.e, opnd := default }
  let ms := ((List.range o.g).filter (fun r => r != own)).map (fun r =>
    { core := o.core, cmd := o.cmd, dst := BitVec.ofNat 15 (o.position r * 128 + s.coord p % 128), dstCore := o.core,
      kind := 2, phase := phase, seq := word o.number, param := x.param o.coll, rows := rows r, epoch := s.trvEpoch p,
      asked := false, granted := false, sent := 0, lastPsn := none : TrvMsg })
  (s.modTrv p (fun t => { t with out := t.out ++ ms })).pump p

/-- The own result chunk lands at the issuer once its slots are empty (R283). -/
def State.landOwn (s : State) (p : TPort) (core cmd : Nat) : State :=
  match s.findOpen p core cmd with
  | none => s
  | some o =>
    let own := rankOf o.group (s.ownTrv p)
    let seq := s.resultSeq o own
    if o.ownDue && s.canLand core seq (s.landSlots core o.chunk.length) then
      (s.landRows core seq o.chunk.length 0 o.chunk).modOpen p core cmd (fun o =>
        { o with ownDue := false, landed := own :: o.landed })
    else s

/-- A collective completes when every result row has landed and every copy it sent has been acknowledged (R283). A BARRIER that
completes stays, to grant the members whose requests are still to come (R280, R282). -/
def State.tryFinish (s : State) (p : TPort) (core cmd : Nat) : State :=
  match s.findOpen p core cmd with
  | none => s
  | some o =>
    let own := rankOf o.group (s.ownTrv p)
    let sent := !((s.trv p).out.any (fun m => m.core == core && m.cmd == cmd && m.epoch != 0))
    let got :=
      if o.closed then false
      else if o.coll = 0 then decide (o.rows ≤ o.done)
      else if o.coll = 1 ∨ o.coll = 3 then (List.range o.g).all (fun r => o.landed.contains r)
      else if o.coll = 2 then o.landed.contains own
      else if o.coll = 4 then own == o.root || o.landed.contains o.root
      else true
    if sent && got then
      (if o.coll = 5 then s.modOpen p core cmd (fun x => { x with closed := true })
       else s.modTrv p (fun t => { t with opens := t.opens.filter (fun x => !(x.core == core && x.cmd == cmd)) })).markStage
        core cmd .performed
    else s

/-- Phase 0 has every contribution: the tournament sum is taken now, the result goes out and lands (R283, R284). -/
def State.reduceDone (s : State) (p : TPort) (core cmd : Nat) : State :=
  match s.findOpen p core cmd with
  | none => s
  | some o =>
    let own := rankOf o.group (s.ownTrv p)
    let s :=
      if s.repro core then
        let cfg := ((s.core core).spm.circ 1).cfg
        let k := circSlotRows cfg
        let part := fun (r : Nat) =>
          if r = own then o.chunk
          else (List.range o.chunkRows).map (fun i =>
            (s.core core).spm.row (circRow cfg (s.parkSeq p o r + word (i / k)).toNat + i % k))
        let sum := (List.range (o.g - 1)).foldl (fun acc r => List.zipWith (reduceRow o.op o.fmt) acc (part (r + 1))) (part 0)
        let s := (s.modSpm core (fun m => m.releaseSlots 1 (s.parkSeqs p o))).count (corePage core kSPM) 0x100 ((o.g - 1) * o.chunkRows)
        (s.count (pTRV p) 0x110 ((o.g - 1) * o.chunkRows)).modOpen p core cmd (fun o => { o with chunk := sum })
      else s
    let s := s.modOpen p core cmd (fun o => { o with reduced := true, ownDue := true })
    let s := match s.findOpen p core cmd with
      | some o => if o.coll = 1 then s.sendCopies p o 1 (fun _ => o.chunk) else s
      | none => s
    (s.landOwn p core cmd).tryFinish p core cmd

/-! ## Matching (R280) -/

/-- The first parameter of a request that differs from its receive or instance: the DETAIL of TRV_MATCH. -/
def TrvOpen.mismatch (o : TrvOpen) (r : TrvReq) : Option Nat :=
  if o.coll = 0 then (if r.rows = o.rows then none else some 0)
  else
    let q := r.param
    if o.coll ≠ 5 ∧ r.rows ≠ o.chunkRows then some 0
    else if bits q 3 0 ≠ o.coll then some 1
    else if bits q 5 4 ≠ o.op then some 2
    else if bits q 7 6 ≠ o.fmt then some 3
    else if bits q 13 8 ≠ bits o.e 5 0 then some 4
    else if bits q 21 14 ≠ o.root then some 5
    else none

/-- Match the requests of an instance; a difference raises TRV_MATCH and faults the job (R280, R286). -/
def State.matchOpen (s : State) (p : TPort) (core cmd : Nat) : State :=
  match s.findOpen p core cmd with
  | none => s
  | some o =>
    let rs := (s.trv p).requests.filter (fun r => decide (1 ≤ r.kind) && r.epoch != 0 && r.core == core && !r.granted &&
      (o.coll == 0) == (r.kind == 1) && r.seq.toNat == o.number)
    match rs.find? (fun r => (o.mismatch r).isSome) with
    | some r => s.trvFault p 3 ((o.mismatch r).getD 0) core r.src.toNat
    | none => s.modOpen p core cmd (fun o =>
        { o with joined := ((rs.map (fun r => rankOf o.group (r.src.toNat / 128))) ++ o.joined).eraseDups })

/-! ## The commands -/

def captureTrav (reduce : Bool) (w : BitVec 128) (k : Core) : Capture :=
  let coll := if reduce then some (cf w 0 24 17) else none
  let rows := cf w 2 14 0 + 1
  let reads := coll != some 0 && coll != some 5
  let (r, m) := resolve k.seq k.spm .travRd (cw w 1) (if reads then rows else 0) none
  { req := .traverse, op := .trav { port := tport (cf w 0 16 16), coll := coll, rows := rows, e := k.seq.ext w, opnd := r.opnd },
    ops := if reads then [r] else [], spm := m, seqErr := none, dmR := [], dmW := [] }

/-- A command of the row: a collective code that the spec does not assign is any of them. -/
def isColl (coll : Nat) (w : BitVec 128) : Bool := opcodeOf w == 0x61 && (cf w 0 24 17 == coll || decide (5 < cf w 0 24 17))

/-- W1 of a RECV must be 0 (R281). -/
def badTrav (_ : Core) (w : BitVec 128) : Bool :=
  badOperand (cw w 1) || (opcodeOf w == 0x61 && cf w 0 24 17 == 0 && cw w 1 != 0)

/-- A RECV enters the slice window when it issues (R281). -/
def travIssued (n : Nat) (s : State) (c : EngCmd) : State :=
  match c.op with
  | .trav x =>
    if x.coll == some 0 then
      s.enterSlice n { cmd := c.id, lo := x.e.toNat, hi := x.e.toNat + 512 * x.rows - 1, writes := true }
    else s
  | _ => s

/-- TRV_ARG: program class; the command goes no further. -/
def State.trvArg (s : State) (n : Nat) (c : EngCmd) (x : TravP) (detail : Nat) : State :=
  let dst := if x.coll.isNone then bits x.e 14 0 else 0
  ((s.trvRaise x.port 1 detail n dst).faultCore n (pTRV x.port) 1).dropCmd n c.id

/-- An XSEND reads its rows and holds its message until the grant (R279, R280). -/
def State.startSend (s : State) (n : Nat) (c : EngCmd) (x : TravP) : State :=
  let rows := s.readFor n c x.opnd
  let m : TrvMsg :=
    { core := n, cmd := c.id, dst := BitVec.ofNat 15 (bits x.e 14 0), dstCore := bits x.e 20 15, kind := bits x.e 21 21,
      phase := 0, seq := hi32 x.e, param := 0, rows := rows, epoch := s.trvEpoch x.port, asked := false,
      granted := false, sent := 0, lastPsn := none }
  let s := (s.performed n c rows.length 0).markStage n c.id .started
  (s.modTrv x.port (fun t => { t with out := t.out ++ [m] })).pump x.port

/-- A RECV opens its window under its number (R281). -/
def State.startRecv (s : State) (n : Nat) (c : EngCmd) (x : TravP) : State :=
  let i := portNat x.port
  let num := (s.core n).recvs.get natZero i
  let o : TrvOpen :=
    { core := n, cmd := c.id, coll := 0, number := num, rows := x.rows, e := x.e, group := 0, source := [], chunk := [],
      added := [], reduced := false, ownDue := false, landed := [], joined := [], done := 0, closed := false }
  let s := (s.modCore n (fun k => { k with recvs := k.recvs.set natZero i (num + 1) })).markStage n c.id .started
  (s.modTrv x.port (fun t => { t with opens := t.opens ++ [o] })).matchOpen x.port n c.id

/-- A collective reads its source and opens its instance; its first phase begins (R282, R283). -/
def State.startColl (s : State) (n : Nat) (c : EngCmd) (x : TravP) (k : Nat) : State :=
  let p := x.port
  let i := portNat p
  let num := (s.core n).colls.get natZero i
  let g := s.group p (bits x.e 5 0)
  let own := rankOf g (s.ownTrv p)
  let reads := k != 5 && !(k == 4 && bits x.e 15 8 != own)
  let rows := if reads then s.readFor n c x.opnd else []
  let ck := x.rows / max (popcount g) 1
  let chunk := fun (r : Nat) => (rows.drop (r * ck)).take ck
  let o : TrvOpen :=
    { core := n, cmd := c.id, coll := k, number := num, rows := x.rows, e := x.e, group := g, source := rows,
      chunk := if k ≤ 2 then chunk own else rows, added := [], reduced := decide (2 < k), ownDue := k == 3, landed := [],
      joined := [], done := 0, closed := false }
  let s := s.modCore n (fun v => { v with colls := v.colls.set natZero i (num + 1) })
  let s := (s.performed n c rows.length 0).markStage n c.id .started
  let s := if decide (k ≤ 2) && x.op == 0 && decide (x.fmt < 2) && !s.repro n then s.vary n else s
  let s := s.modTrv p (fun t => { t with opens := t.opens ++ [o] })
  let s := if k ≤ 2 then s.sendCopies p o 0 chunk
    else if k = 3 then s.sendCopies p o 1 (fun _ => rows)
    else if k = 4 then (if reads then s.sendCopies p o 1 (fun _ => rows) else s)
    else s.sendCopies p o 0 (fun _ => [])
  ((s.matchOpen p n c.id).landOwn p n c.id).tryFinish p n c.id

/-- The job of a core is to be pre-empted or saved: its unstarted traverse commands stay queued (R287). -/
def State.jobHeld (s : State) (n : Nat) : Bool :=
  match s.coreJob n with
  | some j => j.hold != .running
  | none => false

/-- A traverse command starts in queue order; one under way lands its own result when it can. -/
def performTrav (n : Nat) (s : State) (c : EngCmd) : State :=
  let k := s.core n
  match c.op with
  | .trav x =>
    if c.stage == .started then (s.landOwn x.port n c.id).tryFinish x.port n c.id
    else if s.jobHeld n then s
    else if !k.startReady c || k.raceHeld s.free c then s
    else if x.coll == some 0 && k.str.asleep then s.count (corePage n kSTR) 0x120 1
    else if x.coll == some 0 && k.sliceHazard c.id then s.count (corePage n kSTR) 0x128 1
    else match s.trvErr n x with
      | some d => s.trvArg n c x d
      | none => match x.coll with
        | none => s.startSend n c x
        | some 0 => s.startRecv n c x
        | some coll => s.startColl n c x coll
  | _ => s

/-- A traverse row of the sequencer. -/
def State.travCommand (s : State) (n : Nat) (isRow : BitVec 128 → Bool) (reduce : Bool) : State :=
  s.issue n isRow badTrav (fun w s => s.engineOff n w .traverse)
    (fun w s => s.engineOnGated n w (captureTrav reduce w (s.core n)) (State.sliceGate n (reduce && cf w 0 24 17 == 0)) id
      (fun s c => performTrav n (travIssued n s c) c))

def execXsend (n : CoreId) (s : State) : Host.Outcome State Fault Refusal := .next (s.travCommand n.val (isOp 0x60) false)
def execRecv (n : CoreId) (s : State) : Host.Outcome State Fault Refusal := .next (s.travCommand n.val (isColl 0) true)
def execAllreduce (n : CoreId) (s : State) : Host.Outcome State Fault Refusal := .next (s.travCommand n.val (isColl 1) true)
def execReduceScatter (n : CoreId) (s : State) : Host.Outcome State Fault Refusal := .next (s.travCommand n.val (isColl 2) true)
def execAllgather (n : CoreId) (s : State) : Host.Outcome State Fault Refusal := .next (s.travCommand n.val (isColl 3) true)
def execBroadcast (n : CoreId) (s : State) : Host.Outcome State Fault Refusal := .next (s.travCommand n.val (isColl 4) true)
def execBarrier (n : CoreId) (s : State) : Host.Outcome State Fault Refusal := .next (s.travCommand n.val (isColl 5) true)

/-! ## Acknowledgements (R276, R277, R280) -/

/-- Messages to a peer whose last packet has been acknowledged complete. -/
def State.completeMsgs (s : State) (p : TPort) (peer : BitVec 15) : State :=
  match s.flow p peer with
  | none => s
  | some f =>
    let done := (s.trv p).out.filter (fun m => m.dst == peer && (match m.lastPsn with
      | some q => !(f.unacked.any (fun x => x.hdr.psn == q))
      | none => false))
    done.foldl (fun s m =>
      let s := s.modTrv p (fun t => { t with out := t.out.filter (fun x => !(x.is m.core m.cmd m.dst m.phase)) })
      if m.epoch = 0 then s else
      let s := s.count (pTRV p) 0x100 1
      if m.kind = 2 then s.tryFinish p m.core m.cmd else s.markStage m.core m.cmd .performed) s

/-- An acknowledgement up to `ack` advances the window; ECE cuts the rate once in a window. -/
def State.takeAck (s : State) (p : TPort) (peer : BitVec 15) (ack : Word) (ece : Bool) : State :=
  match s.flow p peer with
  | none => s
  | some f =>
    let left := f.unacked.filter (fun x => !decide ((0 : Int) < (ack - x.hdr.psn).toInt))
    let ok := decide ((0 : Int) ≤ (s.txPsn p peer - ack).toInt)
    let s := if ok && decide (left.length < f.unacked.length) then
        s.modFlow p peer true (fun f => { f with unacked := left, rtoUs := s.rtoInit p })
      else s
    let s := if ece && !f.cut then (s.cutRate p peer 7 8).modFlow p peer true (fun f => { f with cut := true }) else s
    (s.completeMsgs p peer).pump p

/-- TRV_ACK. -/
def execTrvAck (port : TPort) (p : TrvPacket) (s : State) : Host.Outcome State Fault Refusal :=
  .next (s.trvReceive port p 1 (fun h s => s.takeAck port (BitVec.ofNat 15 h.src) h.ack h.ece))

/-- TRV_NAK: what comes before its PSN is acknowledged, the rest is sent again (R276). -/
def execTrvNak (port : TPort) (p : TrvPacket) (s : State) : Host.Outcome State Fault Refusal :=
  .next (s.trvReceive port p 2 (fun h s =>
    let peer := BitVec.ofNat 15 h.src
    let s := s.takeAck port peer h.psn h.ece
    match s.flow port peer with
    | some f => s.resendFlow port f
    | none => s))

/-! ## Requests and grants (R280) -/

def TrvReq.hdr (r : TrvReq) (own : Nat) : TrvHdr :=
  { type := 4, ece := false, last := false, kind := r.kind, src := own, dst := r.src.toNat, core := r.core, phase := r.phase,
    psn := 0, ack := 0, seq := r.seq, param := r.param, rows := r.rows - 1, offset := 0, len := 0, epoch := r.epoch }

/-- The request a packet repeats, or whose data it carries. -/
def TrvReq.of (r : TrvReq) (h : TrvHdr) : Bool :=
  r.src.toNat == h.src && r.core == h.core && r.kind == h.kind && r.phase == h.phase && r.seq == h.seq && r.epoch == h.epoch

/-- TRV_REQUEST: kept, and matched with the open receive or instance; one that has been granted is granted again. One with
JOB_EPOCH 0 and data bytes asks for the part's shard (log entry 82, DESIGN CHOICE). -/
def execTrvRequest (port : TPort) (p : TrvPacket) (s : State) : Host.Outcome State Fault Refusal :=
  .next (s.trvReceive port p 3 (fun h s =>
    if h.epoch = 0 ∧ p.data ≠ [] then s.takeAsk port (BitVec.ofNat 15 h.src) p.data else
    match (s.trv port).requests.find? (fun r => r.of h) with
    | some r => if r.granted then s.sendTrv port (r.hdr (s.coord port)) [] else s
    | none =>
      let r : TrvReq := { src := BitVec.ofNat 15 h.src, core := h.core, kind := h.kind, phase := h.phase, seq := h.seq,
                          param := h.param, rows := h.rows + 1, epoch := h.epoch, granted := false, got := 0 }
      let s := s.modTrv port (fun t => { t with requests := t.requests ++ [r] })
      if h.epoch = 0 ∨ h.kind = 0 then s
      else match s.openFor port h.core h.kind h.seq with
        | some o => s.matchOpen port o.core o.cmd
        | none => s))

/-- The segment of a bundle that a peer is delivering, as a message of kind receive and in directory order: bundle slot, index,
whether of the new manifest, and the segment (R303, R313). A rejected one comes again whenever the peer sends it (R304). -/
def State.peerSegment (s : State) (p : TPort) (r : TrvReq) : Option (Nat × Nat × Bool × Segment) :=
  (List.range 64).findSome? (fun b =>
    let x := s.bundle b
    let swap := x.state == .swapping
    let segs := if swap then x.newSegs else x.segs
    match x.peer, segs[r.seq.toNat]? with
    | some (q, c), some g =>
      if q == p && c == r.src && !x.waiting && (x.state == .loading || (swap && x.opened && g.slot == x.front)) &&
          g.state == .loading && g.core == r.core && g.len == 512 * r.rows && r.kind == 1 &&
          (g.again || (segs.take r.seq.toNat).all (fun e => e.state != .loading || e.again)) then
        some (b, r.seq.toNat, swap, g)
      else none
    | _, _ => none)

/-- Rows of reduce memory in use (R284): the chunks of blitz instances with a granted contribution. -/
def State.reduceUse (s : State) (p : TPort) : Nat :=
  (((s.trv p).opens.filter (fun o => decide (1 ≤ o.coll) && decide (o.coll ≤ 2) && !s.repro o.core &&
      (!o.reduced || o.ownDue) && ((!o.added.isEmpty) || (s.trv p).requests.any (fun r => r.granted && r.kind == 2 &&
        r.phase == 0 && r.core == o.core && r.seq.toNat == o.number)))).map (fun o => o.chunkRows)).foldl (· + ·) 0

/-- Rows of the 8 MiB reduce memory. -/
def reduceRowsMax : Nat := 16384

/-- The receiver can take the whole message (R280). -/
def State.canGrant (s : State) (p : TPort) (r : TrvReq) : Bool :=
  if r.epoch = 0 then (s.peerSegment p r).isSome
  else if r.kind = 0 then s.canLand r.core r.seq (s.landSlots r.core r.rows)
  else match s.openFor p r.core r.kind r.seq with
    | none => false
    | some o =>
      let rank := rankOf o.group (r.src.toNat / 128)
      if o.coll = 0 || o.coll = 5 then true
      else if r.phase = 1 then s.canLand o.core (s.resultSeq o rank) (s.landSlots o.core o.chunkRows)
      else if s.repro o.core then s.canLand o.core (s.parkSeq p o rank) (s.landSlots o.core o.chunkRows)
      else
        let mine := (!o.added.isEmpty) || (s.trv p).requests.any (fun q => q.granted && q.kind == 2 && q.phase == 0 &&
          q.core == o.core && q.seq.toNat == o.number)
        mine || decide (s.reduceUse p + o.chunkRows ≤ reduceRowsMax)

/-- GRANT_ISSUE: the request at an index of the port's list is granted once the whole message can be taken. -/
def execGrantIssue (port : TPort) (index : Nat) (s : State) : Host.Outcome State Fault Refusal :=
  match (s.trv port).requests[index]? with
  | none => .next s
  | some r =>
    if s.phase != .ready || !s.trvUp port || r.granted || !s.canGrant port r then .next s
    else
      let s := s.modTrv port (fun t => { t with requests := t.requests.set index { r with granted := true } })
      .next (s.sendTrv port (r.hdr (s.coord port)) [])

/-- TRV_GRANT: the held message may go; a barrier's needs nothing more (R280, R282). -/
def execTrvGrant (port : TPort) (p : TrvPacket) (s : State) : Host.Outcome State Fault Refusal :=
  .next (s.trvReceive port p 4 (fun h s =>
    match (s.trv port).out.find? (fun m => m.dst.toNat == h.src && m.dstCore == h.core && m.kind == h.kind && m.phase == h.phase &&
        m.seq == h.seq && m.epoch == h.epoch && m.asked && !m.granted) with
    | none => s
    | some m =>
      let s := s.modMsg port m (fun m => { m with granted := true })
      let s := s.modOpen port m.core m.cmd (fun o => { o with joined := (rankOf o.group (h.src / 128) :: o.joined).eraseDups })
      if m.rows.isEmpty then
        (s.modTrv port (fun t => { t with out := t.out.filter (fun x => !(x.is m.core m.cmd m.dst m.phase)) })).tryFinish
          port m.core m.cmd
      else s.pumpMsg port m))

/-! ## Data (R276, R279-R284, R303) -/

def State.modReq (s : State) (p : TPort) (h : TrvHdr) (g : TrvReq → TrvReq) : State :=
  s.modTrv p (fun t => { t with requests := t.requests.map (fun r => if r.of h then g r else r) })

def State.dropReq (s : State) (p : TPort) (h : TrvHdr) : State :=
  s.modTrv p (fun t => { t with requests := t.requests.filter (fun r => !(r.of h)) })

/-- A row of a peer's segment, and the hashing of a segment that has landed whole (R303). -/
def State.takeSegment (s : State) (p : TPort) (r : TrvReq) (off : Nat) (rows : List Row) (whole : Bool) : State :=
  match s.peerSegment p r with
  | none => s
  | some (b, i, new, g) =>
    let s := s.setUnits g.core (rows.zipIdx.map (fun x => (g.place / 512 + off + x.2, x.1)))
    if whole then
      let upd := fun (xs : List Segment) => xs.set i { g with state := .hashing, again := false }
      { s with hashQ := s.hashQ ++ [(b, i)] }.modBundle b (fun x => if new then { x with newSegs := upd x.newSegs } else { x with segs := upd x.segs })
    else s

/-- A contribution's rows: added into the reduce memory, or parked (R284). -/
def State.takeContribution (s : State) (p : TPort) (o : TrvOpen) (rank off : Nat) (rows : List Row) : State :=
  if s.repro o.core then
    (s.landRows o.core (s.parkSeq p o rank) o.chunkRows off rows).count (pTRV p) 0x118 rows.length
  else
    let sum := fun (o : TrvOpen) =>
      o.chunk.take off ++ List.zipWith (reduceRow o.op o.fmt) (o.chunk.drop off) rows ++ o.chunk.drop (off + rows.length)
    (s.modOpen p o.core o.cmd (fun o => { o with chunk := sum o })).count (pTRV p) 0x110 rows.length

/-- The data of an accepted packet, applied to its message. -/
def State.applyData (s : State) (p : TPort) (h : TrvHdr) (rows : List Row) : State :=
  match (s.trv p).requests.find? (fun r => r.of h && r.granted) with
  | none => s
  | some r =>
    let whole := decide (r.rows ≤ h.offset + rows.length)
    let s := s.modReq p h (fun r => { r with got := h.offset + rows.length })
    let rx := fun (s : State) => s.count (pTRV p) 0x108 rows.length
    let s :=
      if r.epoch = 0 then s.takeSegment p r h.offset rows whole
      else if r.kind = 0 then rx (s.landRows r.core r.seq r.rows h.offset rows)
      else match s.openFor p r.core r.kind r.seq with
        | none => s
        | some o =>
          let rank := rankOf o.group (h.src / 128)
          if o.coll = 0 then
            (rx (s.setUnits o.core (rows.zipIdx.map (fun x => (o.e.toNat / 512 + h.offset + x.2, x.1))))).modOpen p o.core o.cmd
              (fun o => { o with done := h.offset + rows.length })
          else if h.phase = 0 then
            let s := s.takeContribution p o rank h.offset rows
            if whole then
              let s := s.modOpen p o.core o.cmd (fun o => { o with added := rank :: o.added })
              if o.g ≤ o.added.length + 2 then s.reduceDone p o.core o.cmd else s
            else s
          else
            let s := rx (s.landRows o.core (s.resultSeq o rank) o.chunkRows h.offset rows)
            if whole then s.modOpen p o.core o.cmd (fun o => { o with landed := rank :: o.landed }) else s
    if whole then
      let s := s.dropReq p h
      match s.openFor p r.core r.kind r.seq with
      | some o => s.tryFinish p o.core o.cmd
      | none => s
    else s

/-- TRV_DATA_PACKET: the next PSN is accepted and applied; a later one has its NAK; an earlier one is acknowledged
again (R276). -/
def execTrvDataPacket (port : TPort) (p : TrvPacket) (s : State) : Host.Outcome State Fault Refusal :=
  .next (s.trvReceive port p 0 (fun h s =>
    let peer := BitVec.ofNat 15 h.src
    let s := if p.ce then s.count (pTRV port) 0x138 1 else s
    match s.useFlow port peer false h.epoch with
    | none => s
    | some s =>
      let s := if p.ce then s.modFlow port peer false (fun f => { f with ece := true }) else s
      let next := s.rxPsn port peer
      match s.flowOf port peer false with
      | none => s
      | some f =>
        if h.psn = next then
          let s := s.modTrv port (fun t => { t with rxPsn := t.rxPsn.set (fun _ => 0) peer.toNat (next + 1) })
          let s := s.modFlow port peer false (fun f => { f with nak := false, got := f.got + 1 })
          let s := s.takeAck port peer h.ack false
          let s := s.applyData port h (bytesToRows (p.data.length / 512) p.data)
          if 8 ≤ f.got + 1 then s.sendAck port peer else s
        else if (h.psn - next).toInt < 0 then s.sendAck port peer
        else s.sendNak port peer))

/-! ## Aborts (R286) -/

/-- TRV_ABORT: REMOTE_ABORT; the traverse jobs fault and nothing is forwarded on the traverse. -/
def execTrvAbort (port : TPort) (p : TrvPacket) (s : State) : Host.Outcome State Fault Refusal :=
  .next (s.trvReceive port p 5 (fun h s =>
    if h.epoch = 0 then s
    else
      let code := s.faultCode (pTRV port) 4
      let s := s.trvRaise port 4 0 0 h.src
      let s := s.trvTasks.foldl (fun s t => match (s.task t).bind (·.job) with
        | some j => if j.fault.isSome then s else (s.faultLocal t code).tellPeers j true false
        | none => s) s
      s.abortTraverse false [BitVec.ofNat 15 h.src]))

end Sys2Proof.Machine
end

