-- ==== Sys2Proof/Machine/Faults.lean ====
section
/-!
DEFINITION. Fencing and placement (R14-R16, R218, R219, R382-R388), power gates of pcores (R411), uncorrectable errors
(R119, R148, R178, R197, R223, R391) and the array self-test (R389).
-/
namespace Sys2Proof.Machine

/-! ## Spares (R15, R218) -/

/-- Logical cores hosted away from their home dies. -/
def State.away (s : State) : Nat :=
  ((List.range s.presented).filter (fun n => match s.hostOf n with
    | some p => pcoreDie p != s.homeDie n
    | none => false)).length

/-- A pcore that can be chosen as a host: a spare or released, with no fence due. R15 does not say whether a spare under
self-test can be chosen: here it is passed over (log entry 77, DESIGN CHOICE). -/
def Pcore.canHost (p : Pcore) : Bool := (p.state == .spare || p.state == .released) && !p.due

/-- The spare that R15 chooses for a core: home die, lower neighbour, higher neighbour, the non-adjacent die; at a die the
lowest pcore. A host away from home counts toward the limit of four. -/
def State.pickSpare (s : State) (n : Nat) : Option Nat :=
  let h := s.homeDie n
  let others := ((List.range s.presented).filter (fun m => m != n && (match s.hostOf m with
    | some p => pcoreDie p != s.homeDie m
    | none => false))).length
  ([h, lowNeighbour h, highNeighbour h, (h + 2) % 4].map (fun d => (List.range 17).map (fun i => 17 * d + i))).flatten.find?
    (fun p => (s.pcore p).canHost && (pcoreDie p == h || decide (others < 4)) && s.routeOk h (pcoreDie p))

/-! ## Power gates (R411) -/

/-- A pcore whose power is gated: fenced or released, or, with CORE_GATE_EN, hosting a core held by no task. -/
def State.wantsGate (s : State) (p : Nat) : Bool :=
  let x := s.pcore p
  match x.state with
  | .fenced | .released => true
  | .hosting => bit (s.reg pPWR 0x40) 1 && (match s.hosted p with
      | some n => (s.core n).task.isNone
      | none => false)
  | .spare | .testing | .ineligible => false

/-- Gate and wake the pcores as their states ask; a wake ends with PCORE_WAKE_DONE. -/
def State.regate (s : State) : State :=
  (List.range 68).foldl (fun s p =>
    let x := s.pcore p
    let g := s.wantsGate p
    if g && !x.gated then s.modPcore p (fun x => { x with gated := true, waking := false })
    else if !g && x.gated then
      (s.modPcore p (fun x => { x with gated := false, waking := true })).count pPWR 0x118 1
    else s) s

/-- PCORE_WAKE_DONE: 20 us after the wake (R411). -/
def execPcoreWakeDone (pcore : Nat) (s : State) : Host.Outcome State Fault Refusal :=
  if 68 ≤ pcore then .fault .noSuchUnit
  else if (s.pcore pcore).waking then .next (s.modPcore pcore (fun x => { x with waking := false }))
  else .next s

/-! ## Fencing (R382-R385) -/

/-- INFO0 of an FLT event (R392). -/
def fltInfo (bitNo pcore core : Nat) : Word := cause bitNo (pcore * 64 + core % 64)

/-- Mark a pcore fenced: its page, the FLT page, the journal (R382, R383). -/
def State.markFenced (s : State) (p core : Nat) : State :=
  let x := s.pcore p
  let s := s.modPcore p (fun x => { x with state := .fenced, due := false, dueJournal := false })
  let s := if x.dueJournal then { s with toJournal := s.toJournal ++ [Repair.mk 2 [p, x.cause.toNat]] } else s
  let s := s.count pFLT 0x120 1
  (s.raise (pPCR p) 0 (cause 0 0) (word s.epoch.toNat)).raise pFLT 0 (fltInfo 0 p core) x.cause

/-- The core's outstanding transfers return with the old epoch: they are discarded and counted, and their commands begin
again (R219, R386). -/
def State.discardReturns (s : State) (n : Nat) : State :=
  let held := ((s.core n).inflight.map EngCmd.tags).foldl (· + ·) 0
  if held = 0 then s
  else (s.count pSLS 0x108 held).modCore n (fun k =>
    { k with inflight := k.inflight.map (fun d => { d with tags := if d.stage == .performed then d.tags else 0 }) })

/-- A core becomes unhosted, a new placement with an epoch of its own: NO_SPARE, and its job faults with the event that fenced
the pcore or failed the route, or with NO_SPARE where PCORE_FENCE did (R385, R16). -/
def State.unhost (s : State) (n p : Nat) (code : Word) : State :=
  let s := s.discardReturns n
  let s := { s with place := s.place.set placeDefault n none, schedule := some (s.epoch + 1, n) }
  let s := s.raise pFLT 1 (fltInfo 1 p n) code
  match (s.core n).task with
  | some t => s.faultTask t (if code = 0 then s.faultCode pFLT 1 else code)
  | none => s

/-- A row command that a new host cannot issue again: it has begun, and it writes what it reads (R386). -/
def EngCmd.unrepeatable (c : EngCmd) : Bool :=
  let begun := decide (0 < c.taken) || c.stage == .started
  let meets := fun (as bs : List Nat) => as.any (fun x => bs.contains x)
  begun && (match c.op with
    | .rowop x => meets x.dst.rows (x.srcA.rows ++ (x.srcB.map (·.rows)).getD [])
    | .call x => x.routine == 0x0041 || x.routine == 0x0042 ||
        (x.routine == 0x0030 && decide (1 ≤ bits (x.slots.getD 5 0) 30 29))
    | _ => false)

/-- The core's state arrives on a new pcore: working weights as an image, those of partitions whose read-out is stuck
invalid; the old pcore's banks are zeroed (R67, R118, R148, R158, R183). -/
def State.moveCore (s : State) (n old new : Nat) (stuck : List (Fin 16)) : State :=
  let s := s.discardReturns n
  let s := s.modCore n (fun k => { k with arr := { k.arr with parts := stuck.foldl (fun m p =>
    m.set partDefault p.val { k.arr.part p.val with weights := none }) k.arr.parts } })
  let s := s.count (corePage n kSPM) 0x138 (512 * (s.core n).spm.copiedBanks)
  let s := s.modSpm n (Spm.moved (s.autoPwr n))
  let s := { s with place := s.place.set placeDefault n (some new), schedule := some (s.epoch + 1, n) }
  let s := s.modPcore new (fun x => { x with state := .hosting })
  let s := if ((s.core n).inflight.any EngCmd.unrepeatable) then
      match (s.core n).task with
      | some t =>
        let code := (s.pcore old).cause
        s.faultTask t (if code = 0 then s.faultCode pFLT 0 else code)
      | none => s
    else s
  (s.count pFLT 0x128 1).count (pPCR new) 0x108 1

/-- A schedule with core `n` on another host would give channels of its slice to a second pcore (R219). -/
def State.scheduleClash (s : State) (n : Nat) : Bool :=
  (List.range s.presented).any (fun m => m != n && s.physSlice m == s.physSlice n && (s.hostOf m).isSome)

/-- The core's bridge route has failed (R385). -/
def State.routeLost (s : State) (n : Nat) : Bool :=
  match s.hostOf n with
  | some p => !s.routeOk (s.homeDie n) (pcoreDie p)
  | none => false

/-- The pcore whose core leaves it next: the lowest-numbered one with a fence due or a failed route, which hosts nothing or
whose core is at its boundary (R16, R384, R385). -/
def State.nextLeaver (s : State) : Option Nat :=
  (List.range 68).find? (fun p => match s.hosted p with
    | some n => (((s.pcore p).due && (s.pcore p).state != .testing) || s.routeLost n) && (s.core n).atBoundary
    | none => (s.pcore p).due && (s.pcore p).state != .testing)

/-- CORE_MOVE. A pcore that hosts nothing is marked. One schedule is written at a time; the next move waits for it; a
schedule that clashes is refused, and the old one stays (R219). -/
def execCoreMove (stuck : List (Fin 16)) (s : State) : Host.Outcome State Fault Refusal :=
  if s.phase != .ready || s.schedule.isSome then .next s
  else
    match s.nextLeaver with
    | none => .next s
    | some p =>
      let x := s.pcore p
      match s.hosted p with
      | none => .next (s.markFenced p 0).regate
      | some n =>
        if x.due then
          let s := s.markFenced p n
          match s.pickSpare n with
          | some q =>
            if s.scheduleClash n then .next (s.raise pSLS 0 (cause 0 (q * 64 + s.physSlice n)) (word s.epoch.toNat))
            else .next (s.moveCore n p q stuck).regate
          | none => .next (s.unhost n p x.cause).regate
        else
          .next ((s.unhost n p (s.faultCode pSLS 2)).modPcore p (fun x =>
            { x with state := if x.state == .hosting then .spare else x.state })).regate

/-- Copies of chairs that were under way to the moved core's old pcore (R250). -/
def State.staleCopies (s : State) (n : Nat) : State :=
  s.modLift (fun l => { l with held := l.held.map (fun h => { h with stale := h.stale ||| (h.left &&& (1#64 <<< n)) }) })

/-- SCHEDULE_EFFECT: the new schedule takes effect with the new epoch (R16, R219). -/
def execScheduleEffect (s : State) : Host.Outcome State Fault Refusal :=
  match s.schedule with
  | some (e, n) =>
    if s.phase == .ready then .next ((({ s with epoch := e, schedule := none }).staleCopies n).count pSLS 0x100 1) else .next s
  | none => .next s

/-- ROUTE_FAIL: a bridge fails. Every core whose slice crosses it stops at its next pass boundary, where CORE_MOVE unhosts it
(R16, R378, R385). -/
def execRouteFail (d e : Fin 4) (s : State) : Host.Outcome State Fault Refusal :=
  let b := (min d.val e.val, max d.val e.val)
  if d = e ∨ e.val = (d.val + 2) % 4 then .fault .noSuchUnit
  else if s.phase != .ready || s.bridges.contains b then .next s
  else
    let s := { s with bridges := b :: s.bridges, toJournal := s.toJournal ++ [Repair.mk 7 [b.1, b.2]] }
    .next ((List.range s.presented).foldl (fun s n =>
      match s.hostOf n with
      | some p =>
        if (routeBridges (s.homeDie n) (pcoreDie p)).contains b then
          s.raise pSLS 2 (cause 2 (p * 64 + s.physSlice n)) (word s.epoch.toNat)
        else s
      | none => s) s)

/-! ## Uncorrectable errors: hardware class, handled as R119 -/

/-- The pass or sweep with this command is fed through a table slot. -/
def Core.expandsFrom (k : Core) (slot id : Nat) : Bool :=
  match (k.command id).map EngCmd.op with
  | some (.pass x) => x.wsrc == 1 && x.tslot == slot
  | some (.sweep x) => !x.stream && x.tslot == slot
  | _ => false

/-- The running passes and sweeps that consume a table slot abort with what follows them, and do not replay (R63, R119). -/
def State.abortConsumers (s : State) (n slot : Nat) : State :=
  let k := s.core n
  let uses := k.expandsFrom slot
  let s := (List.range 16).foldl (fun s p =>
    let q := k.arr.part p
    match q.running.find? (fun r => uses r.cmd) with
    | none => s
    | some r =>
      let hit := q.running.filter (fun y => decide (r.cmd ≤ y.cmd))
      let rest := q.running.filter (fun y => decide (y.cmd < r.cmd))
      let s := (s.modPart n p (fun q => { q with running := rest, weights := none })).count (corePage n kARR) 0x130 hit.length
      s.modCore n (fun k => { k with inflight := k.inflight.filter (fun d => !(hit.any (fun y => y.cmd == d.id))) })) s
  match k.sch.running.find? (fun r => uses r.cmd) with
  | none => s
  | some r =>
    let hit := k.sch.running.filter (fun y => decide (r.cmd ≤ y.cmd))
    let s := (s.modSch n (fun v => { v with running := v.running.filter (fun y => decide (y.cmd < r.cmd)) })).count
      (corePage n kSCH) 0x128 hit.length
    s.modCore n (fun k => { k with inflight := k.inflight.filter (fun d => !(hit.any (fun y => y.cmd == d.id))) })

/-- The consumer that INFO0 names: the lowest partition with a running consumer, else the schuss path (R125). -/
def Core.slotConsumer (k : Core) (slot : Nat) : Nat :=
  ((List.range 16).find? (fun p => (k.arr.part p).running.any (fun r => k.expandsFrom slot r.cmd))).getD 16

/-- TABLE_ECC of the expander (R119). -/
def execTableEcc (n : CoreId) (slot : Fin 8) (s : State) : Host.Outcome State Fault Refusal :=
  if s.phase != .ready || (s.hostOf n.val).isNone then .next s
  else
    let s' := s.abortConsumers n.val slot.val
    .next (s'.raiseFault n.val kEXP 4 (cause 4 (slot.val * 256 + (s.core n.val).slotConsumer slot.val)) 0)

/-- DMEM_ECC (R178). -/
def execDmemEcc (n : CoreId) (s : State) : Host.Outcome State Fault Refusal :=
  if s.phase == .ready && (s.hostOf n.val).isSome then .next (s.seqFault n.val 10) else .next s

/-- PROG_ECC: in the command fetched (R178). -/
def execProgEcc (n : CoreId) (s : State) : Host.Outcome State Fault Refusal :=
  if s.canIssue n.val then .next (s.seqFault n.val 9) else .next s

/-- The STREAM that is about to start with this descriptor. -/
def State.streamStarting (s : State) (n d : Nat) : Option (EngCmd × StreamP) :=
  (s.core n).inflight.findSome? (fun c => match c.op with
    | .stream x => if x.desc == d && c.stage == .queued && c.tags == 0 && (s.streamHeld n c x).isNone then some (c, x) else none
    | _ => none)

/-- DESC_ECC: the first check of the STREAM that starts with the descriptor (R209, R223). A descriptor that no command reads
shows no error. -/
def execDescEcc (n : CoreId) (d : Fin 1024) (s : State) : Host.Outcome State Fault Refusal :=
  match s.streamStarting n.val d.val with
  | some (c, x) =>
    if s.phase == .ready && (s.hostOf n.val).isSome then
      .next ((s.raiseFault n.val kSTR 4 (strInfo 0 4 x.ctx.val) (word d.val)).dropCmd n.val c.id)
    else .next s
  | none => .next s

/-- BOOK_ECC: in the control store, under the command at the front of the row engine's queue (R197, R199). -/
def execBookEcc (n : CoreId) (s : State) : Host.Outcome State Fault Refusal :=
  if s.phase == .ready && (s.hostOf n.val).isSome then .next (s.rowFault n.val (s.core n.val).rowNames.1 5 (s.core n.val).rowNames.2 0) else .next s

/-- TABLE_ECC of the scratchpad's claim, region and circular region tables: handled as R146 (R148). -/
def execSpmTableEcc (n : CoreId) (s : State) : Host.Outcome State Fault Refusal :=
  if s.phase == .ready && (s.hostOf n.val).isSome then .next (s.raiseHardware n.val kSPM 8 (cause 8 0) 0) else .next s

/-- Every job of the part faults. -/
def State.faultAll (s : State) (code : Word) : State := (List.range 64).foldl (fun s t => s.faultTask t code) s

/-- The part stops until reset (R391). -/
def State.haltPart (s : State) : State := { s.raise pFLT 5 (fltInfo 5 0 0) (s.faultCode pFLT 5) with phase := .halted }

/-- CTRL_ECC: part class; every job ends and every engine stops until reset (R378, R391). -/
def execCtrlEcc (s : State) : Host.Outcome State Fault Refusal :=
  if s.phase == .ready then
    let code := s.faultCode pFLT 4
    .next ((s.raise pFLT 4 (fltInfo 4 0 0) code).faultAll code).haltPart
  else .next s

/-! ## Self-tests (R145, R389) -/

/-- ARRAY_SELF_TEST_DONE: 4 ms after the test began on a pcore that hosts nothing; a failure raises TEST_FAIL and fences
the pcore (R389, R382). -/
def execArraySelfTestDone (pcore : Nat) (failed : Option (Fin 16)) (s : State) : Host.Outcome State Fault Refusal :=
  if 68 ≤ pcore then .fault .noSuchUnit
  else
    let x := s.pcore pcore
    if x.state == .testing && x.testKind == 0 && !x.waking then
      let s := { s with host := { s.host with tests := s.host.tests.filter (fun t => t != (0, pcore)) } }
      let s := (s.modPcore pcore (fun x => { x with state := x.before, testResult := if failed.isSome then 2 else 1 })).count
        (pPCR pcore) 0x110 1
      match failed with
      | none => .next s.regate
      | some q =>
        let code := s.faultCode (pPCR pcore) 1
        let s := (s.count (pPCR pcore) 0x118 1).raise (pPCR pcore) 1 (cause 1 q.val) (word s.epoch.toNat)
        .next ((s.fenceDue pcore code true).regate)
    else .next s

end Sys2Proof.Machine
end

