-- ==== Sys2Proof/Machine/Sha3.lean ====
section
/-!
DEFINITION. SHA3-512 (FIPS 202), the one hash of the part (R296-R304, R329-R335, R424-R439): Keccak-f[1600] over 25 lanes
of 64 bits, lane x + 5 y, rate 72 bytes.
-/
namespace Sys2Proof.Machine

def kLane (a : List Word64) (x y : Nat) : Word64 := a.getD (x % 5 + 5 * (y % 5)) 0

def kRot (w : Word64) (k : Nat) : Word64 := w.rotateLeft (k % 64)

/-- The 25 lanes from a function of the coordinates. -/
def kLanes (f : Nat → Nat → Word64) : List Word64 := (List.range 25).map (fun i => f (i % 5) (i / 5))

def kTheta (a : List Word64) : List Word64 :=
  let c := (List.range 5).map (fun x => kLane a x 0 ^^^ kLane a x 1 ^^^ kLane a x 2 ^^^ kLane a x 3 ^^^ kLane a x 4)
  kLanes (fun x y => kLane a x y ^^^ c.getD ((x + 4) % 5) 0 ^^^ kRot (c.getD ((x + 1) % 5) 0) 1)

/-- The walk of rho from (x, y): the lane met at its step t is rotated by (t + 1)(t + 2) / 2, and the walk goes on to
(y, 2 x + 3 y). -/
def kWalk : Nat → Nat → Nat → Nat → List (Nat × Nat)
  | 0, _, _, _ => []
  | n + 1, t, x, y => (x + 5 * y, (t + 1) * (t + 2) / 2 % 64) :: kWalk n (t + 1) y ((2 * x + 3 * y) % 5)

/-- Rotation offsets, lane x + 5 y; lane (0, 0), which the walk from (1, 0) never meets, stays. -/
def kOffsets : List Nat :=
  let walk := kWalk 24 0 1 0
  (List.range 25).map (fun i => ((walk.find? (fun e => e.1 == i)).map (·.2)).getD 0)

/-- rho and pi: lane (x, y) of the result is the rotated lane (x + 3 y, x). -/
def kRhoPi (a : List Word64) : List Word64 :=
  kLanes (fun x y =>
    let u := (x + 3 * y) % 5
    kRot (kLane a u x) (kOffsets.getD (u + 5 * x) 0))

def kChi (a : List Word64) : List Word64 :=
  kLanes (fun x y => kLane a x y ^^^ (~~~(kLane a (x + 1) y) &&& kLane a (x + 2) y))

/-- The bit stream of iota: the low bits of a register that shifts by x^8 + x^6 + x^5 + x^4 + 1. -/
def kStream : Nat → Nat → List Nat
  | 0, _ => []
  | n + 1, r => r % 2 :: kStream n (if r < 128 then 2 * r else (2 * r) ^^^ 0x171)

/-- The round constants: bit 2^j - 1 of round i is bit j + 7 i of the stream. -/
def kRounds : List Word64 :=
  let bs := kStream 168 1
  (List.range 24).map (fun i =>
    BitVec.ofNat 64 (((List.range 7).map (fun j => bs.getD (j + 7 * i) 0 * 2 ^ (2 ^ j - 1))).foldl (· + ·) 0))

def kRound (a : List Word64) (rc : Word64) : List Word64 :=
  match kChi (kRhoPi (kTheta a)) with
  | [] => []
  | l :: t => (l ^^^ rc) :: t

def keccakF (a : List Word64) : List Word64 := kRounds.foldl kRound a

/-- Absorb one 72-byte block: nine lanes. -/
def kAbsorb (a : List Word64) (block : List Byte) : List Word64 :=
  keccakF ((List.range 25).map (fun i =>
    a.getD i 0 ^^^ (if i < 9 then BitVec.ofNat 64 (leAt block (8 * i) 8) else 0)))

/-- The message with its padding: 0x06, zeros, 0x80 in the last byte of the last block. -/
def kPad (bs : List Byte) : List Byte :=
  let k := 72 - bs.length % 72
  if k = 1 then bs ++ [0x86] else bs ++ [0x06] ++ List.replicate (k - 2) 0 ++ [0x80]

def kAbsorbAll : Nat → List Byte → List Word64 → List Word64
  | 0, _, a => a
  | n + 1, bs, a => kAbsorbAll n (bs.drop 72) (kAbsorb a (bs.take 72))

/-- SHA3-512 of bytes: the digest as a number, first byte least significant. -/
def sha3x512 (bs : List Byte) : BitVec 512 :=
  let p := kPad bs
  let a := kAbsorbAll (p.length / 72) p (List.replicate 25 0)
  BitVec.ofNat 512 (leNat (((a.take 8).map (fun w => leBytes 8 w.toNat)).flatten))

def digestBytes (d : BitVec 512) : List Byte := leBytes 64 d.toNat

/-- ASCII bytes of a text. -/
def ascii (t : String) : List Byte := t.toList.map (fun c => BitVec.ofNat 8 c.toNat)

end Sys2Proof.Machine
end

