-- ==== Sys2Proof/Machine/Jobs.lean ====
section
/-!
DEFINITION. Track keys, records and the chain (R326-R329), the end of a job (R65, R176, R379) and its provenance record
(R330, R331, R333).
-/
namespace Sys2Proof.Machine

/-- The SHA3 engine has hashed some bytes (R443). -/
def State.hashed (s : State) (k : Nat) : State := s.count pSEC 0x110 k

/-! ## Tracks -/

/-- The core's program has ended or stopped: it opens no further key. -/
def Core.ended (k : Core) : Bool := k.seq.run != .running

/-- Open keys of a core that has ended begin to close too, so that its records can (R328). -/
def Core.closeAll (k : Core) : Core :=
  if k.ended then { k with trk := { k.trk with closing := k.trk.closing ++ k.trk.openKeys, openKeys := [] } } else k

/-- TRACK_KEY_CLOSE: a closing key without pending drains goes to the track ring, if the ring has an entry (R327). -/
def execTrackKeyClose (n : CoreId) (s : State) : Host.Outcome State Fault Refusal :=
  if s.phase != .ready then .next s
  else
    let k := (s.core n.val).closeAll
    match k.trk.closing.find? (fun x => x.pending == 0) with
    | none => .next s
    | some x =>
      if trackRing ≤ k.trk.ring.length then .next s
      else
        let t := { k.trk with closing := k.trk.closing.erase x, ring := k.trk.ring ++ [x], recent := (x :: k.trk.recent).take 16 }
        .next ((s.setCore n.val { k with trk := t }).count (corePage n.val kTRK) 0x110 1)

/-- Key order: round, then layer (R328). -/
def Key.le (a b : Key) : Bool :=
  decide (a.round.toNat < b.round.toNat) || (a.round == b.round && decide (a.layer.toNat ≤ b.layer.toNat))

/-- Add a partial to the merge table. -/
def mergeKey : List Key → Key → List Key
  | [], x => [x]
  | k :: t, x =>
    if k.is x.round x.layer then { k with sum := k.sum + x.sum, count := k.count + x.count } :: t else k :: mergeKey t x

/-- The firmware takes the partials from the cores' track rings (R328). -/
def State.mergeRings (s : State) (t : Nat) (x : Task) : State :=
  x.coreList.foldl (fun s n =>
    let ring := (s.core n).trk.ring
    if ring.isEmpty then s
    else (s.modJob t (fun j => { j with merged := ring.foldl mergeKey j.merged })).modCore n (fun k =>
      { k with trk := { k.trk with ring := [] } })) s

/-- The least key of the merge table. -/
def leastKey : List Key → Option Key
  | [] => none
  | k :: t => match leastKey t with
    | none => some k
    | some m => some (if k.le m then k else m)

/-- A record closes when every core of the job is past its round or has ended, and no core still holds a key up to it. -/
def Core.pastKey (k : Core) (x : Key) : Bool :=
  (decide (x.round < k.trk.watermark) || k.ended) && (k.trk.openKeys ++ k.trk.closing).all (fun y => !(y.le x))

/-- The 24 bytes of a closed record in the chain (R329). -/
def Key.chainBytes (x : Key) : List Byte :=
  leBytes 2 x.round.toNat ++ leBytes 2 x.layer.toNat ++ leBytes 1 (x.round.toNat / 65536) ++ leBytes 3 0 ++
    leBytes 8 x.count.toNat ++ leBytes 8 x.sum.toNat

/-- C0 of the chain (R329). -/
def chainStart : BitVec 512 := sha3x512 (ascii "PARLOGO-TRACK-1")

/-- The TRACK notice of a closed record (R363): TIME holds COUNT. -/
def trackNotice (ctx : Nat) (x : Key) : Notice :=
  let pay := x.round.toNat % 65536 + x.layer.toNat * 2 ^ 16 + x.round.toNat / 65536 * 2 ^ 32 + x.sum.toNat * 2 ^ 64
  { type := 5, error := false, ctx := BitVec.ofNat 16 ctx, time := x.count, payload := BitVec.ofNat 128 pay }

/-- TRACK_RECORD_CLOSE: the partials are merged, and the least record closes if it can: its notice is posted and it is folded
into the chain (R328, R329). -/
def execTrackRecordClose (task : Fin 64) (s : State) : Host.Outcome State Fault Refusal :=
  if s.phase != .ready then .next s
  else match s.task task.val with
    | none => .next s
    | some x =>
      let s := s.mergeRings task.val x
      match (s.task task.val).bind (·.job) with
      | none => .next s
      | some j =>
        match leastKey j.merged with
        | none => .next s
        | some k =>
          if x.coreList.all (fun n => (s.core n).pastKey k) then
            let s := s.modJob task.val (fun j =>
              { j with merged := j.merged.erase k, records := j.records + 1,
                       chain := sha3x512 (digestBytes j.chain ++ k.chainBytes) })
            .next ((s.hashed 88).post (s.ctxRing x.ctx.toNat) (trackNotice x.ctx.toNat k))
          else .next s

/-- A tracked drain that waits for an entry of the full track ring. -/
def Core.ringWaiter (k : Core) : Option EngCmd :=
  k.inflight.find? (fun c => c.tracked && k.trk.ringBlocks c.round c.layer)

/-- TRACK_STALL: a ring wait longer than TRK_WDOG.TIMEOUT_MS (R327, R337). -/
def execTrackStall (n : CoreId) (s : State) : Host.Outcome State Fault Refusal :=
  if s.phase != .ready then .next s
  else match (s.core n.val).ringWaiter with
    | none => .next s
    | some c =>
      .next (s.raiseFault n.val kTRK 2 (cause 2 c.layer.toNat)
        (word (c.round.toNat / 65536 * 2 ^ 24 + c.opcode.toNat * 65536 + c.round.toNat % 65536)))

/-! ## Work digest and provenance (R330, R331) -/

/-- How many of a page's counters, from 0x100 upward, are equal between runs (R318 and the counter tables). -/
def Blk.equalCounters : Blk → Nat
  | .seq => 4 | .arr => 3 | .sch => 3 | .row => 4 | .exp => 6 | .spm => 4 | .str => 3 | .trk => 3 | .lfc => 6 | .trv => 4
  | .dev | .flt | .tim | .mrg | .pwr | .sec | .fls | .mgt | .host | .ntc | .lft | .sls | .hbm | .pcr => 0

/-- Offsets of a page's counters that are equal between runs. -/
def equalOffsets (page : Nat) : List Nat :=
  match pageBlk page with
  | some (b, _) => (List.range b.equalCounters).map (fun i => 0x100 + 8 * i)
  | none => []

/-- The sequence of values that WORK_DIGEST hashes (R331). -/
def State.workValues (s : State) (x : Task) (j : Job) : List Word64 :=
  let vals := fun (p : Nat) => (equalOffsets p).map (s.counter p)
  let zero := fun (p : Nat) => (equalOffsets p).map (fun _ => (0 : Word64))
  (x.coreList.map (fun n => ((List.range 8).map (fun k => vals (corePage n k))).flatten)).flatten ++
    (if j.lift then vals pLFC else zero pLFC) ++
    ([TPort.A, TPort.B].map (fun p => if j.traverse then vals (pTRV p) else zero (pTRV p))).flatten

def State.workBytes (s : State) (x : Task) (j : Job) : List Byte :=
  ((s.workValues x j).map (fun v => leBytes 8 v.toNat)).flatten

/-- Logical cores that do not run on their default hosts (R388): the spare pcores in use. -/
def State.sparesUsed (s : State) : Nat :=
  ((List.range s.presented).filter (fun n => match s.hostOf n with
    | some p => p != 17 * s.homeDie n + n % 16
    | none => false)).length

/-- The device coordinate (R11, R271). -/
def State.deviceCoord (s : State) : Nat := s.liftId * 128 + s.liftPos

/-- Bytes 0x000-0x2FF of a provenance record (R330). -/
def State.provBody (s : State) (x : Task) (j : Job) (outcome : Nat) : List Byte :=
  let flags := boolNat j.repro + 2 * boolNat j.tracks + 4 * boolNat (j.vary != 0) + 8 * boolNat j.inputs.isSome +
    16 * boolNat j.resumed.isSome
  let digest := fun (d : Option (BitVec 512)) => digestBytes (d.getD 0)
  leBytes 4 0x9B0EA7C1 ++ [1, BitVec.ofNat 8 flags, BitVec.ofNat 8 outcome, BitVec.ofNat 8 x.cores] ++ leBytes 8 j.id.toNat ++
    digestBytes (sha3x512 Config.identityKey) ++ digest (s.fw.map (·.digest)) ++ digestBytes j.program ++
    digest (j.bundle.map (fun b => (s.bundle b.val).man.digest)) ++ digest j.inputs ++ leBytes 16 j.seed.toNat ++
    leBytes 4 j.jobWord.toNat ++ leBytes 2 j.bookVer.toNat ++ leBytes 1 s.presented ++ leBytes 1 s.sparesUsed ++
    leBytes 2 s.deviceCoord ++ leBytes 1 (if j.lift then s.liftLen else 0) ++ [0] ++ leBytes 2 s.lift.epoch.toNat ++
    leBytes 2 (if j.traverse then j.trvEpoch.toNat else 0) ++ leBytes 8 j.vary.toNat ++ leBytes 8 j.records.toNat ++
    digestBytes j.chain ++ digestBytes (sha3x512 (s.workBytes x j)) ++ digest j.resumed ++ leBytes 8 j.start.toNat ++
    leBytes 8 s.time.toNat ++ leBytes 4 (j.fault.getD 0).toNat ++ List.replicate 172 0

/-! ## The end of a job -/

/-- The JOB_END notice (R363). -/
def jobEndNotice (time : Word64) (t : Nat) (x : Task) (j : Job) (outcome : Nat) : Notice :=
  let pay := outcome + t * 2 ^ 8 + (j.fault.getD 0).toNat * 2 ^ 16 + j.id.toNat * 2 ^ 48
  { type := 2, error := outcome != 0, ctx := BitVec.ofNat 16 x.ctx.toNat, time := time, payload := BitVec.ofNat 128 pay }

/-- A core that its job has left: its bank loaded and not executing, nothing in flight. A sequencer that a fault stopped
still reads as stopped, with its loop stack, until the next launch (R180, R182). -/
def Core.leaveJob (k : Core) : Core :=
  let rest := fun (b : ProgBank) => { b with state := if b.state == .executing then .valid else b.state }
  { k with seq := { k.seq with run := if k.seq.run == .stopped then .stopped else .idle, bank0 := rest k.seq.bank0, bank1 := rest k.seq.bank1 },
           inflight := [] }

/-- A job ends: the provenance record is written, the cores stop, and JOB_END follows every other notice of the job
(R330, R364). -/
def State.endJob (s : State) (t : Nat) (outcome : Nat) : State :=
  match s.task t with
  | none => s
  | some x =>
    match x.job with
    | none => s
    | some j =>
      let rec' : ProvRecord := { job := j.id, body := s.provBody x j outcome, sig := none }
      let s := s.hashed (s.workBytes x j).length
      let s := (s.modHost (fun h => { h with records := (rec' :: h.records).take 64 })).count pDEV (0x108 + 8 * outcome) 1
      let s := x.coreList.foldl (fun s n => s.modCore n Core.leaveJob) s
      let s := if j.lift && outcome != 0 then s.modLift (fun l => { l with laps := [], held := l.held.filter (fun h => !h.bad) }) else s
      let s := if j.traverse then s.endTraverse else s
      (s.setTask t (some { x with job := none })).post (s.ctxRing x.ctx.toNat) (jobEndNotice s.time t x j outcome)

/-- Every record of the job has closed. -/
def State.tracksDone (s : State) (x : Task) (j : Job) : Bool :=
  j.merged.isEmpty && x.coreList.all (fun n =>
    let k := s.core n
    k.trk.openKeys.isEmpty && k.trk.closing.isEmpty && k.trk.ring.isEmpty)

/-- JOB_COMPLETE: every core has reached its END and every issued command has completed (R176, R328). -/
def execJobComplete (task : Fin 64) (s : State) : Host.Outcome State Fault Refusal :=
  match s.task task.val with
  | none => .next s
  | some x =>
    match x.job with
    | none => .next s
    | some j =>
      if s.phase == .ready && j.fault.isNone && x.coreList.all (fun n => (s.core n).seq.run == .draining && (s.core n).inflight.isEmpty) &&
          s.tracksDone x j then .next (s.endJob task.val 0)
      else .next s

/-- The operands that a command may take from circular regions. -/
def Core.circSources (k : Core) : EngOp → List Operand
  | .pass x => [x.act] ++ (if x.wsrc = 0 then [] else [x.wts])
  | .sweep x => if x.stream then [] else [x.wts]
  | .vload _ _ _ o => [o]
  | .tload _ _ o => [o]
  | .rowop x => x.sources
  | .call x => x.reads k
  | .stream x => if x.out then [x.opnd] else []
  | _ => []

/-- The command waits for a slot of a circular region to fill, or for the slot of its next item to empty (R136). -/
def Core.slotHeld (k : Core) (c : EngCmd) : Bool :=
  (match c.out with
    | x :: _ => !k.spm.slotOpen x.region.val x.seq
    | [] => false) ||
  (match c.op with
    | .release r seqs => c.stage != .performed && !((seqs.drop c.taken).all (fun q => (k.spm.circ r.val).isFull q))
    | op => c.stage != .performed && c.out.isEmpty &&
        (((k.circSources op).map k.spm.slotsOf).flatten.drop c.taken).any (fun x => !k.spm.slotFull x.1.val x.2.1))

/-- A command that can go no further by itself: its wait is unmet, and the job that has faulted issues nothing more that
would meet it (log entry 40, DEDUCED). -/
def Core.stuck (k : Core) (c : EngCmd) : Bool :=
  c.op == .signalOnly || (c.stage == .queued && !k.ready c && !k.startReady c && !(c.isSweep && k.sweepReady c)) || k.slotHeld c

/-- JOB_FAULT_END: the commands already issued have run to completion (R65, R379), and every record that can close has. -/
def execJobFaultEnd (task : Fin 64) (s : State) : Host.Outcome State Fault Refusal :=
  match s.task task.val with
  | none => .next s
  | some x =>
    match x.job with
    | none => .next s
    | some j =>
      let idle := fun (n : Nat) =>
        let k := s.core n
        k.inflight.all k.stuck && ((s.hostOf n).isNone || k.atBoundary)
      let tracks := x.coreList.all (fun n =>
          let t := (s.core n).trk
          t.openKeys.isEmpty && t.ring.isEmpty && t.closing.all (fun y => y.pending != 0)) &&
        (match leastKey j.merged with
          | some y => !(x.coreList.all (fun n => (s.core n).pastKey y))
          | none => true)
      if s.phase == .ready && j.fault.isSome && x.coreList.all idle && tracks then .next (s.endJob task.val 1)
      else .next s

/-- PROVENANCE_SIGNED: the oldest unsigned record of the job is signed with the identity key; without an identity the
signature is zeros (R333, R430). -/
def execProvenanceSigned (job : Word64) (s : State) : Host.Outcome State Fault Refusal :=
  match s.host.records.reverse.find? (fun r => r.job == job && r.sig.isNone) with
  | none => .next s
  | some r =>
    if s.phase != .ready then .next s
    else
      let sig := if s.flash.helper then Config.mldsaSign r.body else List.replicate 4627 0
      let s := s.modHost (fun h => { h with records := h.records.map (fun x => if x = r then { x with sig := some sig } else x) })
      .next (if s.flash.helper then s.count pSEC 0x100 1 else s)

end Sys2Proof.Machine
end

