-- ==== Sys2Proof/Machine/Queue.lean ====
section
/-!
DEFINITION. Submission queues and notice rings (R350-R355, R365-R367): doorbells, fetch, the checks of an entry, the start
of a command in queue order and its completion.
-/
namespace Sys2Proof.Machine

/-! ## Doorbells (R351, R352, R365, R366) -/

def doorNumber (v : Word64) : Nat := bits v 19 0
def doorKind (v : Word64) : Bool := bit v 20
def doorValue (v : Word64) : Nat := bits v 63 32

/-- A queue that a doorbell can name: it exists and is not being deleted. -/
def State.liveQueue (s : State) (q : Nat) : Option Queue :=
  match s.queue q with
  | some x => if x.deleting then none else some x
  | none => none

/-- Entries of a queue; queue 0 takes its size from the HOST page (R350, R370). -/
def State.queueSize (s : State) (q : Nat) (x : Queue) : Nat := 2 ^ (if q = 0 then bits (s.reg pHOST 0x50) 4 0 else x.log2)

/-- DOORBELL_BAD with its DETAIL and the number that the doorbell names. -/
def State.doorBad (s : State) (detail number : Nat) : State :=
  s.raise pHOST 1 (cause 1 (detail * 2 ^ 24)) (word number)

/-- The checks that every doorbell passes first: its width and its reserved bits. -/
def doorErr (width : Nat) (v : Word64) : Option Nat :=
  if width ≠ 64 then some 0 else if bits v 31 21 ≠ 0 then some 1 else none

/-- SQ_DOORBELL: the entries up to the new tail become pending. -/
def execSqDoorbell (bits : Nat) (value : Word64) (s : State) : Host.Outcome State Fault Refusal :=
  let q := doorNumber value
  if s.phase != .ready || (bits = 64 && doorKind value) then .next s
  else match doorErr bits value with
    | some d => .next (s.doorBad d q)
    | none => match s.liveQueue q with
      | none => .next (s.doorBad 2 q)
      | some x =>
        if s.queueSize q x ≤ doorValue value then .next (s.doorBad 3 q)
        else .next ((s.setQueue q (some { x with tail := doorValue value })).count pHOST 0x100 1)

/-- The vector of a ring that is armed and holds unread notices is sent, and the arm cleared (R366). -/
def State.fireRing (s : State) (r : Nat) (x : Ring) : State :=
  if x.msix && x.armed && decide (x.head < x.tail) then
    (s.setRing r (some { x with armed := false })).sendVector x.vector.val
  else s

/-- HEAD_DOORBELL: entries return to the part and the ring is armed again; past the tail it is HEAD_BAD and ignored. -/
def execHeadDoorbell (bits : Nat) (value : Word64) (s : State) : Host.Outcome State Fault Refusal :=
  let r := doorNumber value
  if s.phase != .ready || (bits = 64 && !doorKind value) then .next s
  else match doorErr bits value with
    | some d => .next (s.doorBad d r)
    | none => match s.ring r with
      | none => .next (s.doorBad 2 r)
      | some x =>
        let v := doorValue value
        let size := 2 ^ x.log2
        if size ≤ v then .next (s.doorBad 3 r)
        else
          let s := s.count pHOST 0x100 1
          let moved := (v + size - x.head % size) % size
          if x.tail - x.head < moved then .next (s.raise pNTC 0 (cause 0 r) (word v))
          else
            let y := { x with head := x.head + moved, armed := true }
            .next ((s.setRing r (some y)).fireRing r y)

/-! ## Notice backlog (R367) -/

/-- A ring that is owed a notice and has room for one. -/
def State.owed (s : State) (r : Nat) : Bool :=
  match s.ring r with
  | some x => !x.full && (decide (0 < x.dropped) || s.host.backlog.any (fun e => e.1 == r))
  | none => false

/-- NOTICE_BACKLOG_DRAIN: one notice, the OVERFLOW notice of a ring before any other. -/
def execNoticeBacklogDrain (s : State) : Host.Outcome State Fault Refusal :=
  if s.phase != .ready || !s.host.busMaster then .next s
  else match (s.host.backlog.map (·.1) ++ 0 :: s.host.rings.map (·.1)).find? s.owed with
    | none => .next s
    | some r => .next (s.drainRing 1 r)

/-! ## Entries (R353, R355) -/

def opOf (e : List Byte) : Nat := leAt e 0 1
def flagNotify (e : List Byte) : Bool := leAt e 1 1 % 2 == 1
def flagBarrier (e : List Byte) : Bool := leAt e 1 1 / 2 % 2 == 1
def flagFlush (e : List Byte) : Bool := leAt e 1 1 / 4 % 2 == 1

def entryCrcOk (e : List Byte) : Bool := leAt e 0x3C 4 == crc32c (e.take 0x3C)

/-- Operand bytes of each command: offset and length (R356-R359). -/
def operandBytes : Nat → Option (List (Nat × Nat))
  | 0x00 => some []
  | 0x01 => some [(8, 4)]
  | 0x02 => some [(8, 2)]
  | 0x03 => some [(8, 17)]
  | 0x04 => some [(8, 4)]
  | 0x05 => some [(8, 6), (0x10, 8)]
  | 0x06 => some [(8, 2)]
  | 0x07 => some [(8, 1)]
  | 0x08 => some [(8, 2)]
  | 0x10 | 0x11 => some [(8, 1), (0x10, 16)]
  | 0x18 => some [(8, 3)]
  | 0x19 => some [(8, 1)]
  | 0x20 => some [(8, 3), (0x10, 12)]
  | 0x21 => some [(8, 6), (0x10, 0x24)]
  | 0x22 => some [(8, 1)]
  | 0x23 => some [(8, 2)]
  | 0x24 => some [(8, 2), (0x10, 8)]
  | 0x25 => some [(8, 3), (0x10, 12)]
  | 0x26 => some [(8, 2), (0x10, 12)]
  | 0x27 => some [(8, 1), (0xA, 2)]
  | 0x28 => some [(8, 16)]
  | 0x30 => some [(8, 3), (0xC, 16), (0x20, 8)]
  | 0x31 => some [(8, 1), (0xA, 2)]
  | 0x32 => some [(8, 3), (0xC, 16), (0x20, 12)]
  | 0x33 => some [(8, 1)]
  | 0x34 => some [(8, 2)]
  | 0x35 => some [(8, 1), (0x10, 8)]
  | 0x3F => some []
  | _ => none

/-- The first reserved byte or bit of an entry that is not 0. -/
def reservedBad (e : List Byte) : Option Nat :=
  let ok := (operandBytes (opOf e)).getD []
  if 8 ≤ leAt e 1 1 then some 1
  else (List.range 0x3C).find? (fun i =>
    (i == 2 || i == 3 || (decide (8 ≤ i) && !(ok.any (fun r => decide (r.1 ≤ i) && decide (i < r.1 + r.2))))) && leAt e i 1 != 0)

/-- The first bad byte offset: a reserved one, or one of the command's own checks. -/
def firstBad (e : List Byte) (own : List (Nat × Bool)) : Option Nat :=
  let xs := (reservedBad e).toList ++ ((own.filter (·.2)).map (·.1))
  match xs with
  | [] => none
  | x :: t => some (t.foldl min x)

/-! ## Command notices and completion (R354, R355, R363) -/

/-- Status codes (R355). -/
def stOK : Nat := 0
def stCRC : Nat := 1
def stOPCODE : Nat := 2
def stFIELD : Nat := 3
def stADMIN : Nat := 4
def stOWNER : Nat := 5
def stBUSY : Nat := 6
def stOVERLAP : Nat := 7
def stREFUSED : Nat := 8
def stKILLED : Nat := 9
def stNOTFOUND : Nat := 10
def stHOST : Nat := 11
def stIMAGE : Nat := 12

/-- The COMMAND notice of an entry. -/
def commandNotice (time : Word64) (q : Nat) (ctx : BitVec 12) (e : List Byte) (after status detail : Nat) : Notice :=
  let pay := q + after * 2 ^ 32 + leAt e 4 4 * 2 ^ 64 + status * 2 ^ 96 + detail * 2 ^ 112
  { type := 1, error := status != 0, ctx := ctx.setWidth 16, time := time, payload := BitVec.ofNat 128 pay }

/-- A command ends: its notice is posted if it did not succeed or asks for one. -/
def State.answer (s : State) (q : Nat) (e : List Byte) (after status detail : Nat) : State :=
  match s.queue q with
  | none => s
  | some x =>
    if status ≠ 0 ∨ flagNotify e then s.post x.ring.toNat (commandNotice s.time q x.ctx e after status detail) else s

/-- A started command ends. -/
def State.finish (s : State) (q : Nat) (c : Started) (status detail : Nat) : State :=
  match s.queue q with
  | none => s
  | some x =>
    (s.setQueue q (some { x with started := x.started.erase c })).answer q c.entry c.after status detail

/-- A failed read or write of host memory: FETCH_ERR and HOST_ERROR. -/
def State.hostError (s : State) (q : Nat) (c : Started) : State :=
  (s.raise pHOST 4 (cause 4 0) (word q)).finish q c stHOST 0

/-! ## Fetch (R353) -/

/-- COMMAND_FETCH: the next pending entry. One that fails its CRC, that has no command's opcode, or that could not be read,
is passed over with its notice. -/
def execCommandFetch (q : BitVec 20) (entry : Option (List Byte)) (s : State) : Host.Outcome State Fault Refusal :=
  match s.liveQueue q.toNat with
  | none => .next s
  | some x =>
    if s.phase != .ready || !s.host.busMaster || !bit (s.reg pHOST 0x40) 0 || x.head == x.tail then .next s
    else
      let after := (x.head + 1) % s.queueSize q.toNat x
      let passed := s.setQueue q.toNat (some { x with head := after })
      match entry with
      | none =>
        let e := List.replicate 64 (0 : Byte)
        .next ((passed.raise pHOST 4 (cause 4 0) (word q.toNat)).answer q.toNat e after stHOST 0)
      | some e =>
        if !entryCrcOk e then
          .next (((passed.count pHOST 0x110 1).raise pHOST 2 (cause 2 0) (word q.toNat)).answer q.toNat e after stCRC 0)
        else if (operandBytes (opOf e)).isNone then .next (passed.answer q.toNat e after stOPCODE 0)
        else
          let f : Fetched := { entry := e, after := after, writes := s.host.winCount }
          .next (s.setQueue q.toNat (some { x with head := after, fetched := x.fetched ++ [f] }))

/-! ## Starting commands in queue order (R354) -/

/-- The task or bundle slot whose commands the part serialises. -/
def entryTask (e : List Byte) : Option (Fin 64) :=
  if [0x19, 0x20, 0x21, 0x22, 0x23, 0x24].contains (opOf e) then some (Fin.ofNat 64 (leAt e 8 1)) else none

def entryBundle (e : List Byte) : Option (Fin 64) :=
  if decide (0x30 ≤ opOf e) && decide (opOf e ≤ 0x35) then some (Fin.ofNat 64 (leAt e 8 1)) else none

/-- A started command of any queue changes the same task or bundle slot. -/
def State.serialised (s : State) (e : List Byte) : Bool :=
  let meets := fun (c : Started) => (c.task.isSome && c.task == entryTask e) || (c.bundle.isSome && c.bundle == entryBundle e)
  (0 :: s.host.queues.map (·.1)).any (fun q => match s.queue q with
    | some x => x.started.any meets
    | none => false)

/-- Window writes completed before the entry was fetched that have not been performed (R346). -/
def State.flushed (s : State) (f : Fetched) : Bool := !(s.host.winBuf.any (fun w => decide (w.number < f.writes)))

/-- The front entry may start: its BARRIER, its FLUSH and what it is serialised behind. -/
def State.mayStart (s : State) (x : Queue) (f : Fetched) : Bool :=
  !x.deleting && (!flagBarrier f.entry || x.started.isEmpty) && (!flagFlush f.entry || s.flushed f) && !s.serialised f.entry

/-- The command has started. -/
def State.startEntry (s : State) (q : Nat) (x : Queue) (f : Fetched) : State × Started :=
  let c : Started := { entry := f.entry, after := f.after, task := entryTask f.entry, bundle := entryBundle f.entry }
  let s := s.setQueue q (some { x with fetched := x.fetched.drop 1, started := x.started ++ [c] })
  let s := s.count pHOST 0x108 1
  (if flagFlush f.entry then s.count pHOST 0x138 1 else s, c)

/-- A row of a queue: its oldest started command goes on if it can; otherwise the front entry starts, if it is of the row
and may. `ok` is a further condition on the step as a whole. -/
def State.queueRow (s : State) (q : BitVec 20) (op : Nat) (onward : State → Nat → Started → Option State)
    (start : State → Nat → Started → State) : State :=
  match s.queue q.toNat with
  | none => s
  | some x =>
    if s.phase != .ready then s
    else match (x.started.filter (fun c => opOf c.entry == op)).findSome? (onward s q.toNat) with
      | some s' => s'
      | none =>
        match x.fetched.head? with
        | none => s
        | some f =>
          if opOf f.entry == op && s.mayStart x f then
            let (s, c) := s.startEntry q.toNat x f
            start s q.toNat c
          else s

/-- A command with nothing to wait for. -/
def atOnce (_ : State) (_ : Nat) (_ : Started) : Option State := none

/-- Start with the field checks: the first bad field refuses the command. -/
def State.withFields (s : State) (q : Nat) (c : Started) (own : List (Nat × Bool)) (k : State → State) : State :=
  match firstBad c.entry own with
  | some off => s.finish q c stFIELD off
  | none => k s

/-- A command that only queue 0 accepts (R356). -/
def State.admin (s : State) (q : Nat) (c : Started) (own : List (Nat × Bool)) (k : State → State) : State :=
  if q ≠ 0 then s.finish q c stADMIN 0 else s.withFields q c own k

/-- The context of a queue. -/
def State.queueCtx (s : State) (q : Nat) : Nat :=
  match s.queue q with
  | some x => x.ctx.toNat
  | none => 0

/-- A command on a task of the queue's context (R357). -/
def State.onTask (s : State) (q : Nat) (c : Started) (k : State → Task → State) : State :=
  match s.task (leAt c.entry 8 1) with
  | none => s.finish q c stNOTFOUND 0
  | some t => if t.ctx.toNat = s.queueCtx q then k s t else s.finish q c stOWNER 0

/-! ## The simplest commands -/

def execQueueNop (q : BitVec 20) (s : State) : Host.Outcome State Fault Refusal :=
  .next (s.queueRow q 0x00 atOnce (fun s q c => s.withFields q c [] (fun s => s.finish q c stOK 0)))

/-- FLUSH: the command itself flushes, so it starts when its writes have been performed (R346). -/
def execFlush (q : BitVec 20) (s : State) : Host.Outcome State Fault Refusal :=
  match (s.queue q.toNat).bind (fun x => x.fetched.head?) with
  | none => .next s
  | some f =>
    if s.flushed f then
      .next (s.queueRow q 0x3F atOnce (fun s q c => s.withFields q c [] (fun s =>
        (if flagFlush c.entry then s else s.count pHOST 0x138 1).finish q c stOK 0)))
    else .next s

end Sys2Proof.Machine
end

