-- ==== Sys2Proof/Machine/Contexts.lean ====
section
/-!
DEFINITION. Contexts, queues, rings, HBM regions and tasks (R347-R350, R356, R357), fencing and self-tests on the driver's
command (R382, R389, R145), and the loss and return of the host (R342, R347, R366).
-/
namespace Sys2Proof.Machine

/-! ## Killing (R147, R348) -/

/-- The banks of a killed task are taken for zeroing: those its regions covered, those its circular regions held, and any
powered bank that still holds a row it wrote and is not under test, which ends in zeros too; tokens, claims, regions and
circular regions are cleared (R147). -/
def Spm.killed (m : Spm) : Spm :=
  let held := fun (b : Nat) => m.covered b || m.circBank b ||
    ((m.bank b).powered && (m.bank b).busy != some .testing && m.rows.any (fun e => e.1 / 512 == b))
  let banks := (List.range 48).foldl (fun (k : Spm) b =>
    let x := m.bank b
    k.setBank b { x with owner := .free, takeover := none, powered := x.powered || held b,
                         busy := if held b then some .zeroing else x.busy }) m
  { Spm.reset with rows := m.rows, banks := banks.banks }

/-- The state of a core whose task is killed (R53, R67, R77, R118, R147, R158, R183). -/
def Core.killed (k : Core) : Core :=
  { Core.reset with spm := k.spm.killed, nextId := k.nextId,
                    str := { Str.reset with drill := k.str.drill, asleep := k.str.asleep, waking := k.str.waking, preset := k.str.preset } }

/-- A task's job ends killed; its peers learn of it as of a fault (R347, R379); its cores are cleared. The cores stay with
the task until they are zeroed. -/
def State.killTask (s : State) (t : Nat) : State :=
  match s.task t with
  | none => s
  | some x =>
    let s := match x.job with
      | none => s
      | some j =>
        let s := if j.fault.isNone then s.tellPeers j true true else s
        let s := if j.lift then s.dropLift true else s
        s.endJob t 2
    x.coreList.foldl (fun s n => s.modCore n (fun k => { k.killed with task := k.task })) s

/-- A task gives its cores back. -/
def State.freeTask (s : State) (t : Nat) : State :=
  match s.task t with
  | none => s
  | some x => (x.coreList.foldl (fun s n => s.modCore n (fun k => { k with task := none })) (s.setTask t none)).regate

def Core.zeroing (k : Core) : Bool := (List.range 48).any (fun b => (k.spm.bank b).busy == some .zeroing)

/-- Queues that exist, by number. -/
def State.queueNumbers (s : State) : List Nat := ((0 :: s.host.queues.map (·.1)).eraseDups).filter (fun q => (s.queue q).isSome)

/-- A queue's commands in flight complete with KILLED, and the queue goes; queue 0 is left as at reset (R348). -/
def State.killQueue (s : State) (q : Nat) : State :=
  match s.queue q with
  | none => s
  | some x =>
    let s := x.started.foldl (fun s c => s.answer q c.entry c.after stKILLED 0) s
    let s := x.fetched.foldl (fun s f => s.answer q f.entry f.after stKILLED 0) s
    s.setQueue q (if q = 0 then some queueReset else none)

/-- A context is killed: its tasks, its queues, and its HBM regions, which are zeroed before they are free (R348, R222). -/
def State.killContext (s : State) (c : Nat) : State :=
  let mine := fun (s : State) (t : Nat) => match s.task t with
    | some x => x.ctx.toNat == c
    | none => false
  let s := (List.range 64).foldl (fun s t => if mine s t then (s.killTask t).freeTask t else s) s
  let s := (s.queueNumbers.filter (fun q => decide (s.queueCtx q = c))).foldl State.killQueue s
  let x := s.context c
  s.setContext c { x with regions := [], zeroing := x.zeroing ++ x.regions, live := c == 0 }

/-! ## Contexts (R348, R356) -/

def execCtxCreate (q : BitVec 20) (s : State) : Host.Outcome State Fault Refusal :=
  .next (s.queueRow q 0x01 atOnce (fun s q c =>
    let e := c.entry
    let n := leAt e 8 2
    let r := leAt e 0xA 2
    s.admin q c [(8, n == 0 || decide (4096 ≤ n)), (0xA, decide (4096 ≤ r))] (fun s =>
      let x := s.context n
      if (s.ring r).isNone then s.finish q c stNOTFOUND 0
      else if x.live || !x.zeroing.isEmpty then s.finish q c stBUSY 5
      else (s.setContext n { ring := BitVec.ofNat 12 r, regions := [], zeroing := [], live := true }).finish q c stOK 0)))

/-- CTX_KILL completes after the zeroing of HBM and scratchpad. -/
def execCtxKill (q : BitVec 20) (s : State) : Host.Outcome State Fault Refusal :=
  .next (s.queueRow q 0x02
    (fun s q c =>
      let clean := (List.range 64).all (fun n => (s.core n).task.isSome || !(s.core n).zeroing)
      if (s.context (leAt c.entry 8 2)).zeroing.isEmpty && clean then some (s.finish q c stOK 0) else none)
    (fun s q c =>
      let n := leAt c.entry 8 2
      s.admin q c [(8, n == 0 || decide (4096 ≤ n))] (fun s =>
        if (s.context n).live then s.killContext n else s.finish q c stNOTFOUND 0)))

/-! ## Queues and rings (R350, R356) -/

def execSqCreate (q : BitVec 20) (s : State) : Host.Outcome State Fault Refusal :=
  .next (s.queueRow q 0x03 atOnce (fun s q c =>
    let e := c.entry
    let n := leAt e 8 4
    let x := leAt e 0xC 2
    let r := leAt e 0xE 2
    let lg := leAt e 0x18 1
    s.admin q c [(8, n == 0 || decide (1048576 ≤ n) || (s.queue n).isSome), (0xC, decide (4096 ≤ x)), (0xE, decide (4096 ≤ r)),
        (0x10, leAt e 0x10 8 % 4096 != 0), (0x18, lg == 0 || decide (16 < lg))] (fun s =>
      if !(s.context x).live || (s.ring r).isNone then s.finish q c stNOTFOUND 0
      else
        (s.setQueue n (some { queueReset with ctx := BitVec.ofNat 12 x, ring := BitVec.ofNat 12 r,
                                              base := BitVec.ofNat 64 (leAt e 0x10 8), log2 := lg })).finish q c stOK 0)))

/-- SQ_DELETE discards unstarted entries and completes when the started commands have. -/
def execSqDelete (q : BitVec 20) (s : State) : Host.Outcome State Fault Refusal :=
  .next (s.queueRow q 0x04
    (fun s q c =>
      let n := leAt c.entry 8 4
      match s.queue n with
      | some x => if x.started.isEmpty then some ((s.setQueue n none).finish q c stOK 0) else none
      | none => some (s.finish q c stOK 0))
    (fun s q c =>
      let n := leAt c.entry 8 4
      s.admin q c [(8, n == 0 || decide (1048576 ≤ n))] (fun s =>
        match s.liveQueue n with
        | none => s.finish q c stNOTFOUND 0
        | some x => s.setQueue n (some { x with fetched := [], head := x.tail, deleting := true }))))

def execRingCreate (q : BitVec 20) (s : State) : Host.Outcome State Fault Refusal :=
  .next (s.queueRow q 0x05 atOnce (fun s q c =>
    let e := c.entry
    let n := leAt e 8 2
    let lg := leAt e 0xA 1
    s.admin q c [(8, n == 0 || decide (4096 ≤ n) || (s.ring n).isSome), (0xA, decide (lg < 4) || decide (16 < lg)),
        (0xB, decide (2 ≤ leAt e 0xB 1)), (0xC, decide (2048 ≤ leAt e 0xC 2)), (0x10, leAt e 0x10 8 % 4096 != 0)] (fun s =>
      (s.setRing n (some { ringReset with base := BitVec.ofNat 64 (leAt e 0x10 8), log2 := lg, msix := leAt e 0xB 1 == 1,
                                          vector := Fin.ofNat 2048 (leAt e 0xC 2) })).finish q c stOK 0)))

/-- A queue or a live context names the ring. -/
def State.ringNamed (s : State) (r : Nat) : Bool :=
  s.queueNumbers.any (fun q => match s.queue q with
    | some x => x.ring.toNat == r
    | none => false) ||
  (0 :: s.host.contexts.map (·.1)).any (fun c => (s.context c).live && (s.context c).ring.toNat == r)

def execRingDelete (q : BitVec 20) (s : State) : Host.Outcome State Fault Refusal :=
  .next (s.queueRow q 0x06 atOnce (fun s q c =>
    let n := leAt c.entry 8 2
    s.admin q c [(8, decide (4096 ≤ n))] (fun s =>
      if (s.ring n).isNone then s.finish q c stNOTFOUND 0
      else if s.ringNamed n then s.finish q c stBUSY 2
      else ((s.setRing n none).modHost (fun h => { h with backlog := h.backlog.filter (fun e => e.1 != n) })).finish q c stOK 0)))

/-! ## Fencing and self-tests (R356, R382, R389, R145, R222) -/

/-- PCORE_FENCE: due at the next boundary, not journalled, with cause 0; complete once the pcore is fenced. -/
def execPcoreFence (q : BitVec 20) (s : State) : Host.Outcome State Fault Refusal :=
  .next (s.queueRow q 0x07
    (fun s q c => if (s.pcore (leAt c.entry 8 1)).state == .fenced then some (s.finish q c stOK 0) else none)
    (fun s q c =>
      let p := leAt c.entry 8 1
      s.admin q c [(8, decide (68 ≤ p))] (fun s =>
        if (s.pcore p).state == .fenced then s.finish q c stOK 0 else s.fenceDue p 0 false)))

/-- The core whose slice is a physical slice. -/
def State.sliceCore (s : State) (p : Nat) : Option Nat := (List.range s.presented).find? (fun n => s.physSlice n == p)

/-- A slice without a region or an extent, whose core is in no task (R222, R389). -/
def State.sliceFree (s : State) (n : Nat) : Bool :=
  (s.core n).task.isNone &&
  (0 :: s.host.contexts.map (·.1)).all (fun c => ((s.context c).regions ++ (s.context c).zeroing).all (fun r => r.core.val != n)) &&
  (List.range 64).all (fun b => (s.bundle b).extents.all (fun x => x.1.val != n))

/-- The test of a self-test command that has become eligible begins: an array test on a pcore that hosts nothing, or a
drill. A scratchpad test begins bank by bank (SPM_BIST_START). -/
def State.tryTest (s : State) (kind id : Nat) : State :=
  match kind with
  | 0 =>
    let x := s.pcore id
    if x.state == .hosting || x.state == .testing then s
    else (s.modPcore id (fun p => { p with before := p.state, state := .testing, testKind := 0, testResult := 3 })).regate
  | 2 =>
    match s.sliceCore id with
    | some n =>
      if s.sliceFree n && !(s.core n).str.drill.running then
        ((s.wakeSlice n).startSliceTest n).modHost
          (fun h => { h with tests := h.tests.filter (fun t => t != (2, id)) })
      else s
    | none => s
  | _ => s

/-- A self-test command's test is done. -/
def State.testDone (s : State) (kind id : Nat) : Bool :=
  match kind with
  | 0 => !s.host.tests.contains (0, id)
  | 1 => !((List.range 48).any (s.bankTest id))
  | _ => !s.host.tests.contains (2, id) && (match s.sliceCore id with
    | some n => !(s.core n).str.drill.running
    | none => true)

/-- SELF_TEST waits for an eligible target and never pre-empts. -/
def execSelfTest (q : BitVec 20) (s : State) : Host.Outcome State Fault Refusal :=
  .next (s.queueRow q 0x08
    (fun s q c =>
      let id := leAt c.entry 8 1
      let kind := leAt c.entry 9 1
      if s.testDone kind id then some (s.finish q c stOK 0)
      else if kind != 1 && s.host.tests.contains (kind, id) then some (s.tryTest kind id)
      else none)
    (fun s q c =>
      let id := leAt c.entry 8 1
      let kind := leAt c.entry 9 1
      s.admin q c [(8, if kind = 2 then (s.sliceCore id).isNone else decide (68 ≤ id)), (9, decide (2 < kind))] (fun s =>
        let asked := if kind = 1 then (List.range 48).map (fun b => (1, id * 64 + b)) else [(kind, id)]
        (s.modHost (fun h => { h with tests := (h.tests ++ asked).eraseDups })).tryTest kind id)))

/-! ## HBM regions (R349, R357) -/

/-- Two byte ranges meet. -/
def rangesMeet (a la b lb : Nat) : Bool := decide (a < b + lb) && decide (b < a + la)

/-- A range of a slice meets a region, one being zeroed included, or an extent. -/
def State.meetsAny (s : State) (n base len : Nat) : Bool :=
  (0 :: s.host.contexts.map (·.1)).any (fun c =>
    ((s.context c).regions ++ (s.context c).zeroing).any (fun r => r.core.val == n && rangesMeet r.base r.len base len)) ||
  (List.range 64).any (fun b => (s.bundle b).extents.any (fun x => x.1.val == n && rangesMeet x.2.1 x.2.2 base len))

def twoMiB : Nat := 2097152

def regionOf (e : List Byte) : HbmRegion :=
  { core := Fin.ofNat 64 (leAt e 8 1), base := leAt e 0x10 8, len := leAt e 0x18 8 }

/-- The field checks of HBM_ALLOC and HBM_FREE. -/
def State.regionFields (s : State) (e : List Byte) : List (Nat × Bool) :=
  [(8, decide (s.presented ≤ leAt e 8 1)), (0x10, leAt e 0x10 8 % twoMiB != 0),
   (0x18, leAt e 0x18 8 % twoMiB != 0 || leAt e 0x18 8 == 0)]

def execHbmAlloc (q : BitVec 20) (s : State) : Host.Outcome State Fault Refusal :=
  .next (s.queueRow q 0x10 atOnce (fun s q c =>
    s.withFields q c (s.regionFields c.entry) (fun s =>
      let r := regionOf c.entry
      let x := s.context (s.queueCtx q)
      if sliceUser < r.base + r.len then s.finish q c stOVERLAP 1
      else if s.meetsAny r.core.val r.base r.len then s.finish q c stOVERLAP 0
      else (s.setContext (s.queueCtx q) { x with regions := x.regions ++ [r] }).finish q c stOK 0)))

/-- HBM_FREE completes when the region has been zeroed and is free. -/
def execHbmFree (q : BitVec 20) (s : State) : Host.Outcome State Fault Refusal :=
  .next (s.queueRow q 0x11
    (fun s q c =>
      if (s.context (s.queueCtx q)).zeroing.contains (regionOf c.entry) then none else some (s.finish q c stOK 0))
    (fun s q c =>
      s.withFields q c (s.regionFields c.entry) (fun s =>
        let r := regionOf c.entry
        let x := s.context (s.queueCtx q)
        if x.regions.contains r then
          s.setContext (s.queueCtx q) { x with regions := x.regions.erase r, zeroing := x.zeroing ++ [r] }
        else if (0 :: s.host.contexts.map (·.1)).any (fun o => (s.context o).regions.contains r) then s.finish q c stOWNER 1
        else s.finish q c stNOTFOUND 0)))

/-! ## Tasks (R349, R357, R411) -/

/-- TASK_CREATE reserves the cores; it completes when those that were gated have woken. -/
def execTaskCreate (q : BitVec 20) (s : State) : Host.Outcome State Fault Refusal :=
  .next (s.queueRow q 0x18
    (fun s q c =>
      match s.task (leAt c.entry 8 1) with
      | some x =>
        if x.coreList.any (fun n => match s.hostOf n with
          | some p => (s.pcore p).waking
          | none => false) then none
        else some (s.finish q c stOK 0)
      | none => some (s.finish q c stOK 0))
    (fun s q c =>
      let e := c.entry
      let t := leAt e 8 1
      let b := leAt e 9 1
      let n := leAt e 0xA 1
      s.withFields q c [(8, decide (64 ≤ t) || (s.task t).isSome), (9, !([0, 16, 32].contains b)),
          (0xA, !([32, 48, 64].contains n) || decide (s.presented < b + n))] (fun s =>
        let x : Task := { ctx := BitVec.ofNat 12 (s.queueCtx q), base := b, cores := n, job := none }
        if x.coreList.any (fun i => (s.core i).task.isSome) then s.finish q c stBUSY 4
        else
          let s := s.setTask t (some x)
          (x.coreList.foldl (fun s i => (s.modCore i (fun k => { k with task := some (Fin.ofNat 64 t) })).wakeSlice i) s).regate)))

/-- TASK_KILL: the job ends killed, and the command completes when the scratchpad has been zeroed (R147). -/
def execTaskKill (q : BitVec 20) (s : State) : Host.Outcome State Fault Refusal :=
  .next (s.queueRow q 0x19
    (fun s q c =>
      let t := leAt c.entry 8 1
      match s.task t with
      | some x => if x.coreList.any (fun n => (s.core n).zeroing) then none else some ((s.freeTask t).finish q c stOK 0)
      | none => some (s.finish q c stOK 0))
    (fun s q c => s.withFields q c [(8, decide (64 ≤ leAt c.entry 8 1))] (fun s =>
      s.onTask q c (fun s _ => s.killTask (leAt c.entry 8 1)))))

/-! ## Loss and return of the host (R342, R347, R366) -/

/-- Every context is killed; queues and rings other than 0 go; unwritten notices are discarded; ENABLE is cleared (R347). -/
def State.hostReset (s : State) : State :=
  let s := ((0 :: s.host.contexts.map (·.1)).eraseDups).foldl (fun s c =>
    if (s.context c).live then s.killContext c else s) s
  let ring := (s.host.rings.get ringDefault 0).getD ringReset
  let s := s.modHost (fun h => { h with queues := [], rings := SMap.set [] ringDefault 0 (some { ring with dropped := 0, types := 0 }),
                                        backlog := [] })
  s.setReg pHOST 0x40 0

/-- A page at its reset values; its counters stay (R462). -/
def State.resetPage (s : State) (p : Nat) : State :=
  s.modPage p (fun x => { Page.resetOf p with counters := x.counters, work := x.work, since := x.since })

/-- Function Level Reset and CXL reset: the host side is reset, and with it the HOST and NTC pages, DEV_MODE and the scratch
registers. HOST_LINK shows the link, which stays up (R347, R462). -/
def State.functionReset (s : State) : State :=
  let link := s.reg pHOST 0x44
  let s := ((s.hostReset.resetPage pHOST).resetPage pNTC).setReg pHOST 0x44 link
  (([0x44, 0x60, 0x64].foldl (fun s r => s.setReg pDEV r 0) s)).count pDEV 0x120 1

def execFunctionLevelReset (s : State) : Host.Outcome State Fault Refusal :=
  if s.phase == .ready then .next s.functionReset else .next s

def execCxlReset (s : State) : Host.Outcome State Fault Refusal :=
  if s.phase == .ready then .next s.functionReset else .next s

/-- HOST_LINK_DOWN: LINK_DOWN is raised on the HOST page, and the host side is reset. -/
def execHostLinkDown (s : State) : Host.Outcome State Fault Refusal :=
  if s.phase == .ready && bits (s.reg pHOST 0x44) 1 0 != 0 then
    .next ((s.hostReset.setReg pHOST 0x44 0).raise pHOST 5 (cause 5 0) 0)
  else .next s

/-- HOST_LINK_TRAINED: at x16, x8 or x4 and 32, 64 or 128 GT/s; below x16 or 128 GT/s it raises LINK_DEGRADED (R341, R342). -/
def execHostLinkTrained (width : Nat) (speed : BitVec 4) (s : State) : Host.Outcome State Fault Refusal :=
  let up := s.phase != .off && s.phase != .tripped && s.phase != .inReset
  if up && [4, 8, 16].contains width && decide (1 ≤ speed.toNat) && decide (speed.toNat ≤ 3) then
    let s := s.setReg pHOST 0x44 (word (width * 256 + speed.toNat * 16 + 2))
    .next (if width = 16 ∧ speed = 3 then s else s.raise pHOST 6 (cause 6 0) 0)
  else .next s

def execBusMasterDisable (s : State) : Host.Outcome State Fault Refusal :=
  .next (s.modHost (fun h => { h with busMaster := false }))

def execBusMasterEnable (s : State) : Host.Outcome State Fault Refusal :=
  .next (s.modHost (fun h => { h with busMaster := true }))

/-- Send the pending messages that no mask holds any more. -/
def State.sendPending (s : State) : State :=
  let due := s.host.pba.filter (fun v => !s.host.fnMask && !(s.host.vecMask.get (fun _ => true) v))
  due.reverse.foldl State.sendVector (s.modHost (fun h => { h with pba := h.pba.filter (fun v => !due.contains v) }))

/-- VECTOR_UNMASK: of one vector, or of the function (R366). -/
def execVectorUnmask (vector : Option (Fin 2048)) (s : State) : Host.Outcome State Fault Refusal :=
  let s := match vector with
    | some v => s.modHost (fun h => { h with vecMask := h.vecMask.set (fun _ => true) v.val false })
    | none => s.modHost (fun h => { h with fnMask := false })
  .next s.sendPending

end Sys2Proof.Machine
end

