-- ==== Sys2Proof/Machine/Bundles.lean ====
section
/-!
DEFINITION. Model bundles (R295-R316): the checks of a manifest and a directory, placement and eviction, segments, the
residency ring, the gate and swaps; the loss of a traverse peer (R285) and the end of HBM zeroing (R222, R309).
-/
namespace Sys2Proof.Machine

/-! ## Notices (R363) -/

/-- Tasks whose job names a bundle slot. -/
def State.readers (s : State) (b : Nat) : List Nat :=
  (List.range 64).filter (fun t => match (s.task t).bind (·.job) with
    | some j => j.bundle.map (·.val) == some b
    | none => false)

/-- A BUNDLE notice: ring 0, and the event ring of every context with a job that names the slot. -/
def State.bundleNotice (s : State) (b event code item : Nat) : State :=
  let head := (s.bundle b).man.digest.toNat % 2 ^ 64
  let pay := b + event * 2 ^ 8 + code * 2 ^ 16 + item * 2 ^ 32 + head * 2 ^ 64
  let n : Notice := { type := 3, error := false, ctx := 0xFFFF, time := s.time, payload := BitVec.ofNat 128 pay }
  let rings := ((s.readers b).filterMap (fun t => (s.task t).map (fun x => s.ctxRing x.ctx.toNat))).eraseDups
  (rings.filter (fun r => r != 0)).foldl (fun s r => s.post r n) (s.post 0 n)

/-! ## Manifest and directory (R296-R299) -/

/-- The fields of a manifest. -/
def manifestOf (m : List Byte) : Manifest :=
  { n := leAt m 5 1, cores := leAt m 6 1, layers := leAt m 8 2, model := BitVec.ofNat 128 (leAt m 0x10 16),
    version := word (leAt m 0x20 4), digest := sha3x512 m }

/-- MAGIC, VERSION, MANIFEST_LEN, reserved bytes and the stated ranges. -/
def manifestOk (m : List Byte) : Bool :=
  let n := leAt m 5 1
  leAt m 0 4 == 0x0B4ED1E5 && leAt m 4 1 == 1 && decide (1 ≤ n) && decide (n ≤ 128) && [32, 48, 64].contains (leAt m 6 1) &&
    leAt m 7 1 == 0 && decide (1 ≤ leAt m 8 2) && decide (leAt m 8 2 ≤ 128) && leAt m 0xA 2 == n &&
    leAt m 0xC 4 == 256 + 80 * n + 2592 + 4627 && m.length == leAt m 0xC 4 && leAt m 0x6C (0x100 - 0x6C) == 0 &&
    (List.range n).all (fun p => leAt m (0x100 + 80 * p + 0xC) 4 == 0)

/-- The checks of R299 on the manifest; the code of the first that fails. -/
def State.manifestErr (s : State) (m : List Byte) : Option Nat :=
  let n := leAt m 5 1
  let key := (m.drop (0x100 + 80 * n)).take 2592
  let digest := BitVec.ofNat 512 (leAt m 0x2C 64)
  let pubs := match s.config with
    | some c => c.pubs
    | none => []
  if !manifestOk m then some 1
  else if sha3x512 key != digest || !pubs.contains digest then some 2
  else if !Config.mldsaVerify key (m.take (m.length - 4627)) (m.drop (m.length - 4627)) then some 3
  else if n ≠ (if s.lift.isFormed then s.liftLen else 1) ∨ s.presented < leAt m 6 1 then some 4
  else none

/-- A directory entry (R297). -/
def dirEntry (d : List Byte) (i : Nat) : Segment :=
  let a := 0x40 + 96 * i
  { len := leAt d (a + 8) 4, core := leAt d (a + 0xC) 1, slot := leAt d (a + 0xE) 2,
    digest := BitVec.ofNat 512 (leAt d (a + 0x20) 64), place := 0, state := .loading, again := false }

/-- Consecutive entries satisfy a relation. -/
def chained {α : Type} (r : α → α → Bool) : List α → Bool
  | [] => true
  | [_] => true
  | a :: b :: t => r a b && chained r (b :: t)

/-- The rules of R297 and R298. -/
def directoryOk (d : List Byte) (man : Manifest) (position shardLen : Nat) : Bool :=
  let n := leAt d 6 2
  let segs := (List.range n).map (dirEntry d)
  let files := (List.range n).map (fun i => (leAt d (0x40 + 96 * i) 8, leAt d (0x40 + 96 * i + 8) 4))
  leAt d 0 4 == 0x0B4E5D1A && leAt d 4 1 == 1 && leAt d 5 1 == position && decide (1 ≤ n) && decide (n ≤ 8192) &&
    d.length == 0x40 + 96 * n && leAt d 8 8 == 0 && leAt d 0x24 0x1C == 0 && leAt d 0x10 16 == man.model.toNat &&
    leAt d 0x20 4 == man.version.toNat &&
    (List.range n).all (fun i => leAt d (0x40 + 96 * i + 0xD) 1 == 0 && leAt d (0x40 + 96 * i + 0x10) 16 == 0) &&
    segs.all (fun g => decide (0 < g.len) && g.len % 512 == 0 && decide (g.core < man.cores) && decide (g.slot < man.layers)) &&
    chained (fun a b => decide (a.slot < b.slot) || (a.slot == b.slot && decide (a.core < b.core))) segs &&
    files.all (fun f => decide (d.length ≤ f.1) && decide (f.1 + f.2 ≤ shardLen)) &&
    files.zipIdx.all (fun f => files.zipIdx.all (fun g => f.2 == g.2 || !rangesMeet f.1.1 f.1.2 g.1.1 g.1.2))

/-- The checks of the directory: DIR_DIGEST, then DIR_BAD. -/
def State.directoryErr (s : State) (m d : List Byte) : Option Nat :=
  let a := 0x100 + 80 * s.station
  if d.length ≠ leAt m (a + 8) 4 ∨ (sha3x512 d).toNat ≠ leAt m (a + 0x10) 64 then some 5
  else if !directoryOk d (manifestOf m) s.station (leAt m a 8) then some 6
  else none

/-- What the checks hash and verify, counted (R443). -/
def State.countChecks (s : State) (m d : List Byte) (err : Option Nat) : State :=
  let s := s.hashed (m.length + (if err.isNone then d.length else 0))
  if err == some 1 || err == some 2 then s else s.count pSEC 0x108 1

/-! ## Placement and eviction (R300, R308, R309) -/

def alignUp (x k : Nat) : Nat := (x + k - 1) / k * k

/-- Segments of a core at offsets from its extent's base, each at the next multiple of 64 KiB; and the extent's end. -/
def layOut : Nat → List Segment → List (Segment × Nat) × Nat
  | at_, [] => ([], at_)
  | at_, g :: t =>
    let a := alignUp at_ 65536
    let (r, e) := layOut (a + g.len) t
    ((g, a) :: r, e)

/-- Length of core `n`'s extent. -/
def extentLen (segs : List Segment) (n : Nat) : Nat := alignUp (layOut 0 (segs.filter (fun g => g.core == n))).2 twoMiB

/-- The segments with the places that extent bases give them. -/
def placeSegs (segs : List Segment) (base : Nat → Nat) : List Segment :=
  segs.map (fun g =>
    let off := ((layOut 0 (segs.filter (fun x => x.core == g.core))).1.find? (fun x => x.1 == g)).map (·.2)
    { g with place := base g.core + off.getD 0 })

/-- Slice ranges that commands under way on a core write (R301): an extent is not placed over them. -/
def Core.writing (k : Core) : List (Nat × Nat) :=
  (k.str.window.filter (fun e => e.writes && k.inflight.any (fun c => c.id == e.cmd && c.stage != .queued))).map (fun e =>
    (e.lo, e.hi + 1 - e.lo))

/-- Ranges of a slice that an extent cannot take; bundles being zeroed count only where `zeroing` says so. -/
def State.taken (s : State) (n : Nat) (zeroing : Bool) : List (Nat × Nat) :=
  let regions := (0 :: s.host.contexts.map (·.1)).eraseDups.map (fun c =>
    (((s.context c).regions ++ (s.context c).zeroing).filter (fun r => r.core.val == n)).map (fun r => (r.base, r.len)))
  let extents := (List.range 64).map (fun b =>
    if (s.bundle b).state == .zeroing && !zeroing then []
    else ((s.bundle b).extents.filter (fun x => x.1.val == n)).map (fun x => (x.2.1, x.2.2)))
  regions.flatten ++ extents.flatten ++ (s.core n).writing

/-- The lowest address where a range fits: 0, or the end of a taken range. -/
def lowestFit (taken : List (Nat × Nat)) (len : Nat) : Option Nat :=
  let fits := fun (a : Nat) => decide (a + len ≤ sliceUser) && taken.all (fun r => !rangesMeet r.1 r.2 a len)
  match ((0 :: taken.map (fun r => r.1 + r.2)).filter fits) with
  | [] => none
  | a :: t => some (t.foldl min a)

/-- The extents of a bundle, where every one fits. -/
def State.placement (s : State) (segs : List Segment) : Option (List (CoreId × Nat × Nat)) :=
  let cores := (List.range 64).filter (fun n => segs.any (fun g => g.core == n))
  let one := fun (n : Nat) => (lowestFit (s.taken n false) (extentLen segs n)).map (fun a => (Fin.ofNat 64 n, a, extentLen segs n))
  let xs := cores.filterMap one
  if xs.length = cores.length then some xs else none

/-- R308. -/
def State.evictable (s : State) (b : Nat) : Bool :=
  let x := s.bundle b
  (x.state == .verified || x.state == .armed) && !x.pinned && (s.readers b).isEmpty && x.newMan.isNone

/-- The next slot to evict: fewest uses, then earliest load order (R309). -/
def State.victim (s : State) : Option Nat :=
  let before := fun (a b : Nat) =>
    let x := s.bundle a
    let y := s.bundle b
    decide (x.uses < y.uses) || (x.uses == y.uses && decide (x.order < y.order))
  match (List.range 64).filter s.evictable with
  | [] => none
  | b :: t => some (t.foldl (fun m c => if before c m then c else m) b)

/-- A slot passes through ZEROING (R309). -/
def State.zeroBundle (s : State) (b : Nat) : State :=
  { s with hashQ := s.hashQ.filter (fun e => e.1 != b) }.modBundle b (fun x => { x with state := .zeroing, peer := none, newMan := none, newSegs := [], waiting := false })

/-- The extent of a bundle that waits meets one that is being zeroed. -/
def State.mustWait (s : State) (xs : List (CoreId × Nat × Nat)) : Bool :=
  (List.range 64).any (fun b => (s.bundle b).state == .zeroing && (s.bundle b).extents.any (fun z =>
    xs.any (fun x => x.1 == z.1 && rangesMeet x.2.1 x.2.2 z.2.1 z.2.2)))

/-- The command that the ring would concern, refused or cancelled (R305). -/
def Bundle.refuse (x : Bundle) (op : Nat) : Bundle :=
  { x with refused := some { op := op, digest := (if op = 2 then x.newMan.getD x.man else x.man).digest,
                             first := if op = 2 then x.firstNew else 0 } }

/-- A load that was accepted is refused: its extents are zeroed and freed, and the notice carries the code (R304). -/
def State.refuseLoad (s : State) (b code : Nat) : State :=
  ((s.zeroBundle b).modBundle b (fun x => x.refuse 1)).bundleNotice b 2 code 0

/-- Place a load's extents, evicting while it does not fit and a slot is evictable. -/
def State.placeLoad : Nat → State → Nat → State
  | 0, s, b => s.refuseLoad b 7
  | fuel + 1, s, b =>
    let segs := (s.bundle b).segs
    match s.placement segs with
    | some xs =>
      let base := fun (n : Nat) => ((xs.find? (fun x => x.1.val == n)).map (·.2.1)).getD 0
      let wait := s.mustWait xs
      (xs.foldl (fun s x => s.wakeSlice x.1.val) s).modBundle b (fun x =>
        { x with extents := xs, segs := placeSegs segs base, waiting := wait })
    | none => match s.victim with
      | some v => State.placeLoad fuel (s.zeroBundle v) b
      | none => s.refuseLoad b 7

/-! ## The residency ring (R305, R306) -/

/-- The circuit that concerns a slot: 1 arm, 2 swap commit; `none` where no command waits for the ring. An ARMED bundle is armed
again after a stall (R314; log entry 84, DESIGN CHOICE). -/
def State.ringOp (s : State) (b : Nat) : Option Nat :=
  let x := s.bundle b
  if x.newMan.isSome && x.state != .swapping then some 2
  else if (x.state == .loading || x.state == .verified || (x.state == .armed && !x.released)) &&
      x.refused != (x.refuse 1).refused then some 1
  else none

/-- This station sets READY: its own state matches the frame. -/
def State.ringReady (s : State) (f : ResRing) : Bool :=
  let x := s.bundle f.slot.val
  match f.op.toNat with
  | 1 => (x.state == .verified || x.state == .armed) && x.man.digest == f.digest
  | 2 => (match x.newMan with
    | some m => m.digest == f.digest && decide (x.firstNew = f.firstNew.toNat)
    | none => false)
  | _ => false

def setPos (m : BitVec 128) (p : Nat) : BitVec 128 := m ||| (1#128 <<< p)

/-- The frame with this station's bits. -/
def State.stampRing (s : State) (f : ResRing) : ResRing :=
  let r := s.ringReady f
  { f with ready := if r then setPos f.ready s.liftPos else f.ready,
           refuse := if !r && (s.bundle f.slot.val).refused == some { op := f.op.toNat, digest := f.digest, first := f.firstNew.toNat }
             then setPos f.refuse s.liftPos else f.refuse }

/-- Station 0 sends a circuit uphill for a slot's command, until it has sent a release. -/
def State.sendCircuit (s : State) (b : Nat) : State :=
  if s.lift.isFormed && s.liftPos == 0 && decide (1 < s.liftLen) && !(s.bundle b).released then
    match s.ringOp b with
    | none => s
    | some op =>
      let x := s.bundle b
      let man := if op = 2 then x.newMan.getD x.man else x.man
      let f : ResRing :=
        { op := BitVec.ofNat 2 op, releaseBit := false, slot := Fin.ofNat 64 b,
          firstNew := if op = 2 then BitVec.ofNat 32 x.firstNew else 0, digest := man.digest, ready := 0, refuse := 0 }
      s.sendMsg .up (.residency (s.stampRing f))
  else s

/-! ## The gate (R311-R313) -/

/-- Add to a software token counter of a core. -/
def Spm.addToken (m : Spm) (i k : Nat) : Spm :=
  { m with tokens := m.tokens.set wordZero (i % 256) (m.tokens.get wordZero (i % 256) + word k) }

/-- Add to the admission counters of some slots on every core of a job. -/
def State.addAdmits (s : State) (t : Nat) (slots : List Nat) (k : Nat) : State :=
  match s.task t with
  | none => s
  | some x =>
    match x.job with
    | none => s
    | some j => x.coreList.foldl (fun s n => s.modCore n (fun c =>
        { c with spm := slots.foldl (fun m i => m.addToken (j.tokenBase + i) k) c.spm })) s

/-- The held batches of every job that reads the slot are admitted to every layer slot, on the old weights. -/
def State.admitHeld (s : State) (b : Nat) : State :=
  (s.readers b).foldl (fun s t =>
    match (s.task t).bind (·.job) with
    | some j =>
      let k := j.held.length
      ((s.addAdmits t (List.range (s.bundle b).man.layers) k).modJob t (fun j => { j with held := [] })).modBundle b
        (fun x => { x with uses := x.uses + k })
    | none => s) s

/-- A pending swap is cancelled: the held batches go on the old weights, and the command counts as refused (R312). -/
def State.cancelSwap (s : State) (b code : Nat) : State :=
  let s := s.modBundle b (fun x => { x.refuse 2 with newMan := none, newSegs := [], newDir := [], firstNew := 0, ready := false })
  (s.admitHeld b).bundleNotice b 2 code 0

/-- The release of a swap commit: the slot is SWAPPING and its front is at layer slot 0 (R312). -/
def State.commitSwap (s : State) (b : Nat) : State :=
  s.modBundle b (fun x => { x with state := .swapping, front := 0, opened := false, ready := true })

/-- What a station does on a release (R305, R306, R312). -/
def State.release (s : State) (f : ResRing) : State :=
  let b := f.slot.val
  match f.op.toNat with
  | 1 =>
    let x := s.bundle b
    if x.state == .verified && x.man.digest == f.digest then
      (s.modBundle b (fun x => { x with state := .armed, refused := none })).bundleNotice b 1 0 0
    else s
  | 2 => if s.ringReady f && (s.bundle b).state != .swapping then s.commitSwap b else s
  | _ =>
    let x := s.bundle b
    match s.ringOp b with
    | some 2 => if (x.newMan.getD x.man).digest == f.digest then s.cancelSwap b 14 else s
    | some _ =>
      if x.state != .armed && x.man.digest == f.digest then (s.modBundle b (fun x => x.refuse 1)).bundleNotice b 2 14 0 else s
    | none => s

def allReady (m : BitVec 128) (n : Nat) : Bool := (List.range n).all (fun p => m.getLsbD p)

/-- The residency ring frame that data bytes hold (R305). -/
def ringOf (d : List Byte) : Option ResRing :=
  if d.length = 128 ∧ leAt d 0 1 = 2 ∧ leAt d 2 1 < 64 then
    some { op := BitVec.ofNat 2 (leAt d 1 1), releaseBit := decide (128 ≤ leAt d 1 1), slot := Fin.ofNat 64 (leAt d 2 1),
           firstNew := BitVec.ofNat 32 (leAt d 4 4), digest := BitVec.ofNat 512 (leAt d 8 64),
           ready := BitVec.ofNat 128 (leAt d 0x48 16), refuse := BitVec.ofNat 128 (leAt d 0x58 16) }
  else none

/-- Station 0 ends a circuit with a release, of the command or of a cancel. -/
def State.endCircuit (s : State) (f : ResRing) : State :=
  (s.modBundle f.slot.val (fun x => { x with released := true })).sendMsg .up (.residency f)

/-- A residency ring frame at a formed station: stations forward a circuit with their bits; station 0 ends it, once. -/
def State.takeRing (s : State) (f : ResRing) : State :=
  let b := f.slot.val
  if !s.lift.isFormed then s
  else if s.liftPos ≠ 0 then
    if f.releaseBit then (s.release f).sendMsg .up (.residency f)
    else
      let g := s.stampRing f
      let s := if s.ringReady f && f.op == 2 then s.modBundle b (fun x => { x with ready := true }) else s
      s.sendMsg .up (.residency g)
  else if f.releaseBit then s.release f
  else if (s.bundle b).released then s
  else if f.refuse ≠ 0 then s.endCircuit { f with op := 3, releaseBit := true }
  else if allReady f.ready s.liftLen then s.endCircuit { f with releaseBit := true }
  else s

/-- RESIDENCY_RING. -/
def execResidencyRing (f : LiftFrame) (s : State) : Host.Outcome State Fault Refusal :=
  .next (s.receiveMsg .down f 2 (fun s => match ringOf f.data with
    | some r => s.takeRing r
    | none => s))

/-- RESIDENCY_RING_REPEAT: station 0, every 1 ms until a release. -/
def execResidencyRingRepeat (slot : Fin 64) (s : State) : Host.Outcome State Fault Refusal :=
  if s.phase == .ready then .next (s.sendCircuit slot.val) else .next s

/-- RING_TIMEOUT: a station that has seen no release cancels on its own (R305). -/
def execRingTimeout (slot : Fin 64) (s : State) : Host.Outcome State Fault Refusal :=
  let b := slot.val
  if s.phase != .ready || !s.lift.isFormed || s.liftLen ≤ 1 then .next s
  else match s.ringOp b with
    | some 2 => .next (s.cancelSwap b 14)
    | some _ =>
      if (s.bundle b).state == .verified then
        .next ((s.modBundle b (fun x => x.refuse 1)).bundleNotice b 2 14 0)
      else .next s
    | none => .next s

/-! ## Loads (R298-R304, R316) -/

/-- The field checks that BUNDLE_LOAD and SWAP share. -/
def loadFields (e : List Byte) : List (Nat × Bool) :=
  [(8, decide (64 ≤ leAt e 8 1)), (9, decide (1 < leAt e 9 1)), (0xA, decide (1 < leAt e 0xA 1)),
   (0xC, decide (2 ^ 15 ≤ leAt e 0xC 2))]

/-- The traverse source a load names. -/
def peerOf (e : List Byte) : Option (TPort × BitVec 15) :=
  if leAt e 9 1 = 1 then some (tport (leAt e 0xA 1), BitVec.ofNat 15 (leAt e 0xC 2)) else none

/-- Seconds of the load timeout. -/
def timeoutOf (e : List Byte) : Nat := if leAt e 0xE 2 = 0 then 30 else leAt e 0xE 2

/-- What the ring concerns of a load or swap command that names a manifest. -/
def ringCmdOf (e m : List Byte) : RingCmd :=
  { op := if opOf e = 0x32 then 2 else 1, digest := sha3x512 m, first := if opOf e = 0x32 then leAt e 0x28 4 else 0 }

/-- A command of a bundle slot is refused with a code; the slot remembers it for the ring (R305). -/
def State.refuseBundle (s : State) (q : Nat) (c : Started) (m : List Byte) (code : Nat) : State :=
  (s.modBundle (leAt c.entry 8 1) (fun x => { x with refused := some (ringCmdOf c.entry m) })).finish q c stREFUSED code

/-- The manifest and the directory as read, checked; then `k`. A directory that a peer does not give is PEER_NONE. -/
def State.checkBundle (s : State) (q : Nat) (c : Started) (manifest directory : Option (List Byte))
    (k : State → List Byte → List Byte → State) : State :=
  match manifest, directory with
  | none, _ => s.hostError q c
  | some m, d =>
    if m.length ≠ leAt c.entry 0x18 4 then s.refuseBundle q c m 1
    else match s.manifestErr m with
      | some e => (s.countChecks m [] (some e)).refuseBundle q c m e
      | none =>
        match d with
        | none =>
          if leAt c.entry 9 1 = 1 then
            ((s.finish q c stOK 0).modBundle (leAt c.entry 8 1) (fun x => { x with refused := some (ringCmdOf c.entry m) })).bundleNotice
              (leAt c.entry 8 1) 2 9 0
          else s.hostError q c
        | some d =>
          let s := s.countChecks m d none
          match s.directoryErr m d with
          | some e => s.refuseBundle q c m e
          | none => k s m d

/-- Ask the peer of a load or a swap for segments (R303). -/
def State.askSegments (s : State) (b first count : Nat) : State :=
  let x := s.bundle b
  match x.peer with
  | some (p, c) => s.askShard p c (x.newMan.getD x.man).digest s.station first count
  | none => s

/-- A load into an EMPTY slot: accepted with its command notice, then placed (R299, R300, R309). -/
def State.tryLoad (manifest directory : Option (List Byte)) (s : State) (q : Nat) (c : Started) : State :=
  let b := leAt c.entry 8 1
  s.checkBundle q c manifest directory (fun s m d =>
    let man := manifestOf m
    let s := { s with loadOrder := s.loadOrder + 1 }
    let s := s.modBundle b (fun x => { bundleDefault 0 with
      state := .loading, pinned := x.pinned, order := s.loadOrder, man := man,
      segs := (List.range (leAt d 6 2)).map (dirEntry d), peer := peerOf c.entry, timeout := timeoutOf c.entry, dir := d })
    ((State.placeLoad 65 (s.finish q c stOK 0) b).askSegments b 0 (leAt d 6 2)).sendCircuit b)

/-- A slice test is under way on a core that a directory names: an extent is placed once it has ended, since from then on only
the writes of R301 reach it (log entry 85, DESIGN CHOICE). -/
def State.sliceTested (s : State) (directory : Option (List Byte)) : Bool :=
  match directory with
  | some d => (List.range (leAt d 6 2)).any (fun i => (s.core (dirEntry d i).core).str.drill.running)
  | none => false

/-- BUNDLE_LOAD waits for a slot in ZEROING. -/
def execBundleLoad (q : BitVec 20) (manifest directory : Option (List Byte)) (s : State) : Host.Outcome State Fault Refusal :=
  let attempt := fun (s : State) (q : Nat) (c : Started) =>
    match (s.bundle (leAt c.entry 8 1)).state with
    | .empty => if s.sliceTested directory then s else s.tryLoad manifest directory q c
    | .zeroing => s
    | .loading | .verified | .armed | .swapping => s.finish q c stREFUSED 11
  .next (s.queueRow q 0x30
    (fun s q c => if (s.bundle (leAt c.entry 8 1)).state == .zeroing || s.sliceTested directory then none else some (attempt s q c))
    (fun s q c => s.withFields q c (loadFields c.entry) (fun s => attempt s q c)))

/-- The segment that the driver or a peer may deliver: of a LOADING bundle, or of the open layer slot of a swap. -/
def Bundle.delivers (x : Bundle) (g : Segment) : Bool :=
  g.state == .loading && !x.waiting && (x.state == .loading || (x.state == .swapping && x.opened && g.slot == x.front))

/-- The segments that a delivery concerns. -/
def Bundle.live (x : Bundle) : List Segment := if x.state == .swapping then x.newSegs else x.segs

def Bundle.setSeg (x : Bundle) (i : Nat) (g : Segment) : Bundle :=
  if x.state == .swapping then { x with newSegs := x.newSegs.set i g } else { x with segs := x.segs.set i g }

/-- SEG_DONE: the segment is hashed as it stands; complete when it has been (R302). -/
def execSegDone (q : BitVec 20) (s : State) : Host.Outcome State Fault Refusal :=
  .next (s.queueRow q 0x31
    (fun s q c =>
      match (s.bundle (leAt c.entry 8 1)).live[leAt c.entry 0xA 2]? with
      | some g => if g.state == .hashing then none else some (s.finish q c stOK 0)
      | none => some (s.finish q c stREFUSED 8))
    (fun s q c =>
      let b := leAt c.entry 8 1
      let i := leAt c.entry 0xA 2
      s.withFields q c [(8, decide (64 ≤ b)), (0xA, (s.bundle b).state != .empty && decide ((s.bundle b).live.length ≤ i))]
        (fun s =>
          match (s.bundle b).live[i]? with
          | some g =>
            if (s.bundle b).delivers g then
              { s with hashQ := s.hashQ ++ [(b, i)] }.modBundle b (fun x => x.setSeg i { g with state := .hashing, again := false })
            else s.finish q c stNOTFOUND 0
          | none => s.finish q c stNOTFOUND 0)))

/-- The bytes of a segment as they stand in the slice. -/
def State.segBytes (s : State) (g : Segment) : List Byte :=
  ((s.units g.core (g.place / 512) (g.len / 512)).map (fun r => leBytes 512 r.toNat)).flatten

/-- SEGMENT_HASHED: the oldest segment that waits for its hash (R302) is VERIFIED, or rejected and LOADING again; with every
segment verified a loading bundle is VERIFIED (R304). -/
def execSegmentHashed (slot : Fin 64) (segment : Nat) (s : State) : Host.Outcome State Fault Refusal :=
  let b := slot.val
  match (s.bundle b).live[segment]? with
  | none => .next s
  | some g =>
    if g.state != .hashing || s.phase != .ready || s.hashQ.head? != some (b, segment) then .next s
    else
      let s := { s.hashed g.len with hashQ := s.hashQ.tail }
      if sha3x512 (s.segBytes g) = g.digest then
        let s := s.modBundle b (fun x => x.setSeg segment { g with state := .verified })
        let x := s.bundle b
        if x.state == .loading && x.segs.all (fun g => g.state == .verified) then
          .next (((s.modBundle b (fun x => { x with state := .verified, peer := none })).bundleNotice b 0 0 0).sendCircuit b)
        else .next s
      else .next (((s.modBundle b (fun x => x.setSeg segment { g with state := .loading, again := true })).bundleNotice b 3 0
        segment).askSegments b segment 1)

/-- The jobs that read a bundle fault with LIFT_STALL's code; on a formed lift a lift notice tells the peers (R314). -/
def State.swapFailed (s : State) (b : Nat) : State :=
  let s := (s.modBundle b (fun x => { x with ready := false, released := false })).bundleNotice b 6 0 (s.bundle b).front
  let s := if s.lift.isFormed then (s.stallLift s.liftPos).sendMsg .up (.notice true s.liftPos 0) else s
  (s.readers b).foldl (fun s t => (s.faultTask t (s.faultCode pLFC 2)).modJob t (fun j => { j with held := [] })) s

/-- LOAD_TIMEOUT: a load with segments unverified is refused with TIMEOUT; station 0 ends its circuit; an open layer slot's
swap fails (R304, R305, R314). -/
def execLoadTimeout (slot : Fin 64) (s : State) : Host.Outcome State Fault Refusal :=
  let b := slot.val
  let x := s.bundle b
  let cancel := fun (op : Nat) (digest : BitVec 512) (s : State) =>
    if s.lift.isFormed && s.liftPos == 0 && decide (1 < s.liftLen) && !x.released then
      let f : ResRing :=
        { op := 3, releaseBit := true, slot := slot, firstNew := if op = 2 then BitVec.ofNat 32 x.firstNew else 0,
          digest := digest, ready := 0, refuse := 0 }
      s.endCircuit f
    else s
  if s.phase != .ready then .next s
  else match x.state with
    | .loading => .next (cancel 1 x.man.digest (s.refuseLoad b 8))
    | .verified | .armed =>
      match s.ringOp b with
      | some op => .next (cancel op (if op = 2 then (x.newMan.getD x.man).digest else x.man.digest) s)
      | none => .next s
    | .swapping =>
      if x.opened && x.ready && x.newSegs.any (fun g => g.slot == x.front && g.state != .verified) then .next (s.swapFailed b)
      else .next s
    | .empty | .zeroing => .next s

/-! ## Swaps (R312-R314) -/

/-- The new bundle fits the old one's places: its segments at the places R300 gives them inside the old extents (R312). -/
def State.newPlaces (s : State) (b : Nat) (man : Manifest) (segs : List Segment) : Option (List Segment) :=
  let x := s.bundle b
  let pair := fun (g : Segment) => (g.slot, g.core)
  let ext := fun (n : Nat) => x.extents.find? (fun e => e.1.val == n)
  let placed := placeSegs segs (fun n => ((ext n).map (·.2.1)).getD 0)
  if man.model == x.man.model && man.n == x.man.n && man.cores == x.man.cores && man.layers == x.man.layers &&
      segs.map pair == x.segs.map pair &&
      placed.all (fun g => match ext g.core with
        | some e => decide (g.place + g.len ≤ e.2.1 + e.2.2)
        | none => false) then some placed
  else none

/-- Batch `f` has been admitted to a job that reads the bundle. -/
def State.admitted (s : State) (b f : Nat) : Bool :=
  (s.readers b).any (fun t => match (s.task t).bind (·.job) with
    | some j => decide (f < j.batches - j.held.length)
    | none => false)

/-- A swap of a VERIFIED or ARMED slot. On a part that is not in a lift the commit needs no ring. -/
def State.trySwap (manifest directory : Option (List Byte)) (s : State) (q : Nat) (c : Started) : State :=
  let b := leAt c.entry 8 1
  let f := leAt c.entry 0x28 4
  s.checkBundle q c manifest directory (fun s m d =>
    let man := manifestOf m
    match s.newPlaces b man ((List.range (leAt d 6 2)).map (dirEntry d)) with
    | none => s.refuseBundle q c m 12
    | some segs =>
      if s.admitted b f then s.refuseBundle q c m 13
      else
        let s := s.modBundle b (fun x => { x with newMan := some man, newSegs := segs, firstNew := f, refused := none,
                                                  released := false, newDir := d, peer := peerOf c.entry, timeout := timeoutOf c.entry })
        let s := s.finish q c stOK 0
        if s.lift.isFormed && decide (1 < s.liftLen) then s.sendCircuit b else s.commitSwap b)

def execSwap (q : BitVec 20) (manifest directory : Option (List Byte)) (s : State) : Host.Outcome State Fault Refusal :=
  .next (s.queueRow q 0x32 atOnce (fun s q c => s.withFields q c (loadFields c.entry) (fun s =>
    let x := s.bundle (leAt c.entry 8 1)
    if (x.state == .verified || x.state == .armed) && x.newMan.isNone then s.trySwap manifest directory q c
    else s.finish q c stREFUSED 11)))

/-- Every core of every running job that reads the bundle has passed batches below F through a layer slot (R313, R314). -/
def State.passed (s : State) (b k : Nat) : Bool :=
  let x := s.bundle b
  (s.readers b).all (fun t => match s.task t with
    | some y => (match y.job with
      | some j => j.fault.isSome || y.coreList.all (fun n =>
          decide (x.firstNew ≤ ((s.core n).spm.tokens.get wordZero ((j.tokenBase + x.man.layers + k) % 256)).toNat))
      | none => true)
    | none => true)

/-- SLOT_OPEN: the front's layer slot opens and its segments are delivered again. -/
def execSlotOpen (slot : Fin 64) (s : State) : Host.Outcome State Fault Refusal :=
  let b := slot.val
  let x := s.bundle b
  if s.phase == .ready && x.state == .swapping && !x.opened && decide (x.front < x.man.layers) && s.passed b x.front then
    .next (((s.modBundle b (fun x => { x with opened := true })).bundleNotice b 4 0 x.front).askSegments b
      (x.newSegs.countP (fun g => decide (g.slot < x.front))) (x.newSegs.countP (fun g => g.slot == x.front)))
  else .next s

/-- The last layer slot is verified: the bundle takes the new manifest (R313); after a failed swap it waits for the ring
again (R314). -/
def State.swapDone (s : State) (b : Nat) : State :=
  let x := s.bundle b
  let s := (s.readers b).foldl (fun s t => match (s.task t).bind (·.job) with
    | some j => (s.modJob t (fun j => { j with held := [] })).modBundle b (fun x => { x with uses := x.uses + j.held.length })
    | none => s) s
  let s := s.modBundle b (fun y => { y with
    state := if x.ready then .armed else .verified, man := x.newMan.getD x.man, segs := x.newSegs, newMan := none, newSegs := [],
    dir := x.newDir, newDir := [], firstNew := 0, front := 0, opened := false, ready := false, refused := none, peer := none })
  if x.ready then s.bundleNotice b 5 0 0 else (s.bundleNotice b 0 0 0).sendCircuit b

/-- SLOT_VERIFIED: the held batches are admitted to the layer slot and the front moves on. -/
def execSlotVerified (slot : Fin 64) (s : State) : Host.Outcome State Fault Refusal :=
  let b := slot.val
  let x := s.bundle b
  if s.phase == .ready && x.state == .swapping && x.opened &&
      x.newSegs.all (fun g => g.slot != x.front || g.state == .verified) then
    let s := (s.readers b).foldl (fun s t => match (s.task t).bind (·.job) with
      | some j => s.addAdmits t [x.front] j.held.length
      | none => s) s
    let s := s.modBundle b (fun y => { y with front := x.front + 1, opened := false })
    .next (if x.front + 1 = x.man.layers then s.swapDone b else s)
  else .next s

/-- Submit batches to the gate of a job that serves a bundle (R311-R313, R316). -/
def State.submit (s : State) (t b count : Nat) : State :=
  match (s.task t).bind (·.job) with
  | none => s
  | some j =>
    let x := s.bundle b
    let ns := (List.range count).map (fun i => j.batches + i)
    let swap := x.newMan.isSome
    let old := ns.filter (fun n => !swap || decide (n < x.firstNew))
    let new := ns.filter (fun n => swap && decide (x.firstNew ≤ n))
    let s := s.modJob t (fun j => { j with batches := j.batches + count, held := j.held ++ new })
    let s := s.addAdmits t (List.range x.man.layers) old.length
    let s := if x.state == .swapping then s.addAdmits t (List.range x.front) new.length else s
    s.modBundle b (fun x => { x with uses := x.uses + old.length })

def execBatch (q : BitVec 20) (s : State) : Host.Outcome State Fault Refusal :=
  .next (s.queueRow q 0x27 atOnce (fun s q c =>
    let t := leAt c.entry 8 1
    let k := leAt c.entry 0xA 2
    s.withFields q c [(8, decide (64 ≤ t)), (0xA, k == 0)] (fun s =>
      s.onTask q c (fun s x =>
        match x.job with
        | none => s.finish q c stNOTFOUND 0
        | some j => match j.bundle with
          | none => s.finish q c stNOTFOUND 0
          | some b =>
            let st := (s.bundle b.val).state
            if st == .verified || st == .armed || st == .swapping then (s.submit t b.val k).finish q c stOK 0
            else s.finish q c stREFUSED 11))))

/-! ## Eviction, pinning and the residency query (R307-R310) -/

/-- EVICT completes when the slot is EMPTY. -/
def execEvict (q : BitVec 20) (s : State) : Host.Outcome State Fault Refusal :=
  .next (s.queueRow q 0x33
    (fun s q c => if (s.bundle (leAt c.entry 8 1)).state == .zeroing then none else some (s.finish q c stOK 0))
    (fun s q c =>
      let b := leAt c.entry 8 1
      s.withFields q c [(8, decide (64 ≤ b))] (fun s =>
        match (s.bundle b).state with
        | .empty | .zeroing => s.finish q c stOK 0
        | .loading => s.zeroBundle b
        | .verified | .armed => if s.evictable b then s.zeroBundle b else s.finish q c stREFUSED 11
        | .swapping => s.finish q c stREFUSED 11)))

def execPin (q : BitVec 20) (s : State) : Host.Outcome State Fault Refusal :=
  .next (s.queueRow q 0x34 atOnce (fun s q c =>
    s.withFields q c [(8, decide (64 ≤ leAt c.entry 8 1)), (9, decide (1 < leAt c.entry 9 1))] (fun s =>
      (s.modBundle (leAt c.entry 8 1) (fun x => { x with pinned := leAt c.entry 9 1 == 1 })).finish q c stOK 0)))

def BundleState.code : BundleState → Nat
  | .empty => 0 | .loading => 1 | .verified => 2 | .armed => 3 | .swapping => 4 | .zeroing => 5

/-- Segments verified in the current load or layer slot. -/
def Bundle.segsVerified (x : Bundle) : Nat :=
  (x.live.filter (fun g => g.state == .verified && (x.state != .swapping || g.slot == x.front))).length

/-- The 64-byte entry and the extent table (R310). -/
def Bundle.entry (x : Bundle) (b : Nat) : List Byte :=
  leBytes 16 x.man.model.toNat ++ leBytes 4 x.man.version.toNat ++ leBytes 1 (x.state.code + 8 * boolNat x.pinned) ++
    leBytes 1 b ++ leBytes 2 x.man.layers ++ leBytes 8 x.order ++ leBytes 8 x.uses ++
    leBytes 4 (if x.newMan.isSome then x.firstNew else 0) ++ leBytes 2 x.segsVerified ++ leBytes 2 x.front ++
    leBytes 16 x.man.digest.toNat ++
    ((List.range 64).map (fun n => match x.extents.find? (fun e => e.1.val == n) with
      | some e => leBytes 8 (e.2.1 + e.2.2 / twoMiB * 2 ^ 40)
      | none => leBytes 8 0)).flatten

def execResidency (q : BitVec 20) (written : Bool) (s : State) : Host.Outcome State Fault Refusal :=
  .next (s.queueRow q 0x35 atOnce (fun s q c =>
    let b := leAt c.entry 8 1
    s.withFields q c [(8, decide (64 ≤ b))] (fun s =>
      if written then
        (s.emit (.dmaWrite (BitVec.ofNat 64 (leAt c.entry 0x10 8)) ((s.bundle b).entry b))).finish q c stOK 0
      else s.hostError q c)))

/-! ## Zeroing (R222, R309) -/

/-- HBM_ZEROING_DONE: the regions are zeroed and free; a bundle slot is EMPTY and its evicted notice is posted. A context's
zeroing is drills, which run on a core that has no job (R220). -/
def execHbmZeroingDone (z : Zeroed) (s : State) : Host.Outcome State Fault Refusal :=
  match z with
  | .context c =>
    let x := s.context c.toNat
    if !x.zeroing.all (fun r => s.mayDrill r.core.val) then .next s
    else
      let s := x.zeroing.foldl (fun s r => s.zeroUnits r.core.val r.base r.len) s
      .next (s.setContext c.toNat { x with zeroing := [] })
  | .bundle slot =>
    let b := slot.val
    let x := s.bundle b
    if x.state == .zeroing then
      let s := x.extents.foldl (fun s e => s.zeroExtent e.1.val e.2.1 e.2.2) s
      let s := s.bundleNotice b 7 0 0
      let s := s.setBundle b { bundleDefault 0 with pinned := x.pinned, refused := x.refused }
      .next ((List.range 64).foldl (fun s i =>
        let y := s.bundle i
        if y.waiting then s.modBundle i (fun y => { y with waiting := s.mustWait y.extents }) else s) s)
    else .next s

/-! ## Lost peers (R285, R303) -/

/-- A peer's bundle transfers end: a load is refused with PEER_LOST; a swap goes on from the host. -/
def State.dropTransfers (s : State) (gone : TPort × BitVec 15 → Bool) : State :=
  (List.range 64).foldl (fun s b =>
    let x := s.bundle b
    match x.peer with
    | some p =>
      if gone p then
        match x.state with
        | .loading => s.refuseLoad b 10
        | .swapping => (s.modBundle b (fun x => { x with peer := none })).bundleNotice b 2 10 0
        | .empty | .verified | .armed | .zeroing => s
      else s
    | none => s) s

/-- What the part was sending of its shard to a peer ends with the peer. -/
def State.dropServes (s : State) (p : TPort) (gone : BitVec 15 → Bool) : State :=
  s.modTrv p (fun t => { t with serves := t.serves.filter (fun v => !gone v.peer),
                                out := t.out.filter (fun m => m.epoch != 0 || !gone m.dst) })

/-- A granted message of a peer whose data has not all come; a barrier has none. -/
def TrvReq.stalled (r : TrvReq) (peer : BitVec 15) : Bool :=
  r.src == peer && r.granted && decide (r.got < r.rows) && !(r.kind == 2 && bits r.param 3 0 == 5)

/-- An open collective instance that a peer is a member of and has not joined. -/
def State.unjoined (s : State) (p : TPort) (peer : BitVec 15) (o : TrvOpen) : Bool :=
  decide (0 < o.coll) && !o.closed && (s.members p o.group).contains peer && !o.joined.contains (rankOf o.group (peer.toNat / 128))

/-- What has lasted for TRV_LOSS.TIMEOUT_MS: 0 a request without a grant, 1 unacknowledged packets, 2 a granted message whose
data stops, 3 a member that has not joined. -/
def State.lossHolds (s : State) (p : TPort) (peer : BitVec 15) : Fin 4 → Bool
  | 0 => (s.trv p).out.any (fun m => m.dst == peer && m.asked && !m.granted)
  | 1 => (match s.flow p peer with
    | some f => !f.unacked.isEmpty
    | none => false)
  | 2 => (s.trv p).requests.any (fun r => r.stalled peer)
  | 3 => (s.trv p).opens.any (fun o => s.unjoined p peer o)

/-- The logical core that a loss concerns (R290): that of the message, the request or the instance; a flow has none. -/
def State.lossCore (s : State) (p : TPort) (peer : BitVec 15) : Fin 4 → Nat
  | 0 => (((s.trv p).out.find? (fun m => m.dst == peer && m.asked && !m.granted)).map (·.core)).getD 0
  | 1 => 0
  | 2 => (((s.trv p).requests.find? (fun r => r.stalled peer)).map (·.core)).getD 0
  | 3 => (((s.trv p).opens.find? (s.unjoined p peer)).map (·.core)).getD 0

/-- PEER_LOST: the peer's coordinate is recorded, the traverse jobs fault, and its bundle transfers end. -/
def execPeerLost (port : TPort) (peer : BitVec 15) (cause : Fin 4) (s : State) : Host.Outcome State Fault Refusal :=
  if s.phase == .ready && s.lossHolds port peer cause then
    let core := s.lossCore port peer cause
    let s := if (s.jobPeers port).contains peer then s.trvFault port 2 cause.val core peer.toNat
      else s.trvRaise port 2 cause.val core peer.toNat
    .next ((s.dropServes port (· == peer)).dropTransfers (fun p => p == (port, peer)))
  else .next s

/-- A port goes down: every peer of its job is lost (R285). -/
def State.trvDown (s : State) (port : TPort) : State :=
  if s.trvState port == 2 || s.trvState port == 3 then
    let s := (s.setTrvLink port 0 0).trvRaise port 0 0 0 0
    let peers : List (BitVec 15) := s.jobPeers port
    let s := peers.foldl (fun s c => s.trvFault port 2 4 0 c.toNat) s
    (s.dropServes port (fun _ => true)).dropTransfers (fun p => p.1 == port)
  else s

def execTrvLinkDown (port : TPort) (s : State) : Host.Outcome State Fault Refusal :=
  if s.phase == .ready then .next (s.trvDown port) else .next s

end Sys2Proof.Machine
end

