-- ==== Sys2Proof/Machine/Launch.lean ====
section
/-!
DEFINITION. Program images (R175, R360, R361), the launch of a job (R359, R158, R67, R483), pre-emption (R62, R259, R287),
save and resume (R334, R335, R315) and the fetching of a provenance record (R357, R333).
-/
namespace Sys2Proof.Machine

/-! ## Program images (R360, R361) -/

/-- A table's entries from key 0 upward, without those that equal what an unlisted key reads as. -/
def tableOf {α : Type} [DecidableEq α] (d : α) (xs : List α) : SMap α :=
  (xs.zipIdx.filter (fun x => x.1 ≠ d)).map (fun x => (x.2, x.1))

/-- Replace the first entries of a table by a list, keeping those beyond it. -/
def overlay {α : Type} [DecidableEq α] (d : α) (xs : List α) (m : SMap α) : SMap α :=
  tableOf d xs ++ m.filter (fun e => decide (xs.length ≤ e.1))

/-- Items of `k` bytes each. -/
def items (k : Nat) (bs : List Byte) : List Nat := (List.range (bs.length / k)).map (fun i => leAt bs (k * i) k)

def circCfgOf (v : Nat) : CircCfg :=
  { valid := v.testBit 31 && v / 256 % 64 != 0, slotLog2 := v / 2 ^ 24 % 8, banks := v / 256 % 64, base := v % 64,
    slots := v / 2 ^ 32 % 32768 }

/-- The header of an image. -/
def headerOf (b : List Byte) : ProgHeader :=
  let flags := leAt b 6 1
  { cores := leAt b 5 1, buildRepro := flags.testBit 0, tracks := flags.testBit 1, lift := flags.testBit 2,
    traverse := flags.testBit 3, core := leAt b 7 1, bookVersion := BitVec.ofNat 16 (leAt b 8 2), tokenBase := leAt b 0xA 1,
    extentAddr := leAt b 0xC 2, demandCores := BitVec.ofNat 64 (leAt b 0x10 8),
    regions := (List.range 16).map (fun r =>
      let v := leAt b (0x20 + 8 * r) 8
      { base := v % 32768, count1 := v / 65536 % 32768, valid := v.testBit 31 }),
    circs := (List.range 4).map (fun c => circCfgOf (leAt b (0xA0 + 8 * c) 8)),
    quotas := (List.range 16).map (fun c => leAt b (0xC0 + 2 * c) 2) }

/-- The rules of R135 for one circular region entry. -/
def circOk (r : Nat) (c : CircCfg) : Bool :=
  !c.valid || ((r != 0 || c.slotLog2 == 7) && decide (2 ≤ c.slots) && decide (c.slots ≤ c.banks * 512 / 2 ^ c.slotLog2) &&
    decide (c.base + c.banks ≤ 48))

/-- Two circular regions share no bank. -/
def circsApart (cs : List CircCfg) : Bool :=
  cs.zipIdx.all (fun x => cs.zipIdx.all (fun y => x.2 == y.2 || !x.1.valid || !y.1.valid ||
    !rangesMeet x.1.base x.1.banks y.1.base y.1.banks))

def imageLength (b : List Byte) (i : Nat) : Nat := leAt b (0xE0 + 4 * i) 4

/-- The header's fields are in their ranges (R360, R361, R133, R135, R212). -/
def headerOk (b : List Byte) (core : Nat) : Bool :=
  let h := headerOf b
  leAt b 0 4 == 0x7A5C0DE1 && leAt b 4 1 == 1 && [32, 48, 64].contains h.cores && decide (leAt b 6 1 < 16) &&
    decide (h.core < h.cores) && h.core == core && leAt b 0xB 1 == 0 && h.extentAddr % 8 == 0 &&
    (List.range 16).all (fun r => leAt b (0x24 + 8 * r) 4 == 0) &&
    h.regions.all (fun x => !x.valid || (decide (x.base < 24576) && decide (x.count1 < 24576))) &&
    (List.range 4).all (fun c => leAt b (0xA0 + 8 * c) 4 &&& 0x78FFC0C0 == 0 && leAt b (0xA4 + 8 * c) 4 < 32768) &&
    h.circs.zipIdx.all (fun x => circOk x.2 x.1) && circsApart h.circs &&
    h.quotas.all (fun q => decide (q ≤ 1024)) && decide (h.quotas.sum ≤ 1024) &&
    imageLength b 0 % 16 == 0 && decide (imageLength b 0 ≤ 131072) && imageLength b 1 % 32 == 0 &&
    decide (imageLength b 1 ≤ 32768) && decide (imageLength b 2 ≤ 65536) && [0, 4096].contains (imageLength b 3) &&
    b.length == 0x104 + imageLength b 0 + imageLength b 1 + imageLength b 2 + imageLength b 3

/-- Section `i` of an image: bank, descriptors, data memory, groups. -/
def imageSection (b : List Byte) (i : Nat) : List Byte :=
  (b.drop (0x100 + ((List.range i).map (imageLength b)).sum)).take (imageLength b i)

/-- What must stay as it is in force while the task has a job: all but the bank section and its length. -/
def imageForce (b : List Byte) : List Byte :=
  b.take 0xE0 ++ (b.drop 0xE4).take 0x1C ++ imageSection b 1 ++ imageSection b 2 ++ imageSection b 3

def Seq.bankOf (q : Seq) (i : Nat) : ProgBank := if i = 0 then q.bank0 else q.bank1

def Seq.setBankOf (q : Seq) (i : Nat) (x : ProgBank) : Seq := if i = 0 then { q with bank0 := x } else { q with bank1 := x }

/-- The bank with a load given up: as it was before. -/
def ProgBank.settle (x : ProgBank) : ProgBank := { x with state := if x.header.isSome then .valid else .empty }

/-- Write an image's bank section; `all` writes the descriptor and data-memory sections too. -/
def Core.loadImage (k : Core) (bank : Nat) (b : List Byte) (all : Bool) : Core :=
  let cmds := tableOf unloaded ((items 16 (imageSection b 0)).map (BitVec.ofNat 128))
  let k := { k with seq := k.seq.setBankOf bank { state := .valid, cmds := cmds, header := some (headerOf b), image := b } }
  if all then
    { k with seq := { k.seq with dmem := overlay 0 (imageSection b 2) k.seq.dmem },
             str := { k.str with desc := overlay 0 ((items 32 (imageSection b 1)).map (BitVec.ofNat 256)) k.str.desc } }
  else k

/-- The image of a PROG_LOAD has arrived and is checked (R361). -/
def State.loadProgram (s : State) (q : Nat) (c : Started) (n bank : Nat) (t : Task) (b : List Byte) : State :=
  let x := (s.core n).seq.bankOf bank
  let set := fun (s : State) (y : ProgBank) => s.modSeq n (fun z => z.setBankOf bank y)
  let crc := leAt b (b.length - 4) 4 == crc32c (b.take (b.length - 4))
  if b.length < 4 || !crc then (set s ProgBank.reset).finish q c stIMAGE 0
  else if !headerOk b (leAt c.entry 9 1) then (set s x.settle).finish q c stIMAGE 1
  else
    let force := (s.core n).seq.progBank (s.core n).seq.bank
    if t.job.isSome && imageForce force.image != imageForce b then (set s x.settle).finish q c stIMAGE 2
    else (s.modCore n (fun k => k.loadImage bank b t.job.isNone)).finish q c stOK 0

/-- PROG_LOAD: the bank is loading until the image has come from the host. A load into the executing bank raises BANK_BUSY
(R175). -/
def execProgLoad (q : BitVec 20) (image : Option (List Byte)) (s : State) : Host.Outcome State Fault Refusal :=
  .next (s.queueRow q 0x20
    (fun s q c =>
      let bank := leAt c.entry 0xA 1
      match s.task (leAt c.entry 8 1) with
      | none => some (s.finish q c stKILLED 0)
      | some t =>
        let n := t.base + leAt c.entry 9 1
        match image with
        | none => some ((s.modSeq n (fun z => z.setBankOf bank (z.bankOf bank).settle)).hostError q c)
        | some b => if b.length = leAt c.entry 0x18 4 then some (s.loadProgram q c n bank t b) else none)
    (fun s q c =>
      let e := c.entry
      let bank := leAt e 0xA 1
      let cores := match s.task (leAt e 8 1) with
        | some t => t.cores
        | none => 64
      s.withFields q c [(8, decide (64 ≤ leAt e 8 1)), (9, decide (cores ≤ leAt e 9 1)), (0xA, decide (1 < bank)),
          (0x10, leAt e 0x10 8 % 512 != 0)] (fun s =>
        s.onTask q c (fun s t =>
          let n := t.base + leAt e 9 1
          if ((s.core n).seq.bankOf bank).state == .executing then
            (s.raise (corePage n kSEQ) 8 (cause 8 bank) 0).finish q c stBUSY 1
          else s.modSeq n (fun z => z.setBankOf bank { z.bankOf bank with state := .loading })))))

/-! ## Input and save regions (R332) -/

/-- A descriptor of R332: logical core, slice byte address, length. -/
def regionEntry (l : List Byte) (i : Nat) : Nat × Nat × Nat :=
  let v := leAt l (16 * i) 8
  (v / 2 ^ 58, v % 2 ^ 35, leAt l (16 * i + 8) 8)

/-- Each descriptor is well formed: multiples of 512, a presented core, reserved bits 0. -/
def State.regionListOk (s : State) (l : List Byte) : Bool :=
  (List.range (l.length / 16)).all (fun i =>
    let (n, a, len) := regionEntry l i
    leAt l (16 * i) 8 / 2 ^ 35 % 2 ^ 23 == 0 && a % 512 == 0 && len % 512 == 0 && decide (n < s.presented))

/-- Each region lies in an HBM region of the context (R357). -/
def State.regionsOwned (s : State) (ctx : Nat) (l : List Byte) : Bool :=
  (List.range (l.length / 16)).all (fun i =>
    let (n, a, len) := regionEntry l i
    (s.context ctx).regions.any (fun r => r.core.val == n && decide (r.base ≤ a) && decide (a + len ≤ r.base + r.len)))

/-- Bytes of a slice range of whole units. -/
def State.sliceBytes (s : State) (n a len : Nat) : List Byte :=
  ((s.units n (a / 512) (len / 512)).map (fun r => leBytes 512 r.toNat)).flatten

/-- The digest of R332: each region's descriptor and its SHA3-512, in order. -/
def State.regionDigest (s : State) (l : List Byte) : BitVec 512 :=
  sha3x512 (((List.range (l.length / 16)).map (fun i =>
    let (n, a, len) := regionEntry l i
    (l.drop (16 * i)).take 16 ++ digestBytes (sha3x512 (s.sliceBytes n a len)))).flatten)

/-- Bytes that hashing a list's regions takes. -/
def regionBytes (l : List Byte) : Nat := ((List.range (l.length / 16)).map (fun i => 80 + (regionEntry l i).2.2)).sum

/-! ## Launch (R359) -/

/-- The header that a launch of a task reads: core 0's image in the launch bank. -/
def State.launchHeader (s : State) (t : Task) (bank : Nat) : Option ProgHeader := ((s.core t.base).seq.bankOf bank).header

/-- A bundle that a job can be launched with (R306, R316): ARMED for a lift job, VERIFIED or ARMED otherwise, for exactly the
stations there are and the program's core count (R295). A lift job needs one. -/
def State.bundleReady (s : State) (slot : Nat) (lift : Bool) (cores : Nat) : Bool :=
  if slot = 0xFF then !lift
  else
    let x := s.bundle slot
    (x.state == .armed || (x.state == .verified && !lift)) && x.man.cores == cores &&
      x.man.n == (if s.lift.isFormed then s.liftLen else 1)

/-- The firmware's book version (R325). -/
def State.bookVersion (s : State) : BitVec 16 :=
  match s.fw with
  | some f => f.bookVer
  | none => 0

/-- A presented core's slice has been retired since the reset: the part launches no further job (R217); the refusal is
code 3 (log entry 41, DEDUCED). -/
def State.sliceLost (s : State) : Bool := (List.range s.presented).any (fun n => s.retired.contains (s.physSlice n))

/-- The refusal code of a launch (R359); the first that applies. Without an image in core 0's launch bank there is no header
to check, and the bank is not valid. -/
def State.launchRefusal (s : State) (t : Task) (bank slot : Nat) : Option Nat :=
  match s.launchHeader t bank with
  | none => some 6
  | some h =>
    let loaded := fun (n : Nat) =>
      let b := ((s.core n).seq.bankOf bank).state
      b == .valid || b == .executing
    if h.buildRepro != bit (s.reg pDEV 0x44) 0 then some 1
    else if h.bookVersion ≠ s.bookVersion then some 2
    else if s.presented < t.base + h.cores ∨ t.cores ≠ h.cores ∨ t.coreList.any (fun n => (s.hostOf n).isNone) ∨ s.sliceLost then some 3
    else if !s.bundleReady slot h.lift h.cores then some 4
    else if (h.lift && (!s.lift.isFormed || t.base != 0)) || (h.traverse && t.base != 0) then some 5
    else if !t.coreList.all loaded then some 6
    else if t.job.isSome then some 7
    else none

/-- A core as its job finds it (R158, R67, R73, R183, R483): the sequencer's registers are 0, the tables come from its
program's header, claims and tokens are cleared; data memory, scratchpad rows, committed accumulator and sum-store
words, expander slots and holds stay. -/
def Core.launch (k : Core) (bank : Nat) (h : ProgHeader) (auto : Bool) : Core :=
  let circOf := fun (b : Nat) => (h.circs.zipIdx.find? (fun x =>
    x.1.valid && decide (x.1.base ≤ b) && decide (b < x.1.base + x.1.banks))).map (·.2)
  let banks := (List.range 48).foldl (fun (m : Spm) b =>
    m.setBank b { m.bank b with takeover := none, owner := match circOf b with
      | some c => .circ (Fin.ofNat 4 c)
      | none => .free }) k.spm
  let circs := tableOf (circDefault 0) (h.circs.map (fun c => { circDefault 0 with cfg := c }))
  let spm := { Spm.reset with rows := k.spm.rows, banks := banks.banks, regions := tableOf (regionDefault 0) h.regions,
                              circs := circs }
  let run := fun (x : ProgBank) (i : Nat) => { x with state := if i = bank then .executing else if x.state == .executing then .valid else x.state }
  { k with
    seq := { Seq.reset with bank0 := run k.seq.bank0 0, bank1 := run k.seq.bank1 1, dmem := k.seq.dmem, bank := bank == 1,
                            run := .running },
    spm := spm.repower auto, arr := { k.arr with parts := [] }, sch := { Sch.reset with sums := k.sch.sums },
    exp := { k.exp with slots := k.exp.slots.map (fun x => (x.1, { x.2 with loads := 0 })) },
    row := { k.row with stopped := false },
    str := { k.str with quota := (h.quotas.zipIdx.filter (fun x => x.1 ≠ 64)).map (fun x => (x.2, x.1)), window := [] },
    trk := Trk.reset, inflight := [], lift := 0, recvs := [], colls := [] }

/-- Slots that read as an empty one again leave the table. -/
def Exp.tidy (x : Exp) : Exp := { x with slots := x.slots.filter (fun e => e.2 ≠ tabDefault e.1) }

/-- The counters of a page are cleared (R459). -/
def State.clearCounters (s : State) (p : Nat) : State :=
  s.modPage p (fun x => { x with counters := [], work := [], since := s.time })

/-- The counters of a page that are equal between runs are cleared. -/
def State.clearEqual (s : State) (p : Nat) : State :=
  s.modPage p (fun x => { x with
    counters := x.counters.filter (fun e => !(equalOffsets p).contains e.1),
    work := x.work.filter (fun e => !(equalOffsets p).contains e.1) })

/-- The group tables of both ports, from an image's group section (R282, R294, R360). -/
def State.loadGroups (s : State) (b : List Byte) : State :=
  let g := imageSection b 3
  [TPort.A, TPort.B].foldl (fun s p => (List.range (g.length / 8)).foldl (fun s i =>
    s.setReg (pTRV p) (0x800 + 4 * i) (word (leAt g (2048 * portNat p + 4 * i) 4))) s) s

/-- The station's traverse ports take up a traverse job (R271, R273, R459). -/
def State.launchTraverse (s : State) (epoch : BitVec 16) (image : List Byte) : State :=
  [TPort.A, TPort.B].foldl (fun s p =>
    ((s.clearEqual (pTRV p)).setReg (pTRV p) 0x48 (word s.deviceCoord)).setReg (pTRV p) 0x80 (epoch.setWidth 32))
    (s.loadGroups image)

/-- The station's lift takes up a lift job (R252, R459). -/
def State.launchLift (s : State) (demand : Word64) : State :=
  let s := s.clearCounters pLFC
  let s := (s.setReg pLFC 0x58 (demand.extractLsb' 0 32)).setReg pLFC 0x5C (demand.extractLsb' 32 32)
  s.modLift (fun l => { l with demanded := 0 })

/-- A core of a task starts its job. -/
def State.launchCore (s : State) (bank : Nat) (slot : Option Nat) (j : Job) (n : Nat) : State :=
  match ((s.core n).seq.bankOf bank).header with
  | none => s
  | some h =>
    let s := (List.range 8).foldl (fun s k => s.clearCounters (corePage n k)) s
    let s := s.modCore n (fun k =>
      let k := k.launch bank h (s.autoPwr n)
      { k with exp := k.exp.tidy })
    let s := match slot.bind (fun b => ((s.bundle b).extents.find? (fun x => x.1.val == n)).map (·.2.1)) with
      | some a => s.modSeq n (fun z => { z with dmem := dmWrite z.dmem h.extentAddr 8 a })
      | none => s
    let s := s.setReg (corePage n kTRK) 0x40 (word (4 * boolNat j.tracks + 2 * boolNat h.buildRepro + boolNat j.repro))
    match s.hostOf n with
    | some p => s.count (pPCR p) 0x100 1
    | none => s

/-- PROGRAM_DIGEST (R360): the images in a bank of a task's cores, in core order. -/
def State.programDigest (s : State) (t : Task) (bank : Nat) : BitVec 512 :=
  sha3x512 ((t.coreList.map (fun n => ((s.core n).seq.bankOf bank).image)).flatten)

/-- The job that a LAUNCH makes. -/
def State.newJob (s : State) (e : List Byte) (t : Task) (h : ProgHeader) (inputs : List Byte) : Job :=
  let slot := leAt e 0xA 1
  { id := BitVec.ofNat 64 (leAt e 0x24 8), repro := h.buildRepro, tracks := h.tracks, lift := h.lift,
    traverse := h.traverse, bookVer := h.bookVersion, bundle := if slot = 0xFF then none else some (Fin.ofNat 64 slot),
    trvEpoch := BitVec.ofNat 16 (leAt e 0xC 2), seed := BitVec.ofNat 128 (leAt e 0x10 16),
    jobWord := word (leAt e 0x20 4), program := s.programDigest t (leAt e 9 1),
    inputs := if inputs.isEmpty then none else some (s.regionDigest inputs), start := s.time, fault := none, vary := 0,
    resumed := none, merged := [], records := 0, chain := chainStart, batches := 0, held := [], hold := .running,
    saveRegions := [], demandCores := h.demandCores <<< t.base, tokenBase := h.tokenBase, tasked := false }

/-- The launch is accepted: the job exists and its cores run. -/
def State.launch (s : State) (e : List Byte) (t : Task) (h : ProgHeader) (inputs : List Byte) : State :=
  let bank := leAt e 9 1
  let j := s.newJob e t h inputs
  let images := (t.coreList.map (fun n => ((s.core n).seq.bankOf bank).image.length)).sum
  let s := (s.hashed (images + regionBytes inputs)).count pDEV 0x100 1
  let s := s.setTask (leAt e 8 1) (some { t with job := some j })
  let s := if j.lift then s.launchLift j.demandCores else s
  let s := if j.traverse then s.launchTraverse j.trvEpoch ((s.core t.base).seq.bankOf bank).image else s
  t.coreList.foldl (fun s n => s.launchCore bank (j.bundle.map (·.val)) j n) s

/-- LAUNCH_MODE, the event of refusal code 1 (R463, R464). -/
def State.launchMode (s : State) (ctx : Nat) : State :=
  let m := boolNat (bit (s.reg pDEV 0x44) 0)
  s.raise pDEV eLAUNCH_MODE (cause eLAUNCH_MODE ctx) (word (2 * (1 - m) + m))

/-- Bytes of host memory that a command reads at its start; `none` when what was supplied is not of that length. -/
def supplied (bytes : Option (List Byte)) (len : Nat) : Option (Option (List Byte)) :=
  if len = 0 then some (some [])
  else match bytes with
    | none => some none
    | some b => if b.length = len then some (some b) else none

/-- The launch with its input list. -/
def State.tryLaunch (s : State) (q : Nat) (c : Started) (t : Task) (inputs : List Byte) : State :=
  let e := c.entry
  match s.launchRefusal t (leAt e 9 1) (leAt e 0xA 1), s.launchHeader t (leAt e 9 1) with
  | some code, _ =>
    (if code = 1 then s.launchMode (s.queueCtx q) else s).finish q c stREFUSED (0x100 + code)
  | none, none => s.finish q c stREFUSED 0x106
  | none, some h =>
    if h.traverse && leAt e 0xC 2 == 0 then s.finish q c stFIELD 0xC
    else if !s.regionListOk inputs then s.finish q c stFIELD 0x2C
    else if !s.regionsOwned (s.queueCtx q) inputs then s.finish q c stOWNER 1
    else s.launch e t h inputs

/-- The job that a LAUNCH or a RESUME started has issued a command, or can issue none any more. -/
def State.jobIssued (s : State) (t : Nat) : Bool :=
  match s.task t with
  | none => true
  | some x => match x.job with
    | none => true
    | some j => j.tasked || x.coreList.all (fun n => (s.core n).seq.run != .running)

/-- JOB_LAUNCH. It completes when the job's first command issues. -/
def execJobLaunch (q : BitVec 20) (inputs : Option (List Byte)) (s : State) : Host.Outcome State Fault Refusal :=
  let s0 := s
  .next (s.queueRow q 0x21
    (fun s q c => if s.jobIssued (leAt c.entry 8 1) then some (s.finish q c stOK 0) else none)
    (fun s q c =>
      let e := c.entry
      let slot := leAt e 0xA 1
      match supplied inputs (16 * leAt e 0xB 1) with
      | none => s0
      | some list =>
        s.withFields q c [(8, decide (64 ≤ leAt e 8 1)), (9, decide (1 < leAt e 9 1)), (0xA, slot != 0xFF && decide (64 ≤ slot)),
            (0xB, decide (16 < leAt e 0xB 1))] (fun s =>
          s.onTask q c (fun s t =>
            match list with
            | none => s.hostError q c
            | some l => s.tryLaunch q c t l))))

/-! ## Pre-emption (R62, R259, R287, R315) -/

/-- Every core of the job has stopped at its boundary. -/
def State.allStopped (s : State) (t : Nat) : Bool :=
  match s.task t with
  | none => true
  | some x => match x.job with
    | none => true
    | some j => s.stops x j && x.coreList.all (fun n => (s.core n).atBoundary)

/-- Ask a job's cores to stop; a lift job's station asks its lift for the lap boundary (R259). -/
def State.askStop (s : State) (t : Nat) (h : Hold) : State :=
  let s := s.modJob t (fun j => { j with hold := h })
  match (s.task t).bind (·.job) with
  | some j => if j.lift then s.askQuiesce else s
  | none => s

/-- PREEMPT. -/
def execPreempt (q : BitVec 20) (s : State) : Host.Outcome State Fault Refusal :=
  let s0 := s
  .next (s.queueRow q 0x22
    (fun s q c =>
      let t := leAt c.entry 8 1
      if s.allStopped t then
        some ((s.modJob t (fun j => { j with hold := .preempted })).finish q c stOK 0)
      else none)
    (fun s q c =>
      let t := leAt c.entry 8 1
      if s.swapHolds t then s0
      else s.withFields q c [(8, decide (64 ≤ t))] (fun s =>
        s.onTask q c (fun s x => match x.job with
          | none => s.finish q c stNOTFOUND 0
          | some j =>
            if j.hold == .preempted then s.finish q c stOK 0
            else s.askStop t .preempting))))

/-! ## Saves (R334) -/

/-- The header of a save image (log entry 17, DESIGN CHOICE). -/
opaque Config.saveHeader : SaveImage → List Byte

/-- The image that bytes from the host hold; `none` where its header digest fails (log entry 17, DESIGN CHOICE). -/
opaque Config.saveImageOf : List Byte → Option SaveImage

/-- SAVE: the user regions are noted and the job is asked to stop; complete when the images are written. -/
def execSave (q : BitVec 20) (regions : Option (List Byte)) (s : State) : Host.Outcome State Fault Refusal :=
  let s0 := s
  .next (s.queueRow q 0x24
    (fun s q c =>
      match (s.task (leAt c.entry 8 1)).bind (·.job) with
      | some j => if j.hold == .saving || j.hold == .saveHeld then none else some (s.finish q c stOK 0)
      | none => some (s.finish q c stNOTFOUND 0))
    (fun s q c =>
      let e := c.entry
      let t := leAt e 8 1
      if s.swapHolds t then s0
      else match supplied regions (16 * leAt e 9 1) with
        | none => s0
        | some list =>
          s.withFields q c [(8, decide (64 ≤ t)), (9, decide (16 < leAt e 9 1))] (fun s =>
            s.onTask q c (fun s x => match x.job, list with
              | none, _ => s.finish q c stNOTFOUND 0
              | some _, none => s.hostError q c
              | some j, some l =>
                if !s.regionListOk l then s.finish q c stFIELD 0x10
                else if !s.regionsOwned (s.queueCtx q) l then s.finish q c stOWNER 1
                else (s.modJob t (fun j => { j with saveRegions := l })).askStop t
                  (if j.hold == .preempted then .saveHeld else .saving)))))

/-- The pages whose counters a core's image records: its own, and for the job's first core the LFC and TRV pages of a lift
or traverse job (R334, R335, R331). -/
def savedPages (n : Nat) (first : Bool) (j : Job) : List Nat :=
  (List.range 8).map (corePage n) ++
    (if first && j.lift then [pLFC] else []) ++ (if first && j.traverse then [pTRV .A, pTRV .B] else [])

/-- The image of one core (R334): committed words only, at its boundary. -/
def State.imageOf (s : State) (x : Task) (j : Job) (number n : Nat) : SaveImage :=
  { good := true, number := number, program := j.program,
    bundles := j.bundle.toList.map (fun b => (b, (s.bundle b.val).man.digest)), regions := j.saveRegions,
    regionDigest := s.regionDigest j.saveRegions, epoch := s.epoch, liftLen := if j.lift then s.liftLen else 0,
    position := s.liftPos, core := s.core n, job := { j with saveRegions := [], hold := .running },
    laps := s.lift.laps, demanded := s.lift.demanded,
    counters := (savedPages n (n == x.base) j).map (fun p => (equalOffsets p).map (fun o => (o, s.counter p o))) }

/-- Image slot 0 holds the newer image of the two. -/
def State.slot0Newer (s : State) (n : Nat) : Bool :=
  match s.slotImage n 0, s.slotImage n 1 with
  | some a, some b => decide (b.number ≤ a.number)
  | some _, none => true
  | none, _ => false

/-- The saved images of a core, newest first. -/
def State.images (s : State) (n : Nat) : List SaveImage :=
  if s.slot0Newer n then (s.slotImage n 0).toList ++ (s.slotImage n 1).toList
  else (s.slotImage n 1).toList ++ (s.slotImage n 0).toList

/-- Put an image into the older of a core's two slots (R334). -/
def State.saveCore (s : State) (n : Nat) (y : SaveImage) : State :=
  { s with saves := s.saves.set (fun _ => none) (2 * n + boolNat (s.slot0Newer n)) (some y) }

/-- A held lift job's lift goes back to formed: the held commands issue in their order (R259). -/
def State.leaveQuiescent (s : State) (j : Job) : State :=
  if j.lift && s.lift.state == .quiescent then s.modLift (fun l => { l with state := .formed }) else s

/-- SAVE_IMAGE_WRITE: with every core at its boundary each writes its image, and the job goes on. -/
def execSaveImageWrite (task : Fin 64) (s : State) : Host.Outcome State Fault Refusal :=
  match s.task task.val with
  | none => .next s
  | some x =>
    match x.job with
    | none => .next s
    | some j =>
      if s.phase == .ready && (j.hold == .saving || j.hold == .saveHeld) && !s.jobSwaps j && s.allStopped task.val then
        let number := s.saveNo + 1
        let s := x.coreList.foldl (fun s' n => s'.saveCore n (s.imageOf x j number n)) s
        let s := ({ s with saveNo := number }).hashed (regionBytes j.saveRegions)
        let s := s.modJob task.val (fun j => { j with saveRegions := [], hold := if j.hold == .saveHeld then .preempted else .running })
        .next (if j.hold == .saveHeld then s else s.leaveQuiescent j)
      else .next s

/-- SAVE_EXPORT: the image goes to host memory; a capacity below its length is refused (R357). -/
def execSaveExport (q : BitVec 20) (written : Bool) (s : State) : Host.Outcome State Fault Refusal :=
  .next (s.queueRow q 0x25 atOnce (fun s q c =>
    let e := c.entry
    s.withFields q c [(8, decide (64 ≤ leAt e 8 1)), (0xA, decide (1 < leAt e 0xA 1))] (fun s =>
      s.onTask q c (fun s t =>
        if t.cores ≤ leAt e 9 1 then s.finish q c stFIELD 9
        else match (s.images (t.base + leAt e 9 1))[leAt e 0xA 1]? with
          | none => s.finish q c stNOTFOUND 0
          | some x =>
            let bytes := Config.saveImageBytes x
            if leAt e 0x18 4 < bytes.length then s.finish q c stFIELD 0x18
            else if !written then s.hostError q c
            else ((s.emit (.dmaWrite (BitVec.ofNat 64 (leAt e 0x10 8)) bytes)).finish q c stOK 0)))))

/-- An image whose header digest fails. -/
def badImage : SaveImage := { (default : SaveImage) with good := false }

/-- SAVE_IMPORT: the image goes into the older slot, the task having no job (R357). -/
def execSaveImport (q : BitVec 20) (image : Option (List Byte)) (s : State) : Host.Outcome State Fault Refusal :=
  let s0 := s
  .next (s.queueRow q 0x26 atOnce (fun s q c =>
    let e := c.entry
    match supplied image (leAt e 0x18 4) with
    | none => s0
    | some got =>
      s.withFields q c [(8, decide (64 ≤ leAt e 8 1))] (fun s =>
        s.onTask q c (fun s t =>
          if t.cores ≤ leAt e 9 1 then s.finish q c stFIELD 9
          else if t.job.isSome then s.finish q c stBUSY 3
          else match got with
            | none => s.hostError q c
            | some b =>
              (s.saveCore (t.base + leAt e 9 1) ((Config.saveImageOf b).getD badImage)).finish q c stOK 0))))

/-! ## Resume (R335) -/

/-- The refusal code of a resume from the newest images (R335, R359). `n` and `x` are a core and its image. -/
def State.resumeRefusal (s : State) (t : Task) (xs : List (Nat × SaveImage)) : Option Nat :=
  match xs with
  | [] => some 8
  | (_, x) :: _ =>
    let bank := boolNat x.core.seq.bank
    let j := x.job
    if xs.any (fun y => !y.2.good) then some 8
    else if xs.any (fun y => y.2.program ≠ s.programDigest t bank) then some 9
    else if x.bundles.any (fun b => (s.bundle b.1.val).man.digest ≠ b.2) then some 10
    else if j.repro != bit (s.reg pDEV 0x44) 0 then some 11
    else if xs.any (fun y => s.regionDigest y.2.regions ≠ y.2.regionDigest) then some 12
    else if j.bookVer ≠ s.bookVersion then some 2
    else if s.presented < t.base + t.cores ∨ t.coreList.any (fun n => (s.hostOf n).isNone) ∨ s.sliceLost then some 3
    else if !s.bundleReady ((j.bundle.map (·.val)).getD 0xFF) j.lift t.cores then some 4
    else if j.lift && (!s.lift.isFormed || s.liftLen != x.liftLen || s.liftPos != x.position) then some 5
    else if t.job.isSome then some 7
    else none

/-- A core with its image restored: everything but the program banks, which are as loaded (R158, R67, R118, R148, R183). -/
def Core.restore (k : Core) (x : SaveImage) : Core :=
  let y := x.core
  let run := fun (b : ProgBank) (mine : Bool) =>
    { b with state := if mine && y.seq.run != .idle then .executing else if b.state == .executing then .valid else b.state }
  { y with seq := { y.seq with bank0 := run k.seq.bank0 (!y.seq.bank), bank1 := run k.seq.bank1 y.seq.bank },
           str := { k.str with desc := y.str.desc, quota := y.str.quota, window := y.str.window },
           nextId := max k.nextId y.nextId, task := k.task }

/-- The counters that an image records; every other counter of those pages starts at 0 (R335, R460). -/
def State.restoreCounters (s : State) (n : Nat) (first : Bool) (x : SaveImage) : State :=
  ((savedPages n first x.job).zip x.counters).foldl (fun s y =>
    s.modPage y.1 (fun g => { g with
      counters := y.2.foldl (fun m e => m.set (fun _ => 0) e.1 e.2) [], work := [], since := s.time })) s

/-- Restore a job from its images. -/
def State.resumeJob (s : State) (tid : Nat) (t : Task) (xs : List (Nat × SaveImage)) : State :=
  match xs with
  | [] => s
  | (n0, x0) :: _ =>
    let j := { x0.job with resumed := some (sha3x512 (Config.saveHeader x0)), hold := .running, tasked := false }
    let s := s.setTask tid (some { t with job := some j })
    let s := if j.lift then (s.launchLift j.demandCores).modLift (fun l => { l with laps := x0.laps, demanded := x0.demanded }) else s
    let s := if j.traverse then s.launchTraverse j.trvEpoch ((s.core n0).seq.bankOf (boolNat x0.core.seq.bank)).image else s
    xs.foldl (fun s y =>
      let s := s.modCore y.1 (fun k => k.restore y.2)
      let s := s.restoreCounters y.1 (y.1 == t.base) y.2
      s.setReg (corePage y.1 kTRK) 0x40 (word (4 * boolNat j.tracks + 3 * boolNat j.repro))) s

/-- RESUME: source 0 continues a pre-empted job; source 1 restores the newest images (R335). -/
def execResume (q : BitVec 20) (s : State) : Host.Outcome State Fault Refusal :=
  .next (s.queueRow q 0x23
    (fun s q c => if s.jobIssued (leAt c.entry 8 1) then some (s.finish q c stOK 0) else none)
    (fun s q c =>
      let tid := leAt c.entry 8 1
      s.withFields q c [(8, decide (64 ≤ tid)), (9, decide (1 < leAt c.entry 9 1))] (fun s =>
        s.onTask q c (fun s t =>
          if leAt c.entry 9 1 = 0 then
            match t.job with
            | none => s.finish q c stNOTFOUND 0
            | some j => (s.modJob tid (fun j => { j with hold := .running, tasked := j.tasked && j.hold == .running })).leaveQuiescent j
          else
            let xs := t.coreList.filterMap (fun n => (s.images n).head?.map (fun x => (n, x)))
            if xs.length ≠ t.cores then s.finish q c stNOTFOUND 0
            else match s.resumeRefusal t xs with
              | some code => s.finish q c stREFUSED (0x100 + code)
              | none => s.resumeJob tid t xs))))

/-! ## Provenance (R333, R357) -/

/-- PROVENANCE: a record of the last 64 jobs, once it is signed. -/
def execProvenance (q : BitVec 20) (written : Bool) (s : State) : Host.Outcome State Fault Refusal :=
  let find := fun (s : State) (c : Started) => s.host.records.find? (fun r => r.job.toNat == leAt c.entry 8 8)
  let send := fun (s : State) (q : Nat) (c : Started) => match find s c with
    | none => some (s.finish q c stNOTFOUND 0)
    | some r => r.sig.map (fun sig =>
      if !written then s.hostError q c
      else (s.emit (.dmaWrite (BitVec.ofNat 64 (leAt c.entry 0x10 8)) (r.body ++ sig))).finish q c stOK 0)
  .next (s.queueRow q 0x28 send (fun s q c => s.withFields q c [] (fun s => (send s q c).getD s)))

end Sys2Proof.Machine
end

