-- ==== Sys2Proof/Machine/Hbm.lean ====
section
/-!
DEFINITION. The HBM stacks: refresh windows and calibration (R213, R214), uncorrectable reads (R215), repair and retirement
(R216, R217), self-refresh (R411) and temperature (R228).
-/
namespace Sys2Proof.Machine

/-- The physical slice of a channel (R203). -/
def chanSlice (stack ch : Nat) : Nat := (32 * stack + ch) / 10

/-- The presented core whose slice holds a channel. -/
def State.chanCore (s : State) (stack ch : Nat) : Option Nat := s.sliceCore (chanSlice stack ch)

/-- INFO0 of an HBM event (R229). -/
def hbmInfo (bitNo bank ch : Nat) : Word := cause bitNo (bank * 32 + ch)

/-- A slice is retired (R217): it goes to the journal, its channels leave service, the job on its core faults with the event
`bitNo` of its stack's page, and SLICE_RETIRED is raised on its stacks' pages and the SLS page. -/
def State.retireSlice (s : State) (p stack bitNo : Nat) : State :=
  if s.retired.contains p then s
  else
    let s := { s with retired := s.retired ++ [p], toJournal := s.toJournal ++ [Repair.mk 6 [p]] }
    let chans := (List.range 10).map (fun m => 10 * p + m)
    let s := chans.foldl (fun s c => s.modChan (c / 32) (c % 32) (fun x => { x with state := 2, retrain := false })) s
    let core := s.sliceCore p
    let s := match core.bind (fun n => (s.core n).task) with
      | some t => s.faultTask t.val (s.faultCode (pHBM stack) bitNo)
      | none => s
    let s := ((chans.map (· / 32)).eraseDups).foldl (fun s st => s.raise (pHBM st) 5 (hbmInfo 5 0 0) 0) s
    s.raise pSLS 1 (cause 1 ((core.bind s.hostOf).getD 0 * 64 + p)) (word s.epoch.toNat)

/-- The channel is in service, and its slice's controller refreshes it. -/
def State.chanRuns (s : State) (stack ch : Nat) : Bool :=
  s.phase == .ready && (s.chan stack ch).state == 0 &&
    (match s.chanCore stack ch with
      | some n => !(s.core n).str.asleep
      | none => true)

/-- A stack row of the calibration part on a channel of a slice: its four units (R203, R214). Which row a probe takes the spec
does not say: a free value (log entry 78, DESIGN CHOICE). -/
def State.calibrationRow (s : State) (ch : Nat) : List Nat :=
  let first := (0x4FF100000 / 512 + 39) / 40
  let rows := 0x4FF200000 / 512 / 40 - first
  let g := first + (Config.freeWord s.free).toNat % rows
  (List.range 4).map (fun i => 40 * g + 10 * i + ch)

/-- A probe writes and reads a calibration row (R214). What it writes is not given: free values. -/
def State.writeCalibration (s : State) (stack ch : Nat) : State :=
  match s.chanCore stack ch with
  | none => s
  | some n =>
    let us := s.calibrationRow ((32 * stack + ch) % 10)
    (s.setUnits n (us.zipIdx.map (fun u => (u.1, Config.freeRow (s.free + u.2))))).takeFree 4

/-- Transfers that hold tags are queued for a channel of a core's slice: they wait while its window lasts, for steps that the
spec does not number (R213, R226). -/
def State.windowWait (s : State) (stack ch : Nat) : State :=
  match s.chanCore stack ch with
  | none => s
  | some n =>
    let k := s.core n
    if k.inflight.any (fun c => match c.op with
        | .stream x => decide (0 < c.tags) && (k.streamUnits x).any (fun u => u % 10 == (32 * stack + ch) % 10)
        | _ => false) then s.countFree (corePage n kSTR) 0x120
    else s

/-- A calibration probe: a margin below HBM_CAL_MIN raises CAL_LOW, and three in a row call for a retraining (R214). -/
def State.probe (s : State) (stack ch : Nat) (margin : Byte) : State :=
  let s := (s.count (pHBM stack) 0x108 1).writeCalibration stack ch
  if margin.toNat < bits (s.reg (pHBM stack) 0x44) 7 0 then
    let k := (s.chan stack ch).lowProbes + 1
    (s.modChan stack ch (fun x => { x with margin := margin, lowProbes := k, retrain := decide (3 ≤ k) })).raise (pHBM stack) 1
      (hbmInfo 1 0 ch) 0
  else s.modChan stack ch (fun x => { x with margin := margin, lowProbes := 0 })

/-- HBM_REFRESH_WINDOW: every fourth window carries a probe where CAL_EN is 1 (R213, R214). A channel that is to retrain
takes its next window as CHANNEL_RETRAIN. -/
def execHbmRefreshWindow (stack : Nat) (ch : Fin 32) (marginPs : Byte) (s : State) : Host.Outcome State Fault Refusal :=
  if 20 ≤ stack then .fault .noSuchUnit
  else if !s.chanRuns stack ch.val || (s.chan stack ch.val).retrain then .next s
  else
    let due := (s.chan stack ch.val).windows = 0
    let s := (s.count (pHBM stack) 0x100 1).windowWait stack ch.val
    let s := s.modChan stack ch.val (fun x => { x with windows := if x.windows = 0 then 3 else x.windows - 1 })
    .next (if due ∧ bit (s.reg (pHBM stack) 0x40) 0 = true then s.probe stack ch.val marginPs else s)

/-- CHANNEL_RETRAIN: a failure raises RETRAIN_FAIL and retires the slice (R214, R217). -/
def execChannelRetrain (stack : Nat) (ch : Fin 32) (trained : Bool) (s : State) : Host.Outcome State Fault Refusal :=
  if 20 ≤ stack then .fault .noSuchUnit
  else if !s.chanRuns stack ch.val || !(s.chan stack ch.val).retrain then .next s
  else
    let s := ((s.count (pHBM stack) 0x100 1).count (pHBM stack) 0x110 1).windowWait stack ch.val
    let s := s.modChan stack ch.val (fun x => { x with retrain := false, lowProbes := 0, windows := 0 })
    .next (if trained then s
      else (s.raise (pHBM stack) 2 (hbmInfo 2 0 ch.val) 0).retireSlice (chanSlice stack ch.val) stack 2)

/-! ## Uncorrectable reads (R215) -/

/-- The sweep takes weights from this unit of the slice (R484). -/
def Core.sweepTakes (k : Core) (unit id : Nat) : Bool :=
  match (k.command id).map EngCmd.op with
  | some (.sweep x) => x.stream && decide (x.slice.toNat / 512 ≤ unit) && decide (unit < x.slice.toNat / 512 + x.streamUnits)
  | _ => false

/-- The command that a read of a unit feeds, where there is one: the oldest running pass of the partition, the oldest running
sweep that takes weights from the unit, the front STREAM from the slice on the context, the oldest LAUNCH from the slice
whose units are not read yet. -/
def Core.fedBy (k : Core) (unit : Nat) : Feeding → Option Nat
  | .pass p => (k.arr.part p.val).running.head?.map (·.cmd)
  | .sweep => (k.sch.running.map (·.cmd)).find? (k.sweepTakes unit)
  | .stream c => (k.queueOf (.ctx c)).head?.bind (fun d => match d.op with
      | .stream x => if x.out || d.stage != .queued then none else some d.id
      | _ => none)
  | .launch => (k.inflight.find? (fun d => match d.op with
      | .launch x => x.slice && d.stage == .queued
      | _ => false)).map (·.id)

/-- What a persistent report does to its consumer (R215). -/
def State.feedLost (s : State) (n u cmd : Nat) (feeds : Feeding) : State :=
  let ue := fun (s : State) (ctx : Nat) => (s.raiseFault n kSTR 6 (strInfo 0 6 ctx) (word u)).dropCmd n cmd
  match feeds with
  | .pass p => s.abortPass n p.val cmd 3 0
  | .sweep => s.abortSweep n cmd 3 0
  | .stream c => ue s c.val
  | .launch => (ue s 0).modLift (fun l => { l with ownQ := l.ownQ.filter (fun o => !(o.core == n && o.cmd == cmd)) })

/-- HBM_READ_REPORT: the read is made again up to UE_RETRY times; a report that persists raises HBM_UE, marks the row and goes
to the consumer. `badReads` counts the reports. -/
def execHbmReadReport (n : CoreId) (unit : Nat) (badReads : Nat) (feeds : Feeding) (s : State) :
    Host.Outcome State Fault Refusal :=
  let (stack, ch, bank, row) := s.unitPlace n.val unit
  match (s.core n.val).fedBy unit feeds with
  | none => .next s
  | some cmd =>
    if s.phase != .ready || !s.isPresented n.val || badReads = 0 || sliceUnits ≤ unit then .next s
    else
      let retry := bits (s.reg (pHBM stack) 0x40) 2 1
      let bad := min badReads (retry + 1)
      let s := s.count (pHBM stack) 0x120 bad
      let s := if min bad retry = 0 then s else s.count (corePage n.val kSTR) 0x138 (min bad retry)
      if badReads ≤ retry then .next s
      else
        let s := s.raise (pHBM stack) 0 (hbmInfo 0 bank ch) (word row)
        .next ((s.markRow n.val unit).feedLost n.val unit cmd feeds)

/-! ## Repair (R216) -/

/-- A row's journal record (R435). -/
def rowRecord (kind stack ch bank row : Nat) : Repair := { kind := kind, payload := [stack, ch, bank, row] }

/-- The rows of a stack that are marked and have had no soft repair, and whose slice's core has no job. -/
def State.softDue (s : State) (stack : Nat) : List (Nat × Nat × Nat) :=
  ((List.range 32).map (fun ch =>
    let free := match s.chanCore stack ch with
      | some n => (s.coreJob n).isNone
      | none => true
    let known := s.flash.journal ++ s.toJournal
    if free then
      ((s.chan stack ch).marked.filter (fun x => !known.contains (rowRecord 4 stack ch x.1 x.2))).map (fun x => (ch, x.1, x.2))
    else [])).flatten

/-- SOFT_REPAIR: the row goes to the journal; without a repair resource PPR_FULL retires the slice (R216, R217). -/
def execSoftRepair (stack : Nat) (room : Bool) (s : State) : Host.Outcome State Fault Refusal :=
  if 20 ≤ stack then .fault .noSuchUnit
  else if s.phase != .ready then .next s
  else match (s.softDue stack).head? with
    | none => .next s
    | some (ch, bank, row) =>
      if room then
        .next (({ s with toJournal := s.toJournal ++ [rowRecord 4 stack ch bank row] }).count (pHBM stack) 0x128 1)
      else
        .next ((s.raise (pHBM stack) 3 (hbmInfo 3 bank ch) (word row)).retireSlice (chanSlice stack ch) stack 3)

/-! ## Self-refresh and temperature (R411, R228) -/

/-- HBM_SELF_REFRESH: HBM_SR_EN is 1 and the core is in no task; the 10 ms without a window access are the command's. -/
def execHbmSelfRefresh (n : CoreId) (s : State) : Host.Outcome State Fault Refusal :=
  let k := s.core n.val
  if s.phase == .ready && s.isPresented n.val && bit (s.reg pPWR 0x40) 2 && k.task.isNone && !k.str.asleep &&
      !k.str.drill.running then
    .next ((s.modStr n.val (fun x => { x with asleep := true, waking := false })).count pPWR 0x120 1)
  else .next s

/-- SELF_REFRESH_EXIT: the next refresh window of each of the slice's channels carries a probe. -/
def execSelfRefreshExit (n : CoreId) (s : State) : Host.Outcome State Fault Refusal :=
  if s.phase == .ready && (s.core n.val).str.waking then
    let s := s.modStr n.val (fun x => { x with asleep := false, waking := false })
    let p := s.physSlice n.val
    .next ((List.range 10).foldl (fun s m =>
      s.modChan ((10 * p + m) / 32) ((10 * p + m) % 32) (fun x => { x with windows := 0 })) s)
  else .next s

/-- STACK_HOT: the stack's temperature is above HBM_TEMP.LIMIT. -/
def execStackHot (stack : Nat) (temp : BitVec 16) (s : State) : Host.Outcome State Fault Refusal :=
  if 20 ≤ stack then .fault .noSuchUnit
  else
    let r := s.reg (pHBM stack) 0x4C
    if s.phase == .ready && decide (bits r 31 16 < temp.toNat) then
      .next (({ s with hot := s.hot.set (fun _ => none) stack (some (s.time, temp)) }).raise (pHBM stack) 4 (hbmInfo 4 0 0) 0)
    else .next s

end Sys2Proof.Machine
end

