-- ==== Sys2Proof/Machine/Power.lean ====
section
/-!
DEFINITION. The margin controller, caps, thermal limits and AVSBus (R401-R412).
-/
namespace Sys2Proof.Machine

def clampNat (lo hi x : Nat) : Nat := max lo (min hi x)

/-- CAP_RATE and THERM_RATE (R420). -/
def State.capRate (s : State) : Nat := bits (s.reg pPWR 0x4C) 31 16
def State.thermRate (s : State) : Nat := bits (s.reg pPWR 0x4C) 15 0

def State.setRates (s : State) (cap therm : Nat) : State := s.setReg pPWR 0x4C (word (cap * 65536 + therm))

def State.rateMax (s : State) : Nat := clampNat 750 1900 (bits (s.reg pMRG 0x44) 15 0)

/-- The target rate of the part (R402). -/
def State.targetRate (s : State) : Nat := min s.rateMax (min s.capRate s.thermRate)

def State.minPct (s : State) : Nat := bits (s.reg pMRG 0x48) 15 8

def State.floorPct (s : State) : Nat := max 3 (bits (s.reg pMRG 0x48) 7 0)

def State.loopOn (s : State) : Bool := bit (s.reg pMRG 0x40) 0

/-! ## The speed table (R401, R432) -/

/-- Entry (d, t, r); `none` is 0xFFFF. -/
def Flash.speedAt (f : Flash) (d t r : Nat) : Option Nat :=
  let v := f.speed.get (fun _ => 0xFFFF) (96 * d + 24 * t + r)
  if v = 0xFFFF then none else some v

def tempPoint (t : Nat) : Int := [25, 55, 85, 105].getD t 105

/-- The voltage for rate number `r` at a temperature, in 1/60 mV, interpolated in temperature. -/
def Flash.atTemp (f : Flash) (d r : Nat) (temp : Int) : Option Int :=
  let at_ := fun (t : Nat) => (f.speedAt d t r).map (fun v => (v : Int))
  let mix := fun (t : Nat) =>
    let lo := tempPoint t
    let hi := tempPoint (t + 1)
    if temp = lo then (at_ t).map (· * 60)
    else (at_ t).bind (fun a => (at_ (t + 1)).map (fun b => (a * (hi - temp) + b * (temp - lo)) * (60 / (hi - lo))))
  if temp < 25 then (at_ 0).bind (fun a => (at_ 1).map (fun b => max a b * 60))
  else if temp < 55 then mix 0
  else if temp < 85 then mix 1
  else if temp < 105 then mix 2
  else (at_ 3).map (· * 60)

/-- The table voltage for a rate of 750 to 1,900 at a temperature, in 1/3000 mV; `none` where the result is 0xFFFF. -/
def Flash.voltage (f : Flash) (d rate : Nat) (temp : Int) : Option Int :=
  let r := (rate - 750) / 50
  let x : Int := ((rate - 750) % 50 : Nat)
  if x = 0 then (f.atTemp d r temp).map (· * 50)
  else (f.atTemp d r temp).bind (fun a => (f.atTemp d (r + 1) temp).map (fun b => a * (50 - x) + b * x))

/-- Round up to 5 mV and clamp to 550-850 mV; the argument is in 1/3000 mV. -/
def railPoint (v : Int) : Nat := clampNat 550 850 (5 * ((v + 14999) / 15000).toNat)

/-! ## Setpoints (R402, R407) -/

/-- Steps of at most 25 mV from one setpoint to another. -/
def railSteps (fuel a b : Nat) : List Nat :=
  match fuel with
  | 0 => []
  | fuel + 1 =>
    if a = b then []
    else
      let c := if a < b then min b (a + 25) else max b (a - 25)
      c :: railSteps fuel c b

/-- Write a die's setpoint over AVSBus, if it changes. -/
def State.setPoint (s : State) (d mv : Nat) : State :=
  let steps := railSteps 40 (s.die d).setpoint mv
  let s := steps.foldl (fun s v => s.emit (.avsWrite (Fin.ofNat 4 d) v)) s
  let s := if steps.isEmpty then s else s.count pMRG 0x110 steps.length
  s.modDie d (fun x => { x with setpoint := mv })

/-- The setpoint that R402 gives a die. -/
def State.wanted (s : State) (d : Nat) : Nat :=
  let x := s.die d
  if 3 ≤ (x.excluded.filter (fun i => decide (24 ≤ i))).length then 850
  else match s.flash.voltage d s.targetRate x.hottest with
    | none => 850
    | some v => railPoint (v + 3000 * ((bits (s.reg pMRG 0x4C) 7 0 : Nat) - (x.offset : Int) + (x.need : Int)))

/-- Apply R402 to a die: setpoints are held with LOOP_EN = 0, and where the regulator does not answer. -/
def State.applyRail (s : State) (d : Nat) : State :=
  if s.loopOn && (s.die d).avsOk then s.setPoint d (s.wanted d) else s

/-- Report an MRG event (R414). -/
def State.mrgRaise (s : State) (bitNo d sentinel : Nat) : State :=
  s.raise pMRG bitNo (cause bitNo (d * 256 + sentinel)) (word ((s.die d).setpoint * 65536 + (s.die d).measured))

/-! ## Samples (R404) -/

/-- Insert into a rising list. -/
def insertInt (x : Int) : List Int → List Int
  | [] => [x]
  | y :: t => if x ≤ y then x :: y :: t else y :: insertInt x t

/-- Twice the median: of an even count, the sum of the two middle values (log entry 42, DEDUCED). -/
def median2 (xs : List Int) : Int :=
  let ys := xs.foldr insertInt []
  let n := ys.length
  ys.getD ((n - 1) / 2) 0 + ys.getD (n / 2) 0

/-- Sentinels not excluded whose reading differs from the median of their kind by more than 10 percent. -/
def outliers (xs : List (Nat × Int)) : List Nat :=
  let m := median2 (xs.map (·.2))
  (xs.filter (fun x => decide (m.natAbs < 10 * (2 * x.2 - m).natAbs))).map (·.1)

/-- One die's sample: outliers are excluded until reset, the readings kept, and one more step of 5 mV asked for while a
detector reads below MIN_PCT (R404, R405). -/
def State.sampleDie (s : State) (d : Nat) (x : DieSample) : State :=
  let rings := x.rings.zipIdx.map (fun y => (y.2, (y.1 : Int)))
  let dets := x.detectors.zipIdx.map (fun y => (24 + y.2, y.1))
  let live := fun (s : State) (ys : List (Nat × Int)) => ys.filter (fun y => !(s.die d).excluded.contains y.1)
  let bad := outliers (live s rings) ++ outliers (live s dets)
  let s := s.modDie d (fun y => { y with excluded := y.excluded ++ bad })
  let rates := (live s rings).map (·.2)
  let margins := (live s dets).map (·.2)
  let least := match margins with
    | [] => 0
    | m :: t => t.foldl min m
  let short := !margins.isEmpty && decide (least < (s.minPct : Int))
  let s := s.modDie d (fun y => { y with hottest := x.hottest, measured := (median2 rates / 2).toNat, least := least,
                                         need := if short && s.loopOn then y.need + 5 else y.need })
  let s := bad.foldl (fun s i => s.mrgRaise 5 d i) s
  let s := s.applyRail d
  if (s.die d).setpoint = 850 ∧ (s.die d).measured < s.targetRate then s.mrgRaise 2 d 0 else s

/-- MARGIN_SAMPLE: every die's sentinels, and the setpoints that follow from them. -/
def execMarginSample (dies : List DieSample) (s : State) : Host.Outcome State Fault Refusal :=
  if s.phase == .ready && dies.length == 4 then
    .next (dies.zipIdx.foldl (fun s x => s.sampleDie x.2 x.1) s)
  else .next s

/-! ## Stretching and learning (R405, R406) -/

/-- Undo the last learning step. -/
def State.unlearn (s : State) (d : Nat) : State :=
  if bit (s.reg pMRG 0x40) 1 && decide (5 ≤ (s.die d).offset) then
    (s.modDie d (fun x => { x with offset := x.offset - 5 })).modPage pMRG (fun p =>
      { p with counters := p.counters.set (fun _ => 0) 0x120 (p.counters.get (fun _ => 0) 0x120 - 1) })
  else s

/-- STRETCH: a detector fell below the floor; the delays stretch and the setpoint rises by 10 mV. -/
def execStretch (die : Fin 4) (s : State) : Host.Outcome State Fault Refusal :=
  let d := die.val
  if s.phase != .ready || (s.die d).stretched then .next s
  else
    let s := (s.modDie d (fun x => { x with stretched := true })).count pMRG 0x100 1
    let s := s.unlearn d
    let s := if s.loopOn then (s.modDie d (fun x => { x with need := x.need + 10 })).applyRail d else s
    .next (s.mrgRaise 0 d 24)

/-- STRETCH_END: every detector has held MIN_PCT for 100 us. -/
def execStretchEnd (die : Fin 4) (s : State) : Host.Outcome State Fault Refusal :=
  let x := s.die die.val
  if s.phase == .ready && x.stretched && decide ((s.minPct : Int) ≤ x.least) then
    .next (s.modDie die.val (fun x => { x with stretched := false }))
  else .next s

/-- MARGIN_LOW: the stretch has been held longer than 1 ms. -/
def execMarginLow (die : Fin 4) (s : State) : Host.Outcome State Fault Refusal :=
  if s.phase == .ready && (s.die die.val).stretched then .next (s.mrgRaise 1 die.val 24) else .next s

/-- LEARN_STEP: after 10 ms at a steady target with every detector 2 points above MIN_PCT, the setpoint falls 5 mV and the
learned offset grows, up to LEARN_MAX_MV. -/
def execLearnStep (die : Fin 4) (s : State) : Host.Outcome State Fault Refusal :=
  let d := die.val
  let x := s.die d
  if s.phase == .ready && s.loopOn && bit (s.reg pMRG 0x40) 1 && !x.stretched && decide ((s.minPct : Int) + 2 ≤ x.least) &&
      decide (x.offset + 5 ≤ bits (s.reg pMRG 0x4C) 15 8) then
    .next (((s.modDie d (fun x => { x with offset := x.offset + 5 })).applyRail d).count pMRG 0x120 1)
  else .next s

/-! ## AVSBus read-back (R407, R422) -/

/-- AVS_READBACK: without an answer after three retries AVS_FAIL; a read-back more than 25 mV from the on-die sensors is
VSENSE_MISMATCH. -/
def execAvsReadback (rail : Fin 4) (r : Option RailReading) (s : State) : Host.Outcome State Fault Refusal :=
  let d := rail.val
  if s.phase != .ready then .next s
  else match r with
    | none =>
      .next (((s.modDie d (fun x => { x with avsOk := false })).count pMRG 0x118 3).mrgRaise 3 d 0)
    | some x =>
      let s := s.modDie d (fun y => { y with avsOk := true })
      let s := if x.retries = 0 then s else s.count pMRG 0x118 x.retries
      let s := (s.setReg pPWR (0x400 + 8 * d) (word (x.tempC.toNat * 65536 + x.millivolt.toNat))).setReg pPWR (0x404 + 8 * d)
        (word x.deciamp.toNat)
      let off := (x.millivolt.toNat : Int) - (x.onDieMv.toNat : Int)
      .next (if 25 < off.natAbs then s.mrgRaise 4 d 0 else s)

/-! ## Caps and thermal limits (R408-R410) -/

/-- The hottest sensor of the last samples, and its die. -/
def State.hottestDie (s : State) : Nat × Int :=
  (List.range 4).foldl (fun m d => if m.2 < (s.die d).hottest then (d, (s.die d).hottest) else m) (0, (s.die 0).hottest)

/-- Report a PWR event (R419). -/
def State.pwrRaise (s : State) (bitNo die : Nat) (temp : Int) : State :=
  s.raise pPWR bitNo (cause bitNo die) (word (bits (s.reg pPWR 0x50) 15 0 * 65536 + (temp % 256).toNat))

/-- The setpoints follow a new target. -/
def State.applyRails (s : State) : State := (List.range 4).foldl State.applyRail s

/-- CAP_INTERVAL: the part's average power against the cap. -/
def execCapInterval (watts other : BitVec 16) (s : State) : Host.Outcome State Fault Refusal :=
  if s.phase != .ready then .next s
  else
    let interval := max 1 (bits (s.reg pPWR 0x44) 31 16)
    let cap := bits (s.reg pPWR 0x44) 15 0
    let s := ((s.setReg pPWR 0x50 (watts.setWidth 32)).setReg pPWR 0x54 (other.setWidth 32)).count pPWR 0x100 (watts.toNat * interval)
    let (hot, temp) := s.hottestDie
    if !bit (s.reg pPWR 0x40) 0 then .next { s with capMiss := 0 }
    else if cap < watts.toNat then
      if 750 < s.capRate then
        .next ((({ s with capMiss := 0 }).setRates (max 750 (s.capRate - 25)) s.thermRate).applyRails.pwrRaise 0 hot temp)
      else
        let s := { s with capMiss := s.capMiss + 1 }
        .next (if s.capMiss = 10 then s.pwrRaise 1 hot temp else s)
    else
      let s := { s with capMiss := 0 }
      .next (if watts.toNat * 100 < cap * 97 then (s.setRates (min 1900 (s.capRate + 25)) s.thermRate).applyRails else s)

/-- THERM_STEP: one adjustment of THERM_RATE that has fallen due. -/
def execThermStep (hottest : List Int) (s : State) : Host.Outcome State Fault Refusal :=
  if s.phase != .ready || hottest.length != 4 then .next s
  else
    let limit : Int := (min 105 (bits (s.reg pPWR 0x48) 7 0) : Nat)
    let (hot, temp) := (List.range 4).foldl (fun (m : Nat × Int) d => if m.2 < hottest.getD d 0 then (d, hottest.getD d 0) else m)
      (0, hottest.getD 0 0)
    if limit < temp then
      let crit := decide (110 ≤ temp)
      let s := (s.setRates s.capRate (if crit then 750 else max 750 (s.thermRate - 50))).applyRails.pwrRaise 2 hot temp
      .next (if crit then s.pwrRaise 3 hot temp else s)
    else if temp + 3 ≤ limit then .next (s.setRates s.capRate (min 1900 (s.thermRate + 25))).applyRails
    else .next s

/-- THERMTRIP: every engine, port and PHY stops and the rails go to 550 mV; the trip is latched until POR_N falls (R410,
R475). Which die's sensor tripped is a free value. -/
def execThermtrip (s : State) : Host.Outcome State Fault Refusal :=
  if s.phase == .off || s.phase == .inReset || s.phase == .tripped then .next s
  else
    let die := (Config.freeWord s.free).toNat % 5
    let s := (s.takeFree 1).pwrRaise 4 die 115
    .next { (List.range 4).foldl (fun s d => s.modDie d (fun x => { x with setpoint := 550 })) s with phase := .tripped, trip := true }

/-! ## Alerts (R412) -/

/-- ALERT_N is asserted while a selected MRG or PWR event is set. -/
def State.alert (s : State) : Bool :=
  ((s.page pMRG).err.toNat &&& bits (s.reg pMRG 0x40) 13 8) != 0 || ((s.page pPWR).err.toNat &&& bits (s.reg pPWR 0x40) 12 8) != 0

end Sys2Proof.Machine
end

