-- ==== Sys2Proof/Machine/Window.lean ====
section
/-!
DEFINITION. The CXL.mem window (R344-R346): what an access meets, the window buffer, and the write that reaches HBM.
-/
namespace Sys2Proof.Machine

/-- Bytes of one logical core's part of the window (R344). -/
def windowCore : Nat := 0x500000000

/-- What a window address meets (R345). -/
inductive WinTarget where
  | region | extent (loading : Bool) | outside | reserved | retired
  deriving DecidableEq, Repr

/-- The segment of a bundle's extent that holds a slice address may be written: it is LOADING (R301, R345). -/
def Bundle.writable (x : Bundle) (n a : Nat) : Bool :=
  x.live.any (fun g => g.core == n && decide (g.place ≤ a) && decide (a < g.place + g.len) && x.delivers g)

/-- R345, for byte `a` of core `n`'s slice. -/
def State.winTarget (s : State) (n a : Nat) : WinTarget :=
  if sliceUser ≤ a then .reserved
  else if s.retired.contains (s.physSlice n) then .retired
  else if (0 :: s.host.contexts.map (·.1)).any (fun c => (s.context c).live &&
      (s.context c).regions.any (fun r => r.core.val == n && decide (r.base ≤ a) && decide (a < r.base + r.len))) then .region
  else if (List.range 64).any (fun b => (s.bundle b).extents.any (fun x =>
      x.1.val == n && decide (x.2.1 ≤ a) && decide (a < x.2.1 + x.2.2))) then
    .extent ((List.range 64).any (fun b => (s.bundle b).writable n a))
  else .outside

def WinTarget.reads : WinTarget → Bool
  | .region | .extent _ => true
  | .outside | .reserved | .retired => false

/-- DETAIL of WINDOW_DISCARD (R369); `none`: the write is performed. -/
def WinTarget.discard : WinTarget → Option Nat
  | .region | .extent true => none
  | .outside => some 0
  | .extent false => some 1
  | .reserved => some 2
  | .retired => some 3

/-- A whole 64-byte line inside the window. -/
def State.inWindow (s : State) (offset : Nat) : Bool :=
  s.phase == .ready && offset % 64 == 0 && decide (offset < s.presented * windowCore)

/-- WINDOW_READ: 64 bytes, or 0 (R345). A slice in self-refresh is woken first (R411). -/
def execWindowRead (offset : Nat) (s : State) : Host.Outcome State Fault Refusal :=
  if !s.inWindow offset then .next s
  else
    let n := offset / windowCore
    let a := offset % windowCore
    let done := fun (v : BitVec 512) => (s.modHost (fun h => { h with readData := v })).count pHOST 0x118 64
    if (s.winTarget n a).reads then
      if (s.core n).str.asleep then .next (s.wakeSlice n)
      else .next (done ((s.unit n (a / 512)).extractLsb' (8 * (a % 512)) 512))
    else .next (done 0)

/-- WINDOW_WRITE: the write enters the window buffer, which is its completion (R346). -/
def execWindowWrite (offset : Nat) (data : BitVec 512) (enable : BitVec 64) (s : State) : Host.Outcome State Fault Refusal :=
  if !s.inWindow offset then .next s
  else .next (s.modHost (fun h =>
    { h with winBuf := h.winBuf ++ [{ number := h.winCount, offset := offset, data := data, enable := enable }],
             winCount := h.winCount + 1 }))

/-- The bits of a line that byte enables select. -/
def enableMask (enable : BitVec 64) : BitVec 512 :=
  (List.range 64).foldl (fun m i => if bit enable i then m ||| (0xFF#512 <<< (8 * i)) else m) 0

/-- A unit with the enabled bytes of one of its lines replaced. -/
def setLine (r : Row) (at_ : Nat) (data : BitVec 512) (enable : BitVec 64) : Row :=
  let m := (enableMask enable).setWidth 4096 <<< (8 * at_)
  (r &&& ~~~m) ||| ((data.setWidth 4096 <<< (8 * at_)) &&& m)

/-- WINDOW_WRITE_PERFORM: a buffered write reaches HBM, or is discarded (R345, R346). -/
def execWindowWritePerform (index : Nat) (s : State) : Host.Outcome State Fault Refusal :=
  match s.host.winBuf[index]? with
  | none => .next s
  | some w =>
    if s.phase != .ready then .next s
    else
      let n := w.offset / windowCore
      let a := w.offset % windowCore
      let s' := s.modHost (fun h => { h with winBuf := h.winBuf.eraseIdx index })
      match (s.winTarget n a).discard with
      | some d =>
        .next ((s'.count pHOST 0x128 1).raise pHOST 3 (cause 3 (d * 2 ^ 24 + bits (BitVec.ofNat 48 w.offset) 47 32))
          (word w.offset))
      | none =>
        if (s.core n).str.asleep then .next (s.wakeSlice n)
        else .next ((s'.setUnit n (a / 512) (setLine (s.unit n (a / 512)) (a % 512) w.data w.enable)).count pHOST 0x120
          (popcount w.enable))

end Sys2Proof.Machine
end

