-- ==== Sys2Proof/Machine/Completion.lean ====
section
/-!
DEFINITION. COMMAND_COMPLETION (R162, R165): an issued engine command makes its accesses when it may, and completes when
they are over. Passes, sweeps, table loads under way and streams have rows of their own.
-/
namespace Sys2Proof.Machine

/-- An issued command goes on as far as it can. -/
def performCmd (n : Nat) (s : State) (c : EngCmd) : State :=
  match c.op with
  | .rowld _ _ | .rowst _ _ => performRowPath n s c
  | .drain _ | .fill _ => performAcc n s c
  | .vload _ _ _ _ => performVload n s c
  | .sdrain _ => performSdrain n s c
  | .tload _ _ _ => performTload n s c
  | .rowop _ => performRowop n s c
  | .call _ => performCall n s c
  | .launch _ => performLaunch n s c
  | .demand _ => performDemand n s c
  | .grad _ => performGrad n s c
  | .trav _ => performTrav n s c
  | .release _ _ => performRelease n s c
  | .pass _ | .sweep _ | .stream _ | .signalOnly => s

/-- Commands whose completion this row is. -/
def EngCmd.completes (c : EngCmd) : Bool :=
  match c.op with
  | .pass _ | .sweep _ | .stream _ | .signalOnly => false
  | _ => true

/-- A collective under way whose own result can land (R283). -/
def State.landDue (s : State) (n : Nat) (c : EngCmd) : Bool :=
  [TPort.A, TPort.B].any (fun p => match s.findOpen p n c.id with
    | some o => o.ownDue && (let seq := s.resultSeq o (rankOf o.group (s.ownTrv p))
        s.canLand n seq (s.landSlots n o.chunk.length))
    | none => false)

/-- The command of a requester that is next to go on: its oldest, past the sweeps of the schuss path, past traverse
commands that only wait for their peers (R275, R282), and past table loads that wait for references (R116). -/
def State.nextCmd (s : State) (n : Nat) (r : Requester) : Option EngCmd :=
  let q := ((s.core n).queueOf r).filter EngCmd.completes
  match q.find? (fun c => c.stage == .performed) with
  | some c => some c
  | none =>
    if r == .traverse then
      match q.find? (s.landDue n) with
      | some c => some c
      | none => q.find? (fun c => c.stage == .queued)
    else if r == .expander then
      match q.find? (fun c => (c.loadsSlot).any (fun slot =>
          (s.core n).loadReady c slot && !(s.core n).consumerAhead c slot)) with
      | some c => some c
      | none => q.head?
    else q.head?

/-- What holds a command that has not begun, counted as one step of its kind of wait (R152). -/
def State.countHeld (s : State) (n : Nat) (c : EngCmd) : State :=
  let k := s.core n
  if !c.out.isEmpty then
    let s := s.count (corePage n kSPM) 0x130 1
    if c.req == .row then s.count (corePage n kROW) 0x128 1 else s
  else if c.stage != .queued then (match c.op with
    | .release _ _ => if c.stage == .started then s.count (corePage n kSPM) 0x130 1 else s
    | _ => s)
  else if !k.inTurn c then s
  else if !k.spm.waitMet c.wait then s.count (corePage n kSPM) 0x128 1
  else if !k.rowsFree c then s.count (corePage n kSPM) 0x120 1
  else match c.op with
    | .release r seqs =>
      if (seqs.drop c.taken).all (fun q => (k.spm.circ r.val).isFull q) then s else s.count (corePage n kSPM) 0x130 1
    | .vload _ _ _ o => if k.gathered c [o] then s else s.count (corePage n kSPM) 0x130 1
    | _ => s

/-- A command ends; ROWOPs and routines release their circular sources (R136) and are counted (R201). -/
def State.completed (s : State) (n : Nat) (c : EngCmd) : State :=
  match c.op with
  | .rowop x => ((s.releaseAll n x.sources).complete n c).count (corePage n kROW) 0x108 1
  | .call x => ((s.releaseAll n (x.reads (s.core n))).complete n c).count (corePage n kROW) 0x110 1
  | _ => s.complete n c

/-- COMMAND_COMPLETION: the requester's next command completes, or goes on toward it. -/
def execCommandCompletion (n : CoreId) (r : Requester) (s : State) : Host.Outcome State Fault Refusal :=
  if !s.engineRuns n.val then .next s
  else match s.nextCmd n.val r with
    | none => .next s
    | some c =>
      if c.stage == .performed then .next (s.completed n.val c)
      else
        let s' := performCmd n.val s c
        match (s'.core n.val).command c.id with
        | none => .next s'
        | some d => .next (if d.stage == .performed then s'.completed n.val d else s'.countHeld n.val d)

end Sys2Proof.Machine
end

