-- ==== Sys2Proof/Machine/Boot.lean ====
section
/-!
DEFINITION. Boot (R423-R425), the identity and the records in force (R430, R432, R433), the repair map (R14, R144, R383,
R435-R437), the presentation (R387, R388) and READY.
-/
namespace Sys2Proof.Machine

/-! ## Firmware images (R424, R426) -/

/-- SHA3-512 of Basiq's root public key, in mask ROM (R424). The spec does not give it. -/
opaque Config.rootDigest : BitVec 512

/-- The layout of a firmware image: its length, and the reserved bytes of its header. -/
def imageFormat (m : List Byte) : Bool :=
  leAt m 0 4 == 0xF1A5B0C7 && decide (8192 ≤ m.length) && decide (leAt m 0xC 4 ≤ 16769024) &&
    m.length == 8192 + leAt m 0xC 4 && ((m.drop 0x1C43).take (0x2000 - 0x1C43)).all (· == 0)

/-- The checks of R424 other than the floor: the root key and the signature. -/
def imageSigned (m : List Byte) : Bool :=
  let key := (m.drop 0x10).take 2592
  let sig := (m.drop 0xA30).take 4627
  let plain := m.take 0xA30 ++ List.replicate 4627 0 ++ m.drop (0xA30 + 4627)
  sha3x512 key == Config.rootDigest && Config.mldsaVerify key plain sig

/-- What the flash holds of an image once it is written. -/
def copyOf (m : List Byte) : FwCopy :=
  { version := word (leAt m 4 4), svn := BitVec.ofNat 16 (leAt m 8 2), bookVer := BitVec.ofNat 16 (leAt m 0xA 2),
    digest := sha3x512 m, good := imageFormat m && imageSigned m }

/-- SVN_FLOOR in force (R433). -/
def floorOf (c : Option CfgRecord) : Nat := (c.map (fun x => x.floor.toNat)).getD 0

/-- Every check of R424. -/
def FwCopy.passes (c : FwCopy) (floor : Nat) : Bool := c.good && decide (floor ≤ c.svn.toNat)

/-- The copies in the order in which the ROM would choose them: the higher FW_VERSION first, copy A before copy B of the
same version (R424). `true` is copy B. -/
def Flash.ranked (f : Flash) : List (Bool × FwCopy) :=
  match f.fwA, f.fwB with
  | none, none => []
  | some a, none => [(false, a)]
  | none, some b => [(true, b)]
  | some a, some b => if a.version.toNat < b.version.toNat then [(true, b), (false, a)] else [(false, a), (true, b)]

/-- The record in force: of those that verify, the one with the higher SEQ; none without an identity (R430, R433). -/
def Flash.inForce (f : Flash) : Option CfgRecord :=
  if !f.helper then none
  else match f.cfgA, f.cfgB with
    | none, y => y
    | x, none => x
    | some x, some y => if x.seq.toNat < y.seq.toNat then some y else some x

/-- A SEC event about a firmware copy (R441). -/
def State.secCopy (s : State) (bitNo : Nat) (c : Bool × FwCopy) : State :=
  s.raise pSEC bitNo (cause bitNo (boolNat c.1)) c.2.version

/-- The mask ROM: identity, configuration record, and the firmware copy to run. A copy that comes before the chosen one
has failed a check (FW_FALLBACK); one rejected for its SVN alone is a ROLLBACK. With no copy, or with RECOVERY, the ROM
waits for an image (R424, R425, R430). -/
def State.romBoot (s : State) : State :=
  let s := { s with config := s.flash.inForce }
  let s := if s.flash.helper then s else s.raise pSEC 0 (cause 0 0) 0
  if s.strap0 then { s with phase := .recovery }
  else
    let floor := floorOf s.config
    let ranked := s.flash.ranked
    let before := ranked.takeWhile (fun c => !c.2.passes floor)
    let s := before.foldl (fun s c => s.secCopy 1 c) s
    let s := (ranked.filter (fun c => c.2.good && !c.2.passes floor)).foldl (fun s c => s.secCopy 2 c) s
    match ranked.find? (fun c => c.2.passes floor) with
    | some (b, c) => { s with fw := some c, runsB := b }
    | none => { s with phase := .recovery }

/-! ## The repair map (R14, R144, R383, R435) -/

/-- The records that the firmware replays: the manufacture entries, then the journal. -/
def Flash.map (f : Flash) : List Repair := f.repairs ++ f.journal

def Repair.at_ (r : Repair) (i : Nat) : Nat := r.payload.getD i 0

/-- One record's effect. A bank has 16 spares (R144). -/
def State.replay (s : State) (r : Repair) : State :=
  match r.kind with
  | 1 => if 16 ≤ r.at_ 3 then s else s.modPcore (r.at_ 0) (fun x =>
    let rows := (x.spares.get (fun _ => []) (r.at_ 1)).filter (fun e => e.1 != r.at_ 3) ++ [(r.at_ 3, r.at_ 2)]
    { x with spares := x.spares.set (fun _ => []) (r.at_ 1) rows })
  | 2 => s.modPcore (r.at_ 0) (fun x => { x with state := .fenced, cause := word (r.at_ 1) })
  | 3 => s.modPcore (r.at_ 0) (fun x => { x with state := if x.state == .fenced then .fenced else .ineligible })
  | 6 => { s with retired := if s.retired.contains (r.at_ 0) then s.retired else s.retired ++ [r.at_ 0] }
  | 7 => { s with bridges := if s.bridges.contains (r.at_ 0, r.at_ 1) then s.bridges else (r.at_ 0, r.at_ 1) :: s.bridges }
  | _ => s

/-- Rows marked in the journal and not hard-repaired: hard repair is applied at reset (R216). -/
def hardDue (rs : List Repair) : List Repair :=
  rs.filter (fun r => r.kind == 4 && !rs.contains (Repair.mk 5 r.payload))

/-! ## Presentation (R387, R388) -/

/-- The candidates in order, as the dies present. -/
def presentations : List (List Nat) :=
  [[0, 1, 2, 3], [1, 2, 3], [0, 2, 3], [0, 1, 3], [0, 1, 2], [2, 3], [1, 3], [1, 2], [0, 3], [0, 2], [0, 1]]

/-- A pcore's part in a presentation, unless it is fenced or ineligible. -/
def pcoreRole (ds : List Nat) (p : Nat) : PcState :=
  if ds.contains (p / 17) then (if p % 17 < 16 then .hosting else .spare) else .released

/-- The default hosts of a presentation (R388). -/
def State.defaultHosts (s : State) (ds : List Nat) : State :=
  let s := (List.range 68).foldl (fun s p => s.modPcore p (fun x =>
    { x with state := if x.state == .fenced || x.state == .ineligible then x.state else pcoreRole ds p })) s
  let s := { s with presented := 16 * ds.length, dies := ds }
  { s with place := (List.range 64).foldl (fun m n =>
      let p := 17 * ds.getD (n / 16) 0 + n % 16
      m.set placeDefault n (if n < 16 * ds.length ∧ (s.pcore p).state = .hosting then some p else none)) s.place }

/-- Host the cores whose default host is fenced, in increasing pcore number (R15, R384); none if one cannot be hosted. -/
def State.hostRest (s : State) : List Nat → Option State
  | [] => some s
  | n :: t =>
    if (s.hostOf n).isSome then s.hostRest t
    else match s.pickSpare n with
      | some q => State.hostRest ({ s with place := s.place.set placeDefault n (some q) }.modPcore q
          (fun x => { x with state := .hosting })) t
      | none => none

/-- A candidate that meets both conditions of R387. -/
def State.present (s : State) (ds : List Nat) : Option State :=
  if s.retired.any (fun p => ds.contains (p / 16)) then none
  else (s.defaultHosts ds).hostRest (List.range (16 * ds.length))

/-! ## READY (R423, R480) -/

/-- READY is high: the part has finished its boot, and halts only after it (R391). -/
def State.readyPin (s : State) : Bool := s.phase == .ready || (s.phase == .halted && s.presented != 0)

/-- The address of a journal slot (R427). -/
def slotAddress (half : Bool) (i : Nat) : Nat := 0x2100000 + boolNat half * 0x800000 + i * 0x2000

/-- The firmware's part of the boot, up to READY: the journal, the presentation, hard repair, and the start-up tests of
spare and released pcores, which pass (log entry 43, DESIGN CHOICE). The work of the boot counts by numbers that the spec does not give. -/
def State.firmwareBoot (s : State) : State :=
  let s := s.flash.map.foldl State.replay s
  let s := if s.flash.torn then s.raise pFLS 1 (cause 1 0) (word (slotAddress s.flash.half s.flash.journal.length)) else s
  let s := ((s.countFree pSEC 0x108).countFree pSEC 0x110).countFree pFLS 0x100
  match presentations.findSome? s.present with
  | none =>
    let s := { s with presented := 0, dies := [], place := (List.range 64).foldl (fun m n => m.set placeDefault n none) s.place }
    s.haltPart
  | some s =>
    let s := if s.presented < 64 then s.raise pFLT 2 (fltInfo 2 0 0) 0 else s
    let s := { s with toJournal := s.toJournal ++ (hardDue s.flash.map).map (fun (r : Repair) => Repair.mk 5 r.payload) }
    let s := (List.range 68).foldl (fun s p =>
      if (s.pcore p).canHost then (s.modPcore p (fun x => { x with testKind := 0, testResult := 1 })).count (pPCR p) 0x110 1
      else s) s
    { s.regate with phase := .ready }

/-- BOOT_COMPLETE: from the state right after reset release the ROM's choice comes first. A factory record that does not
verify holds READY low (R432). -/
def execBootComplete (s : State) : Host.Outcome State Fault Refusal :=
  if s.phase != .booting then .next s
  else
    let s := if s.fw.isNone then s.romBoot else s
    if s.phase != .booting then .next s
    else if !s.flash.factory then
      .next (if bit (s.page pSEC).err 4 then s else s.raise pSEC 4 (cause 4 0) 0)
    else .next s.firmwareBoot

end Sys2Proof.Machine
end

