-- ==== Sys2Proof/Machine/Formation.lean ====
section
/-!
DEFINITION. Forming a lift (R242): GO, training, formation frames, the ring, the limit of 1 s.
-/
namespace Sys2Proof.Machine

/-- LFC_FORM.GO reads 1: a formation is in progress. -/
def State.forming (s : State) : Bool := bit (s.reg pLFC 0x40) 31

def State.clearGo (s : State) : State := s.setReg pLFC 0x40 (s.reg pLFC 0x40 &&& 0x7FFFFFFF#32)

/-- FORM_FAIL: the station is unformed and GO clears (R242, R263). -/
def State.formFail (s : State) (detail pos : Nat) : State :=
  ((s.modLift (fun l => { l with state := .unformed, ring := none })).clearGo).raise pLFC 0 (lfcInfo detail 0 0 pos) 0

/-- Both ports train; a port held down, or without its clock, stays down (R242, R267, R476). -/
def State.startTraining (s : State) : State :=
  let s := s.modLift (fun l => { l with state := .training, ring := none })
  [Side.up, Side.down].foldl (fun s x =>
    (s.modLiftPort x (fun p => { p with agreed := false })).setLink x 0 (if bit (s.reg (pLFT x) 0x40) 0 && s.liftClk then 1 else 0)) s

/-- A write of LFC_FORM: its RW fields, and GO (R242, R260, R263). A GO while a formation is in progress has no effect of
its own. -/
def State.writeForm (s : State) (v : Word) : State :=
  let go := s.forming
  let was := s.lift.isFormed
  let set := fun (s : State) => s.setReg pLFC 0x40 ((v &&& 0x00FF7F7F#32) ||| (if go then 0x80000000#32 else 0))
  if !bit v 31 || go then set s
  else
    let s := if was then s.deliberateBreak else s
    let s := set s
    if bits v 14 8 = 0 then s.formFail 0 s.liftPos
    else (s.setReg pLFC 0x40 (s.reg pLFC 0x40 ||| 0x80000000#32)).startTraining

/-- LFC_FORM_GO: the write of LFC_FORM with GO set. -/
def execLfcFormGo (value : Word) (s : State) : Host.Outcome State Fault Refusal :=
  if s.phase == .ready && bit value 31 then .next (s.writeForm value) else .next s

/-- LIFT_PORT_TRAINED: up only at the full 32 lanes (R238); with both ports up the neighbours are checked. -/
def execLiftPortTrained (side : Side) (lanes : BitVec 32) (s : State) : Host.Outcome State Fault Refusal :=
  if s.phase != .ready || s.linkState side ≠ 1 then .next s
  else if lanes = BitVec.allOnes 32 then
    let s := s.setLink side lanes 2
    .next (if s.linkUp .up && s.linkUp .down && s.lift.state == .training then
      s.modLift (fun l => { l with state := .checking }) else s)
  else .next (s.setLink side lanes 0)

/-- FORMATION_SEND: the station's values out of a trained port (R242 step 3). -/
def execFormationSend (side : Side) (s : State) : Host.Outcome State Fault Refusal :=
  if s.phase == .ready && s.forming && s.linkUp side then
    .next (s.sendMsg side (.formation
      { position := BitVec.ofNat 7 s.liftPos, length := BitVec.ofNat 7 (s.liftLen - 1),
        liftId := BitVec.ofNat 8 s.liftId, cores := BitVec.ofNat 8 s.presented, stepping := 0x00B0,
        epoch := s.lift.epoch }))
  else .next s

/-- The first value of a neighbour's frame that disagrees: DETAIL (R242 step 3, R262). -/
def State.formMismatch (s : State) (x : Side) (f : Formation) : Option Nat :=
  let n := s.liftLen
  let want := match x with
    | .up => (s.liftPos + 1) % n
    | .down => (s.liftPos + n - 1) % n
  if f.position.toNat ≠ want then some 2
  else if f.length.toNat + 1 ≠ n then some 0
  else if f.liftId.toNat ≠ s.liftId then some 1
  else if f.cores.toNat ≠ s.presented then some 3
  else if f.stepping ≠ 0x00B0 then some 4
  else none

/-- Both ports agree: station 0 starts the ring, another station passes on a ring frame it holds (R242 step 4). -/
def State.bothAgree (s : State) : State :=
  if s.liftPos = 0 then s.sendMsg .up (.ring false s.lift.epoch)
  else match s.lift.ring with
    | some e => (s.modLift (fun l => { l with ring := none })).sendMsg .up
        (.ring false (if e.toNat < s.lift.epoch.toNat then s.lift.epoch else e))
    | none => s

/-- FORMATION_FRAME: NEIGHBOUR_BAD and FORM_FAIL on a mismatch, else the port agrees. -/
def execFormationFrame (side : Side) (f : Framed Formation) (s : State) : Host.Outcome State Fault Refusal :=
  .next (s.receiveMsg side f.frame 2 (fun s =>
    if !s.forming then s
    else
      let v := f.body
      let s := s.setReg (pLFT side) 0x4C (word (v.liftId.toNat * 2 ^ 24 + v.position.toNat * 256 + v.cores.toNat))
      match s.formMismatch side v with
      | some d => (s.linkEventAt side 3 0).formFail d v.position.toNat
      | none =>
        let fresh := !(s.liftPort side).agreed
        let s := s.modLiftPort side (fun p => { p with agreed := true })
        if fresh && (s.liftPort .up).agreed && (s.liftPort .down).agreed then s.bothAgree else s))

/-- The station enters the formed state with an epoch: links start anew, GO clears, a lift-formed notice is posted. -/
def State.enterFormed (s : State) (e : BitVec 16) : State :=
  let fresh := fun (p : LiftPort) => { liftPortDefault 0 with agreed := true, trained := p.trained }
  let s := (s.modLiftPort .up fresh).modLiftPort .down fresh
  let s := s.modLift (fun l => { l with state := .formed, epoch := e, ring := none, ownQ := [], held := [], demands := [],
                                        contribs := [], laps := [], turnUp := 0, turnDown := 0, asked := false })
  (s.clearGo).liftEvent 0 s.liftPos 0

/-- RING_FRAME: the first frame gathers the largest epoch and returns to station 0, whose second frame carries the maximum
plus 1; every station adopts it (R242 step 4). A station whose ports have not both agreed holds the first frame. -/
def execRingFrame (second : Framed Bool) (epoch : BitVec 16) (s : State) : Host.Outcome State Fault Refusal :=
  .next (s.receiveMsg .down second.frame 2 (fun s =>
    if !s.forming then s
    else
      let top := if epoch.toNat < s.lift.epoch.toNat then s.lift.epoch else epoch
      let agreed := (s.liftPort .up).agreed && (s.liftPort .down).agreed
      if !second.body then
        if s.liftPos = 0 then
          if agreed then (s.enterFormed (top + 1)).sendMsg .up (.ring true (top + 1)) else s
        else if agreed then s.sendMsg .up (.ring false top)
        else s.modLift (fun l => { l with ring := some epoch })
      else if agreed && s.liftPos ≠ 0 then (s.enterFormed epoch).sendMsg .up (.ring true epoch)
      else s))

/-- FORM_TIMEOUT: not formed within 1 s of GO (R242). -/
def execFormTimeout (s : State) : Host.Outcome State Fault Refusal :=
  if s.phase == .ready && s.forming then .next (s.formFail 5 s.liftPos) else .next s

end Sys2Proof.Machine
end

