-- ==== Sys2Proof/Machine/Security.lean ====
section
/-!
DEFINITION. Firmware and configuration updates (R434, R438), recovery (R425), the repair journal (R435-R437) and SPDM
(R439).
-/
namespace Sys2Proof.Machine

/-! ## What the spec names without giving it -/

/-- The PLDM completion code of an update: 0 for success; for a failure DSP0267's, which the spec does not give. -/
opaque Config.pldmFailure : Nat → Byte

/-- The certificate chain of slot 0 (R431). -/
opaque Config.certificates : List Byte

/-- SHA3-512 of the factory record (R439, measurement 4). -/
opaque Config.factoryDigest : BitVec 512

/-- SHA3-512 of a journal half up to its last valid record (R439, measurement 6). -/
opaque Config.journalDigest : List Repair → BitVec 512

/-! ## Updates (R438) -/

/-- The management controller answers: the firmware runs (R423, R438). -/
def State.mgtUp (s : State) : Bool :=
  s.phase == .ready || s.phase == .halted || (s.phase == .booting && s.fw.isSome)

def State.setCopy (s : State) (b : Bool) (c : FwCopy) : State :=
  { s with flash := if b then { s.flash with fwB := some c } else { s.flash with fwA := some c } }

/-- An update is answered; one that failed raises UPDATE_FAIL (R438, R449, R450). The MCTP and PLDM messages of a transfer,
and the endpoint that sent them, are not the command's: free values. -/
def State.updateDone (s : State) (component : Nat) (ok : Bool) : State :=
  let code := if ok then 0 else Config.pldmFailure s.free
  let eid := Config.freeWord (s.free + 1) &&& 0xFF#32
  let s := (((s.takeFree 2).countFree pMGT 0x100).countFree pMGT 0x108).countFree pMGT 0x110
  let s := s.emit (.pldm code)
  if ok then s.count pMGT 0x118 1 else s.raise pMGT 2 (cause 2 (code.toNat * 256 + component)) eid

/-- Bytes erased, programmed and read back (R427, R448). -/
def State.flashWrite (s : State) (len : Nat) : State :=
  ((s.count pFLS 0x110 ((len + 65535) / 65536)).count pFLS 0x108 len).count pFLS 0x100 len

/-- FIRMWARE_UPDATE: written into the copy that is not running, read back and checked against the floor in force; it runs
from the next reset (R438). -/
def execFirmwareUpdate (image : List Byte) (s : State) : Host.Outcome State Fault Refusal :=
  if !s.mgtUp then .next s
  else
    let c := copyOf image
    let s := ((s.setCopy (!s.runsB) c).flashWrite image.length).countFree pSEC 0x110
    .next ((s.count pSEC 0x108 1).updateDone 1 (c.passes (floorOf s.config)))

/-- RECOVERY_IMAGE: one that passes goes over the copy that failed, or over copy A, and the part boots from it (R425). -/
def execRecoveryImage (image : List Byte) (s : State) : Host.Outcome State Fault Refusal :=
  if s.phase != .recovery then .next s
  else
    let c := copyOf image
    let s := (s.countFree pSEC 0x110).count pSEC 0x108 1
    if c.passes (floorOf s.config) then
      let b := if s.strap0 then false else (s.flash.ranked.head?.map (·.1)).getD false
      .next ({ ((s.setCopy b c).flashWrite image.length).emit (.pldm 0) with fw := some c, runsB := b, phase := .booting })
    else .next ((s.emit (.pldm (Config.pldmFailure s.free))).takeFree 1)

/-! ## The configuration record (R433, R434) -/

def cfgKey (r : List Byte) : List Byte := (r.drop 0x10).take 2592

/-- The bytes that the owner signs: SEQ taken as 0. -/
def cfgSigned (r : List Byte) : List Byte := r.take 8 ++ List.replicate 8 0 ++ (r.drop 0x10).take (0xE30 - 0x10)

def cfgSig (r : List Byte) : List Byte := (r.drop 0xE30).take 4627

def cfgFormat (r : List Byte) : Bool :=
  leAt r 0 4 == 0xC0F16A5E && leAt r 4 1 == 1 && decide (leAt r 5 1 ≤ 16) && r.length == 0x3256

/-- DETAIL of CLAIM_REFUSED (R441), or none where R434 accepts the record. -/
def State.claimErr (s : State) (r : List Byte) : Option Nat :=
  let own := Config.mldsaVerify (cfgKey r) (cfgSigned r) (cfgSig r)
  let byOwner := match s.config with
    | some c => Config.mldsaVerify c.owner (cfgSigned r) (cfgSig r)
    | none => false
  if !s.flash.helper then some 0
  else if !cfgFormat r then some 3
  else if !own && !byOwner then some 0
  else if s.config.isSome && !byOwner && !s.strap1 then some 1
  else if (s.fw.map (fun f => f.svn.toNat)).getD 0 < leAt r 6 2 then some 2
  else none

/-- The record that the part keeps: the floor raised to the floor in force, SEQ one more, signed by the part. -/
def State.cfgMade (s : State) (r : List Byte) : CfgRecord :=
  let floor := max (leAt r 6 2) (floorOf s.config)
  let seq := ((s.config.map (fun c => c.seq.toNat)).getD 0 + 1) % 2 ^ 64
  let body := r.take 6 ++ leBytes 2 floor ++ leBytes 8 seq ++ (r.drop 0x10).take (0x2043 - 0x10)
  { seq := BitVec.ofNat 64 seq, floor := BitVec.ofNat 16 floor, owner := cfgKey r,
    pubs := (List.range (leAt r 5 1)).map (fun k => BitVec.ofNat 512 (leAt r (0xA30 + 64 * k) 64)),
    digest := sha3x512 (body ++ Config.mldsaSign body) }

/-- Into the copy with the lower SEQ; a blank copy is the lowest (R434). -/
def Flash.putCfg (f : Flash) (c : CfgRecord) : Flash :=
  match f.cfgA, f.cfgB with
  | some a, some b => if b.seq.toNat < a.seq.toNat then { f with cfgB := some c } else { f with cfgA := some c }
  | some _, none => { f with cfgB := some c }
  | none, _ => { f with cfgA := some c }

/-- CONFIG_RECORD: claimed, updated, transferred, reset or refused (R434). -/
def execConfigRecord (record : List Byte) (s : State) : Host.Outcome State Fault Refusal :=
  if !s.mgtUp then .next s
  else
    let s' := (s.countFree pSEC 0x108).countFree pSEC 0x110
    match s.claimErr record with
    | some d => .next ((s'.raise pSEC 3 (cause 3 (d * 2 ^ 24)) 0).updateDone 2 false)
    | none =>
      let c := s.cfgMade record
      .next (((({ s' with flash := s.flash.putCfg c, config := some c } : State).flashWrite 0x3256).count pSEC 0x100 1).updateDone
        2 true)

/-! ## The repair journal (R435-R437) -/

/-- Bytes programmed for a record (R435). -/
def recordBytes : Nat := 0x1243

/-- Records that are still live (R437). -/
def liveRecords (rs : List Repair) : List Repair :=
  rs.filter (fun r => r.kind != 4 || !rs.contains (Repair.mk 5 r.payload))

/-- Compaction of a full half into the other (R437); none where it would leave fewer than 64 free slots. -/
def State.compact (s : State) : Option State :=
  if s.flash.journal.length < 1024 then some s
  else
    let live := liveRecords s.flash.journal
    if 1024 < live.length + 64 then none
    else
      some (((({ s with flash := { s.flash with journal := live, half := !s.flash.half, torn := false } } : State).count pFLS 0x110 256).count
        pFLS 0x108 (recordBytes * live.length)).count pSEC 0x100 live.length)

/-- JOURNAL_APPEND: the oldest waiting record is signed and written; without an identity nothing is (R430). A record whose
programming fails stays waiting. -/
def execJournalAppend (written : Bool) (s : State) : Host.Outcome State Fault Refusal :=
  match s.toJournal with
  | [] => .next s
  | r :: rest =>
    if s.phase != .ready || !s.flash.helper then .next s
    else match s.compact with
      | none => .next (s.raise pFLS 2 (cause 2 0) (word (slotAddress s.flash.half 0)))
      | some s =>
        let s := s.count pSEC 0x100 1
        if written then
          let s := if s.flash.torn then s.count pFLS 0x110 1 else s
          .next ((({ s with toJournal := rest,
                            flash := { s.flash with journal := s.flash.journal ++ [r], torn := false } } : State).count pFLS 0x118
              1).count pFLS 0x108 recordBytes)
        else .next (s.raise pFLS 0 (cause 0 1) (word (slotAddress s.flash.half s.flash.journal.length)))

/-! ## SPDM (R439) -/

def transportNat : Transport → Nat
  | .mctp => 0
  | .doe => 1

/-- A request over a transport reaches the responder. -/
def State.spdmReaches (s : State) (t : Transport) : Bool :=
  match t with
  | .mctp => s.mgtUp
  | .doe => s.readyPin

/-- An answer: the request is counted, and over MCTP its message and the answer's. -/
def State.spdmAnswer (s : State) (t : Transport) (code : Byte) (bytes : List Byte) : State :=
  let s := (s.count pSEC 0x118 1).emit (.spdm t code bytes)
  if t = .mctp then (s.count pMGT 0x100 1).count pMGT 0x108 1 else s

/-- ERROR (log entry 44, PRESUMED for the response codes). -/
def spdmError : Byte := 0x7F

/-- A request that needs connection state `need`, and moves it to `next` where that is given. Without an identity every
request is answered with an error (R430). -/
def State.spdm (s : State) (t : Transport) (need : Nat) (next : Option Nat) (code : Byte) (ok : Bool)
    (k : State → State × List Byte) : State :=
  let i := transportNat t
  if !s.spdmReaches t then s
  else if !s.flash.helper || !ok || decide (s.spdmUp.get natZero i < need) then s.spdmAnswer t spdmError []
  else
    let (s, bytes) := k s
    let s := match next with
      | some v => { s with spdmUp := s.spdmUp.set natZero i v }
      | none => s
    s.spdmAnswer t code bytes

/-- An answer that carries a signature by the identity key. -/
def spdmSigned (message : List Byte) (s : State) : State × List Byte :=
  (s.count pSEC 0x100 1, message ++ Config.mldsaSign message)

def execGetVersion (t : Transport) (s : State) : Host.Outcome State Fault Refusal :=
  .next (s.spdm t 0 (some 1) 0x04 true (fun s => (s, [0x14])))

def execGetCapabilities (t : Transport) (s : State) : Host.Outcome State Fault Refusal :=
  .next (s.spdm t 1 (some 2) 0x61 true (fun s => (s, [])))

/-- ML-DSA-87 and SHA3-512, and no other algorithms. -/
def execNegotiateAlgorithms (t : Transport) (mldsa87 sha3x512 : Bool) (s : State) : Host.Outcome State Fault Refusal :=
  .next (s.spdm t 2 (some 3) 0x63 (mldsa87 && sha3x512) (fun s => (s, [])))

def execGetDigests (t : Transport) (s : State) : Host.Outcome State Fault Refusal :=
  .next (s.spdm t 3 none 0x01 true (fun s => (s, digestBytes (Machine.sha3x512 Config.certificates))))

/-- Certificate slot 0 only. -/
def execGetCertificate (t : Transport) (slot : Byte) (s : State) : Host.Outcome State Fault Refusal :=
  .next (s.spdm t 3 none 0x02 (slot == 0) (fun s => (s, Config.certificates)))

def execChallenge (t : Transport) (slot : Byte) (nonce : BitVec 256) (s : State) : Host.Outcome State Fault Refusal :=
  .next (s.spdm t 3 none 0x03 (slot == 0)
    (spdmSigned (leBytes 32 nonce.toNat ++ digestBytes (Machine.sha3x512 Config.certificates))))

/-- Fenced pcores, one bit each. -/
def State.fencedMask (s : State) : Nat :=
  ((List.range 68).map (fun p => if (s.pcore p).state = .fenced then 2 ^ p else 0)).foldl (· + ·) 0

/-- The measurements of R439. -/
def State.measurement (s : State) : Nat → Option (List Byte)
  | 1 => some (digestBytes (sha3x512 (digestBytes Config.rootDigest)))
  | 2 => some (digestBytes ((s.fw.map (·.digest)).getD 0))
  | 3 => some (digestBytes ((s.config.map (·.digest)).getD 0))
  | 4 => some (digestBytes Config.factoryDigest)
  | 5 => some (leBytes 2 ((s.fw.map (fun f => f.bookVer.toNat)).getD 0) ++ leBytes 2 ((s.fw.map (fun f => f.svn.toNat)).getD 0) ++
      leBytes 2 (floorOf s.config) ++ leBytes 1 (boolNat s.strap0 + 2 * boolNat s.strap1))
  | 6 => some (digestBytes (Config.journalDigest s.flash.journal))
  | 7 => some (leBytes 4 (s.reg pDEV 0x44).toNat ++ leBytes 1 s.presented ++ leBytes 9 s.fencedMask)
  | _ => none

/-- GET_MEASUREMENTS: index 0 asks for their number, 0xFF for all (log entry 44, PRESUMED); any other index is an error. -/
def execGetMeasurements (t : Transport) (index : Byte) (sign : Bool) (nonce : BitVec 256) (s : State) :
    Host.Outcome State Fault Refusal :=
  let i := index.toNat
  let all := ((List.range 7).map (fun k => leBytes 1 (k + 1) ++ (s.measurement (k + 1)).getD [])).flatten
  let body := if i = 0 then some [7] else if i = 255 then some all else (s.measurement i).map (fun b => leBytes 1 i ++ b)
  .next (s.spdm t 3 none 0x60 body.isSome (fun s =>
    let m := body.getD []
    if sign then spdmSigned (leBytes 32 nonce.toNat ++ m) s else (s, m)))

end Sys2Proof.Machine
end

