-- ==== Sys2Proof/Machine/ReadReg.lean ====
section
/-!
DEFINITION. What every register of BAR0 reads as (R453-R456 and the register section of each chapter). Fields that the
part keeps elsewhere are computed from there; a reserved offset reads 0 (R10).
-/
namespace Sys2Proof.Machine

/-- Size of the flash in MiB, read from the device (R447). -/
opaque Config.flashMiB : Word

/-- Fields of a register: each a value and its lowest bit. -/
def pack (fs : List (Nat × Nat)) : Word := word ((fs.map (fun f => f.1 * 2 ^ f.2)).foldl (· + ·) 0)

/-- One bit for each index that satisfies a test. -/
def maskOf (k : Nat) (f : Nat → Bool) : Nat := ((List.range k).map (fun i => if f i then 2 ^ i else 0)).foldl (· + ·) 0

/-- The 32-bit word of a longer number at a byte offset. -/
def wordAt (v off : Nat) : Word := word (v / 2 ^ (8 * off) % 2 ^ 32)

/-! ## Status outputs (R393, R412, R425, R480) -/

/-- FLT_STATUS.FAULT_N. -/
def State.faultN (s : State) : Bool := ((s.page pFLT).err.toNat &&& bits (s.reg pFLT 0x40) 5 0) != 0

/-- FAULT_N is held low: by FLT_STATUS, or by the ROM while it waits for a recovery image. -/
def State.faultPin (s : State) : Bool := (s.faultN && s.phase != .inReset && s.phase != .off) || s.phase == .recovery

/-! ## Counters (R459) -/

/-- The live value of a counter; TIM_NOW is the time counter (R471). -/
def State.liveCounter (s : State) (p off : Nat) : Word64 := if p = pTIM ∧ off = 0x100 then s.time else s.counter p off

/-- What a counter reads as. -/
def State.readCounter (s : State) (p off : Nat) : Word64 :=
  let x := s.page p
  if x.snapped then x.snapshot.get (fun _ => 0) off + unreported p off x.snapFrom x.snapAt else s.liveCounter p off

/-- Offsets at which a counter of the page lies. -/
def Blk.isCounter (b : Blk) (off : Nat) : Bool := decide (0x100 ≤ off) && decide (off < 0x100 + 8 * b.counters) && off % 8 == 0

/-- Offsets of the low word of a 64-bit pair (R9, R340, R227): counters, COUNT and SUM of track records, drill failures. -/
def Blk.isPair (b : Blk) (off : Nat) : Bool :=
  b.isCounter off || (match b with
    | .trk => decide (0x400 ≤ off) && decide (off < 0xE00) && (off % 32 == 8 || off % 32 == 16)
    | .str => decide (0x480 ≤ off) && decide (off < 0x500) && off % 8 == 0
    | _ => false)

/-! ## The pages -/

def State.readDev (s : State) (off : Nat) : Word :=
  match off with
  | 0x40 => pack [(0x6420, 16), (0xB0, 8), (boolNat s.flash.grade, 0)]
  | 0x48 => s.flash.bin.setWidth 32
  | 0x4C | 0x50 | 0x54 | 0x58 => wordAt s.flash.serial.toNat (off - 0x4C)
  | 0x5C => match s.phase with
    | .ready => 3
    | .halted => 4
    | _ => 0
  | _ => s.reg pDEV off

def State.unhosted (s : State) (n : Nat) : Bool := s.isPresented n && (s.hostOf n).isNone

def State.readFlt (s : State) (off : Nat) : Word :=
  match off with
  | 0x44 => word (boolNat s.faultN)
  | 0x48 => pack [(maskOf 4 (fun d => !s.dies.contains d), 8), (s.presented, 0)]
  | 0x4C => pack [(s.away, 16), ((List.range 68).countP (fun p => (s.pcore p).state == .spare || (s.pcore p).state == .released), 8),
      ((List.range 68).countP (fun p => (s.pcore p).state == .fenced), 0)]
  | 0x50 => word (maskOf 32 s.unhosted)
  | 0x54 => word (maskOf 32 (fun i => s.unhosted (32 + i)))
  | _ => s.reg pFLT off

def State.readTim (s : State) (off : Nat) : Word :=
  if off = 0x40 then pack [(boolNat s.holdover, 1), (boolNat (s.refOk && !s.holdover), 0)] else 0

/-- The highest rate that the table gives for a die's setpoint at its temperature (R417); 0 where it gives none. -/
def State.tableRate (s : State) (d : Nat) : Nat :=
  let x := s.die d
  (((List.range 1151).reverse.map (750 + ·)).find? (fun r => match s.flash.voltage d r x.hottest with
    | some v => decide (v ≤ 3000 * (x.setpoint : Int))
    | none => false)).getD 0

def State.readMrg (s : State) (off : Nat) : Word :=
  if off = 0x44 then pack [(s.targetRate, 16), (bits (s.reg pMRG 0x44) 15 0, 0)]
  else if 0x400 ≤ off ∧ off < 0x480 then
    let d := (off - 0x400) / 32
    let x := s.die d
    match off % 32 with
    | 0x00 => pack [(bits (s.reg pPWR (0x400 + 8 * d)) 15 0, 16), (x.setpoint, 0)]
    | 0x04 => pack [(s.tableRate d, 16), (x.measured % 65536, 0)]
    | 0x08 => word (x.hottest % 256).toNat
    | 0x0C => pack [(boolNat x.stretched, 8), ((x.least % 256).toNat, 0)]
    | 0x10 => word (x.offset % 256)
    | _ => 0
  else s.reg pMRG off

/-- The slices of a stack (R203). -/
def stackSlices (st : Nat) : List Nat := ((List.range 32).map (fun c => chanSlice st c)).eraseDups

/-- Every slice of a stack is in self-refresh (R420). -/
def State.stackAsleep (s : State) (st : Nat) : Bool :=
  (stackSlices st).all (fun p => match s.sliceCore p with
    | some n => (s.core n).str.asleep
    | none => false)

def State.readPwr (s : State) (off : Nat) : Word :=
  match off with
  | 0x58 => pack [(boolNat s.trip, 1), (boolNat s.alert, 0)]
  | 0x5C => pack [((List.range 20).countP s.stackAsleep, 16), ((List.range 68).countP (fun p => (s.pcore p).gated), 0)]
  | _ => s.reg pPWR off

/-- Whether an identity key is available (R442). -/
def State.identity (s : State) : Bool := s.flash.helper

def State.readSec (s : State) (off : Nat) : Word :=
  match off with
  | 0x40 => pack [(boolNat s.strap1, 4), (boolNat s.strap0, 3), (boolNat s.runsB, 2), (boolNat s.identity, 1),
      (boolNat s.config.isSome, 0)]
  | 0x44 => (s.fw.map (·.version)).getD 0
  | 0x48 => pack [(floorOf s.config, 16), ((s.fw.map (fun f => f.svn.toNat)).getD 0, 0)]
  | 0x4C => (s.config.map (fun c => c.seq.setWidth 32)).getD 0
  | _ =>
    if 0x400 ≤ off ∧ off < 0x800 then
      wordAt ((s.config.map (fun c => (c.pubs.getD ((off - 0x400) / 64) 0).toNat)).getD 0) (off % 64)
    else if 0x800 ≤ off ∧ off < 0x840 then
      if s.identity then wordAt (sha3x512 Config.identityKey).toNat (off - 0x800) else 0
    else 0

def State.readFls (s : State) (off : Nat) : Word :=
  match off with
  | 0x40 => pack [(boolNat s.flash.half, 2)]
  | 0x44 => word s.flash.journal.length
  | 0x48 => Config.flashMiB
  | _ => 0

def State.readMgt (s : State) (off : Nat) : Word := if off = 0x48 then 0 else s.reg pMGT off

def State.readHost (s : State) (off : Nat) : Word :=
  match off with
  | 0x54 => word (((s.queue 0).map (·.head)).getD 0)
  | 0x58 => word (20 * s.presented)
  | 0x5C => word (((0 :: s.host.contexts.map (·.1)).eraseDups).countP (fun c => (s.context c).live))
  | 0x60 => word s.queueNumbers.length
  | _ => s.reg pHOST off

def State.readNtc (s : State) (off : Nat) : Word :=
  match off with
  | 0x4C => s.reg pNTC 0x4C ||| word s.host.backlog.length
  | 0x50 => word (((0 :: s.host.rings.map (·.1)).eraseDups).countP (fun r => (s.ring r).isSome))
  | _ => s.reg pNTC off

def LiftState.code : LiftState → Nat
  | .unformed => 0 | .training => 1 | .checking => 2 | .formed => 3 | .quiescing => 4 | .quiescent => 5 | .broken => 6

def State.readLfc (s : State) (off : Nat) : Word :=
  if off = 0x44 then pack [(s.lift.epoch.toNat, 16), (s.lift.state.code, 0)] else s.reg pLFC off

/-- A lane's entry (R269, R293): while it is locked, the eye opening and the equalisation preset that its port's last training
left, which are free values (log entry 53, DESIGN CHOICE). -/
def laneReg (v : Word) (port lane training : Nat) : Word :=
  if bit v 31 then v ||| pack [((Config.laneEye port lane training).toNat, 16), ((Config.laneEq port lane training).toNat, 0)] else v

def State.readLft (s : State) (x : Side) (off : Nat) : Word :=
  let p := s.liftPort x
  match off with
  | 0x50 => pack [(p.rxUsed, 16), (512 - p.sentUsed, 0)]
  | 0x54 => word p.replay.length
  | _ =>
    if 0x400 ≤ off ∧ off < 0x480 then
      laneReg (s.reg (pLFT x) off) (sideNat x) ((off - 0x400) / 4) p.trained
    else s.reg (pLFT x) off

def State.readTrv (s : State) (p : TPort) (off : Nat) : Word :=
  if off = 0x84 then word ((s.trv p).flows.countP (fun f => !f.idle))
  else if 0x400 ≤ off ∧ off < 0x420 then laneReg (s.reg (pTRV p) off) (2 + portNat p) ((off - 0x400) / 4) (s.trv p).trained
  else s.reg (pTRV p) off

/-- The frame slots in an order that the schedule picks: the four numbers, each once. -/
def frameOrder (o : Nat) : List Nat :=
  let a := o % 4
  let r := [0, 1, 2, 3].erase a
  let b := r.getD (o / 4 % 3) 0
  let q := r.erase b
  let c := q.getD (o / 12 % 2) 0
  a :: b :: c :: q.erase c

/-- The frame slot of a remote slice: its place among the remote slices in the schedule's order, so that no two hold one
(R218; log entry 59, DESIGN CHOICE). -/
def State.frameSlot (s : State) (n : Nat) : Nat :=
  let before := ((List.range n).filter (fun m => match s.hostOf m with
    | some q => s.isPresented m && pcoreDie q != s.homeDie m
    | none => false)).length
  (frameOrder (Config.frameOrder s.epoch.toNat)).getD before 0

/-- SLS_SLICEn: physical slice `p` (R237, R388); 0 until the placement of a boot stands. -/
def State.sliceEntry (s : State) (p : Nat) : Word :=
  let gone := boolNat (s.retired.contains p)
  if s.phase != .ready && s.phase != .halted then 0
  else match s.sliceCore p with
  | none => pack [(gone, 30)]
  | some n =>
    let h := s.homeDie n
    match s.hostOf n with
    | none => pack [(1, 31), (gone, 30), (0x7F, 0)]
    | some q =>
      let d := pcoreDie q
      let route := if d = h then 0 else if d = lowNeighbour h then 1 else if d = highNeighbour h then 2 else 3
      pack [(1, 31), (gone, 30), (route, 10), (if route = 0 then 0 else s.frameSlot n, 8), (q, 0)]

def State.readSls (s : State) (off : Nat) : Word :=
  match off with
  | 0x40 => s.epoch.setWidth 32
  | 0x44 => word (maskOf 32 (fun i => s.retired.contains i))
  | 0x48 => word (maskOf 32 (fun i => s.retired.contains (32 + i)))
  | 0x4C => word s.away
  | _ => if 0x400 ≤ off ∧ off < 0x500 then s.sliceEntry ((off - 0x400) / 4) else 0

/-- HBM_CHc_STATE.STATE (R232): 1 from the third low probe in a row until the retraining ends; 3 while the firmware that
trains the channels has not run. -/
def State.chanCode (s : State) (c : Chan) : Nat :=
  if s.phase == .recovery then 3 else if c.retrain then 1 else c.state

/-- HBM_TEMP.TEMP (R230): the temperature of a report at the time of the report, else a free value (log entry 79, DESIGN CHOICE). -/
def State.stackTemp (s : State) (st : Nat) : BitVec 16 :=
  match s.hot.get (fun _ => none) st with
  | some (t, v) => if t = s.time then v else Config.stackTemp st s.time
  | none => if s.phase == .ready then Config.stackTemp st s.time else 0

def State.readHbm (s : State) (st off : Nat) : Word :=
  if off = 0x4C then (s.reg (pHBM st) 0x4C).extractLsb' 16 16 ++ s.stackTemp st
  else if off = 0x48 then word (maskOf 32 (fun c => (s.chan st c).state == 0))
  else if 0x400 ≤ off ∧ off < 0x500 then
    let c := s.chan st ((off - 0x400) / 8)
    if off % 8 = 0 then pack [(s.chanCode c, 16), (c.lowProbes % 256, 8), (c.margin.toNat, 0)] else word (c.marked.length % 256)
  else s.reg (pHBM st) off

def SeqRun.code : SeqRun → Nat
  | .idle => 0 | .running => 1 | .stopped => 2 | .draining => 3

def BankState.code : BankState → Nat
  | .empty => 0 | .loading => 1 | .valid => 2 | .executing => 3

def Seq.readReg (q : Seq) (off : Nat) : Word :=
  match off with
  | 0x40 => pack [(q.loops.length, 4), (boolNat q.armed, 3), (boolNat q.bank, 2), (q.run.code, 0)]
  | 0x44 => word (q.pc % 8192)
  | 0x48 => pack [(q.bank1.state.code, 2), (q.bank0.state.code, 0)]
  | 0x4C => q.preds.setWidth 32
  | _ =>
    if 0x400 ≤ off ∧ off < 0x440 then
      -- nesting level 0 is the outermost loop
      match q.loops.reverse[(off - 0x400) / 16]? with
      | none => 0
      | some f => match off % 16 with
        | 0x0 => pack [(1, 31), (f.lc.val, 13), (f.endPc, 0)]
        | 0x4 => f.count
        | 0x8 => f.index
        | _ => word f.start
    else 0

/-- ARR_PART_STATE: 0 undefined, 1 idle, 2 running, 3 stopped (R70). Of a partition whose aborted passes await their replay R70
does not say what it reads: here 1, idle (log entry 75, DESIGN CHOICE). -/
def Part.code (p : Part) : Nat :=
  if p.stopped then 3 else if p.geom.isNone then 0 else if p.running.isEmpty then 1 else 2

/-- The partition that a square belongs to. -/
def Arr.ownerOf (a : Arr) (q : Nat) : Option Nat :=
  (List.range 16).find? (fun p => match (a.parts.get partDefault p).geom with
    | some g => g.squares.contains q
    | none => false)

def State.readArr (s : State) (n off : Nat) : Word :=
  let a := (s.core n).arr
  let squares := fun (lo : Nat) => pack ((List.range 8).map (fun i => ((a.ownerOf (lo + i)).getD 0, 4 * i)))
  match off with
  | 0x48 => pack ((List.range 16).map (fun p => ((a.parts.get partDefault p).code, 2 * p)))
  | 0x4C => s.epoch.setWidth 32
  | 0x50 => squares 0
  | 0x54 => squares 8
  | 0x58 => word (maskOf 16 (fun q => (a.ownerOf q).isSome))
  | _ =>
    if 0x400 ≤ off ∧ off < 0x500 then
      let p := a.parts.get partDefault ((off - 0x400) / 16)
      match off % 16 with
      | 0x0 => match p.geom with
        | some g => pack [(1, 31), (g.w - 1, 8), (g.h - 1, 4), (g.top.val, 0)]
        | none => 0
      | 0x4 => p.seq
      | 0x8 => p.fault ||| word ((s.core n).replaysOf ((p.running.map (·.cmd) ++ p.aborted).headD (s.core n).nextId) % 256)
      | _ => 0
    else s.reg (corePage n kARR) off

/-- The SCH page. Of a path whose aborted sweeps await their replay R85 does not say what STATE reads: here 0, idle (log entry
76, DESIGN CHOICE). -/
def State.readSch (s : State) (n off : Nat) : Word :=
  let v := (s.core n).sch
  match off with
  | 0x48 => word (if v.stopped then 2 else if v.running.isEmpty then 0 else 1)
  | 0x4C => s.epoch.setWidth 32
  | 0x50 => word (maskOf 16 (fun i => (v.vecs.get (fun _ => none) i).isSome))
  | _ =>
    if 0x400 ≤ off ∧ off < 0x480 then
      match v.vecs.get (fun _ => none) ((off - 0x400) / 8) with
      | some x => if off % 8 = 0 then pack [(x.fmt, 16), (x.klen / 32 - 1, 0)] else 0
      | none => 0
    else s.reg (corePage n kSCH) off

def State.readRow (s : State) (n off : Nat) : Word :=
  let k := s.core n
  match off with
  | 0x48 => word (if k.row.stopped then 2 else if (k.queueOf .row).isEmpty then 0 else 1)
  | 0x4C => k.row.valid.setWidth 32
  | 0x50 => ((s.fw.map FwCopy.bookVer).getD 1).setWidth 32
  | _ =>
    if 0x400 ≤ off ∧ off < 0x480 then
      match bookRoutines[(off - 0x400) / 4]? with
      | some r => pack [(1, 31), (1, 16), (r, 0)]
      | none => 0
    else s.reg (corePage n kROW) off

/-- EXP_SLOT_STATE: 0 empty, 1 valid, 2 load waiting for references, 3 loading (R126). -/
def Core.slotCode (k : Core) (i : Nat) : Nat :=
  let x := k.exp.slot i
  if x.loading.isSome then 3
  else if (k.queueOf .expander).any (fun c => c.loadsSlot == some i && k.loadParked c) then 2
  else boolNat x.valid

/-- A running pass or sweep holds an expander feed, while it holds its table slot: one that is not replayable gives it up when
its last slab has been read, at its start (R116, R126). -/
def Core.feeds (k : Core) (rs : List Running) : Bool :=
  rs.any (fun r => ((k.command r.cmd).bind EngCmd.tableSlot).isSome)

def Core.readExp (k : Core) (off : Nat) : Word :=
  match off with
  | 0x40 => pack ((List.range 8).map (fun i => (k.slotCode i, 2 * i)))
  | 0x44 => pack ((List.range 8).map (fun i => ((k.exp.slot i).gen.toNat, 4 * i)))
  | 0x48 => word (maskOf 16 (fun p => k.feeds (k.arr.part p).running) + 65536 * boolNat (k.feeds k.sch.running))
  | 0x4C => word k.exp.bandFree
  | _ =>
    if 0x400 ≤ off ∧ off < 0x480 then
      let i := (off - 0x400) / 16
      match off % 16 with
      | 0x0 => word (k.refs i % 65536)
      | 0x4 => (k.exp.slot i).loads
      | 0x8 => (k.exp.slot i).source.setWidth 32
      | _ => 0
    else 0

/-- SPM_BANKb_STATE.OWNER (R153). -/
def Bank.ownerCode (b : Bank) : Nat :=
  match b.busy with
  | some .testing => 14
  | some .zeroing => 15
  | _ => match b.owner with
    | .free => 0
    | .port p => p.val
    | .circ c => 8 + c.val

/-- The earliest of sequences, as they follow one another modulo 2^32. -/
def lowestSeq : List Word → Word
  | [] => 0
  | x :: t => t.foldl (fun m y => if (y - m).msb then y else m) x

def Circ.readReg (c : Circ) (off : Nat) : Word :=
  let slots := (List.range c.cfg.slots).map c.slot
  if !c.cfg.valid then 0
  else match off with
    | 0x00 => pack [(1, 31), (c.cfg.slotLog2, 24), (c.cfg.banks, 8), (c.cfg.base, 0)]
    | 0x04 => word c.cfg.slots
    | 0x08 => lowestSeq (slots.map (fun x => if x.full then x.expected + word c.cfg.slots else x.expected))
    | 0x0C => lowestSeq (slots.map (·.expected))
    | 0x10 => word (slots.countP (·.full))
    | _ => 0

def State.readSpm (s : State) (n off : Nat) : Word :=
  let m := (s.core n).spm
  let used := fun (b : Nat) => match s.hostOf n with
    | some p => ((s.pcore p).spares.get (fun _ => []) b).length
    | none => 0
  match off with
  | 0x44 => m.claimSeq
  | 0x48 => word (maskOf 32 (fun b => (m.bank b).powered))
  | 0x4C => word (maskOf 16 (fun b => (m.bank (32 + b)).powered))
  | 0x50 => word (maskOf 32 (fun b => (m.bank b).busy.isSome))
  | 0x54 => word (maskOf 16 (fun b => (m.bank (32 + b)).busy.isSome))
  | _ =>
    if 0x400 ≤ off ∧ off < 0x4C0 then
      let b := (off - 0x400) / 4
      pack [(boolNat (m.bank b).powered, 31), (used b, 8), ((m.bank b).ownerCode, 0)]
    else if 0x500 ≤ off ∧ off < 0x580 then
      let r := m.region ((off - 0x500) / 8)
      if off % 8 = 0 then pack [(boolNat r.valid, 31), (r.base, 0)] else word r.count1
    else if 0x600 ≤ off ∧ off < 0x680 then (m.circ ((off - 0x600) / 32)).readReg (off % 32)
    else if 0x800 ≤ off ∧ off < 0xC00 then m.tokens.get wordZero ((off - 0x800) / 4)
    else s.reg (corePage n kSPM) off

def State.readStr (s : State) (n off : Nat) : Word :=
  let x := (s.core n).str
  match off with
  | 0x48 => pack [((s.core n).presetAwaited, 2), (x.preset, 0)]
  | 0x4C => s.epoch.setWidth 32
  | 0x50 => word ((s.core n).tagsHeld (fun _ => true))
  | _ =>
    if 0x400 ≤ off ∧ off < 0x480 then
      let c := (off - 0x400) / 8
      let mine := Requester.ctx (Fin.ofNat 16 c)
      if off % 8 = 0 then word (x.quotaOf c)
      else pack [(((s.core n).queueOf mine).length, 11), ((s.core n).tagsHeld (fun d => d.req == mine), 0)]
    else if 0x480 ≤ off ∧ off < 0x500 then wordAt (x.drill.log.getD ((off - 0x480) / 8) 0) (off % 8)
    else s.reg (corePage n kSTR) off

/-- One entry of the record and key tables (R340). -/
def Key.readReg (k : Option Key) (off : Nat) : Word :=
  match k with
  | none => 0
  | some k => match off with
    | 0x00 => pack [(k.round.toNat % 65536, 16), (k.layer.toNat, 0)]
    | 0x04 => pack [(k.round.toNat / 65536, 8), (1, 0)]
    | 0x08 => wordAt k.count.toNat 0
    | 0x0C => wordAt k.count.toNat 4
    | 0x10 => wordAt k.sum.toNat 0
    | 0x14 => wordAt k.sum.toNat 4
    | _ => 0

def State.readTrk (s : State) (n off : Nat) : Word :=
  let t := (s.core n).trk
  match off with
  | 0x44 => t.watermark.setWidth 32
  | 0x48 => word t.openKeys.length
  | 0x4C => word (trackRing - t.ring.length)
  | _ =>
    if 0x400 ≤ off ∧ off < 0x600 then Key.readReg t.recent[(off - 0x400) / 32]? (off % 32)
    else if 0x600 ≤ off ∧ off < 0xE00 then Key.readReg t.openKeys[(off - 0x600) / 32]? (off % 32)
    else s.reg (corePage n kTRK) off

def PcState.code : PcState → Nat
  | .hosting => 0 | .spare => 1 | .fenced => 2 | .released => 3 | .testing => 4 | .ineligible => 5

/-- The remap entry of a bank's spare was made at manufacture (R400, R432). -/
def Flash.madeRemap (f : Flash) (p b i : Nat) : Bool :=
  f.repairs.any (fun r => r.kind == 1 && r.at_ 0 == p && r.at_ 1 == b && r.at_ 3 == i)

def State.readPcr (s : State) (p off : Nat) : Word :=
  let x := s.pcore p
  match off with
  | 0x40 => pack [(boolNat (s.flash.map.any (fun r => r.kind == 2 && r.at_ 0 == p)), 15), (p / 17, 13),
      (if x.state = .hosting then (s.hosted p).getD 0 else 0, 6), (x.state.code, 0)]
  | 0x44 => x.cause
  | 0x48 => pack [(x.testKind, 8), (x.testResult, 0)]
  | _ =>
    if 0x400 ≤ off then
      let b := (off - 0x400) / 64
      let i := off % 64 / 4
      match (x.spares.get (fun _ => []) b).find? (fun e => e.1 == i) with
      | some e => pack [(1, 31), (boolNat (!(s.flash.madeRemap p b i)), 30), (e.2, 0)]
      | none => 0
    else 0

/-- The registers of a page past its common part and its counters. -/
def State.readBlk (s : State) (b : Blk) (i off : Nat) : Word :=
  match b with
  | .dev => s.readDev off | .flt => s.readFlt off | .tim => s.readTim off | .mrg => s.readMrg off | .pwr => s.readPwr off
  | .sec => s.readSec off | .fls => s.readFls off | .mgt => s.readMgt off | .host => s.readHost off | .ntc => s.readNtc off
  | .lfc => s.readLfc off | .lft => s.readLft (if i = 0 then .up else .down) off | .trv => s.readTrv (tport i) off
  | .sls => s.readSls off | .hbm => s.readHbm i off | .seq => (s.core i).seq.readReg off | .arr => s.readArr i off
  | .sch => s.readSch i off | .row => s.readRow i off | .exp => (s.core i).readExp off | .spm => s.readSpm i off
  | .str => s.readStr i off | .trk => s.readTrk i off | .pcr => s.readPcr i off

/-- PAGE_STAT (R456). -/
def State.pageStat (s : State) (b : Blk) (i p : Nat) : Word :=
  let host := if b.perCore then (s.hostOf i).getD 0x7F else if b == .pcr then i else 0
  let hosted := !b.perCore || (s.hostOf i).isSome
  pack [(host, 8), (boolNat hosted, 2), (boolNat (s.page p).snapped, 1), (boolNat ((s.page p).err != 0), 0)]

/-- The common part of every page (R456). -/
def State.readCommon (s : State) (b : Blk) (i p off : Nat) : Word :=
  let x := s.page p
  match off with
  | 0x000 => word (i * 65536 + b.type)
  | 0x004 => 0x00B00001
  | 0x008 => pack [(b.counters, 24), (b.errBits, 16)]
  | 0x010 => s.pageStat b i p
  | 0x014 => x.err
  | 0x018 => x.notice
  | 0x01C => x.fence
  | 0x020 => x.info0
  | 0x024 => x.info1
  | _ => 0

/-- The MSI-X table and pending-bit array (R343): mask bits, the words that the host wrote, pending bits. -/
def State.readMsix (s : State) (p off : Nat) : Word :=
  let a := (p - 0x900) * 4096 + off
  if p < 0x908 then
    if a % 16 = 12 then word (boolNat (s.host.vecMask.get (fun _ => true) (a / 16))) else s.reg p off
  else if p = 0x908 ∧ off < 0x100 then word (maskOf 32 (fun i => s.host.pba.contains (8 * off + i)))
  else 0

/-- A 32-bit read of BAR0 (R7, R9, R10, R455): page and offset, the offset a multiple of 4. -/
def State.readReg (s : State) (p off : Nat) : Word :=
  match pageBlk p with
  | none => if 0x900 ≤ p then s.readMsix p off else 0
  | some (b, i) =>
    if b.perCore && !s.isPresented i then 0
    else if off < 0x40 then s.readCommon b i p off
    else if b.isPair (off - 4) && off % 8 == 4 then (s.page p).latch.get wordZero (off - 4)
    else if b.isCounter off then (s.readCounter p off).setWidth 32
    else if 0x100 ≤ off ∧ off < 0x400 then 0
    else s.readBlk b i off

end Sys2Proof.Machine
end

