-- ==== Sys2Proof/Machine/Registers.lean ====
section
/-!
DEFINITION. Accesses of the host to BAR0 (R7-R10, R455-R461): reads of 64-bit pairs, page control, PAGE_ERR, and the write
of every writable register with what it sets off.
-/
namespace Sys2Proof.Machine

/-! ## Where an access goes -/

/-- The page belongs to a core that is being moved: the access waits (R455). -/
def State.pageMoving (s : State) (p : Nat) : Bool :=
  match pageBlk p, s.schedule with
  | some (b, i), some (_, n) => b.perCore && i == n
  | _, _ => false

/-- The page exists for the host: one that the table lists, and of a presented core where it is per-core (R453, R455). -/
def State.pageThere (s : State) (p : Nat) : Bool :=
  match pageBlk p with
  | some (b, i) => !b.perCore || s.isPresented i
  | none => false

/-- The access can be performed now: BAR0 is decoded, and its page is not moving. -/
def State.canAccess (s : State) (p : Nat) : Bool := s.readyPin && !s.pageMoving p

/-- BAR0 is 64 MiB (R343). -/
def bar0Bytes : Nat := 0x4000000

/-- BAD_ACCESS: an access of the wrong size or alignment returns 0 or is discarded, and is recorded (R7, R369). -/
def execBadAccess (address : Nat) (isWrite : Bool) (s : State) : Host.Outcome State Fault Refusal :=
  if s.readyPin && decide (address < bar0Bytes) then
    let s := if isWrite then s else s.modHost (fun h => { h with readData := 0 })
    .next ((s.count pHOST 0x130 1).raise pHOST 0 (cause 0 (boolNat isWrite * 2 ^ 24)) (word address))
  else .next s

/-! ## Reads (R9, R459) -/

/-- A fault-log entry has been read (R391). -/
def State.logRead (s : State) (p off : Nat) : State :=
  if p = pFLT ∧ 0x400 ≤ off ∧ off < 0x800 then
    { s with faultUnread := s.faultUnread.filter (fun i => i != (off - 0x400) / 16) }
  else s

/-- COUNTER_LOW_READ: a read of BAR0; of the low word of a pair it latches the high word (R9). -/
def execCounterLowRead (page : Nat) (offset : Nat) (s : State) : Host.Outcome State Fault Refusal :=
  if !s.canAccess page || offset % 4 != 0 || decide (4096 ≤ offset) || decide (bar0Bytes / 4096 ≤ page) then .next s
  else
    let v := s.readReg page offset
    let s' := s.modHost (fun h => { h with readData := v.setWidth 512 })
    match pageBlk page with
    | some (b, i) =>
      if s.pageThere page && b.isPair offset then
        let high := if b.isCounter offset then ((s.readCounter page offset) >>> 32).setWidth 32 else s.readBlk b i (offset + 4)
        .next (s'.modPage page (fun x => { x with latch := x.latch.set wordZero offset high }))
      else .next (s'.logRead page offset)
    | none => .next s'

/-! ## Page control (R459) -/

/-- A counter that runs from reset: not on a per-core page or LFC, and not one of a TRV page that is equal between runs. -/
def Blk.fromReset (b : Blk) (off : Nat) : Bool :=
  !b.perCore && b != .lfc && !(b == .trv && decide (off < 0x120))

def State.snap (s : State) (p : Nat) : State :=
  let now := fun (m : SMap Word64) => if p = pTIM then m.set (fun _ => 0) 0x100 s.time else m
  s.modPage p (fun x => { x with snapped := true, snapshot := now x.live, snapFrom := x.since, snapAt := s.time })

def State.clearPage (s : State) (p : Nat) : State :=
  match pageBlk p with
  | some (b, _) => s.modPage p (fun x => { x with
      counters := x.counters.filter (fun e => !b.fromReset e.1), work := x.work.filter (fun e => !b.fromReset e.1),
      since := if b.perCore then x.since else s.time })
  | none => s

def State.live (s : State) (p : Nat) : State := s.modPage p (fun x => { x with snapped := false })

/-- An access to a page that is there, and not moving. -/
def State.onPage (s : State) (p : Nat) (k : State → State) : State := if s.canAccess p && s.pageThere p then k s else s

def execPageCtlSnap (page : Nat) (s : State) : Host.Outcome State Fault Refusal :=
  .next (s.onPage page (fun s => s.snap page))

/-- TIM_NOW is not cleared: it is the time counter (R471). -/
def execPageCtlClear (page : Nat) (s : State) : Host.Outcome State Fault Refusal :=
  .next (s.onPage page (fun s => s.clearPage page))

def execPageCtlLive (page : Nat) (s : State) : Host.Outcome State Fault Refusal :=
  .next (s.onPage page (fun s => s.live page))

/-! ## Events and the mode (R457, R465) -/

/-- A W1C write of PAGE_ERR. The INFO registers keep their details until an event finds every bit 0 (R457). -/
def State.clearErr (s : State) (p : Nat) (v : Word) : State := s.modPage p (fun x => { x with err := x.err &&& ~~~v })

def execPageErrWrite (page : Nat) (value : Word) (s : State) : Host.Outcome State Fault Refusal :=
  .next (s.onPage page (fun s => s.clearErr page value))

/-- A job runs on some task. -/
def State.anyJob (s : State) : Bool := (List.range 64).any (fun t => ((s.task t).bind (·.job)).isSome)

/-- A write of DEV_MODE; while a job runs it raises MODE_CHANGED (R320, R465). -/
def State.writeMode (s : State) (v : Word) : State :=
  let s := s.setReg pDEV 0x44 (v &&& 1)
  if s.anyJob then s.raise pDEV 1 (cause 1 0) (v &&& 1) else s

def execDevModeWrite (value : Word) (s : State) : Host.Outcome State Fault Refusal :=
  .next (s.onPage pDEV (fun s => s.writeMode value))

/-! ## Ports (R267, R270, R291, R476) -/

/-- A lift port goes down: LINK_DOWN, and the loss of the lift (R256). -/
def State.liftDown (s : State) (x : Side) : State :=
  let was := s.linkState x
  let s := s.setLink x 0 0
  if was = 2 ∨ was = 3 then (s.linkEvent x 0).declareLoss x (sideNat x) else s

/-- A lift port of a formation in progress may train again. -/
def State.liftTrain (s : State) (x : Side) : State :=
  if s.forming && bit (s.reg (pLFT x) 0x40) 0 && s.liftClk && s.linkState x == 0 then s.setLink x 0 1 else s

/-- A traverse port that is enabled and has its clock trains. -/
def State.trvTrain (s : State) (p : TPort) : State :=
  if bit (s.reg (pTRV p) 0x40) 0 && s.trvClk && s.trvState p == 0 then s.setTrvLink p 0 1 else s

/-- A traverse port is held down. -/
def State.trvHold (s : State) (p : TPort) : State := (s.trvDown p).setTrvLink p 0 0

/-- What a write of LFT_CTL sets off. -/
def State.afterLftCtl (s : State) (x : Side) : State := if bit (s.reg (pLFT x) 0x40) 0 then s.liftTrain x else s.liftDown x

/-- What a write of TRV_CTL sets off: ENABLE, and a change of MODE while the port is up (R270). -/
def State.afterTrvCtl (s : State) (p : TPort) (old : Word) : State :=
  let new := s.reg (pTRV p) 0x40
  if !bit new 0 then s.trvHold p
  else if bit old 1 != bit new 1 && s.trvUp p then (s.trvDown p).setTrvLink p 0 3
  else s.trvTrain p

/-! ## Writes (R7, R456, R461) -/

/-- A write that a register's own table ignores now. -/
def State.writeIgnored (s : State) (b : Blk) (off : Nat) : Bool :=
  match b with
  | .host => (off == 0x48 || off == 0x4C) && bit (s.reg pHOST 0x40) 0
  | .ntc => (off == 0x40 || off == 0x44) && bit (s.reg pHOST 0x40) 0
  | .lfc => off == 0x48 && s.lift.state != .unformed
  | .trv => decide (0x800 ≤ off) && !s.trvTasks.isEmpty
  | _ => false

/-- The bits of a register that the host can write. -/
def Blk.writable (b : Blk) (off : Nat) : Nat :=
  if b == .trv && decide (0x800 ≤ off) then 0xFFFFFFFF
  else match b.rw.find? (fun r => r.1 == off) with
    | some (_, m, _) => m
    | none => 0

/-- What a write of a block's own register sets off. -/
def State.afterWrite (s : State) (b : Blk) (i off : Nat) (old : Word) : State :=
  match b with
  | .pwr => if off = 0x40 then s.regate else s
  | .lft => if off = 0x40 then s.afterLftCtl (if i = 0 then .up else .down) else s
  | .trv => if off = 0x40 then s.afterTrvCtl (tport i) old else s
  | .spm => if off = 0x40 then s.modSpm i (Spm.repower (s.autoPwr i)) else s
  | _ => s

/-- A write of a block's own register. -/
def State.writeBlk (s : State) (b : Blk) (i p off : Nat) (v : Word) : State :=
  let m := word (b.writable off)
  if m = 0 ∨ s.writeIgnored b off = true then s
  else
    let old := s.reg p off
    (s.setReg p off ((old &&& ~~~m) ||| (v &&& m))).afterWrite b i off old

/-- PAGE_CTL: SNAP, CLEAR, LIVE (R456, R459). -/
def State.writeCtl (s : State) (p : Nat) (v : Word) : State :=
  let s := if bit v 0 then s.snap p else s
  let s := if bit v 1 then s.clearPage p else s
  if bit v 2 then s.live p else s

/-- The MSI-X table: words 0 to 2 of an entry as written, and its mask, whose clearing sends what is pending (R343, R366). -/
def State.writeMsix (s : State) (p off : Nat) (v : Word) : State :=
  let a := (p - 0x900) * 4096 + off
  if 0x908 ≤ p then s
  else if a % 16 = 12 then
    (s.modHost (fun h => { h with vecMask := h.vecMask.set (fun _ => true) (a / 16) (bit v 0) })).sendPending
  else s.setReg p off v

/-- A 32-bit write of BAR0. -/
def State.writeReg (s : State) (p off : Nat) (v : Word) : State :=
  match pageBlk p with
  | none => if 0x900 ≤ p then s.writeMsix p off v else s
  | some (b, i) =>
    if b.perCore && !s.isPresented i then s
    else match off with
      | 0x00C => s.writeCtl p v
      | 0x014 => s.clearErr p v
      | 0x018 => s.modPage p (fun x => { x with notice := v &&& b.noticeReset })
      | 0x01C => s.modPage p (fun x => { x with fence := v &&& b.noticeReset })
      | _ =>
        if b = .dev ∧ off = 0x44 then s.writeMode v
        else if b = .lfc ∧ off = 0x40 then s.writeForm v
        else s.writeBlk b i p off v

/-- REGISTER_WRITE: an aligned 32-bit write of BAR0. -/
def execRegisterWrite (address : Nat) (value : Word) (s : State) : Host.Outcome State Fault Refusal :=
  if s.canAccess (address / 4096) && address % 4 == 0 && decide (address < bar0Bytes) then
    .next (s.writeReg (address / 4096) (address % 4096) value)
  else .next s

end Sys2Proof.Machine
end

