-- ==== Sys2Proof/Machine/Management.lean ====
section
/-!
DEFINITION. The management interface outside updates and SPDM (R412, R449, R451), and what the part answers to configuration
and CDAT requests (R341, R423).
-/
namespace Sys2Proof.Machine

/-- The telemetry registers (R412): the die table, rates, power, status, rails and stack temperatures. -/
def telemetryRegs : List (Nat × Nat) :=
  ((List.range 4).map (fun d => (List.range 5).map (fun w => (pMRG, 0x400 + 32 * d + 4 * w)))).flatten ++
    [0x4C, 0x50, 0x54, 0x58, 0x5C].map (fun o => (pPWR, o)) ++ (List.range 8).map (fun w => (pPWR, 0x400 + 4 * w)) ++
    (List.range 20).map (fun st => (pHBM st, 0x4C))

def State.telemetry (s : State) : List Word := telemetryRegs.map (fun r => s.readReg r.1 r.2)

/-- One MCTP message in and one out. -/
def State.mctp (s : State) : State := (s.count pMGT 0x100 1).count pMGT 0x108 1

/-- PLDM_MONITORING_REQUEST: answered with telemetry, also after a trip (R410, R412). -/
def execPldmMonitoringRequest (source : Byte) (s : State) : Host.Outcome State Fault Refusal :=
  if s.mgtUp || s.phase == .tripped then .next ((s.mctp.count pMGT 0x110 1).emit (.telemetry source s.telemetry))
  else .next s

/-- SET_ENDPOINT_ID: MGT_EID shows the endpoint ID that the bus owner assigned (R451). -/
def execSetEndpointId (eid : Byte) (s : State) : Host.Outcome State Fault Refusal :=
  if s.mgtUp || s.phase == .recovery then .next (s.mctp.setReg pMGT 0x44 (eid.setWidth 32)) else .next s

/-- The management interface listens. -/
def State.mgtBus (s : State) : Bool := s.mgtUp || s.phase == .recovery || s.phase == .tripped

def execMalformedMctpPacket (source : Byte) (s : State) : Host.Outcome State Fault Refusal :=
  if s.mgtBus then .next (s.raise pMGT 0 (cause 0 0) (source.setWidth 32)) else .next s

def execBusTimeout (s : State) : Host.Outcome State Fault Refusal :=
  if s.mgtBus then .next (s.raise pMGT 1 (cause 1 0) 0) else .next s

/-- CONFIGURATION_REQUEST: Retry Status until READY (R423). A part that is off, in reset or tripped does not answer. -/
def execConfigurationRequest (s : State) : Host.Outcome State Fault Refusal :=
  if s.phase == .off || s.phase == .inReset || s.phase == .tripped then .next s
  else .next (s.emit (.configReply (!s.readyPin)))

/-- CDAT_REQUEST: answered through the DOE mailbox (R341). -/
def execCdatRequest (s : State) : Host.Outcome State Fault Refusal :=
  if s.readyPin then .next (s.emit .cdat) else .next s

end Sys2Proof.Machine
end

