-- ==== Sys2Proof/Machine/Pins.lean ====
section
/-!
DEFINITION. Pins: resets and power (R390, R462, R475), reference clocks (R467, R476), and boundary scan (R482).
-/
namespace Sys2Proof.Machine

/-! ## Resets (R462, R475) -/

/-- Everything at its reset value but what a reset does not touch: the flash, the pins, a trip, the clocks, the TAP, and the
model's own outbox, queue and free-value counter. -/
def State.cleared (s : State) : State :=
  { State.reset with phase := .inReset, flash := s.flash, porN := s.porN, perstN := s.perstN, strap0 := s.strap0,
                     strap1 := s.strap1, trip := s.trip, refOk := s.refOk, holdover := false, liftClk := s.liftClk,
                     trvClk := s.trvClk, tap := s.tap, chain := s.chain, free := s.free, outbox := s.outbox,
                     pending := s.pending }

/-- Reset release: the time counter starts at 0, the straps are sampled, and the ROM boots (R423, R425, R467, R475). -/
def State.releaseReset (s : State) : State := { s.cleared with phase := .booting }.romBoot

/-- POR_N_RISE: the later of the two edges releases the part; with PERST_N low it is held in conventional reset. -/
def execPorNRise (s : State) : Host.Outcome State Fault Refusal :=
  if s.porN then .next s
  else
    let s := { s with porN := true }
    .next (if s.perstN then s.releaseReset else s.cleared)

/-- POR_N_FALL: in reset; a trip ends (R475). -/
def execPorNFall (s : State) : Host.Outcome State Fault Refusal :=
  if s.porN then .next { s with porN := false, trip := false }.cleared else .next s

/-- PERST_N_RISE: reset release, unless POR_N is low or a trip is latched. -/
def execPerstNRise (strap0 strap1 : Bool) (s : State) : Host.Outcome State Fault Refusal :=
  if s.perstN then .next s
  else
    let s := { s with perstN := true, strap0 := strap0, strap1 := strap1 }
    .next (if s.porN && !s.trip then s.releaseReset else s)

/-- PERST_N_FALL: conventional reset; THERMTRIP_N keeps reporting a trip. -/
def execPerstNFall (s : State) : Host.Outcome State Fault Refusal :=
  if s.perstN then
    let s := { s with perstN := false }
    .next (if s.porN then s.cleared else s)
  else .next s

/-- POWER_LOSS: every volatile byte is lost, and with it the records that wait; one that was being written is torn or not
(R390, R436). -/
def execPowerLoss (s : State) : Host.Outcome State Fault Refusal :=
  if s.phase == .off then .next s
  else
    let torn := s.flash.torn || (!s.toJournal.isEmpty && s.flash.helper && Config.freeBool s.free)
    let s := { s with porN := false, trip := false, flash := { s.flash with torn := torn }, free := s.free + 1 }
    .next { s.cleared with phase := .off }

/-! ## Clocks (R467, R476) -/

/-- REF_LOST: holdover from the current value. -/
def execRefLost (s : State) : Host.Outcome State Fault Refusal :=
  if !s.refOk then .next s
  else if s.phase == .off || s.phase == .inReset then .next { s with refOk := false }
  else
    .next (({ s with refOk := false, holdover := true }.count pTIM 0x110 1).raise pTIM 0 (cause 0 0) (s.time.setWidth 32))

/-- REF_RETURN: the counter adds 10 per edge again, from its current value. -/
def execRefReturn (s : State) : Host.Outcome State Fault Refusal := .next { s with refOk := true, holdover := false }

/-- SERDES_REFCLK_LOSS: the ports that the clock serves go down. -/
def execSerdesRefclkLoss (traverse : Bool) (s : State) : Host.Outcome State Fault Refusal :=
  let run := s.phase == .ready
  if traverse then
    let s := { s with trvClk := false }
    .next (if run then (s.trvHold .A).trvHold .B else s)
  else
    let s := { s with liftClk := false }
    .next (if run then (s.liftDown .up).liftDown .down else s)

/-- SERDES_REFCLK_RETURN: the ports can train again. -/
def execSerdesRefclkReturn (traverse : Bool) (s : State) : Host.Outcome State Fault Refusal :=
  let run := s.phase == .ready
  if traverse then
    let s := { s with trvClk := true }
    .next (if run then (s.trvTrain .A).trvTrain .B else s)
  else
    let s := { s with liftClk := true }
    .next (if run then (s.liftTrain .up).liftTrain .down else s)

/-! ## Boundary scan (R482) -/

/-- Basiq's JEDEC manufacturer identity: the spec gives no number. -/
opaque Config.jedecId : BitVec 11

/-- The places of the boundary chain, which the spec does not give: the chain that the levels of the signals make. -/
opaque Config.scanChain : List Bool → List Bool

/-- IDCODE of a B0 part. -/
def idcode : Word := word (1 * 2 ^ 28 + 0x6420 * 2 ^ 12 + Config.jedecId.toNat * 2 + 1)

/-- The instruction that acts: EXTEST, CLAMP and HIGHZ act as BYPASS while PERST_N is high. -/
def State.tapActs (s : State) : Tap :=
  match s.tap with
  | .extest _ | .clamp | .highz => if s.perstN then .bypass else s.tap
  | _ => s.tap

/-- Levels of the reset, strap and status signals (R474, R480). -/
def State.pinLevels (s : State) : List Bool :=
  [s.porN, s.perstN, s.strap0, s.strap1, s.readyPin, !s.faultPin, !s.alert, !s.trip]

/-- What an instruction shifts out: one bit of BYPASS, the identity, or the sampled chain. -/
def State.shifted (s : State) : Tap → List Bool
  | .idcode => (List.range 32).map (fun i => bit idcode i)
  | .samplePreload _ | .extest _ => Config.scanChain s.pinLevels
  | .bypass | .clamp | .highz => [false]

/-- TAP_INSTRUCTION: the instruction is loaded, and its values are shifted into the chain; nothing else of the part changes. -/
def execTapInstruction (i : Tap) (s : State) : Host.Outcome State Fault Refusal :=
  let s := { s with tap := i }
  let s := match s.tapActs with
    | .samplePreload c | .extest c => { s with chain := c }
    | .bypass | .idcode | .clamp | .highz => s
  .next (s.emit (.tdo (s.shifted s.tapActs)))

end Sys2Proof.Machine
end

