-- ==== Sys2Proof/Machine/Dispatch.lean ====
section
/-!
DEFINITION. The meaning of each command: one arm per constructor of Instr, each one direct call of a meaning.
-/
namespace Sys2Proof.Machine

def exec (i : Instr) (s : State) : Host.Outcome State Fault Refusal :=
  match i with
  | .nop n => Sys2Proof.Machine.execNop n s
  | .endProg n => Sys2Proof.Machine.execEndProg n s
  | .switchBank n => Sys2Proof.Machine.execSwitchBank n s
  | .fence n => Sys2Proof.Machine.execFence n s
  | .li n => Sys2Proof.Machine.execLi n s
  | .alu n => Sys2Proof.Machine.execAlu n s
  | .cmp n => Sys2Proof.Machine.execCmp n s
  | .mova n => Sys2Proof.Machine.execMova n s
  | .setlc n => Sys2Proof.Machine.execSetlc n s
  | .lidx n => Sys2Proof.Machine.execLidx n s
  | .ld n => Sys2Proof.Machine.execLd n s
  | .st n => Sys2Proof.Machine.execSt n s
  | .loop n => Sys2Proof.Machine.execLoop n s
  | .setrng n => Sys2Proof.Machine.execSetrng n s
  | .rowld n => Sys2Proof.Machine.execRowld n s
  | .rowst n => Sys2Proof.Machine.execRowst n s
  | .claim n => Sys2Proof.Machine.execClaim n s
  | .claimTakeover n bank => Sys2Proof.Machine.execClaimTakeover n bank s
  | .region n => Sys2Proof.Machine.execRegion n s
  | .release n => Sys2Proof.Machine.execRelease n s
  | .part n => Sys2Proof.Machine.execPart n s
  | .pass n => Sys2Proof.Machine.execPass n s
  | .passStart n p => Sys2Proof.Machine.execPassStart n p s
  | .passBoundary n p => Sys2Proof.Machine.execPassBoundary n p s
  | .passReplay n p => Sys2Proof.Machine.execPassReplay n p s
  | .drain n => Sys2Proof.Machine.execDrain n s
  | .fill n => Sys2Proof.Machine.execFill n s
  | .vload n => Sys2Proof.Machine.execVload n s
  | .sweep n => Sys2Proof.Machine.execSweep n s
  | .sweepStart n => Sys2Proof.Machine.execSweepStart n s
  | .sweepBoundary n => Sys2Proof.Machine.execSweepBoundary n s
  | .sdrain n => Sys2Proof.Machine.execSdrain n s
  | .tload n => Sys2Proof.Machine.execTload n s
  | .tableLoadDone n slot => Sys2Proof.Machine.execTableLoadDone n slot s
  | .copy n => Sys2Proof.Machine.execCopy n s
  | .add n => Sys2Proof.Machine.execAdd n s
  | .sub n => Sys2Proof.Machine.execSub n s
  | .mul n => Sys2Proof.Machine.execMul n s
  | .fma n => Sys2Proof.Machine.execFma n s
  | .min n => Sys2Proof.Machine.execMin n s
  | .max n => Sys2Proof.Machine.execMax n s
  | .neg n => Sys2Proof.Machine.execNeg n s
  | .abs n => Sys2Proof.Machine.execAbs n s
  | .exp n => Sys2Proof.Machine.execExp n s
  | .log n => Sys2Proof.Machine.execLog n s
  | .rsqrt n => Sys2Proof.Machine.execRsqrt n s
  | .recip n => Sys2Proof.Machine.execRecip n s
  | .sigmoid n => Sys2Proof.Machine.execSigmoid n s
  | .silu n => Sys2Proof.Machine.execSilu n s
  | .rsum n => Sys2Proof.Machine.execRsum n s
  | .rmax n => Sys2Proof.Machine.execRmax n s
  | .rmin n => Sys2Proof.Machine.execRmin n s
  | .classify n => Sys2Proof.Machine.execClassify n s
  | .cvt n => Sys2Proof.Machine.execCvt n s
  | .hold n => Sys2Proof.Machine.execHold n s
  | .rmsnorm n => Sys2Proof.Machine.execRmsnorm n s
  | .layernorm n => Sys2Proof.Machine.execLayernorm n s
  | .softmax n => Sys2Proof.Machine.execSoftmax n s
  | .rope n => Sys2Proof.Machine.execRope n s
  | .topkRoute n => Sys2Proof.Machine.execTopkRoute n s
  | .gather n => Sys2Proof.Machine.execGather n s
  | .scatter n => Sys2Proof.Machine.execScatter n s
  | .scatterAdd n => Sys2Proof.Machine.execScatterAdd n s
  | .quantMx n => Sys2Proof.Machine.execQuantMx n s
  | .dequantMx n => Sys2Proof.Machine.execDequantMx n s
  | .quantFp8 n => Sys2Proof.Machine.execQuantFp8 n s
  | .attnProb n => Sys2Proof.Machine.execAttnProb n s
  | .attnMerge n => Sys2Proof.Machine.execAttnMerge n s
  | .attnFinal n => Sys2Proof.Machine.execAttnFinal n s
  | .stream n => Sys2Proof.Machine.execStream n s
  | .streamComplete n c => Sys2Proof.Machine.execStreamComplete n c s
  | .launch n => Sys2Proof.Machine.execLaunch n s
  | .chairSend d => Sys2Proof.Machine.execChairSend d s
  | .demand n => Sys2Proof.Machine.execDemand n s
  | .grad n => Sys2Proof.Machine.execGrad n s
  | .xsend n => Sys2Proof.Machine.execXsend n s
  | .recv n => Sys2Proof.Machine.execRecv n s
  | .allreduce n => Sys2Proof.Machine.execAllreduce n s
  | .reduceScatter n => Sys2Proof.Machine.execReduceScatter n s
  | .allgather n => Sys2Proof.Machine.execAllgather n s
  | .broadcast n => Sys2Proof.Machine.execBroadcast n s
  | .barrier n => Sys2Proof.Machine.execBarrier n s
  | .arrayHang n p => Sys2Proof.Machine.execArrayHang n p s
  | .schussHang n => Sys2Proof.Machine.execSchussHang n s
  | .rowHang n => Sys2Proof.Machine.execRowHang n s
  | .streamHang n c => Sys2Proof.Machine.execStreamHang n c s
  | .coreMove stuck => Sys2Proof.Machine.execCoreMove stuck s
  | .scheduleEffect => Sys2Proof.Machine.execScheduleEffect s
  | .tableEcc n slot => Sys2Proof.Machine.execTableEcc n slot s
  | .dmemEcc n => Sys2Proof.Machine.execDmemEcc n s
  | .progEcc n => Sys2Proof.Machine.execProgEcc n s
  | .descEcc n d => Sys2Proof.Machine.execDescEcc n d s
  | .bookEcc n => Sys2Proof.Machine.execBookEcc n s
  | .spmTableEcc n => Sys2Proof.Machine.execSpmTableEcc n s
  | .ctrlEcc => Sys2Proof.Machine.execCtrlEcc s
  | .routeFail d e => Sys2Proof.Machine.execRouteFail d e s
  | .jobFaultEnd task => Sys2Proof.Machine.execJobFaultEnd task s
  | .jobComplete task => Sys2Proof.Machine.execJobComplete task s
  | .provenanceSigned job => Sys2Proof.Machine.execProvenanceSigned job s
  | .bankWakeDone n bank => Sys2Proof.Machine.execBankWakeDone n bank s
  | .spmBistStart pcore bank => Sys2Proof.Machine.execSpmBistStart pcore bank s
  | .spmBistDone pcore bank failing => Sys2Proof.Machine.execSpmBistDone pcore bank failing s
  | .spmZeroDone n => Sys2Proof.Machine.execSpmZeroDone n s
  | .saveImageWrite task => Sys2Proof.Machine.execSaveImageWrite task s
  | .trackKeyClose n => Sys2Proof.Machine.execTrackKeyClose n s
  | .trackRecordClose task => Sys2Proof.Machine.execTrackRecordClose task s
  | .trackStall n => Sys2Proof.Machine.execTrackStall n s
  | .hbmRefreshWindow stack ch marginPs => Sys2Proof.Machine.execHbmRefreshWindow stack ch marginPs s
  | .channelRetrain stack ch trained => Sys2Proof.Machine.execChannelRetrain stack ch trained s
  | .hbmReadReport n unit badReads feeds => Sys2Proof.Machine.execHbmReadReport n unit badReads feeds s
  | .softRepair stack room => Sys2Proof.Machine.execSoftRepair stack room s
  | .hbmSelfRefresh n => Sys2Proof.Machine.execHbmSelfRefresh n s
  | .dset n => Sys2Proof.Machine.execDset n s
  | .dadd n => Sys2Proof.Machine.execDadd n s
  | .dloop n => Sys2Proof.Machine.execDloop n s
  | .dfill n => Sys2Proof.Machine.execDfill n s
  | .dcheck n => Sys2Proof.Machine.execDcheck n s
  | .dsave n => Sys2Proof.Machine.execDsave n s
  | .dload n => Sys2Proof.Machine.execDload n s
  | .dwait n => Sys2Proof.Machine.execDwait n s
  | .dmark n => Sys2Proof.Machine.execDmark n s
  | .dend n => Sys2Proof.Machine.execDend n s
  | .hbmZeroingDone z => Sys2Proof.Machine.execHbmZeroingDone z s
  | .liftPortTrained side lanes => Sys2Proof.Machine.execLiftPortTrained side lanes s
  | .formationSend side => Sys2Proof.Machine.execFormationSend side s
  | .formationFrame side f => Sys2Proof.Machine.execFormationFrame side f s
  | .ringFrame second epoch => Sys2Proof.Machine.execRingFrame second epoch s
  | .formTimeout => Sys2Proof.Machine.execFormTimeout s
  | .chairFrame side f => Sys2Proof.Machine.execChairFrame side f s
  | .chairLand n hdrOk => Sys2Proof.Machine.execChairLand n hdrOk s
  | .demandChairRx side f => Sys2Proof.Machine.execDemandChairRx side f s
  | .gradChairRx side f => Sys2Proof.Machine.execGradChairRx side f s
  | .linkControlFrame side f => Sys2Proof.Machine.execLinkControlFrame side f s
  | .linkControlSend side => Sys2Proof.Machine.execLinkControlSend side s
  | .ackTimeout side => Sys2Proof.Machine.execAckTimeout side s
  | .retryLimit side => Sys2Proof.Machine.execRetryLimit side s
  | .linkRetrainDone side lanes => Sys2Proof.Machine.execLinkRetrainDone side lanes s
  | .liftNotice side stall position failedSide => Sys2Proof.Machine.execLiftNotice side stall position failedSide s
  | .lossTimeout side => Sys2Proof.Machine.execLossTimeout side s
  | .liftStall => Sys2Proof.Machine.execLiftStall s
  | .quiesceFrame second => Sys2Proof.Machine.execQuiesceFrame second s
  | .trvPortTrained port lanes => Sys2Proof.Machine.execTrvPortTrained port lanes s
  | .trvDataPacket port p => Sys2Proof.Machine.execTrvDataPacket port p s
  | .trvAck port p => Sys2Proof.Machine.execTrvAck port p s
  | .trvNak port p => Sys2Proof.Machine.execTrvNak port p s
  | .trvRequest port p => Sys2Proof.Machine.execTrvRequest port p s
  | .grantIssue port index => Sys2Proof.Machine.execGrantIssue port index s
  | .trvGrant port p => Sys2Proof.Machine.execTrvGrant port p s
  | .trvAbort port p => Sys2Proof.Machine.execTrvAbort port p s
  | .abortResend port => Sys2Proof.Machine.execAbortResend port s
  | .arpRequest port target senderMac => Sys2Proof.Machine.execArpRequest port target senderMac s
  | .neighbourSolicitation port target senderMac => Sys2Proof.Machine.execNeighbourSolicitation port target senderMac s
  | .pfcPauseFrame port priority => Sys2Proof.Machine.execPfcPauseFrame port priority s
  | .pfcStorm port => Sys2Proof.Machine.execPfcStorm port s
  | .trvAckSend port peer => Sys2Proof.Machine.execTrvAckSend port peer s
  | .trvRtoExpiry port peer => Sys2Proof.Machine.execTrvRtoExpiry port peer s
  | .ccWindow port peer => Sys2Proof.Machine.execCcWindow port peer s
  | .peerLost port peer cause => Sys2Proof.Machine.execPeerLost port peer cause s
  | .trvLinkDown port => Sys2Proof.Machine.execTrvLinkDown port s
  | .sqDoorbell bits value => Sys2Proof.Machine.execSqDoorbell bits value s
  | .headDoorbell bits value => Sys2Proof.Machine.execHeadDoorbell bits value s
  | .commandFetch q entry => Sys2Proof.Machine.execCommandFetch q entry s
  | .noticeBacklogDrain => Sys2Proof.Machine.execNoticeBacklogDrain s
  | .ctxCreate q => Sys2Proof.Machine.execCtxCreate q s
  | .ctxKill q => Sys2Proof.Machine.execCtxKill q s
  | .sqCreate q => Sys2Proof.Machine.execSqCreate q s
  | .sqDelete q => Sys2Proof.Machine.execSqDelete q s
  | .ringCreate q => Sys2Proof.Machine.execRingCreate q s
  | .ringDelete q => Sys2Proof.Machine.execRingDelete q s
  | .pcoreFence q => Sys2Proof.Machine.execPcoreFence q s
  | .selfTest q => Sys2Proof.Machine.execSelfTest q s
  | .arraySelfTestDone pcore failed => Sys2Proof.Machine.execArraySelfTestDone pcore failed s
  | .queueNop q => Sys2Proof.Machine.execQueueNop q s
  | .flush q => Sys2Proof.Machine.execFlush q s
  | .hbmAlloc q => Sys2Proof.Machine.execHbmAlloc q s
  | .hbmFree q => Sys2Proof.Machine.execHbmFree q s
  | .taskCreate q => Sys2Proof.Machine.execTaskCreate q s
  | .taskKill q => Sys2Proof.Machine.execTaskKill q s
  | .progLoad q image => Sys2Proof.Machine.execProgLoad q image s
  | .jobLaunch q inputs => Sys2Proof.Machine.execJobLaunch q inputs s
  | .preempt q => Sys2Proof.Machine.execPreempt q s
  | .resume q => Sys2Proof.Machine.execResume q s
  | .save q regions => Sys2Proof.Machine.execSave q regions s
  | .saveExport q written => Sys2Proof.Machine.execSaveExport q written s
  | .saveImport q image => Sys2Proof.Machine.execSaveImport q image s
  | .batch q => Sys2Proof.Machine.execBatch q s
  | .provenance q written => Sys2Proof.Machine.execProvenance q written s
  | .bundleLoad q manifest directory => Sys2Proof.Machine.execBundleLoad q manifest directory s
  | .segDone q => Sys2Proof.Machine.execSegDone q s
  | .segmentHashed slot segment => Sys2Proof.Machine.execSegmentHashed slot segment s
  | .swap q manifest directory => Sys2Proof.Machine.execSwap q manifest directory s
  | .evict q => Sys2Proof.Machine.execEvict q s
  | .pin q => Sys2Proof.Machine.execPin q s
  | .residency q written => Sys2Proof.Machine.execResidency q written s
  | .loadTimeout slot => Sys2Proof.Machine.execLoadTimeout slot s
  | .residencyRing f => Sys2Proof.Machine.execResidencyRing f s
  | .residencyRingRepeat slot => Sys2Proof.Machine.execResidencyRingRepeat slot s
  | .ringTimeout slot => Sys2Proof.Machine.execRingTimeout slot s
  | .slotOpen slot => Sys2Proof.Machine.execSlotOpen slot s
  | .slotVerified slot => Sys2Proof.Machine.execSlotVerified slot s
  | .windowRead offset => Sys2Proof.Machine.execWindowRead offset s
  | .windowWrite offset data enable => Sys2Proof.Machine.execWindowWrite offset data enable s
  | .windowWritePerform index => Sys2Proof.Machine.execWindowWritePerform index s
  | .functionLevelReset => Sys2Proof.Machine.execFunctionLevelReset s
  | .cxlReset => Sys2Proof.Machine.execCxlReset s
  | .hostLinkDown => Sys2Proof.Machine.execHostLinkDown s
  | .hostLinkTrained width speed => Sys2Proof.Machine.execHostLinkTrained width speed s
  | .busMasterDisable => Sys2Proof.Machine.execBusMasterDisable s
  | .pageCtlSnap page => Sys2Proof.Machine.execPageCtlSnap page s
  | .pageCtlClear page => Sys2Proof.Machine.execPageCtlClear page s
  | .pageCtlLive page => Sys2Proof.Machine.execPageCtlLive page s
  | .pageErrWrite page value => Sys2Proof.Machine.execPageErrWrite page value s
  | .lfcFormGo value => Sys2Proof.Machine.execLfcFormGo value s
  | .devModeWrite value => Sys2Proof.Machine.execDevModeWrite value s
  | .counterLowRead page offset => Sys2Proof.Machine.execCounterLowRead page offset s
  | .badAccess address isWrite => Sys2Proof.Machine.execBadAccess address isWrite s
  | .registerWrite address value => Sys2Proof.Machine.execRegisterWrite address value s
  | .porNRise => Sys2Proof.Machine.execPorNRise s
  | .porNFall => Sys2Proof.Machine.execPorNFall s
  | .perstNRise strap0 strap1 => Sys2Proof.Machine.execPerstNRise strap0 strap1 s
  | .perstNFall => Sys2Proof.Machine.execPerstNFall s
  | .bootComplete => Sys2Proof.Machine.execBootComplete s
  | .powerLoss => Sys2Proof.Machine.execPowerLoss s
  | .thermtrip => Sys2Proof.Machine.execThermtrip s
  | .refLost => Sys2Proof.Machine.execRefLost s
  | .refReturn => Sys2Proof.Machine.execRefReturn s
  | .serdesRefclkLoss traverse => Sys2Proof.Machine.execSerdesRefclkLoss traverse s
  | .marginSample dies => Sys2Proof.Machine.execMarginSample dies s
  | .stretch die => Sys2Proof.Machine.execStretch die s
  | .stretchEnd die => Sys2Proof.Machine.execStretchEnd die s
  | .marginLow die => Sys2Proof.Machine.execMarginLow die s
  | .learnStep die => Sys2Proof.Machine.execLearnStep die s
  | .avsReadback rail r => Sys2Proof.Machine.execAvsReadback rail r s
  | .capInterval watts other => Sys2Proof.Machine.execCapInterval watts other s
  | .thermStep hottest => Sys2Proof.Machine.execThermStep hottest s
  | .firmwareUpdate image => Sys2Proof.Machine.execFirmwareUpdate image s
  | .configRecord record => Sys2Proof.Machine.execConfigRecord record s
  | .recoveryImage image => Sys2Proof.Machine.execRecoveryImage image s
  | .journalAppend written => Sys2Proof.Machine.execJournalAppend written s
  | .getVersion t => Sys2Proof.Machine.execGetVersion t s
  | .getCapabilities t => Sys2Proof.Machine.execGetCapabilities t s
  | .negotiateAlgorithms t mldsa87 sha3x512 => Sys2Proof.Machine.execNegotiateAlgorithms t mldsa87 sha3x512 s
  | .getDigests t => Sys2Proof.Machine.execGetDigests t s
  | .getCertificate t slot => Sys2Proof.Machine.execGetCertificate t slot s
  | .challenge t slot nonce => Sys2Proof.Machine.execChallenge t slot nonce s
  | .getMeasurements t index sign nonce => Sys2Proof.Machine.execGetMeasurements t index sign nonce s
  | .commandCompletion n r => Sys2Proof.Machine.execCommandCompletion n r s
  | .busMasterEnable => Sys2Proof.Machine.execBusMasterEnable s
  | .vectorUnmask vector => Sys2Proof.Machine.execVectorUnmask vector s
  | .configurationRequest => Sys2Proof.Machine.execConfigurationRequest s
  | .cdatRequest => Sys2Proof.Machine.execCdatRequest s
  | .pldmMonitoringRequest source => Sys2Proof.Machine.execPldmMonitoringRequest source s
  | .setEndpointId eid => Sys2Proof.Machine.execSetEndpointId eid s
  | .malformedMctpPacket source => Sys2Proof.Machine.execMalformedMctpPacket source s
  | .busTimeout => Sys2Proof.Machine.execBusTimeout s
  | .stackHot stack temp => Sys2Proof.Machine.execStackHot stack temp s
  | .serdesRefclkReturn traverse => Sys2Proof.Machine.execSerdesRefclkReturn traverse s
  | .pfcPauseEnd port ns => Sys2Proof.Machine.execPfcPauseEnd port ns s
  | .foreignFrame side => Sys2Proof.Machine.execForeignFrame side s
  | .foreignPacket port => Sys2Proof.Machine.execForeignPacket port s
  | .tapInstruction x => Sys2Proof.Machine.execTapInstruction x s
  | .pcoreWakeDone pcore => Sys2Proof.Machine.execPcoreWakeDone pcore s
  | .selfRefreshExit n => Sys2Proof.Machine.execSelfRefreshExit n s

end Sys2Proof.Machine
end

