-- ==== Sys2Proof/WellFormed.lean ====
section
/-!
DEFINITION. When a command names only things the part has and carries data of the size its frame has (R11, R240,
R273, R353, R404).
-/
namespace Sys2Proof

def LiftFrame.wf (f : LiftFrame) : Bool := f.hdr.length == 40 && f.data.length ≤ 8192

def TrvPacket.wf (p : TrvPacket) : Bool := p.hdr.length == 40 && p.data.length ≤ 8192

/-- Compute dies joined by a bridge: the ring 0-1-2-3-0 (R12). -/
def adjacentDies (d e : Fin 4) : Bool := (d.val + 1) % 4 == e.val || (e.val + 1) % 4 == d.val

def DieSample.wf (x : DieSample) : Bool := x.rings.length == 24 && x.detectors.length == 8

/-- Every pcore is 0-67, every stack 0-19 (R11); frames, packets and queue entries have their sizes. -/
def Instr.wf : Instr → Bool
  | .spmBistStart p _ => p < 68
  | .spmBistDone p _ _ => p < 68
  | .arraySelfTestDone p _ => p < 68
  | .pcoreWakeDone p => p < 68
  | .hbmRefreshWindow s _ _ => s < 20
  | .channelRetrain s _ _ => s < 20
  | .softRepair s _ => s < 20
  | .stackHot s _ => s < 20
  | .hbmReadReport _ u _ _ => u < 41943040
  | .routeFail d e => adjacentDies d e
  | .chairFrame _ f => f.wf
  | .demandChairRx _ f => f.wf
  | .gradChairRx _ f => f.wf
  | .linkControlFrame _ f => f.wf
  | .formationFrame _ f => f.frame.wf
  | .ringFrame f _ => f.frame.wf
  | .liftNotice _ f _ _ => f.frame.wf
  | .quiesceFrame f => f.frame.wf
  | .trvDataPacket _ p => p.wf
  | .trvAck _ p => p.wf
  | .trvNak _ p => p.wf
  | .trvRequest _ p => p.wf
  | .trvGrant _ p => p.wf
  | .trvAbort _ p => p.wf
  | .commandFetch _ (some e) => e.length == 64
  | .marginSample ds => ds.length == 4 && ds.all DieSample.wf
  | .thermStep ts => ts.length == 4
  | .windowRead o => o % 64 == 0
  | .windowWrite o _ _ => o % 64 == 0
  | .pageCtlSnap p => p < 16384
  | .pageCtlClear p => p < 16384
  | .pageCtlLive p => p < 16384
  | .pageErrWrite p _ => p < 16384
  | .counterLowRead p o => p < 16384 && o % 8 == 0 && o < 4096
  | .registerWrite a _ => a % 4 == 0 && a < 67108864
  | _ => true

end Sys2Proof
end

