-- ==== Sys2Proof/Safety.lean ====
section
/-!
DEFINITION. What counts as a well-formed state: every table of the state in its canonical form. Claims about every
state take it as a premise, and the step keeps it.
-/
namespace Sys2Proof.Machine

/-- The slices of HBM, the pages, the cores and the pcores are canonical sparse maps. -/
def State.Canonical (s : State) : Prop :=
  s.slices.wf sliceReset = true ∧ s.pages.wf Page.resetOf = true ∧ s.cores.wf (fun _ => Core.reset) = true ∧
  s.pcores.wf pcoreDefault = true

/-! ## A command at the program counter -/

/-- Core `n` may issue and its program counter stands at command word `w` of opcode `op`: no reserved bit is set (R167
steps 1 to 3 pass but for the command's own reserved values). -/
def State.atCommand (s : State) (n op : Nat) (w : BitVec 128) : Bool :=
  s.canIssue n && decide ((s.core n).seq.fetch = w) && decide (opcodeOf w = op) && (cmdMask op).isSome && !badBits w

/-- ... and its predicate holds (R174). -/
def State.runs (s : State) (n op : Nat) (w : BitVec 128) : Bool := s.atCommand n op w && (s.core n).seq.predOn w

/-- A core whose sequencer state has become `q` and whose command at `k`'s program counter has been passed (R172). -/
def Core.passed (k : Core) (q : Seq) : Core :=
  { k with seq := { q with loops := (resolveEnd k.seq.pc k.seq.loops).1, pc := (resolveEnd k.seq.pc k.seq.loops).2.1 } }

/-- `t` is `s` but for core `n`, counters of that core's pages and the mark that its job has issued: no other core, no
register, no error bit, no slice, no page of another unit. -/
structure State.CoreFrame (s t : State) (n : Nat) : Prop where
  rest : t = { s with cores := t.cores, pages := t.pages, host := { s.host with tasks := t.host.tasks } }
  others : ∀ m, m ≠ n → t.core m = s.core m
  away : ∀ p, (∀ k < 16, p ≠ corePage n k) → t.page p = s.page p
  counters : ∀ p, t.page p = { s.page p with counters := (t.page p).counters }
  tasks : ∀ x, t.task x = s.task x ∨
    t.task x = (s.task x).map (fun y => { y with job := y.job.map (fun j => { j with tasked := true }) })

/-- Core `n` runs a job that has not faulted: its task, and the job. -/
def State.jobOn (s : State) (n : Nat) (x : Fin 64) (tk : Task) (j : Job) : Prop :=
  (s.core n).task = some x ∧ s.task x.val = some tk ∧ tk.job = some j ∧ j.fault = none ∧ n ∈ tk.coreList

/-- The rows that are commands at a program counter, with their opcodes (R168-R171). -/
def commandRows (n : CoreId) : List (Nat × Instr) :=
  [(0x00, .nop n), (0x01, .endProg n), (0x02, .switchBank n), (0x03, .fence n), (0x08, .li n), (0x09, .alu n), (0x0A, .cmp n),
   (0x0B, .mova n), (0x0C, .setlc n), (0x0D, .lidx n), (0x0E, .ld n), (0x0F, .st n), (0x10, .loop n), (0x11, .setrng n),
   (0x20, .rowld n), (0x21, .rowst n), (0x28, .claim n), (0x29, .region n), (0x2A, .release n), (0x30, .part n),
   (0x31, .pass n), (0x32, .drain n), (0x33, .fill n), (0x38, .vload n), (0x39, .sweep n), (0x3A, .sdrain n), (0x40, .tload n),
   (0x50, .stream n), (0x58, .launch n), (0x59, .demand n), (0x5A, .grad n), (0x60, .xsend n)]

/-- The ROWOP rows with their operation codes (R185). -/
def rowopRows (n : CoreId) : List (Nat × Instr) :=
  [(0x00, .copy n), (0x01, .add n), (0x02, .sub n), (0x03, .mul n), (0x04, .fma n), (0x05, .min n), (0x06, .max n),
   (0x07, .neg n), (0x08, .abs n), (0x10, .exp n), (0x11, .log n), (0x12, .rsqrt n), (0x13, .recip n), (0x14, .sigmoid n),
   (0x15, .silu n), (0x20, .rsum n), (0x21, .rmax n), (0x22, .rmin n), (0x28, .classify n), (0x30, .cvt n), (0x38, .hold n)]

/-! ## Engine commands at issue (R160, R161, R167) -/

/-- An engine row: which words are the row, its reserved values, what it captures, a further check at issue (R211, R327),
and what follows once the command stands in its queue. -/
structure EngineRow where
  row   : Instr
  isRow : BitVec 128 → Bool
  bad   : Core → BitVec 128 → Bool
  cap   : BitVec 128 → Core → Capture
  gate  : BitVec 128 → State → Option State
  begin : BitVec 128 → State → EngCmd → State

/-- The rows of the array, the schuss path, the expander, the row path and releases. -/
def arrayRows (n : CoreId) : List EngineRow :=
  let no := fun (_ : BitVec 128) (_ : State) => (none : Option State)
  let again := fun (f : Nat → State → EngCmd → State) (_ : BitVec 128) (s : State) (c : EngCmd) =>
    let s := s.trackIssued n.val c
    f n.val s (((s.core n.val).command c.id).getD c)
  [{ row := .rowld n, isRow := isOp 0x20, bad := badW1, cap := captureRows true, gate := no, begin := fun _ => performRowPath n.val },
   { row := .rowst n, isRow := isOp 0x21, bad := badW1, cap := captureRows false, gate := no, begin := fun _ => performRowPath n.val },
   { row := .release n, isRow := isOp 0x2A, bad := noBad, cap := captureRelease, gate := no, begin := fun _ => performRelease n.val },
   { row := .pass n, isRow := isOp 0x31, bad := badPass, cap := capturePass, gate := no,
     begin := fun _ s c => match c.op with
       | .pass x => s.modPart n.val x.p.val (fun q =>
         { q with fresh := false, lastLoad := if x.wsrc = 0 then q.lastLoad else some c.id })
       | _ => s },
   { row := .drain n, isRow := isOp 0x32, bad := badDrain, cap := captureDrain false,
     gate := fun _ => State.trackGate n.val 0x32, begin := again performAcc },
   { row := .fill n, isRow := isOp 0x33, bad := badW1, cap := captureDrain true, gate := no, begin := fun _ => performAcc n.val },
   { row := .vload n, isRow := isOp 0x38, bad := fun _ w => badOperand (cw w 1) || decide (6 < cf w 0 23 20),
     cap := captureVload, gate := no, begin := fun _ => performVload n.val },
   { row := .sweep n, isRow := isOp 0x39, bad := badSweep, cap := captureSweep,
     gate := fun w => State.sliceGate n.val (cf w 1 12 12 == 1), begin := fun _ => sweepIssued n.val },
   { row := .sdrain n, isRow := isOp 0x3A, bad := fun _ w => badOperand (cw w 1) || !drainFmtOk (cf w 2 21 18),
     cap := captureSdrain, gate := fun _ => State.trackGate n.val 0x3A, begin := again performSdrain },
   { row := .tload n, isRow := isOp 0x40, bad := badW1, cap := captureTload, gate := no, begin := fun _ => performTload n.val }]

/-- The rows of the streams, the lift and the traverse. -/
def linkRows (n : CoreId) : List EngineRow :=
  let no := fun (_ : BitVec 128) (_ : State) => (none : Option State)
  let trav := fun (row : Instr) (isRow : BitVec 128 → Bool) (reduce : Bool) =>
    ({ row := row, isRow := isRow, bad := badTrav, cap := captureTrav reduce,
       gate := fun w => State.sliceGate n.val (reduce && cf w 0 24 17 == 0),
       begin := fun _ s c => performTrav n.val (travIssued n.val s c) c } : EngineRow)
  [{ row := .stream n, isRow := isOp 0x50, bad := badW1, cap := captureStream, gate := fun _ => State.sliceGate n.val true,
     begin := fun _ s c => performStream false n.val (streamIssued n.val s c) c },
   { row := .launch n, isRow := isOp 0x58, bad := fun k w => badW1 k w || cf w 0 18 17 == 3, cap := captureLaunch,
     gate := fun w => State.sliceGate n.val (cf w 0 19 19 == 1),
     begin := fun w s c =>
       let s := launchIssued n.val s c
       if cf w 0 19 19 = 1 then s else performLaunch n.val s c },
   { row := .demand n, isRow := isOp 0x59, bad := noBad, cap := fun w k => { captureDemand w k with spm := k.spm }, gate := no,
     begin := fun _ => performDemand n.val },
   { row := .grad n, isRow := isOp 0x5A, bad := badW1, cap := captureGrad, gate := no, begin := fun _ => performGrad n.val },
   trav (.xsend n) (isOp 0x60) false, trav (.recv n) (isColl 0) true, trav (.allreduce n) (isColl 1) true,
   trav (.reduceScatter n) (isColl 2) true, trav (.allgather n) (isColl 3) true, trav (.broadcast n) (isColl 4) true,
   trav (.barrier n) (isColl 5) true]

/-- The ROWOP rows (R185) and the CALL rows (R189, R192). -/
def rowRows (n : CoreId) : List EngineRow :=
  let no := fun (_ : BitVec 128) (_ : State) => (none : Option State)
  (rowopRows n).map (fun r =>
    { row := r.2, isRow := isRowop r.1, bad := badRowop, cap := captureRowop, gate := no, begin := fun _ => performRowop n.val }) ++
  ([(0x0001, .rmsnorm n), (0x0002, .layernorm n), (0x0010, .softmax n), (0x0020, .rope n), (0x0030, .topkRoute n),
    (0x0040, .gather n), (0x0041, .scatter n), (0x0042, .scatterAdd n), (0x0050, .quantMx n), (0x0051, .dequantMx n),
    (0x0052, .quantFp8 n), (0x0060, .attnProb n), (0x0061, .attnMerge n), (0x0062, .attnFinal n)] : List (Nat × Instr)).map
    (fun r => { row := r.2, isRow := isCall r.1, bad := badCall, cap := captureCall, gate := no,
                begin := fun _ s c => performCall n.val (s.count (corePage n.val kSEQ) 0x118 1) c })

/-- The capture with the waits that the command's sync word orders it after (R140). -/
def Core.ordered (k : Core) (w : BitVec 128) (x : Capture) : Capture :=
  { x with spm := x.spm.orderAfter (syncWait k.seq w) (some (racer x.req)) }

/-- Steps 4 and 5 of R167 pass for a captured command, its queue has room, and so has each port's window (R140, R160). -/
def State.enters (s : State) (n : Nat) (w : BitVec 128) (x : Capture) : Bool :=
  let k := s.core n
  x.seqErr.isNone && (checkOperands (k.ordered w x).spm (s.repro n) x.ops).isNone && !k.queueFull x.req &&
    (writePorts x.ops).all (fun p => k.windowRoom p.1)

/-- The state with a captured command in its queue. -/
def State.entered (s : State) (n : Nat) (w : BitVec 128) (x : Capture) : State :=
  s.enqueue n w ((s.core n).ordered w x) (raceRows ((s.core n).ordered w x).spm x.ops)
    (raceRivals ((s.core n).ordered w x).spm x.ops)

/-- The row's command stands at the program counter and passes every check of issue. -/
def State.enterable (s : State) (n : Nat) (w : BitVec 128) (r : EngineRow) : Bool :=
  s.runs n (opcodeOf w) w && r.isRow w && !r.bad (s.core n) w && (r.gate w s).isNone && s.enters n w (r.cap w (s.core n))

/-! ## Engine commands that go on -/

/-- A queued command of core `n` is next for its requester, may make its accesses, and races with no write: the engines
run, its turn has come, its wait is met and its rows are free (R138, R139, R162). -/
def State.mayGo (s : State) (n : Nat) (c : EngCmd) : Bool :=
  let k := s.core n
  s.engineRuns n && decide (s.nextCmd n c.req = some c) && decide (k.command c.id = some c) && k.ready c && c.races.isEmpty

/-- An operand outside circular regions. -/
def Operand.plain (o : Operand) : Bool := o.circ.isNone

/-- What a plain operand reads when nothing races with it (R141, R142). -/
def Spm.reads (m : Spm) (o : Operand) : List Row := deliver o (o.rows.map m.row)

/-- The core once command `c` has left its queue and its signal, with those of the predicated-off commands that follow it,
has taken effect (R138, R165, R174). -/
def Core.without (k : Core) (c : EngCmd) : Core :=
  Core.flushSignals 17 { k with spm := k.spm.signal c.sig, inflight := k.inflight.filter (fun e => e.id != c.id) } c.req

/-- The vectors of a port-fed pass that enter (R98, R99). -/
def Core.entering (k : Core) (x : PassP) : List Nat :=
  x.entered (((x.mask.map (fun m => k.spm.reads m.1)).getD []).headD 0)

/-- A port-fed pass with plain operands that nothing holds at its start (R53, R54, R58, R60). -/
def Core.passGoes (k : Core) (c : EngCmd) (x : PassP) (t : Shape) (g : Geom) : Bool :=
  x.wsrc == 2 && c.races.isEmpty && x.act.plain && x.wts.plain && x.pre.all Operand.plain &&
  !(k.inflight.any (fun d => decide (d.id < c.id) && d.isFill && shareEntry d.region c.region)) &&
  !k.squareHeld c x g && !k.accOverlap x.p.val c && !k.thirdWrite x t g (k.entering x)

/-- The working weights and words of a port-fed pass (R48, R53). -/
def Core.portWeights (k : Core) (x : PassP) (t : Shape) : Weights :=
  weightsOfRows t (parseRows t (frontRanks t.h) (rowsNat (k.spm.reads x.wts)))

def Core.portWords (k : Core) (x : PassP) (t : Shape) (g : Geom) : List (Nat × Word) :=
  k.passWords x t g (k.portWeights x t) (k.spm.reads x.act) ((x.pre.map k.spm.reads).getD [])
    (k.entering x)

/-- A stream-fed sweep that nothing holds at its start (R77, R211, R484). -/
def Core.sweepGoes (k : Core) (c : EngCmd) (x : SweepP) : Bool :=
  x.stream && c.races.isEmpty && x.rangeErr.isNone && !k.sliceHazard c.id &&
  !(k.inflight.any (fun d => decide (d.id < c.id) && d.isSweep && d.stage == .started && shareSum d.sumRegion c.sumRegion))

/-- A STREAM with a plain operand that nothing holds, its checks passed (R206, R209, R211). -/
def State.streamGoes (s : State) (n : Nat) (c : EngCmd) (x : StreamP) : Bool :=
  let k := s.core n
  s.engineRuns n && decide ((k.queueOf c.req).head? = some c) && decide (k.command c.id = some c) && c.stage == .queued &&
  c.races.isEmpty && decide (c.op = .stream x) && (s.streamHeld n c x).isNone && x.opnd.plain && (s.streamErr n x).isNone &&
  c.got.isEmpty

/-! ## Faults -/

/-- PAGE_ERR bit `b` of page `p` is set (R456). -/
def State.reported (s : State) (p b : Nat) : Bool := bit (s.page p).err b

/-- From `s` to `t` the job `j` on task `x` has faulted with a fault code, its first (R379). -/
def State.jobFaulted (t : State) (x : Fin 64) (tk : Task) (j : Job) (code : Word) : Prop :=
  t.task x.val = some { tk with job := some { j with fault := some code } }

/-! ## The lift -/

/-- Every lift job of the part has faulted. -/
def State.liftFaulted (s : State) : Prop :=
  ∀ (y : Fin 64) (tk : Task) (j : Job), s.task y.val = some tk → tk.job = some j → j.lift = true → j.fault.isSome = true

/-- The station holds no chair, contribution or lap, and no lift command waits (R256). -/
def State.liftDropped (s : State) : Prop :=
  s.lift.held = [] ∧ s.lift.ownQ = [] ∧ s.lift.demands = [] ∧ s.lift.contribs = [] ∧ s.lift.laps = [] ∧
  ∀ n : CoreId, (s.core n.val).queueOf .lift = []

/-- What a break of the lift leaves (R256): the state broken, LOSS reported, everything dropped, every lift job faulted. -/
def State.liftBroken (s : State) : Prop :=
  s.lift.state = .broken ∧ s.reported pLFC 1 = true ∧ s.liftDropped ∧ s.liftFaulted

/-- A frame that the receiver at port `x` takes: the station formed, the link up, the header good (R241). -/
def State.takes (s : State) (x : Side) (f : LiftFrame) (v : Verdict) : Bool :=
  s.phase == .ready && s.linkUp x && s.lift.isFormed && decide (s.verdict x f = v)

/-- A formation or notice frame that the receiver at port `x` hears (R240, R241). -/
def State.hears (s : State) (x : Side) (f : LiftFrame) (ftype : Nat) : Bool :=
  s.phase == .ready && s.linkUp x && decide (s.verdict x f = .ok) && leAt f.hdr 0 1 / 16 == ftype

/-- The newest thing that left is a lift message, in a frame at port `x`. -/
def State.sentMsg (t : State) (x : Side) (m : LiftMsg) : Prop :=
  ∃ mac hdr data pad, t.outbox.head? = some (.liftMsg x mac hdr data pad m)

/-- A lift message has left at port `x`. -/
def State.told (t : State) (x : Side) (m : LiftMsg) : Prop :=
  ∃ mac hdr data pad, Out.liftMsg x mac hdr data pad m ∈ t.outbox

/-- The frame is of the row's type and kind (R240). -/
def frameRow (x : Side) (f : LiftFrame) : Instr :=
  if leAt f.hdr 0 1 / 16 = 1 then .linkControlFrame x f
  else if leAt f.hdr 1 1 % 2 = 0 then .chairFrame x f
  else if leAt f.hdr 1 1 % 4 = 1 then .gradChairRx x f
  else .demandChairRx x f

/-! ## The traverse -/

/-- Every traverse job of the part has faulted. -/
def State.trvFaulted (s : State) : Prop :=
  ∀ (y : Fin 64) (tk : Task) (j : Job), s.task y.val = some tk → tk.job = some j → j.traverse = true → j.fault.isSome = true

/-- The packet is of the row's type (R272). -/
def packetRow (p : TPort) (x : TrvPacket) : Instr :=
  match leAt x.hdr 0 1 / 16 with
  | 0 => .trvDataPacket p x
  | 1 => .trvAck p x
  | 2 => .trvNak p x
  | 3 => .trvRequest p x
  | 4 => .trvGrant p x
  | _ => .trvAbort p x

/-- A packet that passes the receiver's checks (R274): the port up, the packet good, its epoch 0 or the running job's. -/
def State.admits (s : State) (p : TPort) (x : TrvPacket) : Bool :=
  s.phase == .ready && s.trvUp p && s.outerOk p x && trvHeaderOk x.hdr x.data &&
    (decide ((trvHdrOf x.hdr).epoch = 0) || decide ((trvHdrOf x.hdr).epoch = s.trvEpoch p))

/-- The traverse packet that leaves port `p` with a header and data (R272). -/
def State.packetOut (s : State) (p : TPort) (h : TrvHdr) (data : List Byte) : Out :=
  .trvPacket p (s.trvOuter p h.dst) ((s.trvOuter p h.dst).udpSum (h.bytes ++ data)) h.bytes data .good

/-! ## Host commands -/

/-- The started command that an entry becomes (R354). -/
def Fetched.begun (f : Fetched) : Started :=
  { entry := f.entry, after := f.after, task := entryTask f.entry, bundle := entryBundle f.entry }

/-- Entry `f` of command `op` stands at the front of queue `q` and may start (R354); no earlier command `op` of the queue is
under way. -/
def State.front (s : State) (q : BitVec 20) (op : Nat) (x : Queue) (f : Fetched) : Prop :=
  s.phase = .ready ∧ s.queue q.toNat = some x ∧ x.fetched.head? = some f ∧ opOf f.entry = op ∧ s.mayStart x f = true ∧
  ∀ c ∈ x.started, opOf c.entry ≠ op

/-- The front entry of queue `q` has started: it has left the entries fetched for the commands under way, and counts. -/
def State.begun (s : State) (q : BitVec 20) (x : Queue) (f : Fetched) : State := (s.startEntry q.toNat x f).1

/-- Command `c` of queue `q` is the one command `op` of the queue under way. -/
def State.underWay (s : State) (q : BitVec 20) (op : Nat) (x : Queue) (c : Started) : Prop :=
  s.phase = .ready ∧ s.queue q.toNat = some x ∧ x.started.filter (fun d => opOf d.entry == op) = [c]

/-- The rows of the command table with their opcodes (R355-R359), with what the host supplies. -/
def hostRows (q : BitVec 20) (b d : Option (List Byte)) (w : Bool) : List (Nat × Instr) :=
  [(0x00, .queueNop q), (0x01, .ctxCreate q), (0x02, .ctxKill q), (0x03, .sqCreate q), (0x04, .sqDelete q), (0x05, .ringCreate q),
   (0x06, .ringDelete q), (0x07, .pcoreFence q), (0x08, .selfTest q), (0x10, .hbmAlloc q), (0x11, .hbmFree q),
   (0x18, .taskCreate q), (0x19, .taskKill q), (0x20, .progLoad q b), (0x21, .jobLaunch q b), (0x22, .preempt q), (0x23, .resume q),
   (0x24, .save q b), (0x25, .saveExport q w), (0x26, .saveImport q b), (0x27, .batch q), (0x28, .provenance q w),
   (0x30, .bundleLoad q b d), (0x31, .segDone q), (0x32, .swap q b d), (0x33, .evict q), (0x34, .pin q), (0x35, .residency q w),
   (0x3F, .flush q)]

end Sys2Proof.Machine
end

