-- ==== Sys2Proof/Certificates/Slice0/Obligations.lean ====
section
/-!
DEFINITION. The statements for the provers.
-/
open Sys2Proof Sys2Proof.Machine

/-! ## The block -/

/-- A step of the block runs the command at the front of its queue on the state with the queue's rest. -/
def Obligations.StepRunsFront : Prop :=
  ∀ (s : State) (c : Instr) (rest : List Instr), s.pending = c :: rest → step s = exec c { s with pending := rest }

/-! ## The sequencer (R157, R168, R172-R176) -/

/-- LI, ALU, MOVA in its four forms, SETLC, LIDX, CMP, SWITCH and SETRNG: each takes effect on the sequencer's registers as
R168 gives it, the program counter passes it, the rest of the core stays, and nothing outside the core changes but counters
(`CoreFrame`). A register written reads as written but for g0, which reads 0 and ignores writes (R157); every other register
stays. -/
def Obligations.SequencerResults : Prop :=
  (∀ (s : State) (n : CoreId) (w : BitVec 128),
     let k := s.core n.val
     let q := k.seq
     let b := if cf w 0 31 31 = 1 then (cw w 1).signExtend 64 else q.reg (cf w 0 30 26)
     (s.runs n.val 0x08 w = true → ∃ t, exec (.li n) s = .next t ∧ s.CoreFrame t n.val ∧
       t.core n.val = k.passed (q.setReg (cf w 0 20 16) (cw w 2 ++ cw w 1))) ∧
     (s.runs n.val 0x09 w = true → cf w 2 3 0 ≤ 12 → ∃ t, exec (.alu n) s = .next t ∧ s.CoreFrame t n.val ∧
       t.core n.val = k.passed (q.setReg (cf w 0 20 16) (aluOp (cf w 2 3 0) (q.reg (cf w 0 25 21)) b))) ∧
     (s.runs n.val 0x0A w = true → cf w 2 3 0 ≤ 7 → cf w 2 5 4 ≠ 3 → cf w 0 18 16 ≠ 0 → ∃ t, exec (.cmp n) s = .next t ∧ s.CoreFrame t n.val ∧
       t.core n.val = k.passed { q with preds := (t.core n.val).seq.preds } ∧
       ∀ i < 8, (t.core n.val).seq.preds.getLsbD i =
         if i = cf w 0 18 16 then
           (match cf w 2 5 4 with
            | 0 => cmpTest (cf w 2 3 0) (q.reg (cf w 0 25 21)) b
            | 1 => q.preds.getLsbD i && cmpTest (cf w 2 3 0) (q.reg (cf w 0 25 21)) b
            | _ => q.preds.getLsbD i || cmpTest (cf w 2 3 0) (q.reg (cf w 0 25 21)) b)
         else q.preds.getLsbD i) ∧
     (s.runs n.val 0x0B w = true → ∃ t, exec (.mova n) s = .next t ∧ s.CoreFrame t n.val ∧
       t.core n.val = k.passed (match cf w 0 27 26 with
         | 0 => q.setAreg (cf w 0 19 16) (lo32 (q.reg (cf w 0 25 21)))
         | 1 => q.setReg (cf w 0 25 21) ((q.areg (cf w 0 19 16)).setWidth 64)
         | 2 => q.setAreg (cf w 0 19 16) (q.areg (cf w 0 19 16) + cw w 1)
         | _ => q.setAreg (cf w 0 19 16) (cw w 1))) ∧
     (s.runs n.val 0x0C w = true → ∃ t, exec (.setlc n) s = .next t ∧ s.CoreFrame t n.val ∧
       t.core n.val = k.passed { q with lc := (t.core n.val).seq.lc } ∧
       ∀ i, (t.core n.val).seq.lctr i = if i = cf w 0 17 16 then
           (if cf w 0 31 31 = 1 then cw w 1 else lo32 (q.reg (cf w 0 25 21)))
         else q.lctr i) ∧
     (s.runs n.val 0x0D w = true → ∃ t, exec (.lidx n) s = .next t ∧ s.CoreFrame t n.val ∧
       t.core n.val = k.passed (q.setReg (cf w 0 20 16)
         (match q.loops.find? (fun f => f.lc.val == cf w 0 22 21) with
          | some f => f.index.setWidth 64
          | none => 0))) ∧
     (s.runs n.val 0x02 w = true → ∃ t, exec (.switchBank n) s = .next t ∧ s.CoreFrame t n.val ∧
       t.core n.val = k.passed { q with armed := true }) ∧
     (s.runs n.val 0x11 w = true → ∃ t, exec (.setrng n) s = .next t ∧ s.CoreFrame t n.val ∧
       let round := BitVec.ofNat 24 (cf w 1 31 16 + cf w 2 23 16 * 65536)
       t.core n.val = { k with trk := k.trk.raiseWatermark round }.passed
         { q with round := round, tile := BitVec.ofNat 16 (cf w 1 15 0), layer := BitVec.ofNat 16 (cf w 2 15 0) })) ∧
  (∀ (q : Seq) (i j : Nat) (v : Word64), i < 32 → j < 32 →
     (q.setReg i v).reg j = (if j = 0 then 0 else if j = i then v else q.reg j) ∧
     (q.setReg i v) = { q with g := (q.setReg i v).g })

/-- LD and ST on an aligned address with no earlier command on its bytes (R163, R168): LD reads the 8 bytes, least
significant first; ST writes exactly them. -/
def Obligations.DataMemory : Prop :=
  ∀ (s : State) (n : CoreId) (w : BitVec 128),
    let k := s.core n.val
    let q := k.seq
    let a := ldstAddr w q
    (s.runs n.val 0x0E w = true → a % 8 = 0 → k.inflight.any (fun d => d.dmW.any (dmMeet (a, 8))) = false →
      ∃ t v, exec (.ld n) s = .next t ∧ s.CoreFrame t n.val ∧ t.core n.val = k.passed (q.setReg (cf w 0 20 16) v) ∧
        ∀ i < 8, v.extractLsb' (8 * i) 8 = dmByte q.dmem (a + i)) ∧
    (s.runs n.val 0x0F w = true → a % 8 = 0 →
      k.inflight.any (fun d => d.dmW.any (dmMeet (a, 8)) || d.dmR.any (dmMeet (a, 8))) = false →
      ∃ t, exec (.st n) s = .next t ∧ s.CoreFrame t n.val ∧
        t.core n.val = k.passed { q with dmem := (t.core n.val).seq.dmem } ∧
        (∀ i < 8, dmByte (t.core n.val).seq.dmem (a + i) = (q.reg (cf w 0 20 16)).extractLsb' (8 * i) 8) ∧
        ∀ x < 65536, (x < a ∨ a + 8 ≤ x) → dmByte (t.core n.val).seq.dmem x = dmByte q.dmem x)

/-- NOP and FENCE whose wait is met, LOOP whose checks pass, and END (R165, R168, R172, R173, R176): NOP and FENCE signal
and go on; LOOP enters its body, or passes it where the count is 0; END drains the program, or with a switch armed goes on
at command 0 of a valid other bank. -/
def Obligations.SequencerControl : Prop :=
  ∀ (s : State) (n : CoreId) (w : BitVec 128),
    let k := s.core n.val
    let q := k.seq
    let wt := syncWait q w
    let sg := syncSignal w
    let e := cf w 1 12 0
    (s.runs n.val 0x00 w = true → k.spm.waitMet wt = true → ∃ t, exec (.nop n) s = .next t ∧ s.CoreFrame t n.val ∧
      t.core n.val = { k with spm := ((k.spm.orderAfter wt none).ticket sg).2.signal sg }.passed q) ∧
    (s.runs n.val 0x03 w = true → k.spm.waitMet wt = true → k.inflight.any (fun d => fenceCovers w d.req) = false →
      ∃ t, exec (.fence n) s = .next t ∧ s.CoreFrame t n.val ∧
        (t.core n.val).seq = (k.passed q).seq ∧ (t.core n.val).inflight = k.inflight ∧
        (t.core n.val).spm.tokens = ((k.spm.ticket sg).2.signal sg).tokens ∧
        ∀ x ∈ (t.core n.val).spm.window, fenceCovers w x.req = true → x.rows = []) ∧
    (s.runs n.val 0x10 w = true → q.pc < e → q.loops.any (fun f => decide (f.endPc < e)) = false → q.loops.length < 4 →
      q.loops.any (fun f => f.lc.val == cf w 0 17 16) = false → ∃ t, exec (.loop n) s = .next t ∧ s.CoreFrame t n.val ∧
        let f : LoopFrame := { lc := Fin.ofNat 4 (cf w 0 17 16), endPc := e, count := q.lctr (cf w 0 17 16), index := 0, start := q.pc + 1 }
        (q.lctr (cf w 0 17 16) = 0 →
          t.core n.val = { k with seq := { q with loops := (resolveEnd e q.loops).1, pc := (resolveEnd e q.loops).2.1 } }) ∧
        (q.lctr (cf w 0 17 16) ≠ 0 → t.core n.val = { k with seq := { q with loops := f :: q.loops, pc := q.pc + 1 } })) ∧
    (s.runs n.val 0x01 w = true → q.armed = false → ∃ t, exec (.endProg n) s = .next t ∧ s.CoreFrame t n.val ∧
      t.core n.val = { k with seq := { q with loops := [], run := .draining } }) ∧
    (s.runs n.val 0x01 w = true → q.armed = true → (q.progBank (!q.bank)).state = .valid →
      ∃ t, exec (.endProg n) s = .next t ∧ s.CoreFrame t n.val ∧
        let q' := (t.core n.val).seq
        q'.bank = (!q.bank) ∧ q'.pc = 0 ∧ q'.armed = false ∧ q'.loops = [] ∧ q'.run = q.run ∧
        (q'.progBank q'.bank).state = .executing ∧ (q'.progBank (!q'.bank)).state = .valid ∧
        (q'.progBank q'.bank).cmds = (q.progBank (!q.bank)).cmds ∧ q'.g = q.g ∧ q'.a = q.a ∧ q'.lc = q.lc ∧
        q'.preds = q.preds ∧ q'.dmem = q.dmem)

/-! ## Engine commands (R160-R162, R167, R174) -/

/-- Every engine command that passes the checks of R167 and finds room enters its queue, with its operands captured, and
its engine begins with it: the 21 ROWOPs, the 14 CALLs, and the commands of the array, the schuss path, the expander, the
row path, the streams, the lift and the traverse. -/
def Obligations.EngineCommandsEnter : Prop :=
  ∀ (s : State) (n : CoreId) (w : BitVec 128) (r : EngineRow), r ∈ arrayRows n ++ linkRows n ++ rowRows n →
    s.enterable n.val w r = true →
    ∃ c, ((s.entered n.val w (r.cap w (s.core n.val))).core n.val).command (s.core n.val).nextId = some c ∧
      exec r.row s = .next (r.begin w (s.entered n.val w (r.cap w (s.core n.val))) c)

/-- The command that enters stands last in the core's list, waiting, with everything it names captured: its requester,
operation, sync word, rows and generator state (R161, R164, R172). The program counter passes it, and without a racing
read nothing else changes but the core's scratchpad windows, tickets and sequences. -/
def Obligations.EnteredCommand : Prop :=
  ∀ (s : State) (n : CoreId) (w : BitVec 128) (x : Capture),
    let k := s.core n.val
    let t := s.entered n.val w x
    let e : EngCmd :=
      { id := k.nextId, req := x.req, op := x.op, opcode := BitVec.ofNat 8 (opcodeOf w), pc := k.seq.pc, bank := k.seq.bank,
        wait := syncWait k.seq w, sig := syncSignal w, port := (x.ops.map (fun r => r.role.port)).headD 0,
        reads := x.reads, writes := x.writes, dmR := x.dmR, dmW := x.dmW, stage := .queued,
        races := raceRows (k.ordered w x).spm x.ops, rivals := raceRivals (k.ordered w x).spm x.ops, replays := 0, number := 0,
        counted := false, round := k.seq.round, tile := k.seq.tile, layer := k.seq.layer, tracked := false, got := [],
        taken := 0, out := [], tags := 0, fail := none }
    t.core n.val = { k with spm := (t.core n.val).spm, inflight := k.inflight ++ [e], nextId := k.nextId + 1 }.passed k.seq ∧
    (t.core n.val).spm.rows = x.spm.rows ∧ (t.core n.val).spm.banks = x.spm.banks ∧
    (t.core n.val).spm.circs = x.spm.circs ∧ (t.core n.val).spm.tokens = x.spm.tokens ∧
    (e.races = [] → s.CoreFrame t n.val)

/-- A command whose predicate does not hold is passed (R174): without a signal it only advances the program counter and
counts as skipped; a NOP, FENCE, CLAIM, REGION or PART signals at once; an engine command signals when every earlier
command of its requester has completed. LOOP goes on past END_PC. -/
def Obligations.PredicatedOff : Prop :=
  ∀ (s : State) (n : CoreId) (op : Nat) (w : BitVec 128), s.atCommand n.val op w = true →
    (s.core n.val).seq.predOn w = false →
    let k := s.core n.val
    let q := k.seq
    let sg := syncSignal w
    (∀ c, (op, c) ∈ [(0x01, Instr.endProg n), (0x02, .switchBank n), (0x08, .li n), (0x0B, .mova n), (0x0C, .setlc n),
        (0x0D, .lidx n), (0x0E, .ld n), (0x0F, .st n), (0x11, .setrng n)] ∨
        (op = 0x09 ∧ c = .alu n ∧ cf w 2 3 0 ≤ 12) ∨
        (op = 0x0A ∧ c = .cmp n ∧ cf w 2 3 0 ≤ 7 ∧ cf w 2 5 4 ≠ 3 ∧ cf w 0 18 16 ≠ 0) →
      ∃ t, exec c s = .next t ∧ s.CoreFrame t n.val ∧ t.core n.val = k.passed q) ∧
    (∀ c, (op, c) ∈ [(0x00, Instr.nop n), (0x03, .fence n), (0x29, .region n), (0x30, .part n)] ∨
        (op = 0x28 ∧ c = .claim n ∧ cf w 0 19 16 ≤ 7) →
      ∃ t, exec c s = .next t ∧ s.CoreFrame t n.val ∧ t.core n.val = { k with spm := (k.spm.ticket sg).2.signal sg }.passed q) ∧
    (op = 0x10 → ∃ t, exec (.loop n) s = .next t ∧ s.CoreFrame t n.val ∧
      t.core n.val = { k with seq := { q with loops := (resolveEnd (cf w 1 12 0) q.loops).1,
                                              pc := (resolveEnd (cf w 1 12 0) q.loops).2.1 } }) ∧
    (∀ r ∈ arrayRows n ++ rowRows n, r.isRow w = true → r.bad k w = false → sg = none →
      ∃ t, exec r.row s = .next t ∧ s.CoreFrame t n.val ∧ t.core n.val = k.passed q)

/-- A word whose opcode no command has, or with a reserved bit set, does not issue (R167): the job of the core faults with
SEQ bit 0 or 1 as its fault code, and the sequencer stops where it is. -/
def Obligations.IssueChecks : Prop :=
  ∀ (s : State) (n : CoreId) (x : Fin 64) (tk : Task) (j : Job), s.canIssue n.val = true → s.jobOn n.val x tk j →
    let w := (s.core n.val).seq.fetch
    (cmdMask (opcodeOf w) = none → ∀ c ∈ (commandRows n).map (·.2) ++ (rowRows n).map (·.row),
      ∃ t, exec c s = .next t ∧ (t.core n.val).seq = { (s.core n.val).seq with run := .stopped } ∧
        t.task x.val = some { tk with job := some { j with fault := some (s.faultCode (corePage n.val kSEQ) 0) } }) ∧
    (badBits w = true → ∀ c, (opcodeOf w, c) ∈ commandRows n →
      ∃ t, exec c s = .next t ∧ (t.core n.val).seq = { (s.core n.val).seq with run := .stopped } ∧
        t.task x.val = some { tk with job := some { j with fault := some (s.faultCode (corePage n.val kSEQ) 1) } })

/-! ## The scratchpad and the partitions (R59, R60, R131-R133, R143, R145-R147) -/

/-- CLAIM, REGION and PART, with their waits met. A CLAIM of no circular bank gives each named bank its new owner and leaves
the others theirs; one that names a circular bank raises CLAIM_BAD and changes no owner (R132). A REGION in R133's ranges
replaces its entry, and one outside them raises its event and replaces nothing. Either loses the rows of a bank that it leaves
idle where AUTO_PWR gates it, and no other row (R143). A PART whose sets are rectangles gives every partition the geometry of
its squares; any other changes no geometry, and stops a partition that it names, whose queued passes never start (R59, R65). -/
def Obligations.ScratchpadOwnership : Prop :=
  ∀ (s : State) (n : CoreId) (w : BitVec 128), 
    let k := s.core n.val
    let q := k.seq
    let sg := syncSignal w
    let tokens := ((k.spm.ticket sg).2.signal sg).tokens
    let gates := fun (t : State) => ∀ r, (t.core n.val).spm.row r =
      if (k.spm.bank (r / 512)).powered = true ∧ ((t.core n.val).spm.bank (r / 512)).powered = false then 0 else k.spm.row r
    k.spm.waitMet (syncWait q w) = true →
    (s.runs n.val 0x28 w = true → cf w 0 19 16 ≤ 7 → (∀ b ∈ claimBanks w, ∀ c, (k.spm.bank b).owner ≠ .circ c) →
      ∃ t, exec (.claim n) s = .next t ∧ s.CoreFrame t n.val ∧ t.core n.val = { k with spm := (t.core n.val).spm }.passed q ∧
        (∀ b < 48, ((t.core n.val).spm.bank b).owner =
          if b ∈ claimBanks w then claimOwner (cf w 0 19 16) else (k.spm.bank b).owner) ∧
        (t.core n.val).spm.claimSeq = k.spm.claimSeq + 1 ∧ gates t ∧
        (t.core n.val).spm.regions = k.spm.regions ∧ (t.core n.val).spm.circs = k.spm.circs ∧
        (t.core n.val).spm.tokens = tokens) ∧
    (s.runs n.val 0x28 w = true → cf w 0 19 16 ≤ 7 → (∃ b ∈ claimBanks w, ∃ c, (k.spm.bank b).owner = .circ c) →
      ∃ t, exec (.claim n) s = .next t ∧ (t.core n.val).spm.banks = k.spm.banks ∧
        bit (t.page (corePage n.val kSPM)).err 3 = true) ∧
    (s.runs n.val 0x29 w = true → (cf w 0 20 20 = 1 → cf w 1 14 0 ≤ 24575 ∧ cf w 2 14 0 ≤ 24575) →
      ∃ t, exec (.region n) s = .next t ∧ s.CoreFrame t n.val ∧ t.core n.val = { k with spm := (t.core n.val).spm }.passed q ∧
        (∀ r, (t.core n.val).spm.region r = if r = cf w 0 19 16 then
          { base := cf w 1 14 0, count1 := cf w 2 14 0, valid := cf w 0 20 20 == 1 } else k.spm.region r) ∧
        (∀ b, ((t.core n.val).spm.bank b).owner = (k.spm.bank b).owner) ∧ gates t ∧
        (t.core n.val).spm.circs = k.spm.circs ∧ (t.core n.val).spm.tokens = tokens) ∧
    (s.runs n.val 0x29 w = true → cf w 0 20 20 = 1 → (24575 < cf w 1 14 0 ∨ 24575 < cf w 2 14 0) →
      ∃ t, exec (.region n) s = .next t ∧ (t.core n.val).spm.regions = k.spm.regions ∧
        bit (t.page (corePage n.val kSPM)).err 0 = true) ∧
    (s.runs n.val 0x30 w = true → (∀ p < 16, partSquares w p ≠ [] → (rectangle (partSquares w p)).isSome) →
      ∃ t, exec (.part n) s = .next t ∧ s.CoreFrame t n.val ∧
        t.core n.val = { k with arr := (t.core n.val).arr, spm := (t.core n.val).spm }.passed q ∧
        (t.core n.val).arr.acc = k.arr.acc ∧
        (∀ p < 16, (t.core n.val).arr.part p = (let x := k.arr.part p
          if x.geom = rectangle (partSquares w p) then x
          else { x with geom := rectangle (partSquares w p), fresh := true, lastLoad := none })) ∧
        (t.core n.val).spm.tokens = tokens ∧ (t.core n.val).spm.banks = k.spm.banks) ∧
    (s.runs n.val 0x30 w = true → (∃ p < 16, partSquares w p ≠ [] ∧ rectangle (partSquares w p) = none) →
      ∃ t, exec (.part n) s = .next t ∧ (∀ p, ((t.core n.val).arr.part p).geom = (k.arr.part p).geom) ∧
        bit (t.page (corePage n.val kARR)).err 3 = true ∧
        ∃ p < 16, partSquares w p ≠ [] ∧ rectangle (partSquares w p) = none ∧ ((t.core n.val).arr.part p).stopped = true ∧
          ∀ d ∈ (t.core n.val).inflight, d.queuedPass p = false)

/-- CLAIM_TAKEOVER, BANK_WAKE_DONE, SPM_ZERO_DONE and SPM_BIST_START: the new owner takes a claimed bank that nothing holds
any longer (R132); a woken bank reads as zeros and is free for use (R143); every bank a kill zeroes reads as zeros (R147); a
requested self-test starts on an idle bank (R145). SPM_BIST_DONE on a hosted pcore (R144-R146): failing rows take the bank's
next free spares, in order, while there are some; the bank reads as zeros afterwards; the request is answered; each remapped
row is to be journalled. A pcore that hosts nothing is tested as a whole, and one without a spare for a row can no longer be
a spare. -/
def Obligations.ScratchpadBanks : Prop :=
  (∀ (s : State) (n : CoreId) (b : Fin 48),
     let k := s.core n.val
     let x := k.spm.bank b.val
     (x.takeover.isSome = true → x.busy = none →
       (∀ d ∈ k.inflight, d.stage ≠ .performed → ∀ a ∈ d.reads ++ d.writes, accRow a / 512 = b.val →
         BankOwner.port (Fin.ofNat 8 (accPort a)) = x.owner) →
       ∃ t, exec (.claimTakeover n b) s = .next t ∧ s.CoreFrame t n.val ∧
         t.core n.val = { k with spm := k.spm.setBank b.val { x with takeover := none } }) ∧
     (x.busy = some .waking →
       ∃ t, exec (.bankWakeDone n b) s = .next t ∧ s.CoreFrame t n.val ∧
         t.core n.val = { k with spm := { k.spm with rows := (t.core n.val).spm.rows,
                                                      banks := k.spm.banks.set bankDefault b.val { x with busy := none } } } ∧
         ∀ r, (t.core n.val).spm.row r = if r / 512 = b.val then 0 else k.spm.row r) ∧
     ((∃ c < 48, (k.spm.bank c).busy = some .zeroing) →
       ∃ t, exec (.spmZeroDone n) s = .next t ∧ s.CoreFrame t n.val ∧
         t.core n.val = { k with spm := { k.spm with rows := (t.core n.val).spm.rows, banks := (t.core n.val).spm.banks } } ∧
         (∀ r < 24576, (t.core n.val).spm.row r = if (k.spm.bank (r / 512)).busy = some .zeroing ∨
           ((k.spm.bank (r / 512)).powered = true ∧ ((t.core n.val).spm.bank (r / 512)).powered = false) then 0 else k.spm.row r) ∧
         ∀ c < 48, ((t.core n.val).spm.bank c).owner = (k.spm.bank c).owner ∧ ((t.core n.val).spm.bank c).busy ≠ some .zeroing) ∧
     (∀ p < 68, s.phase = .ready → s.bankTest p b.val = true → s.hosted p = some n.val → k.spm.idleBank b.val = true →
       x.busy = none → bit (s.reg (corePage n.val kSPM) 0x40) 1 = true →
       ∃ t, exec (.spmBistStart p b) s = .next t ∧ s.CoreFrame t n.val ∧
         t.core n.val = { k with spm := k.spm.setBank b.val { x with busy := some .testing, powered := true } })) ∧
  (∀ (s : State) (p : Nat) (b : Fin 48) (failing : List (Fin 512)), p < 68 → s.phase = .ready → s.bankTest p b.val = true →
     let used := (s.pcore p).spares.get (fun _ => []) b.val
     let took := (freeSpares used).zip (failing.map (·.val))
     (∀ n < 64, s.hosted p = some n → ((s.core n).spm.bank b.val).busy = some .testing →
       ∃ t, exec (.spmBistDone p b failing) s = .next t ∧
         (t.pcore p).spares.get (fun _ => []) b.val = used ++ took ∧
         (∀ r, (t.core n).spm.row r = if r / 512 = b.val ∨ (((s.core n).spm.bank (r / 512)).powered = true ∧
           ((t.core n).spm.bank (r / 512)).powered = false) then 0 else (s.core n).spm.row r) ∧
         ((t.core n).spm.bank b.val).busy ≠ some .testing ∧ t.bankTest p b.val = false ∧
         (took.length = failing.length → t.toJournal = s.toJournal ++
           took.map (fun e => Repair.mk 1 [p, b.val, e.2, e.1])) ∧
         (took.length < failing.length → bit (t.page (corePage n kSPM)).err 7 = true)) ∧
     (s.hosted p = none → (s.pcore p).state = .testing → (s.pcore p).testKind = 1 →
       ∃ t, exec (.spmBistDone p b failing) s = .next t ∧
         (t.pcore p).spares.get (fun _ => []) b.val = used ++ took ∧ t.bankTest p b.val = false ∧
         (∀ m, t.core m = s.core m) ∧
         (took.length < failing.length → bit (t.page (pPCR p)).err 2 = true ∧ (t.pcore p).state ≠ .spare)))

/-! ## Engine commands as they complete (R138, R162, R165, R169, R184, R186) -/

/-- COMMAND_COMPLETION of a command whose accesses are over: it leaves its queue, its signal takes effect with those of
the predicated-off commands behind it, and a ROWOP or routine counts (R165, R201). -/
def Obligations.CommandsEnd : Prop :=
  ∀ (s : State) (n : CoreId) (c : EngCmd), s.engineRuns n.val = true → s.nextCmd n.val c.req = some c → c.stage = .performed →
    ∃ t, exec (.commandCompletion n c.req) s = .next t ∧ s.CoreFrame t n.val ∧ t.core n.val = (s.core n.val).without c ∧
      (∀ x, c.op = .rowop x → t.counter (corePage n.val kROW) 0x108 = s.counter (corePage n.val kROW) 0x108 + 1) ∧
      (∀ x, c.op = .call x → t.counter (corePage n.val kROW) 0x110 = s.counter (corePage n.val kROW) 0x110 + 1)

/-- ROWLD and ROWST through COMMAND_COMPLETION (R169): a ROWLD puts its rows into data memory one after another, a ROWST the
bytes of data memory into its rows; every other byte and row stays, and the command leaves its queue. A ROWOP with plain
operands through COMMAND_COMPLETION (R184, R186): a failing check faults the row engine; HOLD loads its hold and marks it
valid; every other operation writes its result over the destination rows, from the rows its operands name. -/
def Obligations.RowResults : Prop :=
  (∀ (s : State) (n : CoreId) (c : EngCmd) (o : Operand) (a : Nat), s.mayGo n.val c = true → c.req = .rowPath →
     o.plain = true → o.trans = none → o.rows.length ≤ 128 →
     let k := s.core n.val
     (c.op = .rowld o a → ∃ t, exec (.commandCompletion n .rowPath) s = .next t ∧ s.CoreFrame t n.val ∧
       (t.core n.val).command c.id = none ∧ (t.core n.val).spm.rows = k.spm.rows ∧
       (∀ i < o.rows.length, ∀ j < 512,
         dmByte (t.core n.val).seq.dmem (a + 512 * i + j) = (k.spm.row (o.rows.getD i 0)).extractLsb' (8 * j) 8) ∧
       (∀ x, 512 * o.rows.length ≤ (x % 65536 + 65536 - a % 65536) % 65536 →
         dmByte (t.core n.val).seq.dmem x = dmByte k.seq.dmem x) ∧
       (t.core n.val).seq = { k.seq with dmem := (t.core n.val).seq.dmem }) ∧
     (c.op = .rowst o a → ∃ t, exec (.commandCompletion n .rowPath) s = .next t ∧ s.CoreFrame t n.val ∧
       (t.core n.val).command c.id = none ∧ (t.core n.val).seq = k.seq ∧
       (∀ r, r ∉ o.rows → (t.core n.val).spm.row r = k.spm.row r) ∧
       (o.rows.Nodup → ∀ i < o.rows.length, ∀ j < 512,
         ((t.core n.val).spm.row (o.rows.getD i 0)).extractLsb' (8 * j) 8 = dmByte k.seq.dmem (a + 512 * i + j)))) ∧
  (∀ (s : State) (n : CoreId) (c : EngCmd) (x : RowopP), s.mayGo n.val c = true → c.req = .row → c.op = .rowop x →
     let k := s.core n.val
     (∀ b, x.startErr = some b → ∃ t, exec (.commandCompletion n .row) s = .next t ∧ (t.core n.val).row.stopped = true ∧
       (t.core n.val).queueOf .row = [] ∧ bit (t.page (corePage n.val kROW)).err b = true ∧
       (t.core n.val).spm.rows = k.spm.rows) ∧
     (x.startErr = none → x.srcA.plain = true → x.srcB.all Operand.plain = true → x.dst.plain = true →
       (x.code = 0x38 → ∃ t, exec (.commandCompletion n .row) s = .next t ∧ s.CoreFrame t n.val ∧
         (t.core n.val).command c.id = none ∧ (t.core n.val).spm.rows = k.spm.rows ∧
         (t.core n.val).row = { k.row.setHold x.hold ((k.spm.reads x.srcA).headD 0) with
           valid := k.row.valid ||| (1#16 <<< x.hold) }) ∧
       (x.code ≠ 0x38 → ∃ t, exec (.commandCompletion n .row) s = .next t ∧ s.CoreFrame t n.val ∧
         (t.core n.val).command c.id = none ∧ (t.core n.val).row = k.row ∧
         (t.core n.val).spm.rows = (k.spm.writeRows x.dst.rows (x.result (s.draw n.val c) (k.spm.reads x.srcA)
           ((x.srcB.map k.spm.reads).getD []) (k.row.hold x.hold))).rows)))

/-- DRAIN, FILL and VLOAD with plain operands through COMMAND_COMPLETION (R54, R73, R169): a drain writes its converted
entries over its rows and leaves the accumulator as it is; a fill writes its entries and no row; a vector load fills its
slot. A drain or fill past row 31 or file 255 raises ACC_RANGE. -/
def Obligations.AccumulatorResults : Prop :=
  ∀ (s : State) (n : CoreId) (c : EngCmd), s.mayGo n.val c = true → c.tracked = false →
    let k := s.core n.val
    (∀ x, c.req = .accPort → c.op = .drain x → x.inRange = true → k.passAhead c = false → x.opnd.plain = true →
      ∃ t, exec (.commandCompletion n .accPort) s = .next t ∧ s.CoreFrame t n.val ∧ (t.core n.val).command c.id = none ∧
        (t.core n.val).arr = k.arr ∧
        (t.core n.val).spm.rows = (k.spm.writeRows x.opnd.rows (packRows x.fmt ((k.drained x (s.draw n.val c)).map (·.2)))).rows) ∧
    (∀ x, c.req = .accPort → (c.op = .drain x ∨ c.op = .fill x) → x.inRange = false →
      ∃ t, exec (.commandCompletion n .accPort) s = .next t ∧ (t.core n.val).command c.id = none ∧
        (t.core n.val).arr = k.arr ∧ bit (t.page (corePage n.val kARR)).err 1 = true) ∧
    (∀ x, c.req = .accPort → c.op = .fill x → x.inRange = true → k.passAhead c = false → x.opnd.plain = true →
      ∃ t, exec (.commandCompletion n .accPort) s = .next t ∧ s.CoreFrame t n.val ∧ (t.core n.val).command c.id = none ∧
        (t.core n.val).spm.rows = k.spm.rows ∧ (t.core n.val).arr.parts = k.arr.parts ∧
        (∀ e, e ∉ x.entries.map (·.2.2) → (t.core n.val).arr.entry e = k.arr.entry e) ∧
        ∀ i < x.entries.length, ∃ key, (x.entries.map (·.2.2))[i]? = some key ∧
          (t.core n.val).arr.entry key = word (rowElem ((k.spm.reads x.opnd).getD (i / 128) 0) 32 (i % 128))) ∧
    (∀ slot fmt klen o, c.req = .schuss → c.op = .vload slot fmt klen o → k.startReady c = true → o.plain = true →
      k.inflight.any (fun d => decide (d.id < c.id) && d.sweepsSlot slot) = false →
      ∃ t, exec (.commandCompletion n .schuss) s = .next t ∧ s.CoreFrame t n.val ∧ (t.core n.val).command c.id = none ∧
        (t.core n.val).spm.rows = k.spm.rows ∧
        (t.core n.val).sch = { k.sch with
          vecs := k.sch.vecs.set (fun _ => none) slot (some { fmt := fmt, klen := klen, rows := k.spm.reads o }) })

/-! ## Passes (R53, R61-R64) and sweeps (R75-R78) -/

/-- PASS_START, PASS_BOUNDARY and PASS_REPLAY. A pass whose checks fail stops its partition and writes no entry (R61). A
port-fed pass that nothing holds takes the partition's next number, its weights and its working words; the committed words
stay (R53, R72). Its boundary commits exactly those words (R62). The replay of an aborted pass starts it again from the same
inputs, counts, and does not advance the pass number (R64, R71). SWEEP_START and SWEEP_BOUNDARY. A sweep whose checks fail stops the schuss path (R75, R81). A
stream-fed sweep that nothing holds starts and holds its working words, and the sum store stays (R76, R77). Its boundary
commits exactly those words (R77). -/
def Obligations.PassesAndSweeps : Prop :=
  (∀ (s : State) (n : CoreId) (p : Fin 16) (c : EngCmd) (x : PassP),
     let k := s.core n.val
     let q := k.arr.part p.val
     c.op = .pass x → x.p = p → k.command c.id = some c →
     (k.inflight.find? (fun d => d.queuedPass p.val) = some c → s.engineStarts n.val = true → q.stopped = false →
       q.aborted = [] → k.startReady c = true →
       (∀ b, q.startErr x = some b → ∃ t, exec (.passStart n p) s = .next t ∧ ((t.core n.val).arr.part p.val).stopped = true ∧
         (t.core n.val).arr.acc = k.arr.acc ∧ bit (t.page (corePage n.val kARR)).err b = true ∧
         ∀ d ∈ (t.core n.val).inflight, d.queuedPass p.val = false) ∧
       (∀ sh g, q.startErr x = none → x.shape = some (sh, g) → k.passGoes c x sh g = true →
         ∃ t, exec (.passStart n p) s = .next t ∧ s.CoreFrame t n.val ∧ (t.core n.val).arr.acc = k.arr.acc ∧
           (t.core n.val).spm.rows = k.spm.rows ∧
           (t.core n.val).arr.part p.val = { q with
             weights := some (k.portWeights x sh), seq := q.seq + 1, loads := ((t.core n.val).arr.part p.val).loads,
             running := q.running ++ [{ cmd := c.id, working := k.portWords x sh g }] } ∧
           (t.core n.val).inflight = (k.updateCmd c.id (fun d =>
             { d with stage := .started, number := q.seq + 1, counted := d.counted || !c.counted })).inflight)) ∧
     (∀ sh g, q.aborted = [c.id] → q.stopped = false → s.engineStarts n.val = true → x.shape = some (sh, g) →
       k.passGoes c x sh g = true →
       ∃ t, exec (.passReplay n p) s = .next t ∧ s.CoreFrame t n.val ∧ (t.core n.val).arr.acc = k.arr.acc ∧
         (t.core n.val).arr.part p.val = { q with
           weights := some (k.portWeights x sh), aborted := [], loads := ((t.core n.val).arr.part p.val).loads,
           running := q.running ++ [{ cmd := c.id, working := k.portWords x sh g }] } ∧
         t.counter (corePage n.val kARR) 0x138 = s.counter (corePage n.val kARR) 0x138 + 1) ∧
     (∀ r, q.running.head? = some r → r.cmd = c.id → s.phase = .ready →
       k.inflight.any (fun d => decide (d.id < c.id) && d.isDrain && d.stage != .performed && shareEntry d.region c.region) = false →
       ∃ t, exec (.passBoundary n p) s = .next t ∧ s.CoreFrame t n.val ∧
         (t.core n.val).arr.acc = r.working.foldl (fun m e => m.set wordZero e.1 e.2) k.arr.acc ∧
         ((t.core n.val).arr.part p.val).running = q.running.filter (fun y => y.cmd != c.id) ∧
         (t.core n.val).command c.id = none ∧
         t.counter (corePage n.val kARR) 0x108 = s.counter (corePage n.val kARR) 0x108 + 1)) ∧
  (∀ (s : State) (n : CoreId) (c : EngCmd) (x : SweepP),
     let k := s.core n.val
     let v := k.sch
     c.op = .sweep x → k.command c.id = some c →
     (k.inflight.find? (fun d => d.isSweep && d.stage == .queued) = some c → s.engineStarts n.val = true → v.stopped = false →
       v.aborted = [] → k.sweepReady c = true →
       (∀ b, v.startErr x = some b → ∃ t, exec (.sweepStart n) s = .next t ∧
         (t.core n.val).sch = { v with stopped := true, seq := v.seq + 1 } ∧
         bit (t.page (corePage n.val kSCH)).err b = true) ∧
       (v.startErr x = none → k.sweepGoes c x = true → ∃ t, exec (.sweepStart n) s = .next t ∧ s.CoreFrame t n.val ∧
         (t.core n.val).spm.rows = k.spm.rows ∧
         (t.core n.val).sch = { v with seq := v.seq + 1, running := v.running ++ [Running.mk c.id
           (v.sweepWords x (streamTiles x (s.units n.val) x.fileTiles (x.slice.toNat / 512)) ((x.pre.map k.spm.reads).getD []))] } ∧
         (t.core n.val).inflight = (k.updateCmd c.id (fun d =>
           { d with stage := .started, number := v.seq + 1, counted := d.counted || !c.counted })).inflight)) ∧
     (∀ r, v.running.head? = some r → r.cmd = c.id → s.phase = .ready →
       k.inflight.any (fun d => decide (d.id < c.id) && d.isSdrain && d.stage != .performed &&
         shareSum d.sumRegion c.sumRegion) = false →
       ∃ t, exec (.sweepBoundary n) s = .next t ∧ s.CoreFrame t n.val ∧
         (t.core n.val).sch = { v with sums := r.working.foldl (fun m e => m.set wordZero e.1 e.2) v.sums,
                                        running := v.running.filter (fun y => y.cmd != c.id) } ∧
         (t.core n.val).command c.id = none ∧
         t.counter (corePage n.val kSCH) 0x108 = s.counter (corePage n.val kSCH) 0x108 + 1))

/-- STREAM_COMPLETE with a plain operand (R209): toward the slice it writes each of its units from its rows, with ZERO set
it writes zeros, and toward the scratchpad it writes its rows from its units; a command whose transfers are over leaves
its queue, and a STREAM counts. TABLE_LOAD_DONE makes its slot valid with the loaded image, generation and source (R116, R128). -/
def Obligations.StreamsAndTables : Prop :=
  ∀ (s : State) (n : CoreId) (c : EngCmd),
    let k := s.core n.val
    let us := fun x => k.streamUnits x
    let only := fun (t : State) => ∀ m, m ≠ n.val → t.core m = s.core m
    (∀ x ctx, c.req = .ctx ctx → s.streamGoes n.val c x = true → x.out = true → descZero (k.str.descriptor x.desc) = true →
      ∃ t, exec (.streamComplete n ctx) s = .next t ∧ (t.core n.val).command c.id = none ∧ (t.core n.val).spm.rows = k.spm.rows ∧
        t.slices = (s.setUnits n.val ((us x).map (fun u => (u, (0 : Row))))).slices ∧ only t ∧
        t = { s with cores := t.cores, pages := t.pages, slices := t.slices, free := t.free }) ∧
    (∀ x ctx, c.req = .ctx ctx → s.streamGoes n.val c x = true → x.out = true → descZero (k.str.descriptor x.desc) = false →
      ∃ t, exec (.streamComplete n ctx) s = .next t ∧ (t.core n.val).command c.id = none ∧ (t.core n.val).spm.rows = k.spm.rows ∧
        t.slices = (s.setUnits n.val ((us x).zip (k.spm.reads x.opnd))).slices ∧ only t ∧
        t = { s with cores := t.cores, pages := t.pages, slices := t.slices, free := t.free }) ∧
    (∀ x ctx, c.req = .ctx ctx → s.streamGoes n.val c x = true → x.out = false →
      ∃ t, exec (.streamComplete n ctx) s = .next t ∧ (t.core n.val).command c.id = none ∧ only t ∧
        t = { s with cores := t.cores, pages := t.pages, free := t.free } ∧
        (t.core n.val).spm.rows = (k.spm.writeRows x.opnd.rows ((us x).map (s.unit n.val))).rows) ∧
    (∀ ctx, c.req = .ctx ctx → s.engineRuns n.val = true → (k.queueOf c.req).head? = some c → c.stage = .performed →
      ∃ t, exec (.streamComplete n ctx) s = .next t ∧ s.CoreFrame t n.val ∧ t.core n.val = k.without c ∧
        ∀ x, c.op = .stream x → t.counter (corePage n.val kSTR) 0x100 = s.counter (corePage n.val kSTR) 0x100 + 1) ∧
    (∀ (slot : Fin 8) g img row, (k.exp.slot slot.val).loading = some (g, img, row) →
      k.inflight.find? (fun d => d.stage == .started && d.loadsSlot == some slot.val) = some c →
      ∃ t, exec (.tableLoadDone n slot) s = .next t ∧ s.CoreFrame t n.val ∧ (t.core n.val).command c.id = none ∧
        (t.core n.val).exp = k.exp.modSlot slot.val (fun x =>
          { x with valid := true, gen := g, image := img, loads := x.loads + 1, source := row, loading := none }))

/-! ## Watchdogs (R66, R81, R197, R223) -/

/-- With its watchdog enabled, a hang is reported on the engine's page and ends what hung: the partition's passes, the
schuss path's sweeps, the row engine's queue, the stream context's oldest command. The committed words stay. Only work that
could go on hangs: a row command that waits for nothing, a stream command with transfers under way (R197, R223). -/
def Obligations.Hangs : Prop :=
  ∀ (s : State) (n : CoreId), s.phase = .ready →
    let k := s.core n.val
    (∀ p : Fin 16, bit (s.reg (corePage n.val kARR) 0x40) 0 = true → (k.arr.part p.val).running ≠ [] →
      ∃ t, exec (.arrayHang n p) s = .next t ∧ ((t.core n.val).arr.part p.val).running = [] ∧
        ((t.core n.val).arr.part p.val).weights = none ∧ (t.core n.val).arr.acc = k.arr.acc ∧
        bit (t.page (corePage n.val kARR)).err 7 = true) ∧
    (bit (s.reg (corePage n.val kSCH) 0x40) 0 = true → k.sch.running ≠ [] →
      ∃ t, exec (.schussHang n) s = .next t ∧ (t.core n.val).sch.running = [] ∧ (t.core n.val).sch.sums = k.sch.sums ∧
        bit (t.page (corePage n.val kSCH)).err 5 = true) ∧
    (bit (s.reg (corePage n.val kROW) 0x40) 0 = true → (k.queueOf .row).head?.any (s.rowGoes n.val) = true →
      ∃ t, exec (.rowHang n) s = .next t ∧ (t.core n.val).row.stopped = true ∧ (t.core n.val).queueOf .row = [] ∧
        bit (t.page (corePage n.val kROW)).err 4 = true) ∧
    (∀ (c : Fin 16) d, bit (s.reg (corePage n.val kSTR) 0x40) 0 = true → (k.queueOf (.ctx c)).head? = some d → d.tags ≠ 0 →
      ∃ t, exec (.streamHang n c) s = .next t ∧ (t.core n.val).command d.id = none ∧
        bit (t.page (corePage n.val kSTR)).err 7 = true)

/-! ## Errors, fences and placement (R14-R16, R119, R146, R178, R382-R391) -/

/-- Uncorrectable errors: each sets its event on its page and faults the job of its core with that event's code (R119,
R178, R197); one of a descriptor does so where a STREAM starts with it, which is dropped (R209, R223); an error of the
scratchpad's tables makes a fence due on the core's host where its FENCE bit is set
(R148, R381); an error of the control memories halts the part (R391). -/
def Obligations.MemoryErrors : Prop :=
  ∀ (s : State) (n : CoreId) (slot : Fin 8) (d : Fin 1024) (p : Nat) (x : Fin 64) (tk : Task) (j : Job),
    s.phase = .ready → s.hostOf n.val = some p → s.jobOn n.val x tk j →
    (∀ e ∈ [(Instr.tableEcc n slot, kEXP, 4), (.dmemEcc n, kSEQ, 10), (.bookEcc n, kROW, 5)],
      ∃ t, exec e.1 s = .next t ∧ t.reported (corePage n.val e.2.1) e.2.2 = true ∧
        t.jobFaulted x tk j (s.faultCode (corePage n.val e.2.1) e.2.2)) ∧
    (∀ c y, s.streamStarting n.val d.val = some (c, y) → ∃ t, exec (.descEcc n d) s = .next t ∧
      t.reported (corePage n.val kSTR) 4 = true ∧ (t.core n.val).command c.id = none ∧ t.slices = s.slices ∧
      t.jobFaulted x tk j (s.faultCode (corePage n.val kSTR) 4)) ∧
    (s.canIssue n.val = true → ∃ t, exec (.progEcc n) s = .next t ∧ t.reported (corePage n.val kSEQ) 9 = true ∧
      t.jobFaulted x tk j (s.faultCode (corePage n.val kSEQ) 9)) ∧
    (bit (s.page (corePage n.val kSPM)).fence 8 = true → (s.pcore p).state ≠ .fenced →
      ∃ t, exec (.spmTableEcc n) s = .next t ∧ t.reported (corePage n.val kSPM) 8 = true ∧ (t.pcore p).due = true ∧
        ∀ m, t.core m = s.core m) ∧
    (bit (s.page (corePage n.val kSPM)).fence 8 = false →
      ∃ t, exec (.spmTableEcc n) s = .next t ∧ t.reported (corePage n.val kSPM) 8 = true ∧
        t.jobFaulted x tk j (s.faultCode (corePage n.val kSPM) 8)) ∧
    (∃ t, exec .ctrlEcc s = .next t ∧ t.phase = .halted ∧ t.reported pFLT 4 = true ∧ t.reported pFLT 5 = true ∧
      ∀ y : Fin 64, ∀ tk j, t.task y.val = some tk → tk.job = some j → j.fault.isSome = true)

/-- CORE_MOVE, SCHEDULE_EFFECT and ROUTE_FAIL. The lowest pcore that a core is to leave and can leave is fenced where its fence
is due; its core, if it hosts one, moves to the spare of R15 under a schedule with the next epoch, keeping its registers, its
slice and the rows of every bank that is not idle, or becomes unhosted, or under a clashing schedule stays (R148, R219, R384,
R385). A core whose route has failed becomes unhosted. A schedule takes effect with its epoch, and chair copies that wait for
the moved core are of an older placement (R16, R219, R250). A failed bridge is journalled and reported; cores leave at their
boundaries. -/
def Obligations.Placement : Prop :=
  ∀ (s : State) (stuck : List (Fin 16)), s.phase = .ready →
    (∀ p, s.schedule = none → s.nextLeaver = some p →
      (s.hosted p = none → ∃ t, exec (.coreMove stuck) s = .next t ∧ (t.pcore p).state = .fenced ∧ (t.pcore p).due = false ∧
        t.place = s.place ∧ t.schedule = none ∧ t.reported (pPCR p) 0 = true ∧ t.reported pFLT 0 = true ∧ ∀ m, t.core m = s.core m) ∧
      (∀ n q, s.hosted p = some n → (s.pcore p).due = true → s.pickSpare n = some q → s.scheduleClash n = false →
        ∃ t, exec (.coreMove stuck) s = .next t ∧
        t.hostOf n = some q ∧ (∀ m, m ≠ n → t.hostOf m = s.hostOf m) ∧ (t.pcore q).state = .hosting ∧
        (t.pcore p).state = .fenced ∧ t.schedule = some (s.epoch + 1, n) ∧ t.epoch = s.epoch ∧ t.slices = s.slices ∧
        (∀ r < 24576, (t.core n).spm.row r = if (s.core n).spm.idleBank (r / 512) = true then 0 else (s.core n).spm.row r) ∧
        (t.core n).seq.g = (s.core n).seq.g) ∧
      (∀ n q, s.hosted p = some n → (s.pcore p).due = true → s.pickSpare n = some q → s.scheduleClash n = true →
        ∃ t, exec (.coreMove stuck) s = .next t ∧ t.place = s.place ∧ t.schedule = none ∧ (t.pcore p).state = .fenced ∧
          t.reported pSLS 0 = true) ∧
      (∀ n, s.hosted p = some n → (s.pcore p).due = true → s.pickSpare n = none → ∃ t, exec (.coreMove stuck) s = .next t ∧
        t.hostOf n = none ∧ t.schedule = some (s.epoch + 1, n) ∧ (t.pcore p).state = .fenced ∧ t.reported pFLT 1 = true) ∧
      (∀ n, s.hosted p = some n → (s.pcore p).due = false → ∃ t, exec (.coreMove stuck) s = .next t ∧ t.hostOf n = none ∧
        t.schedule = some (s.epoch + 1, n) ∧ t.reported pFLT 1 = true ∧
        (t.pcore p).state = (if (s.pcore p).state = .hosting then .spare else (s.pcore p).state))) ∧
    (∀ e n, s.schedule = some (e, n) → ∃ t, exec .scheduleEffect s = .next t ∧
      t = { s with epoch := e, schedule := none, pages := t.pages, lift := { s.lift with
        held := s.lift.held.map (fun h => { h with stale := h.stale ||| (h.left &&& (1#64 <<< n)) }) } }) ∧
    (∀ d e : Fin 4, adjacentDies d e = true → s.bridges.contains (min d.val e.val, max d.val e.val) = false →
      ∃ t, exec (.routeFail d e) s = .next t ∧ t.bridges = (min d.val e.val, max d.val e.val) :: s.bridges ∧
        t.toJournal = s.toJournal ++ [Repair.mk 7 [min d.val e.val, max d.val e.val]] ∧
        t.place = s.place ∧ (∀ n, t.core n = s.core n) ∧
        ∀ n p, n < s.presented → s.hostOf n = some p →
          (routeBridges (s.homeDie n) (pcoreDie p)).contains (min d.val e.val, max d.val e.val) = true →
          t.reported pSLS 2 = true ∧ t.routeLost n = true)

/-- PCORE_WAKE_DONE and ARRAY_SELF_TEST_DONE (R389, R411): a woken pcore is up; a pcore whose array test passes goes back to
what it was, and one whose test fails raises TEST_FAIL and is to be fenced and journalled. A command that names a pcore, a
stack or a bridge that the part does not have stops with the model's fault for it: the part has pcores 0 to 67, stacks 0 to
19 and the bridges of R12 (R11). -/
def Obligations.PcoreEvents : Prop :=
  (∀ (s : State) (p : Nat), p < 68 →
     ((s.pcore p).waking = true → ∃ t, exec (.pcoreWakeDone p) s = .next t ∧ t = { s with pcores := t.pcores } ∧
       ∀ q, t.pcore q = if q = p then { s.pcore p with waking := false } else s.pcore q) ∧
     ((s.pcore p).state = .testing → (s.pcore p).testKind = 0 → (s.pcore p).waking = false →
       (∃ t, exec (.arraySelfTestDone p none) s = .next t ∧ (t.pcore p).state = (s.pcore p).before ∧ (t.pcore p).testResult = 1 ∧
         t.host.tests = s.host.tests.filter (fun y => y != (0, p)) ∧
         t.counter (pPCR p) 0x110 = s.counter (pPCR p) 0x110 + 1) ∧
       (∀ sq : Fin 16, (s.pcore p).before ≠ .fenced → ∃ t, exec (.arraySelfTestDone p (some sq)) s = .next t ∧
         (t.pcore p).state = (s.pcore p).before ∧ (t.pcore p).testResult = 2 ∧ (t.pcore p).due = true ∧
         (t.pcore p).dueJournal = true ∧ t.reported (pPCR p) 1 = true))) ∧
  (∀ (s : State) (k : Nat) (b : Fin 48) (ch : Fin 32) (xs : List (Fin 512)) (f : Option (Fin 16)) (m : Byte) (v : BitVec 16)
     (r : Bool) (d e : Fin 4),
     (68 ≤ k → ∀ c ∈ [Instr.spmBistStart k b, .spmBistDone k b xs, .arraySelfTestDone k f, .pcoreWakeDone k],
       exec c s = .fault .noSuchUnit) ∧
     (20 ≤ k → ∀ c ∈ [Instr.hbmRefreshWindow k ch m, .channelRetrain k ch r, .softRepair k r, .stackHot k v],
       exec c s = .fault .noSuchUnit) ∧
     (adjacentDies d e = false → exec (.routeFail d e) s = .fault .noSuchUnit))

/-! ## The end of a job, tracks and provenance (R176, R326-R333, R379) -/

/-- JOB_COMPLETE and JOB_FAULT_END: once the job's cores have ended and its records have closed, the job leaves its task, its
cores have nothing in flight and no bank executes, and its provenance record is written, newest first (R176, R330). -/
def Obligations.JobsEnd : Prop :=
  ∀ (s : State) (x : Fin 64) (tk : Task) (j : Job), s.phase = .ready → s.task x.val = some tk → tk.job = some j →
    let ends := fun (c : Instr) (outcome : Nat) => ∃ t, exec c s = .next t ∧ t.task x.val = some { tk with job := none } ∧
      t.host.records = ({ job := j.id, body := s.provBody tk j outcome, sig := none } :: s.host.records).take 64 ∧
      (∀ n ∈ tk.coreList, t.core n = (s.core n).leaveJob) ∧ (∀ n, n ∉ tk.coreList → t.core n = s.core n) ∧
      t.counter pDEV (0x108 + 8 * outcome) = s.counter pDEV (0x108 + 8 * outcome) + 1
    (j.fault = none → (∀ n ∈ tk.coreList, (s.core n).seq.run = .draining ∧ (s.core n).inflight = []) → s.tracksDone tk j = true →
      ends (.jobComplete x) 0) ∧
    (j.fault.isSome = true → j.merged = [] →
      (∀ n ∈ tk.coreList, (∀ c ∈ (s.core n).inflight, (s.core n).stuck c = true) ∧
        ((s.hostOf n).isNone = true ∨ (s.core n).atBoundary = true)) →
      (∀ n ∈ tk.coreList, (s.core n).trk.openKeys = [] ∧ (s.core n).trk.ring = [] ∧ ∀ y ∈ (s.core n).trk.closing, y.pending ≠ 0) →
      ends (.jobFaultEnd x) 1)

/-- TRACK_KEY_CLOSE, TRACK_RECORD_CLOSE and TRACK_STALL (R327-R329): a closing key without pending drains moves to the track
ring; the job's least record closes when every core is past it, and extends the chain by its 24 bytes; a wait on a full ring
past the limit faults the job. PROVENANCE_SIGNED: the oldest unsigned record of the job gets its signature over its body
(R333), or zeros where the part has no identity (R430). -/
def Obligations.TrackEvents : Prop :=
  (∀ (s : State) (n : CoreId) (x : Fin 64) (tk : Task), s.phase = .ready →
     (∀ y, (s.core n.val).closeAll.trk.closing.find? (fun y => y.pending == 0) = some y → (s.core n.val).trk.ring.length < 32768 →
       ∃ t, exec (.trackKeyClose n) s = .next t ∧ s.CoreFrame t n.val ∧
         let k := (s.core n.val).closeAll.trk
         t.core n.val = { s.core n.val with
           trk := { k with closing := k.closing.erase y, ring := k.ring ++ [y], recent := (y :: k.recent).take 16 } }) ∧
     (∀ j y, s.task x.val = some tk → ((s.mergeRings x.val tk).task x.val).bind (·.job) = some j → leastKey j.merged = some y →
       (∀ n ∈ tk.coreList, ((s.mergeRings x.val tk).core n).pastKey y = true) →
       ∃ t, exec (.trackRecordClose x) s = .next t ∧ t.task x.val = some { tk with
         job := some { j with merged := j.merged.erase y, records := j.records + 1,
                              chain := sha3x512 (digestBytes j.chain ++ (leBytes 2 y.round.toNat ++ leBytes 2 y.layer.toNat ++
                                leBytes 1 (y.round.toNat / 65536) ++ leBytes 3 0 ++ leBytes 8 y.count.toNat ++ leBytes 8 y.sum.toNat)) } } ∧
         ∀ n ∈ tk.coreList, (t.core n).trk.ring = []) ∧
     (∀ c j, (s.core n.val).ringWaiter = some c → s.jobOn n.val x tk j →
       ∃ t, exec (.trackStall n) s = .next t ∧ t.reported (corePage n.val kTRK) 2 = true ∧
         t.jobFaulted x tk j (s.faultCode (corePage n.val kTRK) 2))) ∧
  (∀ (s : State) (id : Word64) (r : ProvRecord), s.phase = .ready →
     s.host.records.reverse.find? (fun r => r.job == id && r.sig.isNone) = some r →
     ∃ t, exec (.provenanceSigned id) s = .next t ∧ t = { s with pages := t.pages, host := t.host } ∧
       t.host = { s.host with records := s.host.records.map (fun x => if x = r then
         { r with sig := some (if s.flash.helper then Config.mldsaSign r.body else List.replicate 4627 0) } else x) })

/-! ## HBM (R203, R213-R217, R228, R411) -/

/-- HBM_REFRESH_WINDOW and CHANNEL_RETRAIN (R213, R214, R217): every fourth window carries a probe where CAL_EN is 1; a
margin below the limit raises CAL_LOW, and the third in a row calls for a retraining; a probe writes its calibration row, and no
other unit of any slice changes; a channel that does not train raises
RETRAIN_FAIL and its slice is retired. HBM_READ_REPORT (R215): a report that a retry clears changes no core; one that
persists raises HBM_UE, marks the row for sparing, and aborts the pass or sweep that it feeds, or drops the STREAM or LAUNCH
and reports it on the STR page. -/
def Obligations.ChannelEvents : Prop :=
  (∀ (s : State) (st : Nat) (ch : Fin 32) (m : Byte), st < 20 → s.chanRuns st ch.val = true →
     let x := s.chan st ch.val
     let cal := bit (s.reg (pHBM st) 0x40) 0
     let limit := bits (s.reg (pHBM st) 0x44) 7 0
     (x.retrain = false → ∃ t, exec (.hbmRefreshWindow st ch m) s = .next t ∧
       t.counter (pHBM st) 0x100 = s.counter (pHBM st) 0x100 + 1 ∧ (∀ k, t.core k = s.core k) ∧
       (∀ c u, u < sliceUnits → slicePart u ≠ .calibration → t.unit c u = s.unit c u) ∧
       (t.chan st ch.val).windows = (if x.windows = 0 then 3 else x.windows - 1) ∧
       (x.windows ≠ 0 ∨ cal = false → t.slices = s.slices ∧ (t.chan st ch.val) = { x with windows := if x.windows = 0 then 3 else x.windows - 1 }) ∧
       (x.windows = 0 → cal = true → (t.chan st ch.val).margin = m ∧
         t.counter (pHBM st) 0x108 = s.counter (pHBM st) 0x108 + 1 ∧
         (limit ≤ m.toNat → (t.chan st ch.val).lowProbes = 0 ∧ (t.chan st ch.val).retrain = false) ∧
         (m.toNat < limit → (t.chan st ch.val).lowProbes = x.lowProbes + 1 ∧
           (t.chan st ch.val).retrain = decide (3 ≤ x.lowProbes + 1) ∧ t.reported (pHBM st) 1 = true))) ∧
     (x.retrain = true → ∃ t, exec (.channelRetrain st ch true) s = .next t ∧ (∀ k, t.core k = s.core k) ∧
       t.retired = s.retired ∧ t.chan st ch.val = { x with retrain := false, lowProbes := 0, windows := 0 } ∧
       t.counter (pHBM st) 0x110 = s.counter (pHBM st) 0x110 + 1) ∧
     (x.retrain = true → s.retired.contains (chanSlice st ch.val) = false →
       ∃ t, exec (.channelRetrain st ch false) s = .next t ∧ t.reported (pHBM st) 2 = true ∧
         t.retired = s.retired ++ [chanSlice st ch.val] ∧ t.toJournal = s.toJournal ++ [Repair.mk 6 [chanSlice st ch.val]] ∧
         (t.chan st ch.val).state = 2 ∧ t.reported pSLS 1 = true)) ∧
  (∀ (s : State) (n : CoreId) (u bad : Nat) (feeds : Feeding) (cmd : Nat), s.phase = .ready → s.isPresented n.val = true →
     u < sliceUnits → (s.unitPlace n.val u).1 < 20 → (s.core n.val).fedBy u feeds = some cmd →
     let st := (s.unitPlace n.val u).1
     let retry := bits (s.reg (pHBM st) 0x40) 2 1
     (0 < bad → bad ≤ retry → ∃ t, exec (.hbmReadReport n u bad feeds) s = .next t ∧ (∀ k, t.core k = s.core k) ∧
       t = { s with pages := t.pages } ∧ t.counter (pHBM st) 0x120 = s.counter (pHBM st) 0x120 + BitVec.ofNat 64 bad ∧
       t.counter (corePage n.val kSTR) 0x138 = s.counter (corePage n.val kSTR) 0x138 + BitVec.ofNat 64 bad) ∧
     (retry < bad → ∃ t, exec (.hbmReadReport n u bad feeds) s = .next t ∧ t.reported (pHBM st) 0 = true ∧
       (s.unitPlace n.val u).2.2 ∈ (t.chan st (s.unitPlace n.val u).2.1).marked ∧ t.slices = s.slices ∧
       (match feeds with
        | .pass p => ∀ r ∈ ((t.core n.val).arr.part p.val).running, r.cmd < cmd
        | .sweep => ∀ r ∈ (t.core n.val).sch.running, r.cmd < cmd
        | .stream _ | .launch => (t.core n.val).command cmd = none ∧ t.reported (corePage n.val kSTR) 6 = true)))

/-- A soft repair marks its row in the journal, and without a free spare retires the slice (R216); an idle slice of a free
core goes into self-refresh and leaves it when woken, with its channels' window counts at 0 (R411); a stack above its limit
is reported with its temperature (R228). -/
def Obligations.StackUpkeep : Prop :=
  ∀ (s : State), s.phase = .ready →
    (∀ st ch bank row, st < 20 → (s.softDue st).head? = some (ch, bank, row) →
      (∃ t, exec (.softRepair st true) s = .next t ∧ t.toJournal = s.toJournal ++ [Repair.mk 4 [st, ch, bank, row]] ∧
        t = { s with pages := t.pages, toJournal := t.toJournal } ∧
        t.counter (pHBM st) 0x128 = s.counter (pHBM st) 0x128 + 1) ∧
      (s.retired.contains (chanSlice st ch) = false → ∃ t, exec (.softRepair st false) s = .next t ∧
        t.reported (pHBM st) 3 = true ∧ t.retired = s.retired ++ [chanSlice st ch])) ∧
    (∀ n : CoreId, s.isPresented n.val = true → bit (s.reg pPWR 0x40) 2 = true → (s.core n.val).task = none →
      (s.core n.val).str.asleep = false → (s.core n.val).str.drill.running = false →
      ∃ t, exec (.hbmSelfRefresh n) s = .next t ∧ t = { s with pages := t.pages, cores := t.cores } ∧
        t.core n.val = { s.core n.val with str := { (s.core n.val).str with asleep := true, waking := false } } ∧
        t.counter pPWR 0x120 = s.counter pPWR 0x120 + 1) ∧
    (∀ n : CoreId, (s.core n.val).str.waking = true →
      ∃ t, exec (.selfRefreshExit n) s = .next t ∧ t = { s with cores := t.cores, chans := t.chans } ∧
        t.core n.val = { s.core n.val with str := { (s.core n.val).str with asleep := false, waking := false } } ∧
        ∀ c < 10, (t.chan ((10 * s.physSlice n.val + c) / 32) ((10 * s.physSlice n.val + c) % 32)).windows = 0) ∧
    (∀ st temp, st < 20 → bits (s.reg (pHBM st) 0x4C) 31 16 < (temp : BitVec 16).toNat →
      ∃ t, exec (.stackHot st temp) s = .next t ∧ t.reported (pHBM st) 4 = true ∧
        t.hot.get (fun _ => none) st = some (s.time, temp) ∧ ∀ k, t.core k = s.core k)

/-! ## Drills (R220, R221) -/

/-- The instructions of a running drill (R221), each at its place, under the preset that the drill names (R206, R220): registers,
loops, fills, checks, moves, the wait, the mark, and the end, after which the drill's second half begins where it has one. A fill
or a save into an image slot takes the image away (R203). An instruction past the slice, past the parts that drills reach or
past the scratchpad, a third loop level, and an instruction that no row has stop the drill with DRILL_BAD. -/
def Obligations.Drills : Prop :=
  ∀ (s : State) (n : CoreId), s.drillRuns n.val = true →
    let k := s.core n.val
    let d := k.str.drill
    let w := d.code.get (fun _ => 0) d.pc
    let a := drillA w
    let p := corePage n.val kSTR
    let kSets := fun (t : State) (d' : Drill) =>
      t.core n.val = { k with str := { k.str with drill := d', preset := k.str.drillPreset } } ∧ ∀ m, m ≠ n.val → t.core m = s.core m
    let counted := fun (t : State) (us : List Nat) => t.counter p 0x140 = s.counter p 0x140 + BitVec.ofNat 64 us.length
    let images := fun (t : State) (us : List Nat) => ∀ i : Fin 2,
      t.slotImage n.val i.val = if us.any (fun u => slicePart u == .save i) then none else s.slotImage n.val i.val
    let bad := fun (c : Instr) => ∃ t, exec c s = .next t ∧ t.reported p 5 = true ∧ kSets t { d with running := false } ∧
      t.slices = s.slices
    (drillOps.contains (drillOp w) = false →
      ∀ c ∈ [Instr.dset n, .dadd n, .dloop n, .dfill n, .dcheck n, .dsave n, .dload n, .dwait n, .dmark n, .dend n],
        ∃ t, exec c s = .next t ∧ t.reported p 5 = true ∧ (t.core n.val).str.drill = { d with running := false } ∧
          t.slices = s.slices) ∧
    (d.pc < 512 → s.drillHeld n.val (drillOp w) = none →
    (drillOp w = 0x01 → ∃ t, exec (.dset n) s = .next t ∧ s.CoreFrame t n.val ∧
      kSets t { d with d := d.d.set (fun _ => 0) a ((drillImm32 w).signExtend 64) }.advance) ∧
    (drillOp w = 0x02 → ∃ t, exec (.dadd n) s = .next t ∧ s.CoreFrame t n.val ∧
      kSets t { d with d := d.d.set (fun _ => 0) a (d.reg (drillB w) + (drillImm32 w).signExtend 64) }.advance) ∧
    (drillOp w = 0x03 → 2 ≤ d.loops.length → bad (.dloop n)) ∧
    (drillOp w = 0x03 → d.loops.length < 2 → drillImm32 w = 0 → ∃ t, exec (.dloop n) s = .next t ∧ s.CoreFrame t n.val ∧
      kSets t { d with c := d.c.set wordZero (a % 2) 0, pc := drillImm16 w }.advance) ∧
    (drillOp w = 0x03 → d.loops.length < 2 → drillImm32 w ≠ 0 → ∃ t, exec (.dloop n) s = .next t ∧ s.CoreFrame t n.val ∧
      kSets t { d with c := d.c.set wordZero (a % 2) (drillImm32 w), pc := d.pc + 1,
                       loops := (Fin.ofNat 2 (a % 2), d.pc + 1, drillImm16 w) :: d.loops }) ∧
    (drillUnits d w (drillImm32 w).toInt = none → (drillOp w = 0x10 → bad (.dfill n)) ∧ (drillOp w = 0x11 → bad (.dcheck n))) ∧
    (∀ us, drillUnits d w (drillImm32 w).toInt = some us →
      (drillOp w = 0x10 → ∃ t, exec (.dfill n) s = .next t ∧ kSets t d.advance ∧ counted t us ∧ images t us ∧
        t.slices = (s.setUnits n.val (us.map (fun u => (u, s.patternRow n.val (drillImm16 w % 8) u)))).slices ∧
        t = { s with pages := t.pages, cores := t.cores, slices := t.slices, saves := t.saves, free := t.free }) ∧
      (drillOp w = 0x11 → ∃ t, exec (.dcheck n) s = .next t ∧ counted t us ∧
        t = { s with pages := t.pages, cores := t.cores, chans := t.chans, free := t.free } ∧
        (let miss := us.filter (fun u => s.drillUnit n.val u != s.patternRow n.val (drillImm16 w % 8) u)
         kSets t { d with log := (d.log ++ miss).take 16 }.advance ∧ t.reg p 0x58 = s.reg p 0x58 + word miss.length ∧
         ∀ u ∈ miss, (s.unitPlace n.val u).2.2 ∈ (t.chan (s.unitPlace n.val u).1 (s.unitPlace n.val u).2.1).marked))) ∧
    (∀ us, drillUnits d w 1 = some us → drillImm16 w + us.length ≤ 24576 →
      (drillOp w = 0x12 → ∃ t, exec (.dsave n) s = .next t ∧ kSets t d.advance ∧ counted t us ∧ images t us ∧
        t.slices = (s.setUnits n.val (us.zipIdx.map (fun u => (u.1, k.spm.row (drillImm16 w + u.2))))).slices ∧
        t = { s with pages := t.pages, cores := t.cores, slices := t.slices, saves := t.saves }) ∧
      (drillOp w = 0x13 → ∃ t, exec (.dload n) s = .next t ∧ s.CoreFrame t n.val ∧ counted t us ∧
        t.core n.val = { k with str := { k.str with drill := d.advance, preset := k.str.drillPreset }, spm := (t.core n.val).spm } ∧
        (t.core n.val).spm.rows =
          (k.spm.writeRows ((List.range us.length).map (drillImm16 w + ·)) (us.map (s.drillUnit n.val))).rows)) ∧
    ((drillUnits d w 1 = none ∨ ∃ us, drillUnits d w 1 = some us ∧ 24576 < drillImm16 w + us.length) →
      (drillOp w = 0x12 → bad (.dsave n)) ∧ (drillOp w = 0x13 → bad (.dload n))) ∧
    (drillOp w = 0x20 → ∃ t, exec (.dwait n) s = .next t ∧ s.CoreFrame t n.val ∧ kSets t d.advance) ∧
    (drillOp w = 0x21 → ∃ t, exec (.dmark n) s = .next t ∧ kSets t d.advance ∧
      t.reg p 0x54 = drillImm32 w ∧ t = { s with pages := t.pages, cores := t.cores }) ∧
    (drillOp w = 0x3F → ∃ t, exec (.dend n) s = .next t ∧ s.CoreFrame t n.val ∧
      kSets t (match d.next with
        | none => { d with running := false, pc := 0, loops := [] }
        | some (preset, code) => { Drill.reset with code := code, running := true, preset := preset, log := d.log })))

/-! ## The lift (R18-R23, R238-R260) -/

/-- Forming a lift (R242): a GO on an unformed station trains both ports, or fails on a length of one; a port is up only at
the full 32 lanes; a neighbour's frame agrees or fails the formation with NEIGHBOUR_BAD; the limit of 1 s fails it.
RING_FRAME (R242 step 4): the first frame gathers the largest epoch; station 0 forms with the maximum plus 1 and sends it
round; every other station adopts it. -/
def Obligations.LiftForming : Prop :=
  (∀ (s : State) (x : Side), s.phase = .ready →
     let failed := fun (t : State) => t.lift.state = .unformed ∧ t.forming = false ∧ t.reported pLFC 0 = true
     (∀ v : Word, bit v 31 = true → s.forming = false → s.lift.isFormed = false → bits v 14 8 = 0 →
       ∃ t, exec (.lfcFormGo v) s = .next t ∧ failed t) ∧
     (∀ v : Word, bit v 31 = true → s.forming = false → s.lift.isFormed = false → bits v 14 8 ≠ 0 →
       ∃ t, exec (.lfcFormGo v) s = .next t ∧ t.lift.state = .training ∧ t.forming = true ∧ t.liftPos = bits v 6 0 ∧
         t.liftLen = bits v 14 8 + 1 ∧ t.liftId = bits v 23 16 ∧ (∀ k, t.core k = s.core k) ∧
         ∀ y, t.linkState y = if bit (s.reg (pLFT y) 0x40) 0 && s.liftClk then 1 else 0) ∧
     (∀ lanes, s.linkState x = 1 → ∃ t, exec (.liftPortTrained x lanes) s = .next t ∧
       t.linkState x = (if lanes = BitVec.allOnes 32 then 2 else 0) ∧ t.linkState (otherSide x) = s.linkState (otherSide x) ∧
       t.lift.state = (if lanes = BitVec.allOnes 32 ∧ s.linkUp (otherSide x) = true ∧ s.lift.state = .training then .checking
         else s.lift.state)) ∧
     (s.forming = true → s.linkUp x = true → exec (.formationSend x) s = .next (s.sendMsg x (.formation
       { position := BitVec.ofNat 7 s.liftPos, length := BitVec.ofNat 7 (s.liftLen - 1), liftId := BitVec.ofNat 8 s.liftId,
         cores := BitVec.ofNat 8 s.presented, stepping := 0x00B0, epoch := s.lift.epoch }))) ∧
     (∀ f v, s.forming = true → s.hears x f 2 = true →
       (s.formMismatch x v = none → ∃ t, exec (.formationFrame x ⟨f, v⟩) s = .next t ∧ (t.liftPort x).agreed = true ∧
         t.lift.state = s.lift.state ∧ t.forming = true) ∧
       (s.formMismatch x v ≠ none → ∃ t, exec (.formationFrame x ⟨f, v⟩) s = .next t ∧ failed t ∧ t.reported (pLFT x) 3 = true)) ∧
     (s.forming = true → ∃ t, exec .formTimeout s = .next t ∧ failed t)) ∧
  (∀ (s : State) (f : LiftFrame) (e : BitVec 16), s.forming = true → s.hears .down f 2 = true →
     let top := if e.toNat < s.lift.epoch.toNat then s.lift.epoch else e
     let agreed := (s.liftPort .up).agreed = true ∧ (s.liftPort .down).agreed = true
     let formed := fun (t : State) (e : BitVec 16) => t.lift.state = .formed ∧ t.lift.epoch = e ∧ t.forming = false ∧
       t.lift.held = [] ∧ t.lift.ownQ = [] ∧
       (∀ x, t.liftPort x = { liftPortDefault 0 with agreed := true, trained := (s.liftPort x).trained }) ∧
       t.sentMsg .up (.ring true e)
     (agreed → s.liftPos = 0 → ∃ t, exec (.ringFrame ⟨f, false⟩ e) s = .next t ∧ formed t (top + 1)) ∧
     (agreed → s.liftPos ≠ 0 → exec (.ringFrame ⟨f, false⟩ e) s = .next (s.sendMsg .up (.ring false top))) ∧
     (¬ agreed → s.liftPos ≠ 0 → exec (.ringFrame ⟨f, false⟩ e) s = .next (s.modLift (fun l => { l with ring := some e }))) ∧
     (agreed → s.liftPos ≠ 0 → ∃ t, exec (.ringFrame ⟨f, true⟩ e) s = .next t ∧ formed t e))

/-- The driver can break a formed lift by writing LFC_FORM with GO: the loss is reported with side 3, told to both sides,
everything in flight is dropped and every lift job faults (R256, R260). -/
def Obligations.DeliberateBreak : Prop :=
  ∀ (s : State) (v : Word), s.phase = .ready → s.lift.isFormed = true → s.forming = false → bit v 31 = true →
    ∃ t, exec (.lfcFormGo v) s = .next t ∧ t.lift.isFormed = false ∧ t.reported pLFC 1 = true ∧
      ((s.page pLFC).err = 0 → (t.page pLFC).info0 = word (3 * 2 ^ 24 + 1 * 65536 + s.liftPos)) ∧ t.liftDropped ∧ t.liftFaulted ∧
      t.told .up (.notice false s.liftPos 3) ∧ t.told .down (.notice false s.liftPos 3)

/-- Frames of the lift (R241, R243, R245). Every accepted chair frame advances the expected sequence by one; a bad chair
frame counts as a link error, is to be answered with NAK, once per gap, and holds no chair; a link-control frame only
carries the link fields; a frame of another EtherType or of an older epoch is counted and discarded. -/
def Obligations.LiftReception : Prop :=
  ∀ (s : State) (x : Side) (f : LiftFrame),
    (s.takes x f .ok = true → leAt f.hdr 0 1 / 16 = 0 → ∃ t, exec (frameRow x f) s = .next t ∧
      (t.liftPort x).rxSeq = (s.liftPort x).rxSeq + 1 ∧ (t.liftPort x).nakSent = false) ∧
    (s.takes x f .ok = true → leAt f.hdr 0 1 / 16 = 1 → exec (.linkControlFrame x f) s = .next (s.linkFields x f.hdr)) ∧
    (s.takes x f .error = true → leAt f.hdr 0 1 / 16 = 0 → ∃ t, exec (frameRow x f) s = .next t ∧
      (t.liftPort x).rxSeq = (s.liftPort x).rxSeq ∧ (t.liftPort x).nakSent = true ∧
      ((s.liftPort x).nakSent = false → (t.liftPort x).nakDue = true) ∧ t.lift.held = s.lift.held ∧
      t.counter (pLFT x) 0x120 = s.counter (pLFT x) 0x120 + 1) ∧
    (s.takes x f .foreign = true → exec (frameRow x f) s = .next (s.count (pLFT x) 0x150 1)) ∧
    (s.takes x f .stale = true → exec (frameRow x f) s = .next (s.count pLFC 0x140 1)) ∧
    (s.phase = .ready → s.linkUp x = true → exec (.foreignFrame x) s = .next (s.count (pLFT x) 0x150 1))

/-- A one-frame chair whose lap ends at this station is held for its cores (R21, R250), and the chairs of demand: an
accepted demand chair is ORed into its lap (R252). -/
def Obligations.ChairsArrive : Prop :=
  ∀ (s : State) (x : Side) (f : LiftFrame), s.takes x f .ok = true →
    let h := chairHdrOf x f.hdr
    let s1 := s.linkFields x f.hdr
    (leAt f.hdr 0 1 / 16 = 0 → leAt f.hdr 1 1 % 2 = 0 → h.rows ≤ 16 → leAt f.hdr 0x1D 1 = 0 → (s.liftPort x).rxChair = none →
      s1.retires h = true → s1.unpresented h.mask = none → s1.regionless h.mask = none → h.mask ≠ 0 → s.lift.held = [] →
      ∃ t, exec (.chairFrame x f) s = .next t ∧
        t.lift.held = [{ chair := { hdr := h, rows := bytesToRows (f.data.length / 512) f.data }, side := some x, left := h.mask,
                         waiting := false, stale := 0, bad := false, grad := none }] ∧
        t.counter pLFC 0x118 = s1.counter pLFC 0x118 + 1) ∧
    (leAt f.hdr 0 1 / 16 = 0 → leAt f.hdr 1 1 % 4 = 3 → x = .down → (s.liftPort x).rxDemand = [] →
      h.seq.toNat < s.lift.demanded + 4 → s1.retires h = true → (s1.lift.lap h.seq.toNat).sent = false →
      ∃ t, exec (.demandChairRx x f) s = .next t ∧ (t.liftPort x).rxDemand = [] ∧
        (t.lift.lap h.seq.toNat).bits = (s1.lift.lap h.seq.toNat).bits ||| BitVec.ofNat 256 (leNat f.data) ∧
        (t.lift.lap h.seq.toNat).others = (s1.lift.lap h.seq.toNat).others + 1)

/-- CHAIR_SEND (R244, R247, R248): with credit and replay room the first own chair whose window is open leaves whole, and is
held for the station's own cores; or the next forwarded chair leaves. Without credit or replay room the chair waits. -/
def Obligations.ChairsLeave : Prop :=
  ∀ (s : State) (d : Dir), s.phase = .ready → s.lift.isFormed = true → s.linkUp (dirSide d) = true →
    (d = .uphill → s.lift.demands = []) → (s.liftPort (dirSide d)).through = none →
    let x := dirSide d
    let p := s.liftPort x
    (∀ o c, s.ownReady d = some (o, c) → s.forwardReady d = none → c.hdr.kind.val ≠ 1 → s.unpresented c.hdr.mask = none →
      s.regionless c.hdr.mask = none →
      s.credit x (chairSize c) = true → s.replayRoom x (chairSize c) = true →
      ∃ t, exec (.chairSend d) s = .next t ∧ (t.liftPort x).sentUsed = p.sentUsed + chairSize c ∧
        (t.liftPort x).txSeq = p.txSeq + BitVec.ofNat 16 (chairSize c) ∧
        (t.liftPort x).replay.length = p.replay.length + chairSize c ∧ t.lift.ownQ = s.ownLive.erase o ∧
        t.lift.held = s.lift.held ++ [{ chair := c, side := none, left := c.hdr.mask, waiting := false, stale := 0, bad := false,
                                          grad := none }] ∧
        t.counter pLFC 0x100 = s.counter pLFC 0x100 + 1 ∧ ∀ k, t.core k = s.core k) ∧
    (∀ h, s.ownReady d = none → s.forwardReady d = some h → s.credit x (chairSize h.chair) = true →
      s.replayRoom x (chairSize h.chair) = true →
      ∃ t, exec (.chairSend d) s = .next t ∧ (t.liftPort x).sentUsed = p.sentUsed + chairSize h.chair ∧
        (t.liftPort x).replay.length = p.replay.length + chairSize h.chair ∧ h ∉ t.lift.held ∧
        t.counter pLFC 0x110 = s.counter pLFC 0x110 + 1 ∧ ∀ k, t.core k = s.core k) ∧
    (∀ c, s.nextChair d = some c → (s.credit x c.frames = false ∨ s.replayRoom x c.frames = false) →
      exec (.chairSend d) s = .next s)

/-- CHAIR_LAND (R250, R251): the first copy whose slot is empty and expects it fills its slot with the chair's rows; a copy whose
header check fails marks the slot failed and is written again; one of a chair that the station discarded fails; a copy that was
under way to an old pcore is discarded, counted, and written again. -/
def Obligations.ChairsLand : Prop :=
  ∀ (s : State) (n : CoreId) (h : Held), s.phase = .ready → (s.hostOf n.val).isSome = true →
    s.lift.held.find? (s.landable n.val) = some h →
    let c := (s.core n.val).spm.circ 0
    let q := h.chair.hdr.seq
    let rows := min h.chair.rows.length (circSlotRows c.cfg)
    (bit h.stale n.val = false → h.bad = false → ∃ t, exec (.chairLand n true) s = .next t ∧ ((t.core n.val).spm.circ 0).isFull q = true ∧
      (∀ i < rows, (t.core n.val).spm.row (circRow c.cfg q.toNat + i) = h.chair.rows.getD i 0) ∧
      (∀ r, (r < circRow c.cfg q.toNat ∨ circRow c.cfg q.toNat + rows ≤ r) → (t.core n.val).spm.row r = (s.core n.val).spm.row r) ∧
      t.counter pLFC 0x108 = s.counter pLFC 0x108 + 1 ∧ h ∉ t.lift.held) ∧
    (bit h.stale n.val = false → ∀ ok, ok = false ∨ h.bad = true → ∃ t, exec (.chairLand n ok) s = .next t ∧
      ((t.core n.val).spm.circ 0).isFailed q = true ∧
      (t.core n.val).spm.rows = (s.core n.val).spm.rows ∧ t.lift.held = s.lift.held ∧ t.reported pLFC 3 = true ∧
      t.counter pLFC 0x148 = s.counter pLFC 0x148 + (if h.bad then 0 else 1)) ∧
    (bit h.stale n.val = true → ∀ ok, ∃ t, exec (.chairLand n ok) s = .next t ∧ t = { s with lift := t.lift, pages := t.pages } ∧
      t.lift.held = s.lift.held.map (fun a => if a = h then { h with stale := h.stale &&& ~~~(1#64 <<< n.val) } else a) ∧
      t.counter pLFC 0x140 = s.counter pLFC 0x140 + 1 ∧ t.counter pLFC 0x148 = s.counter pLFC 0x148 + 1)

/-- Link upkeep (R243, R245): a link-control frame carries the port's link fields; an expired acknowledgement resends the
replay buffer from its oldest frame; a frame sent RETRY_MAX + 1 times makes the link retrain; a link that retrains at
full width resends, and one that does not goes down and the station declares a loss. -/
def Obligations.LinkUpkeep : Prop :=
  ∀ (s : State) (x : Side), s.phase = .ready →
    let p := s.liftPort x
    (s.linkUp x = true → s.lift.isFormed = true → ∃ t hdr, exec (.linkControlSend x) s = .next t ∧
      t.outbox = .linkControl x (s.liftMac x) hdr (liftPad 0) :: s.outbox ∧ (t.liftPort x) = { p with nakDue := false } ∧
      (hdr.drop 2).take 8 = linkBytes p.nakDue false p.demandFreed 0 p.rxSeq p.freed) ∧
    (s.linkUp x = true → s.lift.isFormed = true → (∀ f ∈ p.replay, f.sends < s.retryMax x + 1) →
      ∃ t, exec (.ackTimeout x) s = .next t ∧
        (t.liftPort x).replay = p.replay.map (fun f => { f with sends := f.sends + 1 }) ∧ (t.liftPort x).txSeq = p.txSeq ∧
        t.counter (pLFT x) 0x130 = s.counter (pLFT x) 0x130 + BitVec.ofNat 64 p.replay.length) ∧
    (s.linkUp x = true → (∃ f ∈ p.replay, s.retryMax x + 1 ≤ f.sends) →
      ∃ t, exec (.retryLimit x) s = .next t ∧ t.linkState x = 3 ∧ t.reported (pLFT x) 2 = true ∧ t.liftPort x = p) ∧
    (∀ lanes, s.linkState x = 3 →
      (lanes = BitVec.allOnes 32 → ∃ t, exec (.linkRetrainDone x lanes) s = .next t ∧ t.linkState x = 2 ∧
        t.reported (pLFT x) 1 = true ∧ t.lift.state = s.lift.state ∧
        (t.liftPort x).replay = p.replay.map (fun f => { f with sends := 1 })) ∧
      (lanes ≠ BitVec.allOnes 32 → ∃ t, exec (.linkRetrainDone x lanes) s = .next t ∧ t.linkState x = 0 ∧
        t.reported (pLFT x) 0 = true ∧ (s.lift.isFormed = true → t.liftBroken)))

/-- Lift notices, loss, stall and quiesce (R256, R258, R259, R314, R315). A loss breaks the lift wherever it is heard of, also at a
station already broken, and is passed on; a notice back at its own station stops; a stall, which a wait at the gate of a pending
swap never is, faults the lift jobs and leaves the lift formed; the quiesce frame's first circuit stops new lift commands, and is
held while a swap is under way; its second makes each quiet station quiescent. -/
def Obligations.LiftTroubles : Prop :=
  ∀ (s : State) (x : Side), s.phase = .ready →
    (∀ f (pos : BitVec 7) (side : BitVec 2), s.hears x f 3 = true → (s.lift.isFormed = true ∨ s.lift.state = .broken) →
      (pos.toNat ≠ s.liftPos → s.linkUp (otherSide x) = true →
        (∃ t, exec (.liftNotice x ⟨f, false⟩ pos side) s = .next t ∧ t.liftBroken ∧
          t.sentMsg (otherSide x) (.notice false pos.toNat side.toNat)) ∧
        ∃ t, exec (.liftNotice x ⟨f, true⟩ pos side) s = .next t ∧ t.lift.state = s.lift.state ∧ t.liftDropped ∧ t.liftFaulted ∧
          t.reported pLFC 2 = true ∧ t.sentMsg (otherSide x) (.notice true pos.toNat side.toNat)) ∧
      (pos.toNat = s.liftPos → ∀ stall, exec (.liftNotice x ⟨f, stall⟩ pos side) s = .next s)) ∧
    (s.lift.isFormed = true → ∃ t, exec (.lossTimeout x) s = .next t ∧ t.liftBroken ∧
      t.sentMsg (otherSide x) (.notice false s.liftPos 2)) ∧
    (s.lift.isFormed = true → s.linkUp .up = true → s.linkUp .down = true → (s.holdsChair = true ∨ s.holdsLanding = true) →
      (s.admitWait = false → ∃ t, exec .liftStall s = .next t ∧ t.lift.state = s.lift.state ∧ t.liftDropped ∧ t.liftFaulted ∧
        t.reported pLFC 2 = true ∧ t.sentMsg .up (.notice true s.liftPos 0)) ∧
      (s.admitWait = true → exec .liftStall s = .next s)) ∧
    (∀ f, s.hears .down f 3 = true →
      (s.lift.state = .formed → s.liftTasks.any s.swapHolds = false → exec (.quiesceFrame ⟨f, false⟩) s =
        .next ((s.modLift (fun l => { l with state := .quiescing })).sendMsg .up (.quiesce false))) ∧
      (s.lift.state = .formed → s.liftTasks.any s.swapHolds = true → exec (.quiesceFrame ⟨f, false⟩) s = .next s) ∧
      (s.lift.state = .quiescing → s.lift.asked = true → s.lapQuiet = true →
        exec (.quiesceFrame ⟨f, false⟩) s = .next (s.sendMsg .up (.quiesce true))) ∧
      (s.lift.state = .quiescing → s.lapQuiet = true → ∃ t, exec (.quiesceFrame ⟨f, true⟩) s = .next t ∧ t.lift.state = .quiescent ∧
        (s.lift.asked = false → t.sentMsg .up (.quiesce true)) ∧
        ∀ (y : Fin 64) tk j, t.task y.val = some tk → tk.job = some j → j.lift = true → j.hold ≠ .running))

/-! ## The traverse (R270-R287) -/

/-- The traverse port as an Ethernet port (R270, R271, R278, R285): a port that trains on all 8 lanes is up with its registers in
force and announces its address, one that does not is down; a port that goes down loses every peer of the job; requests for
the part's own address are answered and every other packet that is not the traverse's is counted; a pause of the
configured priority is honoured until it ends, and a long one is reported. -/
def Obligations.TraverseLink : Prop :=
  ∀ (s : State) (p : TPort), s.phase = .ready →
    (∀ lanes : BitVec 8, s.trvState p = 1 ∨ s.trvState p = 3 →
      (lanes = BitVec.allOnes 8 → ∃ t, exec (.trvPortTrained p lanes) s = .next t ∧ t.trvState p = 2 ∧
        (∀ o ∈ trainedRegs, t.trvReg p o = s.reg (pTRV p) o) ∧ Out.announce p (t.trvOuter p (s.coord p)) ∈ t.outbox) ∧
      (lanes ≠ BitVec.allOnes 8 → ∃ t, exec (.trvPortTrained p lanes) s = .next t ∧ t.trvState p = 0 ∧
        (s.trvState p = 3 → t.reported (pTRV p) 0 = true))) ∧
    (s.trvState p = 2 ∨ s.trvState p = 3 → ∃ t, exec (.trvLinkDown p) s = .next t ∧ t.trvState p = 0 ∧
      t.reported (pTRV p) 0 = true ∧ (s.jobPeers p ≠ [] → t.trvFaulted ∧ t.reported (pTRV p) 2 = true)) ∧
    (s.trvUp p = true →
      (∀ ip mac, exec (.arpRequest p ip mac) s = .next
        (if bit (s.trvReg p 0x40) 2 = false ∧ s.ownAddress p = ip.setWidth 128 then
          s.emit (.arpReply p mac (s.trvOuter p (s.coord p))) else s.count (pTRV p) 0x168 1)) ∧
      (∀ ip mac, exec (.neighbourSolicitation p ip mac) s = .next
        (if bit (s.trvReg p 0x40) 2 = true ∧ s.ownAddress p = ip then
          s.emit (.arpReply p mac (s.trvOuter p (s.coord p))) else s.count (pTRV p) 0x168 1)) ∧
      exec (.foreignPacket p) s = .next (s.count (pTRV p) 0x168 1) ∧
      ∀ prio, exec (.pfcPauseFrame p prio) s = .next
        (if prio.toNat = bits (s.reg (pTRV p) 0x50) 15 13 then s.modTrv p (fun t => { t with paused := true }) else s)) ∧
    ((s.trv p).paused = true → (∀ ns, ∃ t, exec (.pfcPauseEnd p ns) s = .next t ∧ (t.trv p).paused = false ∧ (t.trv p).waitQ = [] ∧
        t.counter (pTRV p) 0x150 = s.counter (pTRV p) 0x150 + BitVec.ofNat 64 ns ∧ ∀ k, t.core k = s.core k) ∧
      ∃ t, exec (.pfcStorm p) s = .next t ∧ (t.trv p).paused = true ∧ t.reported (pTRV p) 5 = true)

/-- Data, acknowledgements and negative acknowledgements (R274-R277, R279, R281): with no collective open at the port, the next
packet of a flow is accepted and, for an XSEND, its rows land at the addressed core; in any case a later one has a NAK and an
earlier one is acknowledged again; an acknowledgement frees what it covers, cuts the rate once a window on ECE and performs the
command whose last packet it covers; a NAK sends the rest again. -/
def Obligations.TraverseData : Prop :=
  ∀ (s : State) (p : TPort) (x : TrvPacket), s.admits p x = true →
    let h := trvHdrOf x.hdr
    let peer := BitVec.ofNat 15 h.src
    let left := fun (f : Flow) (a : Word) => f.unacked.filter (fun d => !decide ((0 : Int) < (a - d.hdr.psn).toInt))
    let now := fun (f : Flow) (a : Word) => if (0 : Int) ≤ (s.txPsn p peer - a).toInt then left f a else f.unacked
    let cut := fun (f : Flow) => if h.ece = true ∧ f.cut = false then max 10000 (f.rate * 7 / 8) else f.rate
    let next := s.rxPsn p peer
    (h.type = 0 → x.ce = false → ∀ s1 f, s.useFlow p peer false h.epoch = some s1 → s1.flowOf p peer false = some f →
      (h.psn = next → (s.trv p).out = [] → (s.trv p).serves = [] → (∀ o ∈ (s.trv p).opens, o.coll = 0) →
        ∃ t g, exec (.trvDataPacket p x) s = .next t ∧ t.flowOf p peer false = some g ∧ t.rxPsn p peer = next + 1 ∧ g.nak = false ∧
        ∀ r, (s.trv p).requests = [r] → r.of h = true → r.granted = true → r.epoch ≠ 0 → r.kind = 0 →
          (∀ a, (t.core r.core).spm.row a =
            ((s.landRows r.core r.seq r.rows h.offset (bytesToRows (x.data.length / 512) x.data)).core r.core).spm.row a) ∧
          (t.trv p).requests = (if r.rows ≤ h.offset + x.data.length / 512 then []
            else [{ r with got := h.offset + x.data.length / 512 }])) ∧
      ((h.psn - next).toInt < 0 → exec (.trvDataPacket p x) s = .next (s1.sendAck p peer)) ∧
      (0 < (h.psn - next).toInt → exec (.trvDataPacket p x) s = .next (s1.sendNak p peer))) ∧
    (h.type = 1 → (s.trv p).serves = [] → ∀ f, s.flow p peer = some f →
      ((s.trv p).out = [] → ∃ t g, exec (.trvAck p x) s = .next t ∧ t.flow p peer = some g ∧ g.unacked = now f h.ack ∧
        g.rate = cut f ∧ t.txPsn p peer = s.txPsn p peer ∧ t.rxPsn p peer = next ∧ ∀ k, t.core k = s.core k) ∧
      (∀ m q, (s.trv p).out = [m] → m.dst = peer → m.lastPsn = some q → m.kind ≠ 2 → m.epoch ≠ 0 →
        (now f h.ack).any (fun d => d.hdr.psn == q) = false → ∃ t, exec (.trvAck p x) s = .next t ∧ (t.trv p).out = [] ∧
          t.counter (pTRV p) 0x100 = s.counter (pTRV p) 0x100 + 1 ∧
          ∀ k, t.core k = (s.markStage m.core m.cmd .performed).core k)) ∧
    (h.type = 2 → ∀ f, s.flow p peer = some f → (s.trv p).out = [] → (s.trv p).serves = [] → ∃ t g,
      exec (.trvNak p x) s = .next t ∧ t.flow p peer = some g ∧ g.unacked = now f h.psn ∧
      t.counter (pTRV p) 0x128 = s.counter (pTRV p) 0x128 + BitVec.ofNat 64 (now f h.psn).length ∧ ∀ k, t.core k = s.core k)

/-- Requests, grants and aborts (R274, R280, R286): a request is kept, one that repeats a granted one is granted again, and one that
differs from its receive or instance faults the job; a peer's request for a shard that the part does not hold is answered so
(R303; the request and its answer are the model's, log entry 82); a grant sends the first packet of its message; an abort of the
running job faults the traverse jobs and drops their messages. A bad packet and one of another epoch are counted and discarded. -/
def Obligations.TraverseMessages : Prop :=
  ∀ (s : State) (p : TPort) (x : TrvPacket),
    let h := trvHdrOf x.hdr
    let r : TrvReq := { src := BitVec.ofNat 15 h.src, core := h.core, kind := h.kind, phase := h.phase, seq := h.seq,
                        param := h.param, rows := h.rows + 1, epoch := h.epoch, granted := false, got := 0 }
    (s.admits p x = true → h.type = 3 → (h.epoch ≠ 0 ∨ x.data = []) →
      (∀ q, (s.trv p).requests.find? (fun q => q.of h) = some q →
        exec (.trvRequest p x) s = .next (if q.granted then s.sendTrv p (q.hdr (s.coord p)) [] else s)) ∧
      ((s.trv p).requests.find? (fun q => q.of h) = none → (h.epoch = 0 ∨ h.kind = 0 ∨ s.openFor p h.core h.kind h.seq = none) →
        exec (.trvRequest p x) s = .next (s.modTrv p (fun t => { t with requests := t.requests ++ [r] }))) ∧
      (∀ o d, (s.trv p).requests = [] → h.epoch ≠ 0 → 1 ≤ h.kind → s.openFor p h.core h.kind h.seq = some o →
        s.findOpen p o.core o.cmd = some o → o.mismatch r = some d →
        ∃ t, exec (.trvRequest p x) s = .next t ∧ t.reported (pTRV p) 3 = true ∧ t.trvFaulted)) ∧
    (s.admits p x = true → h.type = 3 → h.epoch = 0 → x.data ≠ [] →
      (∀ b < 64, s.holdsShard b (BitVec.ofNat 512 (leAt x.data 0 64)) = false) →
      exec (.trvRequest p x) s = .next (s.emit (.shardAnswer p (BitVec.ofNat 15 h.src) none))) ∧
    (s.admits p x = true → h.type = 4 → ∀ m, (s.trv p).out = [m] → m.dst.toNat = h.src → m.dstCore = h.core → m.kind = h.kind →
      m.phase = h.phase → m.seq = h.seq → m.epoch = h.epoch → m.asked = true → m.granted = false → m.sent = 0 →
      (m.rows = [] → ∃ t, exec (.trvGrant p x) s = .next t ∧ (t.trv p).out = []) ∧
      (∀ f, m.rows ≠ [] → m.rows.length ≤ s.packetRows p → s.flow p m.dst = some f → f.unacked = [] → (s.trv p).paused = false →
        ∃ t d g, exec (.trvGrant p x) s = .next t ∧ t.outbox = s.packetOut p d (rowBytes m.rows) :: s.outbox ∧
          d.type = 0 ∧ d.last = true ∧ d.psn = s.txPsn p m.dst ∧ d.offset = 0 ∧ d.seq = m.seq ∧ d.core = m.dstCore ∧
          d.dst = m.dst.toNat ∧ t.txPsn p m.dst = s.txPsn p m.dst + 1 ∧ t.flow p m.dst = some g ∧ g.unacked.map (·.hdr) = [d] ∧
          t.counter (pTRV p) 0x120 = s.counter (pTRV p) 0x120 + 1)) ∧
    (s.admits p x = true → h.type = 5 → h.epoch ≠ 0 → ∃ t, exec (.trvAbort p x) s = .next t ∧ t.reported (pTRV p) 4 = true ∧
      t.trvFaulted ∧ (t.trv p).opens = [] ∧ (∀ m ∈ (t.trv p).out, m.epoch = 0) ∧
      ∀ k < 64, (t.core k).queueOf .traverse = []) ∧
    (s.phase = .ready → s.trvUp p = true →
      ((s.outerOk p x = false ∨ trvHeaderOk x.hdr x.data = false) → ∃ t, exec (packetRow p x) s = .next t ∧
        t.counter (pTRV p) 0x158 = s.counter (pTRV p) 0x158 + 1 ∧ (t.trv p).requests = (s.trv p).requests ∧
        (t.trv p).opens = (s.trv p).opens ∧ (t.trv p).out = (s.trv p).out ∧ ∀ k, t.core k = s.core k) ∧
      (s.outerOk p x = true → trvHeaderOk x.hdr x.data = true → h.epoch ≠ 0 → h.epoch ≠ s.trvEpoch p →
        exec (packetRow p x) s = .next (s.count (pTRV p) 0x160 1)))

/-- The timers of the traverse (R276, R277, R278, R280, R285, R286): a pause holds every packet; a grant goes out once the whole message can be taken; an
acknowledgement that is due is sent with what the flow has received; an expired timeout resends, doubles the timeout up to
its limit and halves the rate down to 1 percent; a window without ECE raises the rate; a lost peer is reported and faults
the traverse jobs; the abort packet is repeated. -/
def Obligations.TraverseTimers : Prop :=
  ∀ (s : State) (p : TPort) (peer : BitVec 15), s.phase = .ready →
    (∀ i r, s.trvUp p = true → (s.trv p).requests[i]? = some r → r.granted = false → s.canGrant p r = true →
      (s.trv p).paused = false → ∃ t, exec (.grantIssue p i) s = .next t ∧
        t.outbox = s.packetOut p (r.hdr (s.coord p)) [] :: s.outbox ∧
        (t.trv p).requests = (s.trv p).requests.set i { r with granted := true } ∧ ∀ k, t.core k = s.core k) ∧
    (∀ f, s.trvUp p = true → s.flowOf p peer false = some f → 0 < f.got → (s.trv p).paused = false →
      ∃ t d, exec (.trvAckSend p peer) s = .next t ∧ t.outbox = s.packetOut p d [] :: s.outbox ∧ d.type = 1 ∧ d.ece = f.ece ∧
        d.dst = peer.toNat ∧ d.ack = s.rxPsn p peer ∧ t.flowOf p peer false = some { f with got := 0, ece := false }) ∧
    (∀ h data, (s.trv p).paused = true → s.sendTrv p h data = s.modTrv p (fun t => { t with waitQ := t.waitQ ++ [(h, data)] })) ∧
    (∀ f, s.trvUp p = true → s.flow p peer = some f → f.unacked ≠ [] → ∃ t, exec (.trvRtoExpiry p peer) s = .next t ∧
      t.flow p peer = some { f with rtoUs := min (2 * f.rtoUs) (max f.rtoUs (bits (s.reg (pTRV p) 0x70) 31 16)),
                                    rate := max 10000 (f.rate * 1 / 2) } ∧
      t.counter (pTRV p) 0x128 = s.counter (pTRV p) 0x128 + BitVec.ofNat 64 f.unacked.length ∧ ∀ k, t.core k = s.core k) ∧
    (∀ f, s.flow p peer = some f → ∃ t, exec (.ccWindow p peer) s = .next t ∧
      t.flow p peer = some (if f.cut then { f with cut := false }
        else { f with rate := min 1000000 (f.rate + 1000 * bits (s.reg (pTRV p) 0x78) 7 0) })) ∧
    (∀ c, s.lossHolds p peer c = true → ∃ t, exec (.peerLost p peer c) s = .next t ∧ t.reported (pTRV p) 2 = true ∧
      (peer ∈ s.jobPeers p → t.trvFaulted)) ∧
    (0 < (s.trv p).aborts → (s.trv p).paused = false → ∃ t, exec (.abortResend p) s = .next t ∧ (t.trv p).aborts = (s.trv p).aborts - 1 ∧
      t.outbox.length = s.outbox.length + (s.trv p).abortTo.length ∧ ∀ k, t.core k = s.core k)

/-! ## Queues, rings and host commands (R347-R359, R365-R367) -/

/-- Doorbells, the fetch of an entry and the notice backlog (R351-R353, R365-R367): a good doorbell moves a queue's tail or a
ring's head, a bad one is reported and moves nothing; a fetched entry stands behind those fetched before, and one with a
bad CRC, an unknown opcode or that could not be read is passed over; a ring with room gets what it is owed first. -/
def Obligations.QueueAccess : Prop :=
  ∀ (s : State) (width : Nat) (v : Word64) (q : BitVec 20), s.phase = .ready →
    (∀ y, width = 64 → doorKind v = false → bits v 31 21 = 0 → s.liveQueue (doorNumber v) = some y →
      doorValue v < s.queueSize (doorNumber v) y → exec (.sqDoorbell width v) s =
        .next ((s.setQueue (doorNumber v) (some { y with tail := doorValue v })).count pHOST 0x100 1)) ∧
    (width ≠ 64 ∨ doorKind v = false → (width ≠ 64 ∨ bits v 31 21 ≠ 0 ∨ s.liveQueue (doorNumber v) = none) →
      ∃ t, exec (.sqDoorbell width v) s = .next t ∧ t.reported pHOST 1 = true ∧ t.host.queues = s.host.queues) ∧
    (∀ y, width = 64 → doorKind v = true → bits v 31 21 = 0 → s.ring (doorNumber v) = some y → doorValue v < 2 ^ y.log2 →
      let moved := (doorValue v + 2 ^ y.log2 - y.head % 2 ^ y.log2) % 2 ^ y.log2
      (moved ≤ y.tail - y.head → ∃ t, exec (.headDoorbell width v) s = .next t ∧ t.host.queues = s.host.queues ∧
        t.ring (doorNumber v) = some { y with head := y.head + moved, armed := !(y.msix && decide (y.head + moved < y.tail)) } ∧
        t.counter pHOST 0x100 = s.counter pHOST 0x100 + 1) ∧
      (y.tail - y.head < moved → ∃ t, exec (.headDoorbell width v) s = .next t ∧ t.reported pNTC 0 = true ∧
        ∀ r, (t.ring r).map (·.head) = (s.ring r).map (·.head))) ∧
    (∀ x, s.liveQueue q.toNat = some x → s.host.busMaster = true → bit (s.reg pHOST 0x40) 0 = true → x.head ≠ x.tail →
      let after := (x.head + 1) % s.queueSize q.toNat x
      (∀ e, entryCrcOk e = true → (operandBytes (opOf e)).isSome = true → exec (.commandFetch q (some e)) s =
        .next (s.setQueue q.toNat (some { x with head := after,
                                                 fetched := x.fetched ++ [{ entry := e, after := after, writes := s.host.winCount }] }))) ∧
      (∀ e, entryCrcOk e = false → ∃ t, exec (.commandFetch q (some e)) s = .next t ∧ t.reported pHOST 2 = true ∧
        t.counter pHOST 0x110 = s.counter pHOST 0x110 + 1 ∧ t.queue q.toNat = some { x with head := after }) ∧
      (∀ e, entryCrcOk e = true → (operandBytes (opOf e)).isNone = true → exec (.commandFetch q (some e)) s =
        .next ((s.setQueue q.toNat (some { x with head := after })).answer q.toNat e after 2 0)) ∧
      (∃ t, exec (.commandFetch q none) s = .next t ∧ t.reported pHOST 4 = true ∧ t.queue q.toNat = some { x with head := after })) ∧
    (∀ r y, s.host.busMaster = true → (s.host.backlog.map (·.1) ++ 0 :: s.host.rings.map (·.1)).find? s.owed = some r →
      s.ring r = some y → ∃ t nt ph, exec .noticeBacklogDrain s = .next t ∧ Out.notice r (y.tail % 2 ^ y.log2) ph nt ∈ t.outbox ∧
        (t.ring r).map (·.tail) = some (y.tail + 1) ∧
        (0 < y.dropped → nt = overflowNotice y s.time ∧ (t.ring r).map (·.dropped) = some 0 ∧ t.host.backlog = s.host.backlog) ∧
        (y.dropped = 0 → ∃ e, s.host.backlog.find? (fun e => e.1 == r) = some e ∧ nt = e.2 ∧
          t.host.backlog = s.host.backlog.erase e))

/-- The checks of every host command (R355): a reserved byte or bit that is not 0 refuses a command with a bad offset no
higher than that byte, and a command that only queue 0 accepts is refused on any other queue; nothing but the queue, its
counters and its notices changes. -/
def Obligations.CommandChecks : Prop :=
  ∀ (s : State) (q : BitVec 20) (b d : Option (List Byte)) (w : Bool) (r : Nat × Instr) (x : Queue) (f : Fetched),
    r ∈ hostRows q b d w → s.front q r.1 x f → exec r.2 s ≠ .next s →
    (q.toNat ≠ 0 → 1 ≤ r.1 → r.1 ≤ 8 → exec r.2 s = .next ((s.begun q x f).finish q.toNat f.begun 4 0)) ∧
    (∀ off, reservedBad f.entry = some off → (q.toNat = 0 ∨ r.1 = 0 ∨ 8 < r.1) →
      ∃ k ≤ off, exec r.2 s = .next ((s.begun q x f).finish q.toNat f.begun 3 k))

/-- CTX_CREATE makes a context that does not exist, with its ring; CTX_KILL takes its tasks, its queues and its regions, and
completes when they are zeroed; SQ_CREATE and RING_CREATE make a queue and a ring with the fields of their entries;
SQ_DELETE discards what has not started and completes when what has started is over; RING_DELETE refuses a ring that a queue
or context names; NOP and FLUSH complete (R346, R348, R350, R356). -/
def Obligations.QueueCommands : Prop :=
  ∀ (s : State) (q : BitVec 20) (x : Queue) (f : Fetched), reservedBad f.entry = none →
    let e := f.entry
    let s1 := s.begun q x f
    let done := fun (t : State) (status detail : Nat) => t.finish q.toNat f.begun status detail
    let n2 := leAt e 8 2
    let n4 := leAt e 8 4
    (s.front q 0x00 x f → exec (.queueNop q) s = .next (done s1 0 0)) ∧
    (s.front q 0x3F x f → s.flushed f = true → exec (.flush q) s =
      .next (done (if flagFlush e then s1 else s1.count pHOST 0x138 1) 0 0)) ∧
    (q = 0 → s.front q 0x01 x f → 0 < n2 → n2 < 4096 → leAt e 0xA 2 < 4096 → exec (.ctxCreate q) s = .next (
      if s.ring (leAt e 0xA 2) = none then done s1 10 0
      else if (s.context n2).live = true ∨ (s.context n2).zeroing ≠ [] then done s1 6 5
      else done (s1.setContext n2 { ring := BitVec.ofNat 12 (leAt e 0xA 2), regions := [], zeroing := [], live := true }) 0 0)) ∧
    (q = 0 → s.front q 0x02 x f → 0 < n2 → n2 < 4096 →
      ((s.context n2).live = true → ∃ t, exec (.ctxKill q) s = .next t ∧ (t.context n2).live = false ∧ (t.context n2).regions = [] ∧
        (t.context n2).zeroing = (s.context n2).zeroing ++ (s.context n2).regions ∧
        (∀ (y : Fin 64) tk, t.task y.val = some tk → tk.ctx.toNat ≠ n2) ∧ (∀ k y, t.queue k = some y → y.ctx.toNat ≠ n2)) ∧
      ((s.context n2).live = false → exec (.ctxKill q) s = .next (done s1 10 0))) ∧
    (q = 0 → s.front q 0x03 x f → 0 < n4 → n4 < 1048576 → s.queue n4 = none → leAt e 0xC 2 < 4096 → leAt e 0xE 2 < 4096 →
      leAt e 0x10 8 % 4096 = 0 → 1 ≤ leAt e 0x18 1 → leAt e 0x18 1 ≤ 16 → exec (.sqCreate q) s = .next (
        if (s.context (leAt e 0xC 2)).live = true ∧ s.ring (leAt e 0xE 2) ≠ none then
          done (s1.setQueue n4 (some { queueReset with
            ctx := BitVec.ofNat 12 (leAt e 0xC 2), ring := BitVec.ofNat 12 (leAt e 0xE 2),
            base := BitVec.ofNat 64 (leAt e 0x10 8), log2 := leAt e 0x18 1 })) 0 0
        else done s1 10 0)) ∧
    (q = 0 → s.front q 0x04 x f → 0 < n4 → n4 < 1048576 →
      (∀ y, s.liveQueue n4 = some y →
        exec (.sqDelete q) s = .next (s1.setQueue n4 (some { y with fetched := [], head := y.tail, deleting := true }))) ∧
      (s.liveQueue n4 = none → exec (.sqDelete q) s = .next (done s1 10 0))) ∧
    (q = 0 → s.front q 0x05 x f → 0 < n2 → n2 < 4096 → s.ring n2 = none → 4 ≤ leAt e 0xA 1 → leAt e 0xA 1 ≤ 16 → leAt e 0xB 1 < 2 →
      leAt e 0xC 2 < 2048 → leAt e 0x10 8 % 4096 = 0 → exec (.ringCreate q) s = .next (done (s1.setRing n2 (some { ringReset with
        base := BitVec.ofNat 64 (leAt e 0x10 8), log2 := leAt e 0xA 1, msix := leAt e 0xB 1 == 1,
        vector := Fin.ofNat 2048 (leAt e 0xC 2) })) 0 0)) ∧
    (q = 0 → s.front q 0x06 x f → n2 < 4096 → exec (.ringDelete q) s = .next (
      if s.ring n2 = none then done s1 10 0
      else if s.ringNamed n2 then done s1 6 2
      else done ((s1.setRing n2 none).modHost (fun h => { h with backlog := h.backlog.filter (fun e => e.1 != n2) })) 0 0)) ∧
    (∀ c, s.underWay q 0x04 x c → ∀ y, s.queue (leAt c.entry 8 4) = some y → y.started = [] →
      exec (.sqDelete q) s = .next ((s.setQueue (leAt c.entry 8 4) none).finish q.toNat c 0 0)) ∧
    (∀ c, s.underWay q 0x02 x c → (s.context (leAt c.entry 8 2)).zeroing = [] →
      (∀ n < 64, (s.core n).task = none → (s.core n).zeroing = false) → exec (.ctxKill q) s = .next (s.finish q.toNat c 0 0))

/-- PCORE_FENCE makes a fence due and completes when the pcore is fenced (R382); SELF_TEST asks for its test, which begins
where its target is eligible, and completes when it is done (R356, R389); HBM_ALLOC takes a free range of the user area and
refuses one that overlaps or reaches the reserved area (R357); HBM_FREE hands its region to zeroing, after which every unit
of it reads 0, every other unit reads as before, and the command completes (R222). -/
def Obligations.PartCommands : Prop :=
  ∀ (s : State) (q : BitVec 20) (x : Queue) (f : Fetched),
    let e := f.entry
    let s1 := s.begun q x f
    let id := leAt e 8 1
    let r := regionOf e
    (reservedBad e = none → q = 0 → s.front q 0x07 x f → id < 68 →
      ((s.pcore id).state = .fenced → exec (.pcoreFence q) s = .next (s1.finish q.toNat f.begun 0 0)) ∧
      ((s.pcore id).state ≠ .fenced → ∃ t, exec (.pcoreFence q) s = .next t ∧ t = { s1 with pcores := t.pcores } ∧
        (t.pcore id).due = true ∧ (t.pcore id).state = (s.pcore id).state ∧ ∀ p, p ≠ id → t.pcore p = s.pcore p)) ∧
    (∀ c, s.underWay q 0x07 x c → (s.pcore (leAt c.entry 8 1)).state = .fenced →
      exec (.pcoreFence q) s = .next (s.finish q.toNat c 0 0)) ∧
    (reservedBad e = none → q = 0 → s.front q 0x08 x f →
      (leAt e 9 1 = 0 → id < 68 → (s.pcore id).state ≠ .hosting → (s.pcore id).state ≠ .testing →
        ∃ t, exec (.selfTest q) s = .next t ∧ (t.pcore id).state = .testing ∧ (t.pcore id).before = (s.pcore id).state ∧
          (t.pcore id).testResult = 3 ∧ (0, id) ∈ t.host.tests) ∧
      (leAt e 9 1 = 1 → id < 68 → ∃ t, exec (.selfTest q) s = .next t ∧ ∀ b < 48, (1, id * 64 + b) ∈ t.host.tests) ∧
      (∀ n, leAt e 9 1 = 2 → s.sliceCore id = some n → s.sliceFree n = true → (s.core n).str.drill.running = false →
        ∃ t, exec (.selfTest q) s = .next t ∧ (t.core n).str.drill =
          { Drill.reset with code := patternDrill 0x10, running := true, preset := some 2, log := (s.core n).str.drill.log,
                             next := some (some 1, patternDrill 0x11) })) ∧
    (∀ c, s.underWay q 0x08 x c → s.testDone (leAt c.entry 9 1) (leAt c.entry 8 1) = true →
      exec (.selfTest q) s = .next (s.finish q.toNat c 0 0)) ∧
    (reservedBad e = none → s.front q 0x10 x f → id < s.presented → r.base % 2097152 = 0 → r.len % 2097152 = 0 → r.len ≠ 0 →
      exec (.hbmAlloc q) s = .next (
        if 21407727616 < r.base + r.len then s1.finish q.toNat f.begun 7 1
        else if s.meetsAny r.core.val r.base r.len then s1.finish q.toNat f.begun 7 0
        else (s1.setContext x.ctx.toNat { s.context x.ctx.toNat with
          regions := (s.context x.ctx.toNat).regions ++ [r] }).finish q.toNat f.begun 0 0)) ∧
    (reservedBad e = none → s.front q 0x11 x f → id < s.presented → r.base % 2097152 = 0 → r.len % 2097152 = 0 → r.len ≠ 0 →
      r ∈ (s.context x.ctx.toNat).regions → exec (.hbmFree q) s = .next (s1.setContext x.ctx.toNat { s.context x.ctx.toNat with
        regions := (s.context x.ctx.toNat).regions.erase r, zeroing := (s.context x.ctx.toNat).zeroing ++ [r] })) ∧
    (∀ c, s.underWay q 0x11 x c → regionOf c.entry ∉ (s.context x.ctx.toNat).zeroing →
      exec (.hbmFree q) s = .next (s.finish q.toNat c 0 0)) ∧
    (∀ c : BitVec 12, (∀ z ∈ (s.context c.toNat).zeroing, s.mayDrill z.core.val = true) →
      ∃ t, exec (.hbmZeroingDone (.context c)) s = .next t ∧ (t.context c.toNat).zeroing = [] ∧
      (t.context c.toNat).regions = (s.context c.toNat).regions ∧
      ∀ n u, t.unit n u = if (s.context c.toNat).zeroing.any (fun r =>
        decide (s.physSlice r.core.val * 41943040 + r.base / 512 ≤ s.physSlice n * 41943040 + u) &&
        decide (s.physSlice n * 41943040 + u < s.physSlice r.core.val * 41943040 + (r.base + r.len + 511) / 512)) then 0 else s.unit n u) ∧
    (∀ b : Fin 64, (s.bundle b.val).state = .zeroing → ∃ t, exec (.hbmZeroingDone (.bundle b)) s = .next t ∧
      t.bundle b.val = { bundleDefault 0 with pinned := (s.bundle b.val).pinned, refused := (s.bundle b.val).refused } ∧
      ∀ n u, t.unit n u = if (s.bundle b.val).extents.any (fun x =>
        decide (s.physSlice x.1.val * 41943040 + x.2.1 / 512 ≤ s.physSlice n * 41943040 + u) &&
        decide (s.physSlice n * 41943040 + u < s.physSlice x.1.val * 41943040 + (x.2.1 + x.2.2 + 511) / 512)) then 0 else s.unit n u)

/-! ## Tasks, programs and jobs (R158, R175, R287, R315, R334, R335, R349, R357-R361) -/

/-- TASK_CREATE, TASK_KILL and PROG_LOAD (R147, R175, R349, R357, R361): a created task holds its cores; a killed task's job is over,
its cores' sequencers are as at reset, nothing is in flight, and the task goes when its scratchpad is zeroed; an image that
passes its checks fills the bank, and a load into the executing bank is refused and reported. -/
def Obligations.TaskCommands : Prop :=
  ∀ (s : State) (q : BitVec 20) (x : Queue) (f : Fetched),
    let e := f.entry
    let s1 := s.begun q x f
    let tid := leAt e 8 1
    (reservedBad e = none → s.front q 0x18 x f → tid < 64 → s.task tid = none →
      leAt e 9 1 ∈ [0, 16, 32] → leAt e 0xA 1 ∈ [32, 48, 64] → leAt e 9 1 + leAt e 0xA 1 ≤ s.presented →
      let tk : Task := { ctx := x.ctx, base := leAt e 9 1, cores := leAt e 0xA 1, job := none }
      ((∀ n ∈ tk.coreList, (s.core n).task = none) → ∃ t, exec (.taskCreate q) s = .next t ∧ t.task tid = some tk ∧
        (∀ y, y ≠ tid → t.task y = s.task y) ∧ (∀ n ∈ tk.coreList, (t.core n).task.map (·.val) = some tid) ∧
        (∀ n, n ∉ tk.coreList → t.core n = s.core n)) ∧
      ((∃ n ∈ tk.coreList, (s.core n).task ≠ none) → exec (.taskCreate q) s = .next (s1.finish q.toNat f.begun 6 4))) ∧
    (∀ c tk, s.underWay q 0x18 x c → s.task (leAt c.entry 8 1) = some tk →
      (∀ n ∈ tk.coreList, ∀ p, s.hostOf n = some p → (s.pcore p).waking = false) →
      exec (.taskCreate q) s = .next (s.finish q.toNat c 0 0)) ∧
    (reservedBad e = none → s.front q 0x19 x f → tid < 64 →
      (∀ tk, s.task tid = some tk → tk.ctx = x.ctx → ∃ t, exec (.taskKill q) s = .next t ∧
        t.task tid = some { tk with job := none } ∧
        ∀ n ∈ tk.coreList, (t.core n).seq = Seq.reset ∧ (t.core n).inflight = [] ∧ (t.core n).task = (s.core n).task) ∧
      (∀ tk, s.task tid = some tk → tk.ctx ≠ x.ctx → exec (.taskKill q) s = .next (s1.finish q.toNat f.begun 5 0)) ∧
      (s.task tid = none → exec (.taskKill q) s = .next (s1.finish q.toNat f.begun 10 0))) ∧
    (∀ c tk, s.underWay q 0x19 x c → s.task (leAt c.entry 8 1) = some tk → (∀ n ∈ tk.coreList, (s.core n).zeroing = false) →
      exec (.taskKill q) s = .next ((s.freeTask (leAt c.entry 8 1)).finish q.toNat c 0 0)) ∧
    (∀ image tk, reservedBad e = none → s.front q 0x20 x f → tid < 64 → s.task tid = some tk → tk.ctx = x.ctx →
      leAt e 9 1 < tk.cores → leAt e 0xA 1 < 2 → leAt e 0x10 8 % 512 = 0 →
      let n := tk.base + leAt e 9 1
      let b := (s.core n).seq.bankOf (leAt e 0xA 1)
      (b.state ≠ .executing → exec (.progLoad q image) s = .next (s1.modSeq n (fun z => z.setBankOf (leAt e 0xA 1) { b with state := .loading }))) ∧
      (b.state = .executing → n < 64 → ∃ t, exec (.progLoad q image) s = .next t ∧
        t.reported (corePage n kSEQ) 8 = true ∧ ∀ m, t.core m = s.core m)) ∧
    (∀ c tk b, s.underWay q 0x20 x c → s.task (leAt c.entry 8 1) = some tk → b.length = leAt c.entry 0x18 4 → 4 ≤ b.length →
      let n := tk.base + leAt c.entry 9 1
      (leAt b (b.length - 4) 4 = crc32c (b.take (b.length - 4)) → headerOk b (leAt c.entry 9 1) = true → tk.job = none →
        ∃ t, exec (.progLoad q (some b)) s = .next t ∧ t = (s.modCore n (fun k => k.loadImage (leAt c.entry 0xA 1) b true)).finish q.toNat c 0 0 ∧
          let y := (t.core n).seq.bankOf (leAt c.entry 0xA 1)
          y.state = .valid ∧ y.header = some (headerOf b) ∧ y.image = b ∧ (t.core n).seq.g = (s.core n).seq.g ∧
          ∀ m, m ≠ n → t.core m = s.core m) ∧
      (leAt b (b.length - 4) 4 ≠ crc32c (b.take (b.length - 4)) → exec (.progLoad q (some b)) s =
        .next ((s.modSeq n (fun z => z.setBankOf (leAt c.entry 0xA 1) ProgBank.reset)).finish q.toNat c 12 0)))

/-- LAUNCH and RESUME (R158, R335, R359): a launch that no refusal code applies to makes the job, and each of its cores runs the launch
bank from command 0 with its registers 0, its scratchpad rows as they were and nothing in flight; a refused one names its
code. RESUME lets a pre-empted job go on, or restores each core from its newest image. Both complete when a command issues. -/
def Obligations.JobCommands : Prop :=
  ∀ (s : State) (q : BitVec 20) (x : Queue) (f : Fetched) (tk : Task) (inputs : Option (List Byte)),
    let e := f.entry
    let s1 := s.begun q x f
    let tid := leAt e 8 1
    let bank := leAt e 9 1
    (reservedBad e = none → tid < 64 → bank < 2 → s.task tid = some tk → tk.ctx = x.ctx →
      (∀ l, s.front q 0x21 x f → (leAt e 0xA 1 = 0xFF ∨ leAt e 0xA 1 < 64) → leAt e 0xB 1 ≤ 16 →
        supplied inputs (16 * leAt e 0xB 1) = some (some l) →
        (∀ code, s.launchRefusal tk bank (leAt e 0xA 1) = some code → code ≠ 1 →
          exec (.jobLaunch q inputs) s = .next (s1.finish q.toNat f.begun 8 (0x100 + code))) ∧
        (s.launchRefusal tk bank (leAt e 0xA 1) = some 1 → ∃ t, exec (.jobLaunch q inputs) s = .next t ∧
          t.reported pDEV eLAUNCH_MODE = true ∧ t.task tid = some tk ∧ ∀ n, t.core n = s.core n) ∧
        (∀ h, s.launchRefusal tk bank (leAt e 0xA 1) = none → s.launchHeader tk bank = some h →
          (∀ n ∈ tk.coreList, ((s.core n).seq.bankOf bank).header.isSome = true) →
          (h.traverse = true → leAt e 0xC 2 ≠ 0) → s.regionListOk l = true → s.regionsOwned x.ctx.toNat l = true →
          ∃ t, exec (.jobLaunch q inputs) s = .next t ∧ t.task tid = some { tk with job := some (s.newJob e tk h l) } ∧
            (∀ n, n ∉ tk.coreList → t.core n = s.core n) ∧
            ∀ n ∈ tk.coreList, (t.core n).seq.run = .running ∧ (t.core n).seq.bank = (bank == 1) ∧ (t.core n).seq.pc = 0 ∧
              (t.core n).seq.loops = [] ∧ (∀ i, (t.core n).seq.reg i = 0) ∧ (t.core n).inflight = [] ∧
              (t.core n).spm.rows = (s.core n).spm.rows ∧ ((t.core n).seq.bankOf bank).state = .executing ∧
              ((t.core n).seq.bankOf bank).cmds = ((s.core n).seq.bankOf bank).cmds)) ∧
      (∀ j, s.front q 0x23 x f → bank = 0 → tk.job = some j → j.hold = .preempted → ∃ t, exec (.resume q) s = .next t ∧
        t.task tid = some { tk with job := some { j with hold := .running, tasked := false } } ∧ (∀ n, t.core n = s.core n) ∧
        t.lift.state = (if j.lift = true ∧ s.lift.state = .quiescent then .formed else s.lift.state)) ∧
      (s.front q 0x23 x f → bank = 1 →
        let xs := tk.coreList.filterMap (fun n => (s.images n).head?.map (fun y => (n, y)))
        (xs.length ≠ tk.cores → exec (.resume q) s = .next (s1.finish q.toNat f.begun 10 0)) ∧
        (∀ code, xs.length = tk.cores → s.resumeRefusal tk xs = some code →
          exec (.resume q) s = .next (s1.finish q.toNat f.begun 8 (0x100 + code))) ∧
        (xs.length = tk.cores → s.resumeRefusal tk xs = none → ∃ t, exec (.resume q) s = .next t ∧
          (∀ y ∈ xs, t.core y.1 = (s.core y.1).restore y.2) ∧ ∀ n, n ∉ tk.coreList → t.core n = s.core n))) ∧
    (∀ c, s.underWay q 0x21 x c → s.jobIssued (leAt c.entry 8 1) = true → exec (.jobLaunch q inputs) s = .next (s.finish q.toNat c 0 0)) ∧
    (∀ c, s.underWay q 0x23 x c → s.jobIssued (leAt c.entry 8 1) = true → exec (.resume q) s = .next (s.finish q.toNat c 0 0))

/-- PREEMPT, SAVE, SAVE_IMAGE_WRITE, SAVE_EXPORT, SAVE_IMPORT, BATCH and PROVENANCE (R287, R311, R315, R333, R334, R357): a job asked to
stop keeps its task and its cores' state; the images of a save hold every core as it stands at its boundary; an image and a
provenance record go to host memory whole; the batches submitted are numbered on. -/
def Obligations.HoldCommands : Prop :=
  ∀ (s : State) (q : BitVec 20) (x : Queue) (f : Fetched) (tk : Task) (j : Job),
    let e := f.entry
    let s1 := s.begun q x f
    let tid := leAt e 8 1
    (reservedBad e = none → tid < 64 → s.task tid = some tk → tk.ctx = x.ctx →
      (tk.job = some j → s.swapHolds tid = false →
        (s.front q 0x22 x f → j.hold ≠ .preempted → ∃ t, exec (.preempt q) s = .next t ∧
          t.task tid = some { tk with job := some { j with hold := .preempting } } ∧ ∀ n, t.core n = s.core n) ∧
        (∀ regions l, s.front q 0x24 x f → leAt e 9 1 ≤ 16 → supplied regions (16 * leAt e 9 1) = some (some l) →
          s.regionListOk l = true → s.regionsOwned x.ctx.toNat l = true → ∃ t, exec (.save q regions) s = .next t ∧
          t.task tid = some { tk with job := some { j with
            saveRegions := l, hold := if j.hold = .preempted then .saveHeld else .saving } } ∧ ∀ n, t.core n = s.core n) ∧
        (∀ b, s.front q 0x27 x f → j.bundle = some b → leAt e 0xA 2 ≠ 0 →
          (s.bundle b.val).state ∈ [.verified, .armed, .swapping] → ∃ t, exec (.batch q) s = .next t ∧
          t = (s1.submit tid b.val (leAt e 0xA 2)).finish q.toNat f.begun 0 0 ∧
          (t.task tid).bind (fun y => y.job.map (·.batches)) = some (j.batches + leAt e 0xA 2))) ∧
      (∀ y, s.front q 0x25 x f → leAt e 9 1 < tk.cores → leAt e 0xA 1 < 2 → (s.images (tk.base + leAt e 9 1))[leAt e 0xA 1]? = some y →
        (Config.saveImageBytes y).length ≤ leAt e 0x18 4 → exec (.saveExport q true) s =
          .next ((s1.emit (.dmaWrite (BitVec.ofNat 64 (leAt e 0x10 8)) (Config.saveImageBytes y))).finish q.toNat f.begun 0 0)) ∧
      (∀ image b, s.front q 0x26 x f → leAt e 9 1 < tk.cores → tk.job = none → supplied image (leAt e 0x18 4) = some (some b) →
        exec (.saveImport q image) s = .next ((s1.saveCore (tk.base + leAt e 9 1)
          ((Config.saveImageOf b).getD badImage)).finish q.toNat f.begun 0 0))) ∧
    (∀ r sig, reservedBad e = none → s.front q 0x28 x f → s.host.records.find? (fun r => r.job.toNat == leAt e 8 8) = some r →
      r.sig = some sig → exec (.provenance q true) s =
        .next ((s1.emit (.dmaWrite (BitVec.ofNat 64 (leAt e 0x10 8)) (r.body ++ sig))).finish q.toNat f.begun 0 0)) ∧
    (∀ c, s.underWay q 0x22 x c → s.allStopped (leAt c.entry 8 1) = true → exec (.preempt q) s =
      .next ((s.modJob (leAt c.entry 8 1) (fun j => { j with hold := .preempted })).finish q.toNat c 0 0)) ∧
    (∀ regions c, s.underWay q 0x24 x c → s.task (leAt c.entry 8 1) = some tk → tk.job = some j → j.hold ≠ .saving → j.hold ≠ .saveHeld →
      exec (.save q regions) s = .next (s.finish q.toNat c 0 0)) ∧
    (∀ y : Fin 64, s.phase = .ready → s.task y.val = some tk → tk.job = some j → (j.hold = .saving ∨ j.hold = .saveHeld) →
      s.jobSwaps j = false → s.allStopped y.val = true → ∃ t, exec (.saveImageWrite y) s = .next t ∧ t.saveNo = s.saveNo + 1 ∧
        (∀ n ∈ tk.coreList, s.imageOf tk j (s.saveNo + 1) n ∈ t.images n) ∧ (∀ n, t.core n = s.core n) ∧
        t.task y.val = some { tk with job := some { j with
          saveRegions := [], hold := if j.hold = .saveHeld then .preempted else .running } })

/-! ## Model bundles (R295-R316) -/

/-- BUNDLE_LOAD into an empty slot whose checks pass places the extents and segments and is loading; one that fails a check
is refused and remembered; a busy slot refuses (R299, R300, R309). SEG_DONE hands a segment to hashing and completes when it
has been hashed; segments are hashed in their order of arrival (R302). A segment whose digest agrees is verified, and with the last one the bundle is; any other is loading
again (R304). EVICT zeroes an evictable slot and refuses a loaded one that is not evictable (R308, R309); PIN, RESIDENCY
and, on a part in no lift, SWAP act on their slot alone (R307, R310, R312). -/
def Obligations.BundleCommands : Prop :=
  ∀ (s : State) (q : BitVec 20) (x : Queue) (f : Fetched) (m d : List Byte),
    let e := f.entry
    let s1 := s.begun q x f
    let b := leAt e 8 1
    let y := s.bundle b
    let fields := leAt e 9 1 < 2 ∧ leAt e 0xA 1 < 2 ∧ leAt e 0xC 2 < 32768
    let good := m.length = leAt e 0x18 4 ∧ s.manifestErr m = none ∧ s.directoryErr m d = none
    let segs := (List.range (leAt d 6 2)).map (dirEntry d)
    (reservedBad e = none → b < 64 →
      (s.front q 0x30 x f → fields → y.state ∉ [.empty, .zeroing] → exec (.bundleLoad q (some m) (some d)) s =
        .next (s1.finish q.toNat f.begun 8 11)) ∧
      (∀ code, s.front q 0x30 x f → fields → y.state = .empty → m.length = leAt e 0x18 4 → s.manifestErr m = some code →
        s.sliceTested (some d) = false →
        ∃ t, exec (.bundleLoad q (some m) (some d)) s = .next t ∧ t.bundle b = { y with refused := some (ringCmdOf e m) } ∧
          ∀ i, i ≠ b → t.bundle i = s.bundle i) ∧
      (∀ xs, s.front q 0x30 x f → fields → y.state = .empty → y.extents = [] → good → s.placement segs = some xs →
        s.sliceTested (some d) = false → ∃ t, exec (.bundleLoad q (some m) (some d)) s = .next t ∧ (∀ i, i ≠ b → t.bundle i = s.bundle i) ∧
          t.loadOrder = s.loadOrder + 1 ∧ (t.bundle b).state = .loading ∧ (t.bundle b).extents = xs ∧
          (t.bundle b).man = manifestOf m ∧ (t.bundle b).order = s.loadOrder + 1 ∧ (t.bundle b).pinned = y.pinned ∧
          (t.bundle b).dir = d ∧
          (t.bundle b).segs = placeSegs segs (fun n => ((xs.find? (fun z => z.1.val == n)).map (·.2.1)).getD 0)) ∧
      (∀ g, s.front q 0x31 x f → y.live[leAt e 0xA 2]? = some g → (y.delivers g = true → exec (.segDone q) s =
          .next ({ s1 with hashQ := s1.hashQ ++ [(b, leAt e 0xA 2)] }.modBundle b (fun z =>
            z.setSeg (leAt e 0xA 2) { g with state := .hashing, again := false }))) ∧
        (y.delivers g = false → exec (.segDone q) s = .next (s1.finish q.toNat f.begun 10 0))) ∧
      (s.front q 0x33 x f →
        (s.evictable b = true → ∃ t, exec (.evict q) s = .next t ∧ (t.bundle b).state = .zeroing ∧ (t.bundle b).extents = y.extents ∧
          ∀ i, i ≠ b → t.bundle i = s.bundle i) ∧
        (y.state = .empty → exec (.evict q) s = .next (s1.finish q.toNat f.begun 0 0)) ∧
        (y.state ∈ [.verified, .armed, .swapping] → s.evictable b = false → exec (.evict q) s = .next (s1.finish q.toNat f.begun 8 11))) ∧
      (s.front q 0x34 x f → leAt e 9 1 < 2 → exec (.pin q) s =
        .next ((s1.modBundle b (fun z => { z with pinned := leAt e 9 1 == 1 })).finish q.toNat f.begun 0 0)) ∧
      (s.front q 0x35 x f → exec (.residency q true) s =
        .next ((s1.emit (.dmaWrite (BitVec.ofNat 64 (leAt e 0x10 8)) (y.entry b))).finish q.toNat f.begun 0 0)) ∧
      (s.front q 0x32 x f → fields →
        (y.state ∉ [.verified, .armed] ∨ y.newMan ≠ none → ∃ t, exec (.swap q (some m) (some d)) s = .next t ∧
          t = s1.finish q.toNat f.begun 8 11 ∧ t.bundles = s.bundles) ∧
        (∀ ps, y.state ∈ [.verified, .armed] → y.newMan = none → good → s.newPlaces b (manifestOf m) segs = some ps →
          s.admitted b (leAt e 0x28 4) = false → s.lift.isFormed = false → ∃ t, exec (.swap q (some m) (some d)) s = .next t ∧
            t.bundle b = { y with state := .swapping, newMan := some (manifestOf m), newSegs := ps, firstNew := leAt e 0x28 4,
                                  front := 0, opened := false, ready := true, refused := none, released := false,
                                  newDir := d, peer := peerOf e, timeout := timeoutOf e } ∧
            ∀ i, i ≠ b → t.bundle i = s.bundle i))) ∧
    (∀ c g, s.underWay q 0x31 x c → (s.bundle (leAt c.entry 8 1)).live[leAt c.entry 0xA 2]? = some g → g.state ≠ .hashing →
      exec (.segDone q) s = .next (s.finish q.toNat c 0 0)) ∧
    (∀ c, s.underWay q 0x33 x c → (s.bundle (leAt c.entry 8 1)).state ≠ .zeroing → exec (.evict q) s = .next (s.finish q.toNat c 0 0)) ∧
    (∀ (w : Fin 64) (i : Nat) (g : Segment), s.phase = .ready → (s.bundle w.val).live[i]? = some g → g.state = .hashing →
      s.hashQ.head? = some (w.val, i) →
      (sha3x512 (s.segBytes g) = g.digest → ∃ t, exec (.segmentHashed w i) s = .next t ∧
        (t.bundle w.val).live = (s.bundle w.val).live.set i { g with state := .verified } ∧
        (t.bundle w.val).state = (if (s.bundle w.val).state = .loading ∧
          ((s.bundle w.val).live.set i { g with state := .verified }).all (fun g => g.state == .verified) = true
          then .verified else (s.bundle w.val).state)) ∧
      (sha3x512 (s.segBytes g) ≠ g.digest → ∃ t, exec (.segmentHashed w i) s = .next t ∧ t.hashQ = s.hashQ.tail ∧
        (t.bundle w.val).live = (s.bundle w.val).live.set i { g with state := .loading, again := true } ∧
        (t.bundle w.val).state = (s.bundle w.val).state))

/-- The residency ring and the layer slots (R304-R306, R312-R314): a station forwards a circuit with its bits; station 0
turns a circuit that every station is ready for into its release, and one that is refused into a cancel, once; a release arms a
verified bundle or commits a swap; a station that sees none cancels on its own; a load that times out is zeroed, and a swap
that does faults the jobs that read the bundle; a layer slot opens once every reader has passed it, moves on when it is
verified, and after the last one the bundle is the new one. -/
def Obligations.BundleEvents : Prop :=
  ∀ (s : State) (w : Fin 64) (x : LiftFrame) (f : ResRing), s.phase = .ready →
    let y := s.bundle w.val
    let v := s.bundle f.slot.val
    let ended := fun (g : ResRing) => (s.modBundle f.slot.val (fun b => { b with released := true })).sendMsg .up (.residency g)
    (s.lift.isFormed = true → s.hears .down x 2 = true → ringOf x.data = some f →
      (s.liftPos ≠ 0 → f.releaseBit = false → ∃ t, exec (.residencyRing x) s = .next t ∧
        t.sentMsg .up (.residency (s.stampRing f)) ∧ ∀ i, (t.bundle i).state = (s.bundle i).state) ∧
      (f.op = 1 → f.releaseBit = true → v.state = .verified → v.man.digest = f.digest →
        ∃ t, exec (.residencyRing x) s = .next t ∧ t.bundle f.slot.val = { v with state := .armed, refused := none } ∧
          (s.liftPos ≠ 0 → t.sentMsg .up (.residency f))) ∧
      (f.op = 2 → f.releaseBit = true → s.ringReady f = true → v.state ≠ .swapping →
        ∃ t, exec (.residencyRing x) s = .next t ∧
          t.bundle f.slot.val = { v with state := .swapping, front := 0, opened := false, ready := true }) ∧
      (s.liftPos = 0 → f.releaseBit = false → v.released = false → f.refuse ≠ 0 →
        exec (.residencyRing x) s = .next (ended { f with op := 3, releaseBit := true })) ∧
      (s.liftPos = 0 → f.releaseBit = false → v.released = false → f.refuse = 0 → (∀ p < s.liftLen, f.ready.getLsbD p = true) →
        exec (.residencyRing x) s = .next (ended { f with releaseBit := true })) ∧
      (s.liftPos = 0 → f.releaseBit = false → v.released = true → exec (.residencyRing x) s = .next s)) ∧
    (∀ op, s.lift.isFormed = true → s.liftPos = 0 → 1 < s.liftLen → y.released = false → s.ringOp w.val = some op →
      ∃ t g, exec (.residencyRingRepeat w) s = .next t ∧ t.sentMsg .up (.residency g) ∧ g.op.toNat = op % 4 ∧ g.slot = w ∧
        g.releaseBit = false ∧ t.bundles = s.bundles) ∧
    (y.released = true → exec (.residencyRingRepeat w) s = .next s) ∧
    (s.lift.isFormed = true → 1 < s.liftLen →
      (s.ringOp w.val = some 1 → y.state = .verified → ∃ t, exec (.ringTimeout w) s = .next t ∧
        t.bundle w.val = y.refuse 1) ∧
      (s.ringOp w.val = some 2 → ∃ t, exec (.ringTimeout w) s = .next t ∧ (t.bundle w.val).newMan = none ∧
        (t.bundle w.val).state = y.state ∧ (t.bundle w.val).segs = y.segs)) ∧
    (y.state = .loading → ∃ t, exec (.loadTimeout w) s = .next t ∧ (t.bundle w.val).state = .zeroing ∧
      (t.bundle w.val).extents = y.extents) ∧
    (y.state = .swapping → y.opened = true → y.ready = true → (∃ g ∈ y.newSegs, g.slot = y.front ∧ g.state ≠ .verified) →
      ∃ t, exec (.loadTimeout w) s = .next t ∧ (t.bundle w.val).ready = false ∧ (t.bundle w.val).state = .swapping ∧
        ∀ (i : Fin 64) tk j, t.task i.val = some tk → tk.job = some j → j.bundle = some w → j.fault.isSome = true) ∧
    (y.state = .swapping → y.opened = false → y.front < y.man.layers → s.passed w.val y.front = true →
      ∃ t, exec (.slotOpen w) s = .next t ∧ t.bundle w.val = { y with opened := true } ∧ ∀ n, t.core n = s.core n) ∧
    (y.state = .swapping → y.opened = true → (∀ g ∈ y.newSegs, g.slot = y.front → g.state = .verified) →
      (y.front + 1 ≠ y.man.layers → ∃ t, exec (.slotVerified w) s = .next t ∧
        t.bundle w.val = { y with front := y.front + 1, opened := false }) ∧
      (y.front + 1 = y.man.layers → ∃ t, exec (.slotVerified w) s = .next t ∧
        (t.bundle w.val).state = (if y.ready then .armed else .verified) ∧ (t.bundle w.val).segs = y.newSegs ∧
        (t.bundle w.val).man = y.newMan.getD y.man ∧ (t.bundle w.val).newMan = none))

/-! ## The window, the host's side and BAR0 (R7-R9, R341-R347, R366, R412, R423, R451, R455-R461, R465, R482) -/

/-- The window holds the presented cores' slices, 20 GiB for each: offset o is logical core o div 0x5_0000_0000, at slice byte
address o mod 0x5_0000_0000. A read and a performed write there meet exactly those bytes, whatever pcore hosts the core
(R344). -/
def Obligations.WindowMapping : Prop :=
  ∀ (s : State) (o : Nat), s.phase = .ready → o % 64 = 0 →
    let n := o / 0x500000000
    let a := o % 0x500000000
    (s.inWindow o = true ↔ o < s.presented * 0x500000000) ∧
    (s.presented = 64 → s.presented * 0x500000000 = 1280 * 2 ^ 30) ∧ (s.presented = 48 → s.presented * 0x500000000 = 960 * 2 ^ 30) ∧
    (s.presented = 32 → s.presented * 0x500000000 = 640 * 2 ^ 30) ∧
    (o < s.presented * 0x500000000 → (s.winTarget n a).reads = true → (s.core n).str.asleep = false →
      ∀ (place : SMap (Option Nat)) (pcores : SMap Pcore), ∃ t, exec (.windowRead o) { s with place := place, pcores := pcores } = .next t ∧
        ∀ i < 64, t.host.readData.extractLsb' (8 * i) 8 = (s.unit n ((a + i) / 512)).extractLsb' (8 * ((a + i) % 512)) 8) ∧
    (∀ i w, s.host.winBuf[i]? = some w → w.offset = o → o < s.presented * 0x500000000 → (s.winTarget n a).discard = none →
      (s.core n).str.asleep = false →
      ∀ (place : SMap (Option Nat)) (pcores : SMap Pcore), ∃ t, exec (.windowWritePerform i) { s with place := place, pcores := pcores } = .next t ∧
        (∀ j < 64, (t.unit n ((a + j) / 512)).extractLsb' (8 * ((a + j) % 512)) 8 =
          if bit w.enable j then w.data.extractLsb' (8 * j) 8 else (s.unit n ((a + j) / 512)).extractLsb' (8 * ((a + j) % 512)) 8) ∧
        ∀ b < 512, (b < a % 512 ∨ a % 512 + 64 ≤ b) →
          (t.unit n (a / 512)).extractLsb' (8 * b) 8 = (s.unit n (a / 512)).extractLsb' (8 * b) 8) ∧
    37 * 0x500000000 + 0x40001400 = 0xB940001400 ∧ 0xB940001400 / 0x500000000 = 37 ∧ 0xB940001400 % 0x500000000 = 0x40001400

/-- Window accesses (R345, R346): a read of anything but a region or an extent returns 0; a write completes into the buffer in
order; a discarded one is counted and reported and leaves every slice; a performed one changes no other unit. -/
def Obligations.WindowAccess : Prop :=
  ∀ (s : State) (o : Nat),
    let n := o / 0x500000000
    let a := o % 0x500000000
    (s.inWindow o = true → (s.winTarget n a).reads = false → ∃ t, exec (.windowRead o) s = .next t ∧ t.host.readData = 0 ∧
      t.slices = s.slices ∧ t.counter pHOST 0x118 = s.counter pHOST 0x118 + 64) ∧
    (∀ d e, s.inWindow o = true → ∃ t, exec (.windowWrite o d e) s = .next t ∧ t = { s with host := t.host } ∧
      t.host.winBuf = s.host.winBuf ++ [{ number := s.host.winCount, offset := o, data := d, enable := e }] ∧
      t.host.winCount = s.host.winCount + 1) ∧
    (∀ i w, s.phase = .ready → s.host.winBuf[i]? = some w → w.offset = o →
      (∀ d, (s.winTarget n a).discard = some d → ∃ t, exec (.windowWritePerform i) s = .next t ∧ t.reported pHOST 3 = true ∧
        t.slices = s.slices ∧ t.host.winBuf = s.host.winBuf.eraseIdx i ∧ t.counter pHOST 0x128 = s.counter pHOST 0x128 + 1) ∧
      ((s.winTarget n a).discard = none → (s.core n).str.asleep = false → ∃ t, exec (.windowWritePerform i) s = .next t ∧
        t.host.winBuf = s.host.winBuf.eraseIdx i ∧
        (∀ m u, s.physSlice m * 41943040 + u ≠ s.physSlice n * 41943040 + a / 512 → t.unit m u = s.unit m u) ∧
        t.counter pHOST 0x120 = s.counter pHOST 0x120 + BitVec.ofNat 64 (popcount w.enable)))

/-- Function-level reset, CXL reset and the loss of the link reset the host's side (R342, R347, R462); a link trained below x16 or
128 GT/s is reported; the bus-master bit and the masks of the vectors act as R366 gives them. -/
def Obligations.HostSideEvents : Prop :=
  ∀ (s : State),
    let gone := fun (t : State) => (∀ q, t.queue q = if q = 0 then some queueReset else none) ∧ (∀ r, r ≠ 0 → t.ring r = none) ∧
      (∀ c, c ≠ 0 → (t.context c).live = false) ∧ bit (t.reg pHOST 0x40) 0 = false ∧
      ∀ (y : Fin 64) tk, t.task y.val = some tk → (s.context tk.ctx.toNat).live = false
    (s.phase = .ready → ∀ c ∈ [Instr.functionLevelReset, .cxlReset], ∃ t, exec c s = .next t ∧ gone t ∧ t.host.backlog = [] ∧
      t.reg pHOST 0x44 = s.reg pHOST 0x44 ∧ t.reg pDEV 0x44 = 0 ∧ t.counter pDEV 0x120 = s.counter pDEV 0x120 + 1 ∧
      t.slices = s.slices ∧ t.phase = .ready) ∧
    (s.phase = .ready → bits (s.reg pHOST 0x44) 1 0 ≠ 0 → ∃ t, exec .hostLinkDown s = .next t ∧ gone t ∧ t.reg pHOST 0x44 = 0 ∧
      t.reported pHOST 5 = true) ∧
    (∀ w (v : BitVec 4), s.phase = .ready → w ∈ [4, 8, 16] → 1 ≤ v.toNat → v.toNat ≤ 3 → ∃ t, exec (.hostLinkTrained w v) s = .next t ∧
      t.reg pHOST 0x44 = word (w * 256 + v.toNat * 16 + 2) ∧
      (w = 16 → v = 3 → t = s.setReg pHOST 0x44 (word (w * 256 + v.toNat * 16 + 2))) ∧
      (w ≠ 16 ∨ v ≠ 3 → t.reported pHOST 6 = true)) ∧
    exec .busMasterDisable s = .next (s.modHost (fun h => { h with busMaster := false })) ∧
    exec .busMasterEnable s = .next (s.modHost (fun h => { h with busMaster := true })) ∧
    (∀ v : Fin 2048, s.host.fnMask = false → ∃ t, exec (.vectorUnmask (some v)) s = .next t ∧
      t.host.vecMask.get (fun _ => true) v.val = false ∧ v.val ∉ t.host.pba ∧ (v.val ∈ s.host.pba → Out.msix v.val ∈ t.outbox)) ∧
    (∃ t, exec (.vectorUnmask none) s = .next t ∧ t.host.fnMask = false ∧
      ∀ v ∈ s.host.pba, s.host.vecMask.get (fun _ => true) v = false → Out.msix v ∈ t.outbox ∧ v ∉ t.host.pba)

/-- Accesses to BAR0 (R7, R9, R320, R456-R461, R465): a read returns the register, and of the low word of a counter latches the
high word; a write changes exactly the writable bits, and one of a read-only register nothing; PAGE_ERR clears the bits
written 1; SNAP, CLEAR and LIVE act on their page alone; an access of the wrong size is reported. -/
def Obligations.RegisterAccess : Prop :=
  ∀ (s : State) (p off : Nat) (v : Word),
    (s.canAccess p = true → off % 4 = 0 → off < 4096 → p < 16384 → ∃ t, exec (.counterLowRead p off) s = .next t ∧
      t.host.readData = (s.readReg p off).setWidth 512 ∧ (∀ q o, t.reg q o = s.reg q o) ∧ (∀ q o, t.counter q o = s.counter q o) ∧
      ∀ b i, s.pageThere p = true → pageBlk p = some (b, i) → b.isPair off = true → b.isCounter off = true →
        (t.page p).latch.get wordZero off = ((s.readCounter p off) >>> 32).setWidth 32) ∧
    (s.canAccess p = true → s.pageThere p = true →
      (∃ t, exec (.pageCtlSnap p) s = .next t ∧ (t.page p).snapped = true ∧ (∀ o, t.counter p o = s.counter p o) ∧
        (∀ o, p ≠ pTIM → t.readCounter p o = s.counter p o) ∧ ∀ q, q ≠ p → t.page q = s.page q) ∧
      (∀ b i, pageBlk p = some (b, i) → ∃ t, exec (.pageCtlClear p) s = .next t ∧
        (∀ o, t.counter p o = if b.fromReset o then 0 else s.counter p o) ∧ ∀ q, q ≠ p → t.page q = s.page q) ∧
      (∃ t, exec (.pageCtlLive p) s = .next t ∧ t.page p = { s.page p with snapped := false } ∧ ∀ q, q ≠ p → t.page q = s.page q) ∧
      (∃ t, exec (.pageErrWrite p v) s = .next t ∧ t.page p = { s.page p with err := (s.page p).err &&& ~~~v } ∧
        ∀ q, q ≠ p → t.page q = s.page q)) ∧
    (∀ w, s.readyPin = true → off < 0x4000000 → ∃ t, exec (.badAccess off w) s = .next t ∧ t.reported pHOST 0 = true ∧
      t.counter pHOST 0x130 = s.counter pHOST 0x130 + 1 ∧ (w = false → t.host.readData = 0) ∧ ∀ k, t.core k = s.core k) ∧
    (∀ b i, s.canAccess p = true → p < 16384 → off % 4 = 0 → 0x20 ≤ off → off < 4096 → pageBlk p = some (b, i) → s.pageThere p = true →
      s.writeIgnored b off = false → (b ∉ [.pwr, .lft, .trv, .spm, .lfc] ∨ off ≠ 0x40) → (b ≠ .dev ∨ off ≠ 0x44) →
      exec (.registerWrite (4096 * p + off) v) s = .next (if word (b.writable off) = 0 then s else
        s.setReg p off ((s.reg p off &&& ~~~ word (b.writable off)) ||| (v &&& word (b.writable off))))) ∧
    (s.canAccess pDEV = true → ∃ t, exec (.devModeWrite v) s = .next t ∧ t.reg pDEV 0x44 = v &&& 1 ∧
      (s.anyJob = false → t = s.setReg pDEV 0x44 (v &&& 1)) ∧ (s.anyJob = true → t.reported pDEV 1 = true))

/-- Telemetry, the endpoint ID, malformed packets and a bus timeout on the management interface (R412, R449, R451), Retry
Status until READY (R423), the CDAT request (R341), and a TAP instruction, which changes nothing but the TAP and its chain:
EXTEST acts as BYPASS while PERST_N is high (R482). -/
def Obligations.Management : Prop :=
  ∀ (s : State) (x : Byte),
    (s.mgtUp = true ∨ s.phase = .tripped → exec (.pldmMonitoringRequest x) s =
      .next ((((s.count pMGT 0x100 1).count pMGT 0x108 1).count pMGT 0x110 1).emit
        (.telemetry x s.telemetry))) ∧
    (s.mgtUp = true ∨ s.phase = .recovery → ∃ t, exec (.setEndpointId x) s = .next t ∧ t.reg pMGT 0x44 = x.setWidth 32 ∧
      t = { s with pages := t.pages }) ∧
    (s.mgtBus = true → (∃ t, exec (.malformedMctpPacket x) s = .next t ∧ t.reported pMGT 0 = true) ∧
      ∃ t, exec .busTimeout s = .next t ∧ t.reported pMGT 1 = true) ∧
    (s.phase ≠ .off → s.phase ≠ .inReset → s.phase ≠ .tripped →
      exec .configurationRequest s = .next (s.emit (.configReply (!s.readyPin)))) ∧
    (s.readyPin = true → exec .cdatRequest s = .next (s.emit .cdat)) ∧
    (∀ i, ∃ t, exec (.tapInstruction i) s = .next t ∧ t = { s with tap := i, chain := t.chain, outbox := t.outbox } ∧
      (s.perstN = true → ∀ c, i = .extest c → t.chain = s.chain ∧ t.outbox = .tdo [false] :: s.outbox) ∧
      (∀ c, i = .samplePreload c → t.chain = c) ∧
      (i = .idcode → t.outbox = .tdo ((List.range 32).map (fun k => bit idcode k)) :: s.outbox))

/-! ## Reset, clocks and power (R390, R401-R410, R423-R425, R462, R467, R475, R476, R480) -/

/-- The reset pins, the boot, the loss of power and the thermal trip (R387, R390, R410, R423-R425, R475). Time and clocks
(R467, R476): an edge of the reference adds exactly 10 to the time counter and changes nothing else but counters; a lost
reference is holdover; the ports go down with their clock and train when it is back. -/
def Obligations.ResetsAndBoot : Prop :=
  (∀ (s : State),
     let held := fun (t : State) => t.phase = .inReset ∧ t.flash = s.flash ∧ t.slices = [] ∧ t.cores = [] ∧ t.host = HostSide.reset ∧
       t.toJournal = []
     let released := fun (t : State) (strap0 strap1 : Bool) => t.time = 0 ∧ t.strap0 = strap0 ∧ t.strap1 = strap1 ∧
       t.config = s.flash.inForce ∧ t.slices = [] ∧
       (t.phase = .recovery ↔ strap0 = true ∨ s.flash.ranked.any (fun c => c.2.passes (floorOf s.flash.inForce)) = false) ∧
       (t.phase ≠ .recovery → t.phase = .booting ∧
         t.fw = (s.flash.ranked.find? (fun c => c.2.passes (floorOf s.flash.inForce))).map (·.2))
     (s.porN = true → ∃ t, exec .porNFall s = .next t ∧ held t ∧ t.porN = false ∧ t.trip = false) ∧
     (s.perstN = true → s.porN = true → ∃ t, exec .perstNFall s = .next t ∧ held t ∧ t.perstN = false ∧ t.trip = s.trip) ∧
     (s.porN = false → s.perstN = true → ∃ t, exec .porNRise s = .next t ∧ t.porN = true ∧ released t s.strap0 s.strap1) ∧
     (s.porN = false → s.perstN = false → ∃ t, exec .porNRise s = .next t ∧ t.porN = true ∧ held t) ∧
     (∀ a b, s.perstN = false → s.porN = true → s.trip = false → ∃ t, exec (.perstNRise a b) s = .next t ∧ t.perstN = true ∧ released t a b) ∧
     (s.phase = .booting → s.fw.isSome = true → s.flash.factory = true → ∃ t, exec .bootComplete s = .next t ∧
       ((t.phase = .ready ∧ 32 ≤ t.presented ∧ ∀ n < t.presented, ∃ p, t.hostOf n = some p ∧ (t.pcore p).state = .hosting) ∨
         (t.phase = .halted ∧ t.presented = 0))) ∧
     (s.phase ≠ .off → ∃ t, exec .powerLoss s = .next t ∧ t.phase = .off ∧ t.porN = false ∧ t.slices = [] ∧ t.host = HostSide.reset ∧
       t.flash = { s.flash with torn := t.flash.torn }) ∧
     (s.phase ≠ .off → s.phase ≠ .inReset → s.phase ≠ .tripped → ∃ t, exec .thermtrip s = .next t ∧ t.phase = .tripped ∧
       t.trip = true ∧ (∀ d < 4, (t.die d).setpoint = 550) ∧ t.reported pPWR 4 = true)) ∧
  (∀ (s : State),
     (s.pending = [] → s.phase ≠ .off → s.phase ≠ .inReset → (s.refOk = true ∨ s.holdover = true) → ∃ t, step s = .next t ∧
       t = { s with time := s.time + 10, pages := t.pages } ∧ ∀ p, t.page p = { s.page p with counters := (t.page p).counters }) ∧
     (s.pending = [] → (s.phase = .off ∨ s.phase = .inReset) → step s = .next s) ∧
     (s.refOk = true → s.phase ≠ .off → s.phase ≠ .inReset → ∃ t, exec .refLost s = .next t ∧ t.refOk = false ∧ t.holdover = true ∧
       t.time = s.time ∧ t.reported pTIM 0 = true ∧ t.counter pTIM 0x110 = s.counter pTIM 0x110 + 1) ∧
     exec .refReturn s = .next { s with refOk := true, holdover := false } ∧
     (s.phase = .ready → (∃ t, exec (.serdesRefclkLoss true) s = .next t ∧ t.trvClk = false ∧ ∀ p, t.trvState p = 0) ∧
       (∃ t, exec (.serdesRefclkLoss false) s = .next t ∧ t.liftClk = false ∧ (∀ x, t.linkState x = 0) ∧
         (s.lift.isFormed = true → (∃ x, s.linkUp x = true) → t.liftBroken)) ∧
       (∃ t, exec (.serdesRefclkReturn true) s = .next t ∧ t.trvClk = true ∧
         ∀ p, t.trvState p = if bit (s.reg (pTRV p) 0x40) 0 && s.trvState p == 0 then 1 else s.trvState p) ∧
       (∃ t, exec (.serdesRefclkReturn false) s = .next t ∧ t.liftClk = true ∧
         ∀ x, t.linkState x = if s.forming && bit (s.reg (pLFT x) 0x40) 0 && s.linkState x == 0 then 1 else s.linkState x)))

/-- Each sample is kept, and only ever excludes more sentinels (R404); a stretch counts, is reported and raises the need by
10 mV, and ends once every detector holds MIN_PCT (R405); a learning step grows the offset by 5 mV (R406); a rail that does
not answer and one that reads back wrong are reported (R407); the cap and the thermal limit move their rates in their steps
and never below 750 (R408, R409). -/
def Obligations.MarginAndLimits : Prop :=
  ∀ (s : State) (d : Fin 4), s.phase = .ready →
    let x := s.die d.val
    (∀ ds : List DieSample, ds.length = 4 → ∃ t, exec (.marginSample ds) s = .next t ∧
      ∀ (e : Fin 4) y, ds[e.val]? = some y → (t.die e.val).hottest = y.hottest ∧ (s.die e.val).excluded <+: (t.die e.val).excluded ∧
        (t.die e.val).offset = (s.die e.val).offset ∧
        ((t.die e.val).need = (s.die e.val).need ∨ (t.die e.val).need = (s.die e.val).need + 5)) ∧
    (x.stretched = false → ∃ t, exec (.stretch d) s = .next t ∧ (t.die d.val).stretched = true ∧ t.reported pMRG 0 = true ∧
      t.counter pMRG 0x100 = s.counter pMRG 0x100 + 1 ∧ (t.die d.val).need = (if s.loopOn then x.need + 10 else x.need)) ∧
    (x.stretched = true → (s.minPct : Int) ≤ x.least → exec (.stretchEnd d) s =
      .next (s.modDie d.val (fun x => { x with stretched := false }))) ∧
    (x.stretched = true → ∃ t, exec (.marginLow d) s = .next t ∧ t.reported pMRG 1 = true ∧ t.die d.val = x) ∧
    (s.loopOn = true → bit (s.reg pMRG 0x40) 1 = true → x.stretched = false → (s.minPct : Int) + 2 ≤ x.least →
      x.offset + 5 ≤ bits (s.reg pMRG 0x4C) 15 8 → ∃ t, exec (.learnStep d) s = .next t ∧ (t.die d.val).offset = x.offset + 5 ∧
        t.counter pMRG 0x120 = s.counter pMRG 0x120 + 1) ∧
    (∃ t, exec (.avsReadback d none) s = .next t ∧ (t.die d.val).avsOk = false ∧ t.reported pMRG 3 = true ∧
      t.counter pMRG 0x118 = s.counter pMRG 0x118 + 3) ∧
    (∀ r : RailReading, ∃ t, exec (.avsReadback d (some r)) s = .next t ∧ (t.die d.val).avsOk = true ∧
      t.reg pPWR (0x400 + 8 * d.val) = word (r.tempC.toNat * 65536 + r.millivolt.toNat) ∧
      (25 < ((r.millivolt.toNat : Int) - r.onDieMv.toNat).natAbs → t.reported pMRG 4 = true)) ∧
    (∀ w o : BitVec 16, bit (s.reg pPWR 0x40) 0 = true →
      let cap := bits (s.reg pPWR 0x44) 15 0
      (cap < w.toNat → 750 < s.capRate → ∃ t, exec (.capInterval w o) s = .next t ∧ t.capRate = max 750 (s.capRate - 25) ∧
        t.thermRate = s.thermRate ∧ t.reported pPWR 0 = true) ∧
      (w.toNat ≤ cap → w.toNat * 100 < cap * 97 → ∃ t, exec (.capInterval w o) s = .next t ∧ t.capRate = min 1900 (s.capRate + 25) ∧
        t.thermRate = s.thermRate ∧ t.capMiss = 0)) ∧
    (∀ hot : List Int, hot.length = 4 →
      let limit : Int := (min 105 (bits (s.reg pPWR 0x48) 7 0) : Nat)
      ((∃ h ∈ hot, limit < h) → (∀ h ∈ hot, h < 110) → ∃ t, exec (.thermStep hot) s = .next t ∧
        t.thermRate = max 750 (s.thermRate - 50) ∧ t.capRate = s.capRate ∧ t.reported pPWR 2 = true) ∧
      ((∃ h ∈ hot, limit < h ∧ 110 ≤ h) → ∃ t, exec (.thermStep hot) s = .next t ∧ t.thermRate = 750 ∧ t.capRate = s.capRate ∧
        t.reported pPWR 2 = true ∧ t.reported pPWR 3 = true) ∧
      ((∀ h ∈ hot, h + 3 ≤ limit) → ∃ t, exec (.thermStep hot) s = .next t ∧ t.thermRate = min 1900 (s.thermRate + 25) ∧
        t.capRate = s.capRate))

/-! ## Security (R424, R425, R433-R439) -/

/-- An update goes into the copy that does not run and leaves the running one (R438); an accepted configuration record is in
force at once with SEQ one more, and a floor no lower than the one in force (R434); a refused one changes nothing; a
recovery image that passes boots (R425); a written repair record leaves the waiting list for the journal, in order, and a
full journal keeps it waiting (R435-R437). -/
def Obligations.UpdatesAndJournal : Prop :=
  ∀ (s : State) (m : List Byte),
    (s.mgtUp = true → ∃ t, exec (.firmwareUpdate m) s = .next t ∧
      (if s.runsB then t.flash.fwA else t.flash.fwB) = some (copyOf m) ∧
      (if s.runsB then t.flash.fwB else t.flash.fwA) = (if s.runsB then s.flash.fwB else s.flash.fwA) ∧ t.fw = s.fw ∧
      t.phase = s.phase ∧
      ((copyOf m).passes (floorOf s.config) = true → t.counter pMGT 0x118 = s.counter pMGT 0x118 + 1 ∧ t.outbox.head? = some (.pldm 0)) ∧
      ((copyOf m).passes (floorOf s.config) = false → t.reported pMGT 2 = true)) ∧
    (s.mgtUp = true → s.claimErr m = none → ∃ t c, exec (.configRecord m) s = .next t ∧ t.config = some c ∧
      t.flash = s.flash.putCfg c ∧ floorOf s.config ≤ c.floor.toNat ∧ leAt m 6 2 ≤ c.floor.toNat ∧ c.owner = cfgKey m ∧
      c.seq = (s.config.map (fun c => c.seq)).getD 0 + 1 ∧ t.fw = s.fw) ∧
    (∀ e, s.mgtUp = true → s.claimErr m = some e → ∃ t, exec (.configRecord m) s = .next t ∧ t.config = s.config ∧ t.flash = s.flash ∧
      t.reported pSEC 3 = true ∧ t.reported pMGT 2 = true) ∧
    (s.phase = .recovery → ((copyOf m).passes (floorOf s.config) = true → ∃ t, exec (.recoveryImage m) s = .next t ∧
        t.phase = .booting ∧ t.fw = some (copyOf m) ∧ (if t.runsB then t.flash.fwB else t.flash.fwA) = some (copyOf m)) ∧
      ((copyOf m).passes (floorOf s.config) = false → ∃ t, exec (.recoveryImage m) s = .next t ∧ t.phase = .recovery ∧ t.flash = s.flash)) ∧
    (∀ r rest, s.toJournal = r :: rest → s.phase = .ready → s.flash.helper = true → s.flash.journal.length < 1024 →
      (∃ t, exec (.journalAppend true) s = .next t ∧ t.toJournal = rest ∧ t.flash = { s.flash with journal := s.flash.journal ++ [r], torn := false } ∧
        t.counter pFLS 0x118 = s.counter pFLS 0x118 + 1) ∧
      (∃ t, exec (.journalAppend false) s = .next t ∧ t.toJournal = s.toJournal ∧ t.flash = s.flash ∧ t.reported pFLS 0 = true)) ∧
    (∀ r rest, s.toJournal = r :: rest → s.phase = .ready → s.flash.helper = true → 1024 ≤ s.flash.journal.length →
      1024 < (liveRecords s.flash.journal).length + 64 → ∀ w, ∃ t, exec (.journalAppend w) s = .next t ∧ t.toJournal = s.toJournal ∧
        t.flash = s.flash ∧ t.reported pFLS 2 = true)

/-- The responder (R430, R439): a request that comes in its order from a part with an identity is answered with its response and
moves the connection; every other one that reaches the part is answered with an error, and the connection stays. The
response codes and the error are the model's (log entry 44, PRESUMED). -/
def Obligations.SpdmAnswers : Prop :=
  ∀ (s : State) (t : Transport) (nonce : BitVec 256) (sign : Bool) (k : Byte), s.spdmReaches t = true →
    let i := transportNat t
    let at_ := s.spdmUp.get natZero i
    let counted := fun (u : State) => u.counter pSEC 0x118 = s.counter pSEC 0x118 + 1
    (s.flash.helper = true →
      (∀ r ∈ [(Instr.getVersion t, 0, 1, (0x04#8), [(0x14 : Byte)]), (.getCapabilities t, 1, 2, 0x61#8, []),
          (.negotiateAlgorithms t true true, 2, 3, 0x63#8, [])], r.2.1 ≤ at_ → ∃ u, exec r.1 s = .next u ∧ counted u ∧
        u.outbox.head? = some (.spdm t r.2.2.2.1 r.2.2.2.2) ∧ u.spdmUp.get natZero i = r.2.2.1) ∧
      (3 ≤ at_ → (∃ u, exec (.getDigests t) s = .next u ∧ counted u ∧ u.spdmUp = s.spdmUp ∧
          u.outbox.head? = some (.spdm t 0x01 (digestBytes (sha3x512 Config.certificates)))) ∧
        (∃ u, exec (.getCertificate t 0) s = .next u ∧ counted u ∧ u.spdmUp = s.spdmUp ∧
          u.outbox.head? = some (.spdm t 0x02 Config.certificates)) ∧
        (∃ u b, exec (.challenge t 0 nonce) s = .next u ∧ counted u ∧ u.outbox.head? = some (.spdm t 0x03 b) ∧
          leBytes 32 nonce.toNat <+: b) ∧
        (∀ b, s.measurement k.toNat = some b → ∃ u, exec (.getMeasurements t k sign nonce) s = .next u ∧ counted u ∧
          (sign = false → u.outbox.head? = some (.spdm t 0x60 (leBytes 1 k.toNat ++ b)))))) ∧
    (∀ r ∈ [(Instr.getCapabilities t, 1), (.negotiateAlgorithms t true true, 2), (.getDigests t, 3), (.getCertificate t k, 3),
        (.challenge t k nonce, 3), (.getMeasurements t k sign nonce, 3)], (s.flash.helper = false ∨ at_ < r.2) →
      ∃ u, exec r.1 s = .next u ∧ counted u ∧ u.outbox.head? = some (.spdm t 0x7F []) ∧ u.spdmUp = s.spdmUp)

/-! ## The whole machine -/

/-- Registers whose tables give a reset value other than 0 read it after reset, DEV_MODE reads 0, no event is reported, no job
runs and predicate p0 reads 1 (R157, R174, R320, R393, R456). -/
def Obligations.ResetValues : Prop :=
  (∀ e ∈ [(pFLT, 0x40, (0x32 : Word)), (pDEV, 0x44, 0), (pMRG, 0x44, 1600), (pPWR, 0x4C, 0x076C076C), (pNTC, 0x48, 8), (pHOST, 0x50, 6),
      (pLFC, 0x48, 0x88B5), (pLFT .up, 0x40, 0x21), (pTRV .A, 0x4C, 0xB71A), (pHBM 3, 0x44, 20), (corePage 5 kARR, 0x44, 100)],
    State.reset.reg e.1 e.2.1 = e.2.2) ∧
  (∀ p, (State.reset.page p).err = 0) ∧ (∀ t, State.reset.task t = none) ∧ State.reset.pending = [] ∧
  (∀ n, (State.reset.core n).seq.preds.getLsbD 0 = true ∧ (State.reset.core n).seq.loops = []) ∧ State.reset.lift.state = .unformed

/-- The tables of the state after reset are canonical. -/
def Obligations.ResetCanonical : Prop := State.reset.Canonical

/-- Every step keeps the tables of the state canonical. -/
def Obligations.StepKeepsCanonical : Prop :=
  ∀ (s t : State), s.Canonical → step s = .next t → t.Canonical

/-- READY, once high, falls only with a reset input, the power or a thermal trip (R391, R480). -/
def Obligations.ReadyStaysHigh : Prop :=
  ∀ (c : Instr) (s t : State), c ∉ [.porNFall, .perstNFall, .powerLoss, .thermtrip] →
    s.readyPin = true → s.presented ≠ 0 → s.porN = true → s.perstN = true → exec c s = .next t →
    t.readyPin = true ∧ t.presented ≠ 0 ∧ t.porN = true ∧ t.perstN = true

/-- A traverse header and a chair header read back as they were written, with every field at every value that its bits admit, and
a written traverse header of a TYPE and KIND that R273 assigns passes the receiver's check (R240, R272, R274). -/
def Obligations.HeaderRoundTrips : Prop :=
  (∀ (h : TrvHdr) (data : List Byte), h.type < 16 → h.kind < 4 → h.src < 32768 → h.dst < 32768 → h.core < 64 → h.phase < 256 →
    h.rows < 65536 → h.offset < 65536 → h.len < 65536 → trvHdrOf h.bytes = h ∧
      (h.type ≤ 5 → h.kind ≤ 2 → h.param.toNat < 4194304 → data.length = h.len → h.len % 512 = 0 → trvHeaderOk h.bytes data = true)) ∧
  (∀ (s : State) (x : Side) (h : ChairHdr) (i : Nat) (nak seqd : Bool) (df : BitVec 3) (a b c : BitVec 16),
    h.dir = arrivingDir x → h.origin < 128 → 1 ≤ h.rows → h.rows ≤ 256 → h.core < 64 →
    chairHdrOf x ((s.chairHead h i).bytes (linkBytes nak seqd df a b c)) = h)

/-- Loops nest at most four deep and each active loop uses a different counter: a LOOP whose END_PC is not above its index or lies
past an enclosing loop's, one inside four active loops, and one whose counter an active loop has raise LOOP_SHAPE, LOOP_DEPTH
and LOOP_REUSE, fault the job and enter nothing (R173). -/
def Obligations.LoopChecks : Prop :=
  ∀ (s : State) (n : CoreId) (w : BitVec 128), s.runs n.val 0x10 w = true →
    let q := (s.core n.val).seq
    let e := cf w 1 12 0
    let shape := e ≤ q.pc ∨ ∃ f ∈ q.loops, f.endPc < e
    let depth := 4 ≤ q.loops.length
    let reuse := ∃ f ∈ q.loops, f.lc.val = cf w 0 17 16
    ((shape ∨ depth ∨ reuse) → ∃ t b, exec (.loop n) s = .next t ∧ t.reported (corePage n.val kSEQ) b = true ∧
      ((b = 2 ∧ shape) ∨ (b = 3 ∧ depth) ∨ (b = 4 ∧ reuse)) ∧ (t.core n.val).seq.loops = q.loops ∧ (t.core n.val).seq.pc = q.pc ∧
      ∀ x tk j, s.jobOn n.val x tk j → t.jobFaulted x tk j (s.faultCode (corePage n.val kSEQ) b)) ∧
    (¬ (shape ∨ depth ∨ reuse) → ∃ t, exec (.loop n) s = .next t ∧ (t.core n.val).seq.loops.length ≤ 4 ∧
      ((q.loops.map (·.lc)).Nodup → ((t.core n.val).seq.loops.map (·.lc)).Nodup))
end

