-- ==== Sys2Proof/Laws/SMap.lean ====
section
/-!
SUPPORT. The laws of sparse maps: a read after a write, and that every operation keeps the canonical form.
-/
namespace Sys2Proof

variable {α : Type}

theorem SMap.get_insert (m : SMap α) (d : Nat → α) (k j : Nat) (v : α) :
    (m.insert k v).get d j = if j = k then v else m.get d j := by
  induction m with
  | nil => simp [SMap.insert, SMap.get]
  | cons e t ih =>
    obtain ⟨k', v'⟩ := e
    simp only [SMap.insert]
    split
    · simp [SMap.get]
    · split
      · subst_vars; simp only [SMap.get]; split <;> rfl
      · simp only [SMap.get, ih]
        split
        · subst_vars; split <;> [omega; rfl]
        · rfl

theorem SMap.get_erase (m : SMap α) (d : Nat → α) (k j : Nat) :
    (m.erase k).get d j = if j = k then d k else m.get d j := by
  induction m with
  | nil => simp only [SMap.erase, SMap.get]; split <;> simp_all
  | cons e t ih =>
    obtain ⟨k', v'⟩ := e
    simp only [SMap.erase]
    split
    · subst_vars; rw [ih]; simp only [SMap.get]; split <;> rfl
    · simp only [SMap.get, ih]
      split
      · subst_vars; split <;> [omega; rfl]
      · rfl

/-- A write, as the two operations it is made of. -/
theorem SMap.set_eq [DecidableEq α] (m : SMap α) (d : Nat → α) (k : Nat) (v : α) :
    m.set d k v = if v = d k then m.erase k else m.insert k v := by cases m <;> rfl

/-- A read after a write: the key written reads as written, every other key as before. -/
theorem SMap.get_set [DecidableEq α] (m : SMap α) (d : Nat → α) (k j : Nat) (v : α) :
    (m.set d k v).get d j = if j = k then v else m.get d j := by
  rw [SMap.set_eq]
  split
  · rename_i h; rw [SMap.get_erase, h]
  · exact SMap.get_insert ..

@[simp] theorem SMap.get_set_same [DecidableEq α] (m : SMap α) (d : Nat → α) (k : Nat) (v : α) :
    (m.set d k v).get d k = v := by simp [SMap.get_set]

theorem SMap.get_set_other [DecidableEq α] (m : SMap α) (d : Nat → α) {k j : Nat} (v : α) (h : j ≠ k) :
    (m.set d k v).get d j = m.get d j := by simp [SMap.get_set, h]

theorem SMap.rising_mono {m : SMap α} {a b : Nat} (h : a ≤ b) : SMap.rising b m = true → SMap.rising a m = true := by
  cases m with
  | nil => simp [SMap.rising]
  | cons e t => simp only [SMap.rising, Bool.and_eq_true, decide_eq_true_eq]; exact fun h' => ⟨h.trans h'.1, h'.2⟩

theorem SMap.rising_insert (m : SMap α) (k : Nat) (v : α) :
    ∀ lo, lo ≤ k → SMap.rising lo m = true → SMap.rising lo (m.insert k v) = true := by
  induction m with
  | nil => intro lo h _; simp [SMap.insert, SMap.rising, h]
  | cons e t ih =>
    obtain ⟨k', v'⟩ := e
    intro lo h hr
    simp only [SMap.rising, Bool.and_eq_true, decide_eq_true_eq] at hr
    simp only [SMap.insert]
    split
    · simp only [SMap.rising, Bool.and_eq_true, decide_eq_true_eq]; exact ⟨h, by omega, hr.2⟩
    · split
      · simp only [SMap.rising, Bool.and_eq_true, decide_eq_true_eq]; subst_vars; exact hr
      · simp only [SMap.rising, Bool.and_eq_true, decide_eq_true_eq]; exact ⟨hr.1, ih _ (by omega) hr.2⟩

theorem SMap.rising_erase (m : SMap α) (k : Nat) :
    ∀ lo, SMap.rising lo m = true → SMap.rising lo (m.erase k) = true := by
  induction m with
  | nil => intro lo _; rfl
  | cons e t ih =>
    obtain ⟨k', v'⟩ := e
    intro lo hr
    simp only [SMap.rising, Bool.and_eq_true, decide_eq_true_eq] at hr
    simp only [SMap.erase]
    split
    · exact SMap.rising_mono (by omega) (ih _ hr.2)
    · simp only [SMap.rising, Bool.and_eq_true, decide_eq_true_eq]; exact ⟨hr.1, ih _ hr.2⟩

theorem SMap.mem_insert {m : SMap α} {k : Nat} {v : α} {e : Nat × α} : e ∈ m.insert k v → e = (k, v) ∨ e ∈ m := by
  induction m with
  | nil => simp [SMap.insert]
  | cons a t ih =>
    simp only [SMap.insert]
    split
    · simp
    · split
      · intro h; rcases List.mem_cons.1 h with h | h <;> simp [h]
      · intro h
        rcases List.mem_cons.1 h with h | h
        · simp [h]
        · rcases ih h with h | h <;> simp [h]

theorem SMap.mem_erase {m : SMap α} {k : Nat} {e : Nat × α} : e ∈ m.erase k → e ∈ m := by
  induction m with
  | nil => simp [SMap.erase]
  | cons a t ih =>
    simp only [SMap.erase]
    split
    · intro h; exact List.mem_cons_of_mem _ (ih h)
    · intro h
      rcases List.mem_cons.1 h with h | h
      · simp [h]
      · exact List.mem_cons_of_mem _ (ih h)

theorem SMap.wf_iff [DecidableEq α] (d : Nat → α) (m : SMap α) :
    m.wf d = true ↔ SMap.rising 0 m = true ∧ ∀ e ∈ m, e.2 ≠ d e.1 := by
  simp [SMap.wf, List.all_eq_true]

/-- A write keeps the canonical form. -/
theorem SMap.wf_set [DecidableEq α] (m : SMap α) (d : Nat → α) (k : Nat) (v : α) (h : m.wf d = true) :
    (m.set d k v).wf d = true := by
  rw [SMap.wf_iff] at h ⊢
  rw [SMap.set_eq]
  split
  · exact ⟨SMap.rising_erase _ _ _ h.1, fun e he => h.2 e (SMap.mem_erase he)⟩
  · refine ⟨SMap.rising_insert _ _ _ _ (Nat.zero_le _) h.1, fun e he => ?_⟩
    rcases SMap.mem_insert he with rfl | he
    · assumption
    · exact h.2 e he

theorem SMap.rising_filter (m : SMap α) (p : Nat × α → Bool) :
    ∀ lo, SMap.rising lo m = true → SMap.rising lo (m.filter p) = true := by
  induction m with
  | nil => intro lo _; rfl
  | cons e t ih =>
    obtain ⟨k', v'⟩ := e
    intro lo hr
    simp only [SMap.rising, Bool.and_eq_true, decide_eq_true_eq] at hr
    rw [List.filter_cons]
    split
    · simp only [SMap.rising, Bool.and_eq_true, decide_eq_true_eq]; exact ⟨hr.1, ih _ hr.2⟩
    · exact SMap.rising_mono (by omega) (ih _ hr.2)

/-- Dropping entries keeps the canonical form. -/
theorem SMap.wf_filter [DecidableEq α] (m : SMap α) (d : Nat → α) (p : Nat × α → Bool) (h : m.wf d = true) :
    SMap.wf d (m.filter p) = true := by
  rw [SMap.wf_iff] at h ⊢
  exact ⟨SMap.rising_filter _ _ _ h.1, fun e he => h.2 e (List.mem_filter.1 he).1⟩

/-- Below its first key a map reads as its default. -/
theorem SMap.get_none_of_lt {m : SMap α} {d : Nat → α} {lo j : Nat} (h : SMap.rising lo m = true) (hj : j < lo) :
    m.get d j = d j := by
  induction m generalizing lo with
  | nil => rfl
  | cons e t ih =>
    obtain ⟨k', v'⟩ := e
    simp only [SMap.rising, Bool.and_eq_true, decide_eq_true_eq] at h
    simp only [SMap.get]
    split
    · omega
    · exact ih h.2 (by omega)

end Sys2Proof
end

