-- ==== Sys2Proof/Laws/State.lean ====
section
/-!
SUPPORT. Laws of State: what each update leaves alone, one lemma per field and per accessor, and what a read gives after a
write of the same table.
-/
namespace Sys2Proof.Machine

/-! ## Fields that an update leaves alone -/

@[simp] theorem State.setCore_time (s : State) (n : Nat) (c : Core) : (s.setCore n c).time = s.time := rfl
@[simp] theorem State.setCore_refOk (s : State) (n : Nat) (c : Core) : (s.setCore n c).refOk = s.refOk := rfl
@[simp] theorem State.setCore_holdover (s : State) (n : Nat) (c : Core) : (s.setCore n c).holdover = s.holdover := rfl
@[simp] theorem State.setCore_phase (s : State) (n : Nat) (c : Core) : (s.setCore n c).phase = s.phase := rfl
@[simp] theorem State.setCore_porN (s : State) (n : Nat) (c : Core) : (s.setCore n c).porN = s.porN := rfl
@[simp] theorem State.setCore_perstN (s : State) (n : Nat) (c : Core) : (s.setCore n c).perstN = s.perstN := rfl
@[simp] theorem State.setCore_strap0 (s : State) (n : Nat) (c : Core) : (s.setCore n c).strap0 = s.strap0 := rfl
@[simp] theorem State.setCore_strap1 (s : State) (n : Nat) (c : Core) : (s.setCore n c).strap1 = s.strap1 := rfl
@[simp] theorem State.setCore_trip (s : State) (n : Nat) (c : Core) : (s.setCore n c).trip = s.trip := rfl
@[simp] theorem State.setCore_tap (s : State) (n : Nat) (c : Core) : (s.setCore n c).tap = s.tap := rfl
@[simp] theorem State.setCore_chain (s : State) (n : Nat) (c : Core) : (s.setCore n c).chain = s.chain := rfl
@[simp] theorem State.setCore_pages (s : State) (n : Nat) (c : Core) : (s.setCore n c).pages = s.pages := rfl
@[simp] theorem State.setCore_slices (s : State) (n : Nat) (c : Core) : (s.setCore n c).slices = s.slices := rfl
@[simp] theorem State.setCore_presented (s : State) (n : Nat) (c : Core) : (s.setCore n c).presented = s.presented := rfl
@[simp] theorem State.setCore_dies (s : State) (n : Nat) (c : Core) : (s.setCore n c).dies = s.dies := rfl
@[simp] theorem State.setCore_place (s : State) (n : Nat) (c : Core) : (s.setCore n c).place = s.place := rfl
@[simp] theorem State.setCore_epoch (s : State) (n : Nat) (c : Core) : (s.setCore n c).epoch = s.epoch := rfl
@[simp] theorem State.setCore_schedule (s : State) (n : Nat) (c : Core) : (s.setCore n c).schedule = s.schedule := rfl
@[simp] theorem State.setCore_pcores (s : State) (n : Nat) (c : Core) : (s.setCore n c).pcores = s.pcores := rfl
@[simp] theorem State.setCore_retired (s : State) (n : Nat) (c : Core) : (s.setCore n c).retired = s.retired := rfl
@[simp] theorem State.setCore_bridges (s : State) (n : Nat) (c : Core) : (s.setCore n c).bridges = s.bridges := rfl
@[simp] theorem State.setCore_chans (s : State) (n : Nat) (c : Core) : (s.setCore n c).chans = s.chans := rfl
@[simp] theorem State.setCore_hashQ (s : State) (n : Nat) (c : Core) : (s.setCore n c).hashQ = s.hashQ := rfl
@[simp] theorem State.setCore_hot (s : State) (n : Nat) (c : Core) : (s.setCore n c).hot = s.hot := rfl
@[simp] theorem State.setCore_host (s : State) (n : Nat) (c : Core) : (s.setCore n c).host = s.host := rfl
@[simp] theorem State.setCore_lift (s : State) (n : Nat) (c : Core) : (s.setCore n c).lift = s.lift := rfl
@[simp] theorem State.setCore_trvA (s : State) (n : Nat) (c : Core) : (s.setCore n c).trvA = s.trvA := rfl
@[simp] theorem State.setCore_trvB (s : State) (n : Nat) (c : Core) : (s.setCore n c).trvB = s.trvB := rfl
@[simp] theorem State.setCore_bundles (s : State) (n : Nat) (c : Core) : (s.setCore n c).bundles = s.bundles := rfl
@[simp] theorem State.setCore_loadOrder (s : State) (n : Nat) (c : Core) : (s.setCore n c).loadOrder = s.loadOrder := rfl
@[simp] theorem State.setCore_saves (s : State) (n : Nat) (c : Core) : (s.setCore n c).saves = s.saves := rfl
@[simp] theorem State.setCore_saveNo (s : State) (n : Nat) (c : Core) : (s.setCore n c).saveNo = s.saveNo := rfl
@[simp] theorem State.setCore_diesPw (s : State) (n : Nat) (c : Core) : (s.setCore n c).diesPw = s.diesPw := rfl
@[simp] theorem State.setCore_capMiss (s : State) (n : Nat) (c : Core) : (s.setCore n c).capMiss = s.capMiss := rfl
@[simp] theorem State.setCore_flash (s : State) (n : Nat) (c : Core) : (s.setCore n c).flash = s.flash := rfl
@[simp] theorem State.setCore_toJournal (s : State) (n : Nat) (c : Core) : (s.setCore n c).toJournal = s.toJournal := rfl
@[simp] theorem State.setCore_config (s : State) (n : Nat) (c : Core) : (s.setCore n c).config = s.config := rfl
@[simp] theorem State.setCore_fw (s : State) (n : Nat) (c : Core) : (s.setCore n c).fw = s.fw := rfl
@[simp] theorem State.setCore_runsB (s : State) (n : Nat) (c : Core) : (s.setCore n c).runsB = s.runsB := rfl
@[simp] theorem State.setCore_liftClk (s : State) (n : Nat) (c : Core) : (s.setCore n c).liftClk = s.liftClk := rfl
@[simp] theorem State.setCore_trvClk (s : State) (n : Nat) (c : Core) : (s.setCore n c).trvClk = s.trvClk := rfl
@[simp] theorem State.setCore_spdmUp (s : State) (n : Nat) (c : Core) : (s.setCore n c).spdmUp = s.spdmUp := rfl
@[simp] theorem State.setCore_faultUnread (s : State) (n : Nat) (c : Core) : (s.setCore n c).faultUnread = s.faultUnread := rfl
@[simp] theorem State.setCore_free (s : State) (n : Nat) (c : Core) : (s.setCore n c).free = s.free := rfl
@[simp] theorem State.setCore_outbox (s : State) (n : Nat) (c : Core) : (s.setCore n c).outbox = s.outbox := rfl
@[simp] theorem State.setCore_pending (s : State) (n : Nat) (c : Core) : (s.setCore n c).pending = s.pending := rfl
@[simp] theorem State.setCore_page (s : State) (n : Nat) (c : Core) (i : Nat) : (s.setCore n c).page i = s.page i := rfl
@[simp] theorem State.setCore_reg (s : State) (n : Nat) (c : Core) (i j : Nat) : (s.setCore n c).reg i j = s.reg i j := rfl
@[simp] theorem State.setCore_counter (s : State) (n : Nat) (c : Core) (i j : Nat) : (s.setCore n c).counter i j = s.counter i j := rfl
@[simp] theorem State.setCore_pcore (s : State) (n : Nat) (c : Core) (i : Nat) : (s.setCore n c).pcore i = s.pcore i := rfl
@[simp] theorem State.setCore_hostOf (s : State) (n : Nat) (c : Core) (i : Nat) : (s.setCore n c).hostOf i = s.hostOf i := rfl
@[simp] theorem State.setCore_isPresented (s : State) (n : Nat) (c : Core) (i : Nat) : (s.setCore n c).isPresented i = s.isPresented i := rfl
@[simp] theorem State.setCore_physSlice (s : State) (n : Nat) (c : Core) (i : Nat) : (s.setCore n c).physSlice i = s.physSlice i := rfl
@[simp] theorem State.setCore_unit (s : State) (n : Nat) (c : Core) (i j : Nat) : (s.setCore n c).unit i j = s.unit i j := rfl
@[simp] theorem State.setCore_context (s : State) (n : Nat) (c : Core) (i : Nat) : (s.setCore n c).context i = s.context i := rfl
@[simp] theorem State.setCore_task (s : State) (n : Nat) (c : Core) (i : Nat) : (s.setCore n c).task i = s.task i := rfl
@[simp] theorem State.setCore_queue (s : State) (n : Nat) (c : Core) (i : Nat) : (s.setCore n c).queue i = s.queue i := rfl
@[simp] theorem State.setCore_ring (s : State) (n : Nat) (c : Core) (i : Nat) : (s.setCore n c).ring i = s.ring i := rfl
@[simp] theorem State.setCore_bundle (s : State) (n : Nat) (c : Core) (i : Nat) : (s.setCore n c).bundle i = s.bundle i := rfl
@[simp] theorem State.setCore_trv (s : State) (n : Nat) (c : Core) (i : TPort) : (s.setCore n c).trv i = s.trv i := rfl
@[simp] theorem State.setCore_liftPort (s : State) (n : Nat) (c : Core) (i : Side) : (s.setCore n c).liftPort i = s.liftPort i := rfl
@[simp] theorem State.setCore_chan (s : State) (n : Nat) (c : Core) (i j : Nat) : (s.setCore n c).chan i j = s.chan i j := rfl
@[simp] theorem State.setCore_die (s : State) (n : Nat) (c : Core) (i : Nat) : (s.setCore n c).die i = s.die i := rfl
@[simp] theorem State.setCore_linkState (s : State) (n : Nat) (c : Core) (i : Side) : (s.setCore n c).linkState i = s.linkState i := rfl
@[simp] theorem State.setCore_linkUp (s : State) (n : Nat) (c : Core) (i : Side) : (s.setCore n c).linkUp i = s.linkUp i := rfl
@[simp] theorem State.setCore_coreUp (s : State) (n : Nat) (c : Core) (i : Nat) : (s.setCore n c).coreUp i = s.coreUp i := rfl
@[simp] theorem State.setCore_coreAwake (s : State) (n : Nat) (c : Core) (i : Nat) : (s.setCore n c).coreAwake i = s.coreAwake i := rfl

@[simp] theorem State.modCore_time (s : State) (n : Nat) (f : Core → Core) : (s.modCore n f).time = s.time := rfl
@[simp] theorem State.modCore_refOk (s : State) (n : Nat) (f : Core → Core) : (s.modCore n f).refOk = s.refOk := rfl
@[simp] theorem State.modCore_holdover (s : State) (n : Nat) (f : Core → Core) : (s.modCore n f).holdover = s.holdover := rfl
@[simp] theorem State.modCore_phase (s : State) (n : Nat) (f : Core → Core) : (s.modCore n f).phase = s.phase := rfl
@[simp] theorem State.modCore_porN (s : State) (n : Nat) (f : Core → Core) : (s.modCore n f).porN = s.porN := rfl
@[simp] theorem State.modCore_perstN (s : State) (n : Nat) (f : Core → Core) : (s.modCore n f).perstN = s.perstN := rfl
@[simp] theorem State.modCore_strap0 (s : State) (n : Nat) (f : Core → Core) : (s.modCore n f).strap0 = s.strap0 := rfl
@[simp] theorem State.modCore_strap1 (s : State) (n : Nat) (f : Core → Core) : (s.modCore n f).strap1 = s.strap1 := rfl
@[simp] theorem State.modCore_trip (s : State) (n : Nat) (f : Core → Core) : (s.modCore n f).trip = s.trip := rfl
@[simp] theorem State.modCore_tap (s : State) (n : Nat) (f : Core → Core) : (s.modCore n f).tap = s.tap := rfl
@[simp] theorem State.modCore_chain (s : State) (n : Nat) (f : Core → Core) : (s.modCore n f).chain = s.chain := rfl
@[simp] theorem State.modCore_pages (s : State) (n : Nat) (f : Core → Core) : (s.modCore n f).pages = s.pages := rfl
@[simp] theorem State.modCore_slices (s : State) (n : Nat) (f : Core → Core) : (s.modCore n f).slices = s.slices := rfl
@[simp] theorem State.modCore_presented (s : State) (n : Nat) (f : Core → Core) : (s.modCore n f).presented = s.presented := rfl
@[simp] theorem State.modCore_dies (s : State) (n : Nat) (f : Core → Core) : (s.modCore n f).dies = s.dies := rfl
@[simp] theorem State.modCore_place (s : State) (n : Nat) (f : Core → Core) : (s.modCore n f).place = s.place := rfl
@[simp] theorem State.modCore_epoch (s : State) (n : Nat) (f : Core → Core) : (s.modCore n f).epoch = s.epoch := rfl
@[simp] theorem State.modCore_schedule (s : State) (n : Nat) (f : Core → Core) : (s.modCore n f).schedule = s.schedule := rfl
@[simp] theorem State.modCore_pcores (s : State) (n : Nat) (f : Core → Core) : (s.modCore n f).pcores = s.pcores := rfl
@[simp] theorem State.modCore_retired (s : State) (n : Nat) (f : Core → Core) : (s.modCore n f).retired = s.retired := rfl
@[simp] theorem State.modCore_bridges (s : State) (n : Nat) (f : Core → Core) : (s.modCore n f).bridges = s.bridges := rfl
@[simp] theorem State.modCore_chans (s : State) (n : Nat) (f : Core → Core) : (s.modCore n f).chans = s.chans := rfl
@[simp] theorem State.modCore_hashQ (s : State) (n : Nat) (f : Core → Core) : (s.modCore n f).hashQ = s.hashQ := rfl
@[simp] theorem State.modCore_hot (s : State) (n : Nat) (f : Core → Core) : (s.modCore n f).hot = s.hot := rfl
@[simp] theorem State.modCore_host (s : State) (n : Nat) (f : Core → Core) : (s.modCore n f).host = s.host := rfl
@[simp] theorem State.modCore_lift (s : State) (n : Nat) (f : Core → Core) : (s.modCore n f).lift = s.lift := rfl
@[simp] theorem State.modCore_trvA (s : State) (n : Nat) (f : Core → Core) : (s.modCore n f).trvA = s.trvA := rfl
@[simp] theorem State.modCore_trvB (s : State) (n : Nat) (f : Core → Core) : (s.modCore n f).trvB = s.trvB := rfl
@[simp] theorem State.modCore_bundles (s : State) (n : Nat) (f : Core → Core) : (s.modCore n f).bundles = s.bundles := rfl
@[simp] theorem State.modCore_loadOrder (s : State) (n : Nat) (f : Core → Core) : (s.modCore n f).loadOrder = s.loadOrder := rfl
@[simp] theorem State.modCore_saves (s : State) (n : Nat) (f : Core → Core) : (s.modCore n f).saves = s.saves := rfl
@[simp] theorem State.modCore_saveNo (s : State) (n : Nat) (f : Core → Core) : (s.modCore n f).saveNo = s.saveNo := rfl
@[simp] theorem State.modCore_diesPw (s : State) (n : Nat) (f : Core → Core) : (s.modCore n f).diesPw = s.diesPw := rfl
@[simp] theorem State.modCore_capMiss (s : State) (n : Nat) (f : Core → Core) : (s.modCore n f).capMiss = s.capMiss := rfl
@[simp] theorem State.modCore_flash (s : State) (n : Nat) (f : Core → Core) : (s.modCore n f).flash = s.flash := rfl
@[simp] theorem State.modCore_toJournal (s : State) (n : Nat) (f : Core → Core) : (s.modCore n f).toJournal = s.toJournal := rfl
@[simp] theorem State.modCore_config (s : State) (n : Nat) (f : Core → Core) : (s.modCore n f).config = s.config := rfl
@[simp] theorem State.modCore_fw (s : State) (n : Nat) (f : Core → Core) : (s.modCore n f).fw = s.fw := rfl
@[simp] theorem State.modCore_runsB (s : State) (n : Nat) (f : Core → Core) : (s.modCore n f).runsB = s.runsB := rfl
@[simp] theorem State.modCore_liftClk (s : State) (n : Nat) (f : Core → Core) : (s.modCore n f).liftClk = s.liftClk := rfl
@[simp] theorem State.modCore_trvClk (s : State) (n : Nat) (f : Core → Core) : (s.modCore n f).trvClk = s.trvClk := rfl
@[simp] theorem State.modCore_spdmUp (s : State) (n : Nat) (f : Core → Core) : (s.modCore n f).spdmUp = s.spdmUp := rfl
@[simp] theorem State.modCore_faultUnread (s : State) (n : Nat) (f : Core → Core) : (s.modCore n f).faultUnread = s.faultUnread := rfl
@[simp] theorem State.modCore_free (s : State) (n : Nat) (f : Core → Core) : (s.modCore n f).free = s.free := rfl
@[simp] theorem State.modCore_outbox (s : State) (n : Nat) (f : Core → Core) : (s.modCore n f).outbox = s.outbox := rfl
@[simp] theorem State.modCore_pending (s : State) (n : Nat) (f : Core → Core) : (s.modCore n f).pending = s.pending := rfl
@[simp] theorem State.modCore_page (s : State) (n : Nat) (f : Core → Core) (i : Nat) : (s.modCore n f).page i = s.page i := rfl
@[simp] theorem State.modCore_reg (s : State) (n : Nat) (f : Core → Core) (i j : Nat) : (s.modCore n f).reg i j = s.reg i j := rfl
@[simp] theorem State.modCore_counter (s : State) (n : Nat) (f : Core → Core) (i j : Nat) : (s.modCore n f).counter i j = s.counter i j := rfl
@[simp] theorem State.modCore_pcore (s : State) (n : Nat) (f : Core → Core) (i : Nat) : (s.modCore n f).pcore i = s.pcore i := rfl
@[simp] theorem State.modCore_hostOf (s : State) (n : Nat) (f : Core → Core) (i : Nat) : (s.modCore n f).hostOf i = s.hostOf i := rfl
@[simp] theorem State.modCore_isPresented (s : State) (n : Nat) (f : Core → Core) (i : Nat) : (s.modCore n f).isPresented i = s.isPresented i := rfl
@[simp] theorem State.modCore_physSlice (s : State) (n : Nat) (f : Core → Core) (i : Nat) : (s.modCore n f).physSlice i = s.physSlice i := rfl
@[simp] theorem State.modCore_unit (s : State) (n : Nat) (f : Core → Core) (i j : Nat) : (s.modCore n f).unit i j = s.unit i j := rfl
@[simp] theorem State.modCore_context (s : State) (n : Nat) (f : Core → Core) (i : Nat) : (s.modCore n f).context i = s.context i := rfl
@[simp] theorem State.modCore_task (s : State) (n : Nat) (f : Core → Core) (i : Nat) : (s.modCore n f).task i = s.task i := rfl
@[simp] theorem State.modCore_queue (s : State) (n : Nat) (f : Core → Core) (i : Nat) : (s.modCore n f).queue i = s.queue i := rfl
@[simp] theorem State.modCore_ring (s : State) (n : Nat) (f : Core → Core) (i : Nat) : (s.modCore n f).ring i = s.ring i := rfl
@[simp] theorem State.modCore_bundle (s : State) (n : Nat) (f : Core → Core) (i : Nat) : (s.modCore n f).bundle i = s.bundle i := rfl
@[simp] theorem State.modCore_trv (s : State) (n : Nat) (f : Core → Core) (i : TPort) : (s.modCore n f).trv i = s.trv i := rfl
@[simp] theorem State.modCore_liftPort (s : State) (n : Nat) (f : Core → Core) (i : Side) : (s.modCore n f).liftPort i = s.liftPort i := rfl
@[simp] theorem State.modCore_chan (s : State) (n : Nat) (f : Core → Core) (i j : Nat) : (s.modCore n f).chan i j = s.chan i j := rfl
@[simp] theorem State.modCore_die (s : State) (n : Nat) (f : Core → Core) (i : Nat) : (s.modCore n f).die i = s.die i := rfl
@[simp] theorem State.modCore_linkState (s : State) (n : Nat) (f : Core → Core) (i : Side) : (s.modCore n f).linkState i = s.linkState i := rfl
@[simp] theorem State.modCore_linkUp (s : State) (n : Nat) (f : Core → Core) (i : Side) : (s.modCore n f).linkUp i = s.linkUp i := rfl
@[simp] theorem State.modCore_coreUp (s : State) (n : Nat) (f : Core → Core) (i : Nat) : (s.modCore n f).coreUp i = s.coreUp i := rfl
@[simp] theorem State.modCore_coreAwake (s : State) (n : Nat) (f : Core → Core) (i : Nat) : (s.modCore n f).coreAwake i = s.coreAwake i := rfl

@[simp] theorem State.setPage_time (s : State) (p : Nat) (x : Page) : (s.setPage p x).time = s.time := rfl
@[simp] theorem State.setPage_refOk (s : State) (p : Nat) (x : Page) : (s.setPage p x).refOk = s.refOk := rfl
@[simp] theorem State.setPage_holdover (s : State) (p : Nat) (x : Page) : (s.setPage p x).holdover = s.holdover := rfl
@[simp] theorem State.setPage_phase (s : State) (p : Nat) (x : Page) : (s.setPage p x).phase = s.phase := rfl
@[simp] theorem State.setPage_porN (s : State) (p : Nat) (x : Page) : (s.setPage p x).porN = s.porN := rfl
@[simp] theorem State.setPage_perstN (s : State) (p : Nat) (x : Page) : (s.setPage p x).perstN = s.perstN := rfl
@[simp] theorem State.setPage_strap0 (s : State) (p : Nat) (x : Page) : (s.setPage p x).strap0 = s.strap0 := rfl
@[simp] theorem State.setPage_strap1 (s : State) (p : Nat) (x : Page) : (s.setPage p x).strap1 = s.strap1 := rfl
@[simp] theorem State.setPage_trip (s : State) (p : Nat) (x : Page) : (s.setPage p x).trip = s.trip := rfl
@[simp] theorem State.setPage_tap (s : State) (p : Nat) (x : Page) : (s.setPage p x).tap = s.tap := rfl
@[simp] theorem State.setPage_chain (s : State) (p : Nat) (x : Page) : (s.setPage p x).chain = s.chain := rfl
@[simp] theorem State.setPage_cores (s : State) (p : Nat) (x : Page) : (s.setPage p x).cores = s.cores := rfl
@[simp] theorem State.setPage_slices (s : State) (p : Nat) (x : Page) : (s.setPage p x).slices = s.slices := rfl
@[simp] theorem State.setPage_presented (s : State) (p : Nat) (x : Page) : (s.setPage p x).presented = s.presented := rfl
@[simp] theorem State.setPage_dies (s : State) (p : Nat) (x : Page) : (s.setPage p x).dies = s.dies := rfl
@[simp] theorem State.setPage_place (s : State) (p : Nat) (x : Page) : (s.setPage p x).place = s.place := rfl
@[simp] theorem State.setPage_epoch (s : State) (p : Nat) (x : Page) : (s.setPage p x).epoch = s.epoch := rfl
@[simp] theorem State.setPage_schedule (s : State) (p : Nat) (x : Page) : (s.setPage p x).schedule = s.schedule := rfl
@[simp] theorem State.setPage_pcores (s : State) (p : Nat) (x : Page) : (s.setPage p x).pcores = s.pcores := rfl
@[simp] theorem State.setPage_retired (s : State) (p : Nat) (x : Page) : (s.setPage p x).retired = s.retired := rfl
@[simp] theorem State.setPage_bridges (s : State) (p : Nat) (x : Page) : (s.setPage p x).bridges = s.bridges := rfl
@[simp] theorem State.setPage_chans (s : State) (p : Nat) (x : Page) : (s.setPage p x).chans = s.chans := rfl
@[simp] theorem State.setPage_hashQ (s : State) (p : Nat) (x : Page) : (s.setPage p x).hashQ = s.hashQ := rfl
@[simp] theorem State.setPage_hot (s : State) (p : Nat) (x : Page) : (s.setPage p x).hot = s.hot := rfl
@[simp] theorem State.setPage_host (s : State) (p : Nat) (x : Page) : (s.setPage p x).host = s.host := rfl
@[simp] theorem State.setPage_lift (s : State) (p : Nat) (x : Page) : (s.setPage p x).lift = s.lift := rfl
@[simp] theorem State.setPage_trvA (s : State) (p : Nat) (x : Page) : (s.setPage p x).trvA = s.trvA := rfl
@[simp] theorem State.setPage_trvB (s : State) (p : Nat) (x : Page) : (s.setPage p x).trvB = s.trvB := rfl
@[simp] theorem State.setPage_bundles (s : State) (p : Nat) (x : Page) : (s.setPage p x).bundles = s.bundles := rfl
@[simp] theorem State.setPage_loadOrder (s : State) (p : Nat) (x : Page) : (s.setPage p x).loadOrder = s.loadOrder := rfl
@[simp] theorem State.setPage_saves (s : State) (p : Nat) (x : Page) : (s.setPage p x).saves = s.saves := rfl
@[simp] theorem State.setPage_saveNo (s : State) (p : Nat) (x : Page) : (s.setPage p x).saveNo = s.saveNo := rfl
@[simp] theorem State.setPage_diesPw (s : State) (p : Nat) (x : Page) : (s.setPage p x).diesPw = s.diesPw := rfl
@[simp] theorem State.setPage_capMiss (s : State) (p : Nat) (x : Page) : (s.setPage p x).capMiss = s.capMiss := rfl
@[simp] theorem State.setPage_flash (s : State) (p : Nat) (x : Page) : (s.setPage p x).flash = s.flash := rfl
@[simp] theorem State.setPage_toJournal (s : State) (p : Nat) (x : Page) : (s.setPage p x).toJournal = s.toJournal := rfl
@[simp] theorem State.setPage_config (s : State) (p : Nat) (x : Page) : (s.setPage p x).config = s.config := rfl
@[simp] theorem State.setPage_fw (s : State) (p : Nat) (x : Page) : (s.setPage p x).fw = s.fw := rfl
@[simp] theorem State.setPage_runsB (s : State) (p : Nat) (x : Page) : (s.setPage p x).runsB = s.runsB := rfl
@[simp] theorem State.setPage_liftClk (s : State) (p : Nat) (x : Page) : (s.setPage p x).liftClk = s.liftClk := rfl
@[simp] theorem State.setPage_trvClk (s : State) (p : Nat) (x : Page) : (s.setPage p x).trvClk = s.trvClk := rfl
@[simp] theorem State.setPage_spdmUp (s : State) (p : Nat) (x : Page) : (s.setPage p x).spdmUp = s.spdmUp := rfl
@[simp] theorem State.setPage_faultUnread (s : State) (p : Nat) (x : Page) : (s.setPage p x).faultUnread = s.faultUnread := rfl
@[simp] theorem State.setPage_free (s : State) (p : Nat) (x : Page) : (s.setPage p x).free = s.free := rfl
@[simp] theorem State.setPage_outbox (s : State) (p : Nat) (x : Page) : (s.setPage p x).outbox = s.outbox := rfl
@[simp] theorem State.setPage_pending (s : State) (p : Nat) (x : Page) : (s.setPage p x).pending = s.pending := rfl
@[simp] theorem State.setPage_core (s : State) (p : Nat) (x : Page) (i : Nat) : (s.setPage p x).core i = s.core i := rfl
@[simp] theorem State.setPage_pcore (s : State) (p : Nat) (x : Page) (i : Nat) : (s.setPage p x).pcore i = s.pcore i := rfl
@[simp] theorem State.setPage_hostOf (s : State) (p : Nat) (x : Page) (i : Nat) : (s.setPage p x).hostOf i = s.hostOf i := rfl
@[simp] theorem State.setPage_isPresented (s : State) (p : Nat) (x : Page) (i : Nat) : (s.setPage p x).isPresented i = s.isPresented i := rfl
@[simp] theorem State.setPage_physSlice (s : State) (p : Nat) (x : Page) (i : Nat) : (s.setPage p x).physSlice i = s.physSlice i := rfl
@[simp] theorem State.setPage_unit (s : State) (p : Nat) (x : Page) (i j : Nat) : (s.setPage p x).unit i j = s.unit i j := rfl
@[simp] theorem State.setPage_context (s : State) (p : Nat) (x : Page) (i : Nat) : (s.setPage p x).context i = s.context i := rfl
@[simp] theorem State.setPage_task (s : State) (p : Nat) (x : Page) (i : Nat) : (s.setPage p x).task i = s.task i := rfl
@[simp] theorem State.setPage_queue (s : State) (p : Nat) (x : Page) (i : Nat) : (s.setPage p x).queue i = s.queue i := rfl
@[simp] theorem State.setPage_bundle (s : State) (p : Nat) (x : Page) (i : Nat) : (s.setPage p x).bundle i = s.bundle i := rfl
@[simp] theorem State.setPage_trv (s : State) (p : Nat) (x : Page) (i : TPort) : (s.setPage p x).trv i = s.trv i := rfl
@[simp] theorem State.setPage_liftPort (s : State) (p : Nat) (x : Page) (i : Side) : (s.setPage p x).liftPort i = s.liftPort i := rfl
@[simp] theorem State.setPage_chan (s : State) (p : Nat) (x : Page) (i j : Nat) : (s.setPage p x).chan i j = s.chan i j := rfl
@[simp] theorem State.setPage_die (s : State) (p : Nat) (x : Page) (i : Nat) : (s.setPage p x).die i = s.die i := rfl
@[simp] theorem State.setPage_coreTask (s : State) (p : Nat) (x : Page) (i : Nat) : (s.setPage p x).coreTask i = s.coreTask i := rfl
@[simp] theorem State.setPage_coreJob (s : State) (p : Nat) (x : Page) (i : Nat) : (s.setPage p x).coreJob i = s.coreJob i := rfl
@[simp] theorem State.setPage_coreBase (s : State) (p : Nat) (x : Page) (i : Nat) : (s.setPage p x).coreBase i = s.coreBase i := rfl
@[simp] theorem State.setPage_coreUp (s : State) (p : Nat) (x : Page) (i : Nat) : (s.setPage p x).coreUp i = s.coreUp i := rfl
@[simp] theorem State.setPage_coreAwake (s : State) (p : Nat) (x : Page) (i : Nat) : (s.setPage p x).coreAwake i = s.coreAwake i := rfl

@[simp] theorem State.modPage_time (s : State) (p : Nat) (f : Page → Page) : (s.modPage p f).time = s.time := rfl
@[simp] theorem State.modPage_refOk (s : State) (p : Nat) (f : Page → Page) : (s.modPage p f).refOk = s.refOk := rfl
@[simp] theorem State.modPage_holdover (s : State) (p : Nat) (f : Page → Page) : (s.modPage p f).holdover = s.holdover := rfl
@[simp] theorem State.modPage_phase (s : State) (p : Nat) (f : Page → Page) : (s.modPage p f).phase = s.phase := rfl
@[simp] theorem State.modPage_porN (s : State) (p : Nat) (f : Page → Page) : (s.modPage p f).porN = s.porN := rfl
@[simp] theorem State.modPage_perstN (s : State) (p : Nat) (f : Page → Page) : (s.modPage p f).perstN = s.perstN := rfl
@[simp] theorem State.modPage_strap0 (s : State) (p : Nat) (f : Page → Page) : (s.modPage p f).strap0 = s.strap0 := rfl
@[simp] theorem State.modPage_strap1 (s : State) (p : Nat) (f : Page → Page) : (s.modPage p f).strap1 = s.strap1 := rfl
@[simp] theorem State.modPage_trip (s : State) (p : Nat) (f : Page → Page) : (s.modPage p f).trip = s.trip := rfl
@[simp] theorem State.modPage_tap (s : State) (p : Nat) (f : Page → Page) : (s.modPage p f).tap = s.tap := rfl
@[simp] theorem State.modPage_chain (s : State) (p : Nat) (f : Page → Page) : (s.modPage p f).chain = s.chain := rfl
@[simp] theorem State.modPage_cores (s : State) (p : Nat) (f : Page → Page) : (s.modPage p f).cores = s.cores := rfl
@[simp] theorem State.modPage_slices (s : State) (p : Nat) (f : Page → Page) : (s.modPage p f).slices = s.slices := rfl
@[simp] theorem State.modPage_presented (s : State) (p : Nat) (f : Page → Page) : (s.modPage p f).presented = s.presented := rfl
@[simp] theorem State.modPage_dies (s : State) (p : Nat) (f : Page → Page) : (s.modPage p f).dies = s.dies := rfl
@[simp] theorem State.modPage_place (s : State) (p : Nat) (f : Page → Page) : (s.modPage p f).place = s.place := rfl
@[simp] theorem State.modPage_epoch (s : State) (p : Nat) (f : Page → Page) : (s.modPage p f).epoch = s.epoch := rfl
@[simp] theorem State.modPage_schedule (s : State) (p : Nat) (f : Page → Page) : (s.modPage p f).schedule = s.schedule := rfl
@[simp] theorem State.modPage_pcores (s : State) (p : Nat) (f : Page → Page) : (s.modPage p f).pcores = s.pcores := rfl
@[simp] theorem State.modPage_retired (s : State) (p : Nat) (f : Page → Page) : (s.modPage p f).retired = s.retired := rfl
@[simp] theorem State.modPage_bridges (s : State) (p : Nat) (f : Page → Page) : (s.modPage p f).bridges = s.bridges := rfl
@[simp] theorem State.modPage_chans (s : State) (p : Nat) (f : Page → Page) : (s.modPage p f).chans = s.chans := rfl
@[simp] theorem State.modPage_hashQ (s : State) (p : Nat) (f : Page → Page) : (s.modPage p f).hashQ = s.hashQ := rfl
@[simp] theorem State.modPage_hot (s : State) (p : Nat) (f : Page → Page) : (s.modPage p f).hot = s.hot := rfl
@[simp] theorem State.modPage_host (s : State) (p : Nat) (f : Page → Page) : (s.modPage p f).host = s.host := rfl
@[simp] theorem State.modPage_lift (s : State) (p : Nat) (f : Page → Page) : (s.modPage p f).lift = s.lift := rfl
@[simp] theorem State.modPage_trvA (s : State) (p : Nat) (f : Page → Page) : (s.modPage p f).trvA = s.trvA := rfl
@[simp] theorem State.modPage_trvB (s : State) (p : Nat) (f : Page → Page) : (s.modPage p f).trvB = s.trvB := rfl
@[simp] theorem State.modPage_bundles (s : State) (p : Nat) (f : Page → Page) : (s.modPage p f).bundles = s.bundles := rfl
@[simp] theorem State.modPage_loadOrder (s : State) (p : Nat) (f : Page → Page) : (s.modPage p f).loadOrder = s.loadOrder := rfl
@[simp] theorem State.modPage_saves (s : State) (p : Nat) (f : Page → Page) : (s.modPage p f).saves = s.saves := rfl
@[simp] theorem State.modPage_saveNo (s : State) (p : Nat) (f : Page → Page) : (s.modPage p f).saveNo = s.saveNo := rfl
@[simp] theorem State.modPage_diesPw (s : State) (p : Nat) (f : Page → Page) : (s.modPage p f).diesPw = s.diesPw := rfl
@[simp] theorem State.modPage_capMiss (s : State) (p : Nat) (f : Page → Page) : (s.modPage p f).capMiss = s.capMiss := rfl
@[simp] theorem State.modPage_flash (s : State) (p : Nat) (f : Page → Page) : (s.modPage p f).flash = s.flash := rfl
@[simp] theorem State.modPage_toJournal (s : State) (p : Nat) (f : Page → Page) : (s.modPage p f).toJournal = s.toJournal := rfl
@[simp] theorem State.modPage_config (s : State) (p : Nat) (f : Page → Page) : (s.modPage p f).config = s.config := rfl
@[simp] theorem State.modPage_fw (s : State) (p : Nat) (f : Page → Page) : (s.modPage p f).fw = s.fw := rfl
@[simp] theorem State.modPage_runsB (s : State) (p : Nat) (f : Page → Page) : (s.modPage p f).runsB = s.runsB := rfl
@[simp] theorem State.modPage_liftClk (s : State) (p : Nat) (f : Page → Page) : (s.modPage p f).liftClk = s.liftClk := rfl
@[simp] theorem State.modPage_trvClk (s : State) (p : Nat) (f : Page → Page) : (s.modPage p f).trvClk = s.trvClk := rfl
@[simp] theorem State.modPage_spdmUp (s : State) (p : Nat) (f : Page → Page) : (s.modPage p f).spdmUp = s.spdmUp := rfl
@[simp] theorem State.modPage_faultUnread (s : State) (p : Nat) (f : Page → Page) : (s.modPage p f).faultUnread = s.faultUnread := rfl
@[simp] theorem State.modPage_free (s : State) (p : Nat) (f : Page → Page) : (s.modPage p f).free = s.free := rfl
@[simp] theorem State.modPage_outbox (s : State) (p : Nat) (f : Page → Page) : (s.modPage p f).outbox = s.outbox := rfl
@[simp] theorem State.modPage_pending (s : State) (p : Nat) (f : Page → Page) : (s.modPage p f).pending = s.pending := rfl
@[simp] theorem State.modPage_core (s : State) (p : Nat) (f : Page → Page) (i : Nat) : (s.modPage p f).core i = s.core i := rfl
@[simp] theorem State.modPage_pcore (s : State) (p : Nat) (f : Page → Page) (i : Nat) : (s.modPage p f).pcore i = s.pcore i := rfl
@[simp] theorem State.modPage_hostOf (s : State) (p : Nat) (f : Page → Page) (i : Nat) : (s.modPage p f).hostOf i = s.hostOf i := rfl
@[simp] theorem State.modPage_isPresented (s : State) (p : Nat) (f : Page → Page) (i : Nat) : (s.modPage p f).isPresented i = s.isPresented i := rfl
@[simp] theorem State.modPage_physSlice (s : State) (p : Nat) (f : Page → Page) (i : Nat) : (s.modPage p f).physSlice i = s.physSlice i := rfl
@[simp] theorem State.modPage_unit (s : State) (p : Nat) (f : Page → Page) (i j : Nat) : (s.modPage p f).unit i j = s.unit i j := rfl
@[simp] theorem State.modPage_context (s : State) (p : Nat) (f : Page → Page) (i : Nat) : (s.modPage p f).context i = s.context i := rfl
@[simp] theorem State.modPage_task (s : State) (p : Nat) (f : Page → Page) (i : Nat) : (s.modPage p f).task i = s.task i := rfl
@[simp] theorem State.modPage_queue (s : State) (p : Nat) (f : Page → Page) (i : Nat) : (s.modPage p f).queue i = s.queue i := rfl
@[simp] theorem State.modPage_bundle (s : State) (p : Nat) (f : Page → Page) (i : Nat) : (s.modPage p f).bundle i = s.bundle i := rfl
@[simp] theorem State.modPage_trv (s : State) (p : Nat) (f : Page → Page) (i : TPort) : (s.modPage p f).trv i = s.trv i := rfl
@[simp] theorem State.modPage_liftPort (s : State) (p : Nat) (f : Page → Page) (i : Side) : (s.modPage p f).liftPort i = s.liftPort i := rfl
@[simp] theorem State.modPage_chan (s : State) (p : Nat) (f : Page → Page) (i j : Nat) : (s.modPage p f).chan i j = s.chan i j := rfl
@[simp] theorem State.modPage_die (s : State) (p : Nat) (f : Page → Page) (i : Nat) : (s.modPage p f).die i = s.die i := rfl
@[simp] theorem State.modPage_coreTask (s : State) (p : Nat) (f : Page → Page) (i : Nat) : (s.modPage p f).coreTask i = s.coreTask i := rfl
@[simp] theorem State.modPage_coreJob (s : State) (p : Nat) (f : Page → Page) (i : Nat) : (s.modPage p f).coreJob i = s.coreJob i := rfl
@[simp] theorem State.modPage_coreBase (s : State) (p : Nat) (f : Page → Page) (i : Nat) : (s.modPage p f).coreBase i = s.coreBase i := rfl
@[simp] theorem State.modPage_coreUp (s : State) (p : Nat) (f : Page → Page) (i : Nat) : (s.modPage p f).coreUp i = s.coreUp i := rfl
@[simp] theorem State.modPage_coreAwake (s : State) (p : Nat) (f : Page → Page) (i : Nat) : (s.modPage p f).coreAwake i = s.coreAwake i := rfl

@[simp] theorem State.setReg_time (s : State) (p off : Nat) (v : Word) : (s.setReg p off v).time = s.time := rfl
@[simp] theorem State.setReg_refOk (s : State) (p off : Nat) (v : Word) : (s.setReg p off v).refOk = s.refOk := rfl
@[simp] theorem State.setReg_holdover (s : State) (p off : Nat) (v : Word) : (s.setReg p off v).holdover = s.holdover := rfl
@[simp] theorem State.setReg_phase (s : State) (p off : Nat) (v : Word) : (s.setReg p off v).phase = s.phase := rfl
@[simp] theorem State.setReg_porN (s : State) (p off : Nat) (v : Word) : (s.setReg p off v).porN = s.porN := rfl
@[simp] theorem State.setReg_perstN (s : State) (p off : Nat) (v : Word) : (s.setReg p off v).perstN = s.perstN := rfl
@[simp] theorem State.setReg_strap0 (s : State) (p off : Nat) (v : Word) : (s.setReg p off v).strap0 = s.strap0 := rfl
@[simp] theorem State.setReg_strap1 (s : State) (p off : Nat) (v : Word) : (s.setReg p off v).strap1 = s.strap1 := rfl
@[simp] theorem State.setReg_trip (s : State) (p off : Nat) (v : Word) : (s.setReg p off v).trip = s.trip := rfl
@[simp] theorem State.setReg_tap (s : State) (p off : Nat) (v : Word) : (s.setReg p off v).tap = s.tap := rfl
@[simp] theorem State.setReg_chain (s : State) (p off : Nat) (v : Word) : (s.setReg p off v).chain = s.chain := rfl
@[simp] theorem State.setReg_cores (s : State) (p off : Nat) (v : Word) : (s.setReg p off v).cores = s.cores := rfl
@[simp] theorem State.setReg_slices (s : State) (p off : Nat) (v : Word) : (s.setReg p off v).slices = s.slices := rfl
@[simp] theorem State.setReg_presented (s : State) (p off : Nat) (v : Word) : (s.setReg p off v).presented = s.presented := rfl
@[simp] theorem State.setReg_dies (s : State) (p off : Nat) (v : Word) : (s.setReg p off v).dies = s.dies := rfl
@[simp] theorem State.setReg_place (s : State) (p off : Nat) (v : Word) : (s.setReg p off v).place = s.place := rfl
@[simp] theorem State.setReg_epoch (s : State) (p off : Nat) (v : Word) : (s.setReg p off v).epoch = s.epoch := rfl
@[simp] theorem State.setReg_schedule (s : State) (p off : Nat) (v : Word) : (s.setReg p off v).schedule = s.schedule := rfl
@[simp] theorem State.setReg_pcores (s : State) (p off : Nat) (v : Word) : (s.setReg p off v).pcores = s.pcores := rfl
@[simp] theorem State.setReg_retired (s : State) (p off : Nat) (v : Word) : (s.setReg p off v).retired = s.retired := rfl
@[simp] theorem State.setReg_bridges (s : State) (p off : Nat) (v : Word) : (s.setReg p off v).bridges = s.bridges := rfl
@[simp] theorem State.setReg_chans (s : State) (p off : Nat) (v : Word) : (s.setReg p off v).chans = s.chans := rfl
@[simp] theorem State.setReg_hashQ (s : State) (p off : Nat) (v : Word) : (s.setReg p off v).hashQ = s.hashQ := rfl
@[simp] theorem State.setReg_hot (s : State) (p off : Nat) (v : Word) : (s.setReg p off v).hot = s.hot := rfl
@[simp] theorem State.setReg_host (s : State) (p off : Nat) (v : Word) : (s.setReg p off v).host = s.host := rfl
@[simp] theorem State.setReg_lift (s : State) (p off : Nat) (v : Word) : (s.setReg p off v).lift = s.lift := rfl
@[simp] theorem State.setReg_trvA (s : State) (p off : Nat) (v : Word) : (s.setReg p off v).trvA = s.trvA := rfl
@[simp] theorem State.setReg_trvB (s : State) (p off : Nat) (v : Word) : (s.setReg p off v).trvB = s.trvB := rfl
@[simp] theorem State.setReg_bundles (s : State) (p off : Nat) (v : Word) : (s.setReg p off v).bundles = s.bundles := rfl
@[simp] theorem State.setReg_loadOrder (s : State) (p off : Nat) (v : Word) : (s.setReg p off v).loadOrder = s.loadOrder := rfl
@[simp] theorem State.setReg_saves (s : State) (p off : Nat) (v : Word) : (s.setReg p off v).saves = s.saves := rfl
@[simp] theorem State.setReg_saveNo (s : State) (p off : Nat) (v : Word) : (s.setReg p off v).saveNo = s.saveNo := rfl
@[simp] theorem State.setReg_diesPw (s : State) (p off : Nat) (v : Word) : (s.setReg p off v).diesPw = s.diesPw := rfl
@[simp] theorem State.setReg_capMiss (s : State) (p off : Nat) (v : Word) : (s.setReg p off v).capMiss = s.capMiss := rfl
@[simp] theorem State.setReg_flash (s : State) (p off : Nat) (v : Word) : (s.setReg p off v).flash = s.flash := rfl
@[simp] theorem State.setReg_toJournal (s : State) (p off : Nat) (v : Word) : (s.setReg p off v).toJournal = s.toJournal := rfl
@[simp] theorem State.setReg_config (s : State) (p off : Nat) (v : Word) : (s.setReg p off v).config = s.config := rfl
@[simp] theorem State.setReg_fw (s : State) (p off : Nat) (v : Word) : (s.setReg p off v).fw = s.fw := rfl
@[simp] theorem State.setReg_runsB (s : State) (p off : Nat) (v : Word) : (s.setReg p off v).runsB = s.runsB := rfl
@[simp] theorem State.setReg_liftClk (s : State) (p off : Nat) (v : Word) : (s.setReg p off v).liftClk = s.liftClk := rfl
@[simp] theorem State.setReg_trvClk (s : State) (p off : Nat) (v : Word) : (s.setReg p off v).trvClk = s.trvClk := rfl
@[simp] theorem State.setReg_spdmUp (s : State) (p off : Nat) (v : Word) : (s.setReg p off v).spdmUp = s.spdmUp := rfl
@[simp] theorem State.setReg_faultUnread (s : State) (p off : Nat) (v : Word) : (s.setReg p off v).faultUnread = s.faultUnread := rfl
@[simp] theorem State.setReg_free (s : State) (p off : Nat) (v : Word) : (s.setReg p off v).free = s.free := rfl
@[simp] theorem State.setReg_outbox (s : State) (p off : Nat) (v : Word) : (s.setReg p off v).outbox = s.outbox := rfl
@[simp] theorem State.setReg_pending (s : State) (p off : Nat) (v : Word) : (s.setReg p off v).pending = s.pending := rfl
@[simp] theorem State.setReg_core (s : State) (p off : Nat) (v : Word) (i : Nat) : (s.setReg p off v).core i = s.core i := rfl
@[simp] theorem State.setReg_pcore (s : State) (p off : Nat) (v : Word) (i : Nat) : (s.setReg p off v).pcore i = s.pcore i := rfl
@[simp] theorem State.setReg_hostOf (s : State) (p off : Nat) (v : Word) (i : Nat) : (s.setReg p off v).hostOf i = s.hostOf i := rfl
@[simp] theorem State.setReg_isPresented (s : State) (p off : Nat) (v : Word) (i : Nat) : (s.setReg p off v).isPresented i = s.isPresented i := rfl
@[simp] theorem State.setReg_physSlice (s : State) (p off : Nat) (v : Word) (i : Nat) : (s.setReg p off v).physSlice i = s.physSlice i := rfl
@[simp] theorem State.setReg_unit (s : State) (p off : Nat) (v : Word) (i j : Nat) : (s.setReg p off v).unit i j = s.unit i j := rfl
@[simp] theorem State.setReg_context (s : State) (p off : Nat) (v : Word) (i : Nat) : (s.setReg p off v).context i = s.context i := rfl
@[simp] theorem State.setReg_task (s : State) (p off : Nat) (v : Word) (i : Nat) : (s.setReg p off v).task i = s.task i := rfl
@[simp] theorem State.setReg_queue (s : State) (p off : Nat) (v : Word) (i : Nat) : (s.setReg p off v).queue i = s.queue i := rfl
@[simp] theorem State.setReg_bundle (s : State) (p off : Nat) (v : Word) (i : Nat) : (s.setReg p off v).bundle i = s.bundle i := rfl
@[simp] theorem State.setReg_trv (s : State) (p off : Nat) (v : Word) (i : TPort) : (s.setReg p off v).trv i = s.trv i := rfl
@[simp] theorem State.setReg_liftPort (s : State) (p off : Nat) (v : Word) (i : Side) : (s.setReg p off v).liftPort i = s.liftPort i := rfl
@[simp] theorem State.setReg_chan (s : State) (p off : Nat) (v : Word) (i j : Nat) : (s.setReg p off v).chan i j = s.chan i j := rfl
@[simp] theorem State.setReg_die (s : State) (p off : Nat) (v : Word) (i : Nat) : (s.setReg p off v).die i = s.die i := rfl
@[simp] theorem State.setReg_coreTask (s : State) (p off : Nat) (v : Word) (i : Nat) : (s.setReg p off v).coreTask i = s.coreTask i := rfl
@[simp] theorem State.setReg_coreJob (s : State) (p off : Nat) (v : Word) (i : Nat) : (s.setReg p off v).coreJob i = s.coreJob i := rfl
@[simp] theorem State.setReg_coreBase (s : State) (p off : Nat) (v : Word) (i : Nat) : (s.setReg p off v).coreBase i = s.coreBase i := rfl
@[simp] theorem State.setReg_coreUp (s : State) (p off : Nat) (v : Word) (i : Nat) : (s.setReg p off v).coreUp i = s.coreUp i := rfl
@[simp] theorem State.setReg_coreAwake (s : State) (p off : Nat) (v : Word) (i : Nat) : (s.setReg p off v).coreAwake i = s.coreAwake i := rfl

@[simp] theorem State.count_time (s : State) (p off k : Nat) : (s.count p off k).time = s.time := rfl
@[simp] theorem State.count_refOk (s : State) (p off k : Nat) : (s.count p off k).refOk = s.refOk := rfl
@[simp] theorem State.count_holdover (s : State) (p off k : Nat) : (s.count p off k).holdover = s.holdover := rfl
@[simp] theorem State.count_phase (s : State) (p off k : Nat) : (s.count p off k).phase = s.phase := rfl
@[simp] theorem State.count_porN (s : State) (p off k : Nat) : (s.count p off k).porN = s.porN := rfl
@[simp] theorem State.count_perstN (s : State) (p off k : Nat) : (s.count p off k).perstN = s.perstN := rfl
@[simp] theorem State.count_strap0 (s : State) (p off k : Nat) : (s.count p off k).strap0 = s.strap0 := rfl
@[simp] theorem State.count_strap1 (s : State) (p off k : Nat) : (s.count p off k).strap1 = s.strap1 := rfl
@[simp] theorem State.count_trip (s : State) (p off k : Nat) : (s.count p off k).trip = s.trip := rfl
@[simp] theorem State.count_tap (s : State) (p off k : Nat) : (s.count p off k).tap = s.tap := rfl
@[simp] theorem State.count_chain (s : State) (p off k : Nat) : (s.count p off k).chain = s.chain := rfl
@[simp] theorem State.count_cores (s : State) (p off k : Nat) : (s.count p off k).cores = s.cores := rfl
@[simp] theorem State.count_slices (s : State) (p off k : Nat) : (s.count p off k).slices = s.slices := rfl
@[simp] theorem State.count_presented (s : State) (p off k : Nat) : (s.count p off k).presented = s.presented := rfl
@[simp] theorem State.count_dies (s : State) (p off k : Nat) : (s.count p off k).dies = s.dies := rfl
@[simp] theorem State.count_place (s : State) (p off k : Nat) : (s.count p off k).place = s.place := rfl
@[simp] theorem State.count_epoch (s : State) (p off k : Nat) : (s.count p off k).epoch = s.epoch := rfl
@[simp] theorem State.count_schedule (s : State) (p off k : Nat) : (s.count p off k).schedule = s.schedule := rfl
@[simp] theorem State.count_pcores (s : State) (p off k : Nat) : (s.count p off k).pcores = s.pcores := rfl
@[simp] theorem State.count_retired (s : State) (p off k : Nat) : (s.count p off k).retired = s.retired := rfl
@[simp] theorem State.count_bridges (s : State) (p off k : Nat) : (s.count p off k).bridges = s.bridges := rfl
@[simp] theorem State.count_chans (s : State) (p off k : Nat) : (s.count p off k).chans = s.chans := rfl
@[simp] theorem State.count_hashQ (s : State) (p off k : Nat) : (s.count p off k).hashQ = s.hashQ := rfl
@[simp] theorem State.count_hot (s : State) (p off k : Nat) : (s.count p off k).hot = s.hot := rfl
@[simp] theorem State.count_host (s : State) (p off k : Nat) : (s.count p off k).host = s.host := rfl
@[simp] theorem State.count_lift (s : State) (p off k : Nat) : (s.count p off k).lift = s.lift := rfl
@[simp] theorem State.count_trvA (s : State) (p off k : Nat) : (s.count p off k).trvA = s.trvA := rfl
@[simp] theorem State.count_trvB (s : State) (p off k : Nat) : (s.count p off k).trvB = s.trvB := rfl
@[simp] theorem State.count_bundles (s : State) (p off k : Nat) : (s.count p off k).bundles = s.bundles := rfl
@[simp] theorem State.count_loadOrder (s : State) (p off k : Nat) : (s.count p off k).loadOrder = s.loadOrder := rfl
@[simp] theorem State.count_saves (s : State) (p off k : Nat) : (s.count p off k).saves = s.saves := rfl
@[simp] theorem State.count_saveNo (s : State) (p off k : Nat) : (s.count p off k).saveNo = s.saveNo := rfl
@[simp] theorem State.count_diesPw (s : State) (p off k : Nat) : (s.count p off k).diesPw = s.diesPw := rfl
@[simp] theorem State.count_capMiss (s : State) (p off k : Nat) : (s.count p off k).capMiss = s.capMiss := rfl
@[simp] theorem State.count_flash (s : State) (p off k : Nat) : (s.count p off k).flash = s.flash := rfl
@[simp] theorem State.count_toJournal (s : State) (p off k : Nat) : (s.count p off k).toJournal = s.toJournal := rfl
@[simp] theorem State.count_config (s : State) (p off k : Nat) : (s.count p off k).config = s.config := rfl
@[simp] theorem State.count_fw (s : State) (p off k : Nat) : (s.count p off k).fw = s.fw := rfl
@[simp] theorem State.count_runsB (s : State) (p off k : Nat) : (s.count p off k).runsB = s.runsB := rfl
@[simp] theorem State.count_liftClk (s : State) (p off k : Nat) : (s.count p off k).liftClk = s.liftClk := rfl
@[simp] theorem State.count_trvClk (s : State) (p off k : Nat) : (s.count p off k).trvClk = s.trvClk := rfl
@[simp] theorem State.count_spdmUp (s : State) (p off k : Nat) : (s.count p off k).spdmUp = s.spdmUp := rfl
@[simp] theorem State.count_faultUnread (s : State) (p off k : Nat) : (s.count p off k).faultUnread = s.faultUnread := rfl
@[simp] theorem State.count_free (s : State) (p off k : Nat) : (s.count p off k).free = s.free := rfl
@[simp] theorem State.count_outbox (s : State) (p off k : Nat) : (s.count p off k).outbox = s.outbox := rfl
@[simp] theorem State.count_pending (s : State) (p off k : Nat) : (s.count p off k).pending = s.pending := rfl
@[simp] theorem State.count_core (s : State) (p off k : Nat) (i : Nat) : (s.count p off k).core i = s.core i := rfl
@[simp] theorem State.count_pcore (s : State) (p off k : Nat) (i : Nat) : (s.count p off k).pcore i = s.pcore i := rfl
@[simp] theorem State.count_hostOf (s : State) (p off k : Nat) (i : Nat) : (s.count p off k).hostOf i = s.hostOf i := rfl
@[simp] theorem State.count_isPresented (s : State) (p off k : Nat) (i : Nat) : (s.count p off k).isPresented i = s.isPresented i := rfl
@[simp] theorem State.count_physSlice (s : State) (p off k : Nat) (i : Nat) : (s.count p off k).physSlice i = s.physSlice i := rfl
@[simp] theorem State.count_unit (s : State) (p off k : Nat) (i j : Nat) : (s.count p off k).unit i j = s.unit i j := rfl
@[simp] theorem State.count_context (s : State) (p off k : Nat) (i : Nat) : (s.count p off k).context i = s.context i := rfl
@[simp] theorem State.count_task (s : State) (p off k : Nat) (i : Nat) : (s.count p off k).task i = s.task i := rfl
@[simp] theorem State.count_queue (s : State) (p off k : Nat) (i : Nat) : (s.count p off k).queue i = s.queue i := rfl
@[simp] theorem State.count_bundle (s : State) (p off k : Nat) (i : Nat) : (s.count p off k).bundle i = s.bundle i := rfl
@[simp] theorem State.count_trv (s : State) (p off k : Nat) (i : TPort) : (s.count p off k).trv i = s.trv i := rfl
@[simp] theorem State.count_liftPort (s : State) (p off k : Nat) (i : Side) : (s.count p off k).liftPort i = s.liftPort i := rfl
@[simp] theorem State.count_chan (s : State) (p off k : Nat) (i j : Nat) : (s.count p off k).chan i j = s.chan i j := rfl
@[simp] theorem State.count_die (s : State) (p off k : Nat) (i : Nat) : (s.count p off k).die i = s.die i := rfl
@[simp] theorem State.count_coreTask (s : State) (p off k : Nat) (i : Nat) : (s.count p off k).coreTask i = s.coreTask i := rfl
@[simp] theorem State.count_coreJob (s : State) (p off k : Nat) (i : Nat) : (s.count p off k).coreJob i = s.coreJob i := rfl
@[simp] theorem State.count_coreBase (s : State) (p off k : Nat) (i : Nat) : (s.count p off k).coreBase i = s.coreBase i := rfl
@[simp] theorem State.count_coreUp (s : State) (p off k : Nat) (i : Nat) : (s.count p off k).coreUp i = s.coreUp i := rfl
@[simp] theorem State.count_coreAwake (s : State) (p off k : Nat) (i : Nat) : (s.count p off k).coreAwake i = s.coreAwake i := rfl

@[simp] theorem State.modPcore_time (s : State) (p : Nat) (f : Pcore → Pcore) : (s.modPcore p f).time = s.time := rfl
@[simp] theorem State.modPcore_refOk (s : State) (p : Nat) (f : Pcore → Pcore) : (s.modPcore p f).refOk = s.refOk := rfl
@[simp] theorem State.modPcore_holdover (s : State) (p : Nat) (f : Pcore → Pcore) : (s.modPcore p f).holdover = s.holdover := rfl
@[simp] theorem State.modPcore_phase (s : State) (p : Nat) (f : Pcore → Pcore) : (s.modPcore p f).phase = s.phase := rfl
@[simp] theorem State.modPcore_porN (s : State) (p : Nat) (f : Pcore → Pcore) : (s.modPcore p f).porN = s.porN := rfl
@[simp] theorem State.modPcore_perstN (s : State) (p : Nat) (f : Pcore → Pcore) : (s.modPcore p f).perstN = s.perstN := rfl
@[simp] theorem State.modPcore_strap0 (s : State) (p : Nat) (f : Pcore → Pcore) : (s.modPcore p f).strap0 = s.strap0 := rfl
@[simp] theorem State.modPcore_strap1 (s : State) (p : Nat) (f : Pcore → Pcore) : (s.modPcore p f).strap1 = s.strap1 := rfl
@[simp] theorem State.modPcore_trip (s : State) (p : Nat) (f : Pcore → Pcore) : (s.modPcore p f).trip = s.trip := rfl
@[simp] theorem State.modPcore_tap (s : State) (p : Nat) (f : Pcore → Pcore) : (s.modPcore p f).tap = s.tap := rfl
@[simp] theorem State.modPcore_chain (s : State) (p : Nat) (f : Pcore → Pcore) : (s.modPcore p f).chain = s.chain := rfl
@[simp] theorem State.modPcore_pages (s : State) (p : Nat) (f : Pcore → Pcore) : (s.modPcore p f).pages = s.pages := rfl
@[simp] theorem State.modPcore_cores (s : State) (p : Nat) (f : Pcore → Pcore) : (s.modPcore p f).cores = s.cores := rfl
@[simp] theorem State.modPcore_slices (s : State) (p : Nat) (f : Pcore → Pcore) : (s.modPcore p f).slices = s.slices := rfl
@[simp] theorem State.modPcore_presented (s : State) (p : Nat) (f : Pcore → Pcore) : (s.modPcore p f).presented = s.presented := rfl
@[simp] theorem State.modPcore_dies (s : State) (p : Nat) (f : Pcore → Pcore) : (s.modPcore p f).dies = s.dies := rfl
@[simp] theorem State.modPcore_place (s : State) (p : Nat) (f : Pcore → Pcore) : (s.modPcore p f).place = s.place := rfl
@[simp] theorem State.modPcore_epoch (s : State) (p : Nat) (f : Pcore → Pcore) : (s.modPcore p f).epoch = s.epoch := rfl
@[simp] theorem State.modPcore_schedule (s : State) (p : Nat) (f : Pcore → Pcore) : (s.modPcore p f).schedule = s.schedule := rfl
@[simp] theorem State.modPcore_retired (s : State) (p : Nat) (f : Pcore → Pcore) : (s.modPcore p f).retired = s.retired := rfl
@[simp] theorem State.modPcore_bridges (s : State) (p : Nat) (f : Pcore → Pcore) : (s.modPcore p f).bridges = s.bridges := rfl
@[simp] theorem State.modPcore_chans (s : State) (p : Nat) (f : Pcore → Pcore) : (s.modPcore p f).chans = s.chans := rfl
@[simp] theorem State.modPcore_hashQ (s : State) (p : Nat) (f : Pcore → Pcore) : (s.modPcore p f).hashQ = s.hashQ := rfl
@[simp] theorem State.modPcore_hot (s : State) (p : Nat) (f : Pcore → Pcore) : (s.modPcore p f).hot = s.hot := rfl
@[simp] theorem State.modPcore_host (s : State) (p : Nat) (f : Pcore → Pcore) : (s.modPcore p f).host = s.host := rfl
@[simp] theorem State.modPcore_lift (s : State) (p : Nat) (f : Pcore → Pcore) : (s.modPcore p f).lift = s.lift := rfl
@[simp] theorem State.modPcore_trvA (s : State) (p : Nat) (f : Pcore → Pcore) : (s.modPcore p f).trvA = s.trvA := rfl
@[simp] theorem State.modPcore_trvB (s : State) (p : Nat) (f : Pcore → Pcore) : (s.modPcore p f).trvB = s.trvB := rfl
@[simp] theorem State.modPcore_bundles (s : State) (p : Nat) (f : Pcore → Pcore) : (s.modPcore p f).bundles = s.bundles := rfl
@[simp] theorem State.modPcore_loadOrder (s : State) (p : Nat) (f : Pcore → Pcore) : (s.modPcore p f).loadOrder = s.loadOrder := rfl
@[simp] theorem State.modPcore_saves (s : State) (p : Nat) (f : Pcore → Pcore) : (s.modPcore p f).saves = s.saves := rfl
@[simp] theorem State.modPcore_saveNo (s : State) (p : Nat) (f : Pcore → Pcore) : (s.modPcore p f).saveNo = s.saveNo := rfl
@[simp] theorem State.modPcore_diesPw (s : State) (p : Nat) (f : Pcore → Pcore) : (s.modPcore p f).diesPw = s.diesPw := rfl
@[simp] theorem State.modPcore_capMiss (s : State) (p : Nat) (f : Pcore → Pcore) : (s.modPcore p f).capMiss = s.capMiss := rfl
@[simp] theorem State.modPcore_flash (s : State) (p : Nat) (f : Pcore → Pcore) : (s.modPcore p f).flash = s.flash := rfl
@[simp] theorem State.modPcore_toJournal (s : State) (p : Nat) (f : Pcore → Pcore) : (s.modPcore p f).toJournal = s.toJournal := rfl
@[simp] theorem State.modPcore_config (s : State) (p : Nat) (f : Pcore → Pcore) : (s.modPcore p f).config = s.config := rfl
@[simp] theorem State.modPcore_fw (s : State) (p : Nat) (f : Pcore → Pcore) : (s.modPcore p f).fw = s.fw := rfl
@[simp] theorem State.modPcore_runsB (s : State) (p : Nat) (f : Pcore → Pcore) : (s.modPcore p f).runsB = s.runsB := rfl
@[simp] theorem State.modPcore_liftClk (s : State) (p : Nat) (f : Pcore → Pcore) : (s.modPcore p f).liftClk = s.liftClk := rfl
@[simp] theorem State.modPcore_trvClk (s : State) (p : Nat) (f : Pcore → Pcore) : (s.modPcore p f).trvClk = s.trvClk := rfl
@[simp] theorem State.modPcore_spdmUp (s : State) (p : Nat) (f : Pcore → Pcore) : (s.modPcore p f).spdmUp = s.spdmUp := rfl
@[simp] theorem State.modPcore_faultUnread (s : State) (p : Nat) (f : Pcore → Pcore) : (s.modPcore p f).faultUnread = s.faultUnread := rfl
@[simp] theorem State.modPcore_free (s : State) (p : Nat) (f : Pcore → Pcore) : (s.modPcore p f).free = s.free := rfl
@[simp] theorem State.modPcore_outbox (s : State) (p : Nat) (f : Pcore → Pcore) : (s.modPcore p f).outbox = s.outbox := rfl
@[simp] theorem State.modPcore_pending (s : State) (p : Nat) (f : Pcore → Pcore) : (s.modPcore p f).pending = s.pending := rfl
@[simp] theorem State.modPcore_core (s : State) (p : Nat) (f : Pcore → Pcore) (i : Nat) : (s.modPcore p f).core i = s.core i := rfl
@[simp] theorem State.modPcore_page (s : State) (p : Nat) (f : Pcore → Pcore) (i : Nat) : (s.modPcore p f).page i = s.page i := rfl
@[simp] theorem State.modPcore_reg (s : State) (p : Nat) (f : Pcore → Pcore) (i j : Nat) : (s.modPcore p f).reg i j = s.reg i j := rfl
@[simp] theorem State.modPcore_counter (s : State) (p : Nat) (f : Pcore → Pcore) (i j : Nat) : (s.modPcore p f).counter i j = s.counter i j := rfl
@[simp] theorem State.modPcore_hostOf (s : State) (p : Nat) (f : Pcore → Pcore) (i : Nat) : (s.modPcore p f).hostOf i = s.hostOf i := rfl
@[simp] theorem State.modPcore_isPresented (s : State) (p : Nat) (f : Pcore → Pcore) (i : Nat) : (s.modPcore p f).isPresented i = s.isPresented i := rfl
@[simp] theorem State.modPcore_physSlice (s : State) (p : Nat) (f : Pcore → Pcore) (i : Nat) : (s.modPcore p f).physSlice i = s.physSlice i := rfl
@[simp] theorem State.modPcore_unit (s : State) (p : Nat) (f : Pcore → Pcore) (i j : Nat) : (s.modPcore p f).unit i j = s.unit i j := rfl
@[simp] theorem State.modPcore_context (s : State) (p : Nat) (f : Pcore → Pcore) (i : Nat) : (s.modPcore p f).context i = s.context i := rfl
@[simp] theorem State.modPcore_task (s : State) (p : Nat) (f : Pcore → Pcore) (i : Nat) : (s.modPcore p f).task i = s.task i := rfl
@[simp] theorem State.modPcore_queue (s : State) (p : Nat) (f : Pcore → Pcore) (i : Nat) : (s.modPcore p f).queue i = s.queue i := rfl
@[simp] theorem State.modPcore_ring (s : State) (p : Nat) (f : Pcore → Pcore) (i : Nat) : (s.modPcore p f).ring i = s.ring i := rfl
@[simp] theorem State.modPcore_bundle (s : State) (p : Nat) (f : Pcore → Pcore) (i : Nat) : (s.modPcore p f).bundle i = s.bundle i := rfl
@[simp] theorem State.modPcore_trv (s : State) (p : Nat) (f : Pcore → Pcore) (i : TPort) : (s.modPcore p f).trv i = s.trv i := rfl
@[simp] theorem State.modPcore_liftPort (s : State) (p : Nat) (f : Pcore → Pcore) (i : Side) : (s.modPcore p f).liftPort i = s.liftPort i := rfl
@[simp] theorem State.modPcore_chan (s : State) (p : Nat) (f : Pcore → Pcore) (i j : Nat) : (s.modPcore p f).chan i j = s.chan i j := rfl
@[simp] theorem State.modPcore_die (s : State) (p : Nat) (f : Pcore → Pcore) (i : Nat) : (s.modPcore p f).die i = s.die i := rfl
@[simp] theorem State.modPcore_coreTask (s : State) (p : Nat) (f : Pcore → Pcore) (i : Nat) : (s.modPcore p f).coreTask i = s.coreTask i := rfl
@[simp] theorem State.modPcore_coreJob (s : State) (p : Nat) (f : Pcore → Pcore) (i : Nat) : (s.modPcore p f).coreJob i = s.coreJob i := rfl
@[simp] theorem State.modPcore_coreBase (s : State) (p : Nat) (f : Pcore → Pcore) (i : Nat) : (s.modPcore p f).coreBase i = s.coreBase i := rfl
@[simp] theorem State.modPcore_linkState (s : State) (p : Nat) (f : Pcore → Pcore) (i : Side) : (s.modPcore p f).linkState i = s.linkState i := rfl
@[simp] theorem State.modPcore_linkUp (s : State) (p : Nat) (f : Pcore → Pcore) (i : Side) : (s.modPcore p f).linkUp i = s.linkUp i := rfl

@[simp] theorem State.setUnit_time (s : State) (n u : Nat) (r : Row) : (s.setUnit n u r).time = s.time := rfl
@[simp] theorem State.setUnit_refOk (s : State) (n u : Nat) (r : Row) : (s.setUnit n u r).refOk = s.refOk := rfl
@[simp] theorem State.setUnit_holdover (s : State) (n u : Nat) (r : Row) : (s.setUnit n u r).holdover = s.holdover := rfl
@[simp] theorem State.setUnit_phase (s : State) (n u : Nat) (r : Row) : (s.setUnit n u r).phase = s.phase := rfl
@[simp] theorem State.setUnit_porN (s : State) (n u : Nat) (r : Row) : (s.setUnit n u r).porN = s.porN := rfl
@[simp] theorem State.setUnit_perstN (s : State) (n u : Nat) (r : Row) : (s.setUnit n u r).perstN = s.perstN := rfl
@[simp] theorem State.setUnit_strap0 (s : State) (n u : Nat) (r : Row) : (s.setUnit n u r).strap0 = s.strap0 := rfl
@[simp] theorem State.setUnit_strap1 (s : State) (n u : Nat) (r : Row) : (s.setUnit n u r).strap1 = s.strap1 := rfl
@[simp] theorem State.setUnit_trip (s : State) (n u : Nat) (r : Row) : (s.setUnit n u r).trip = s.trip := rfl
@[simp] theorem State.setUnit_tap (s : State) (n u : Nat) (r : Row) : (s.setUnit n u r).tap = s.tap := rfl
@[simp] theorem State.setUnit_chain (s : State) (n u : Nat) (r : Row) : (s.setUnit n u r).chain = s.chain := rfl
@[simp] theorem State.setUnit_pages (s : State) (n u : Nat) (r : Row) : (s.setUnit n u r).pages = s.pages := rfl
@[simp] theorem State.setUnit_cores (s : State) (n u : Nat) (r : Row) : (s.setUnit n u r).cores = s.cores := rfl
@[simp] theorem State.setUnit_presented (s : State) (n u : Nat) (r : Row) : (s.setUnit n u r).presented = s.presented := rfl
@[simp] theorem State.setUnit_dies (s : State) (n u : Nat) (r : Row) : (s.setUnit n u r).dies = s.dies := rfl
@[simp] theorem State.setUnit_place (s : State) (n u : Nat) (r : Row) : (s.setUnit n u r).place = s.place := rfl
@[simp] theorem State.setUnit_epoch (s : State) (n u : Nat) (r : Row) : (s.setUnit n u r).epoch = s.epoch := rfl
@[simp] theorem State.setUnit_schedule (s : State) (n u : Nat) (r : Row) : (s.setUnit n u r).schedule = s.schedule := rfl
@[simp] theorem State.setUnit_pcores (s : State) (n u : Nat) (r : Row) : (s.setUnit n u r).pcores = s.pcores := rfl
@[simp] theorem State.setUnit_retired (s : State) (n u : Nat) (r : Row) : (s.setUnit n u r).retired = s.retired := rfl
@[simp] theorem State.setUnit_bridges (s : State) (n u : Nat) (r : Row) : (s.setUnit n u r).bridges = s.bridges := rfl
@[simp] theorem State.setUnit_chans (s : State) (n u : Nat) (r : Row) : (s.setUnit n u r).chans = s.chans := rfl
@[simp] theorem State.setUnit_hashQ (s : State) (n u : Nat) (r : Row) : (s.setUnit n u r).hashQ = s.hashQ := rfl
@[simp] theorem State.setUnit_hot (s : State) (n u : Nat) (r : Row) : (s.setUnit n u r).hot = s.hot := rfl
@[simp] theorem State.setUnit_host (s : State) (n u : Nat) (r : Row) : (s.setUnit n u r).host = s.host := rfl
@[simp] theorem State.setUnit_lift (s : State) (n u : Nat) (r : Row) : (s.setUnit n u r).lift = s.lift := rfl
@[simp] theorem State.setUnit_trvA (s : State) (n u : Nat) (r : Row) : (s.setUnit n u r).trvA = s.trvA := rfl
@[simp] theorem State.setUnit_trvB (s : State) (n u : Nat) (r : Row) : (s.setUnit n u r).trvB = s.trvB := rfl
@[simp] theorem State.setUnit_bundles (s : State) (n u : Nat) (r : Row) : (s.setUnit n u r).bundles = s.bundles := rfl
@[simp] theorem State.setUnit_loadOrder (s : State) (n u : Nat) (r : Row) : (s.setUnit n u r).loadOrder = s.loadOrder := rfl
@[simp] theorem State.setUnit_saves (s : State) (n u : Nat) (r : Row) : (s.setUnit n u r).saves = s.saves := rfl
@[simp] theorem State.setUnit_saveNo (s : State) (n u : Nat) (r : Row) : (s.setUnit n u r).saveNo = s.saveNo := rfl
@[simp] theorem State.setUnit_diesPw (s : State) (n u : Nat) (r : Row) : (s.setUnit n u r).diesPw = s.diesPw := rfl
@[simp] theorem State.setUnit_capMiss (s : State) (n u : Nat) (r : Row) : (s.setUnit n u r).capMiss = s.capMiss := rfl
@[simp] theorem State.setUnit_flash (s : State) (n u : Nat) (r : Row) : (s.setUnit n u r).flash = s.flash := rfl
@[simp] theorem State.setUnit_toJournal (s : State) (n u : Nat) (r : Row) : (s.setUnit n u r).toJournal = s.toJournal := rfl
@[simp] theorem State.setUnit_config (s : State) (n u : Nat) (r : Row) : (s.setUnit n u r).config = s.config := rfl
@[simp] theorem State.setUnit_fw (s : State) (n u : Nat) (r : Row) : (s.setUnit n u r).fw = s.fw := rfl
@[simp] theorem State.setUnit_runsB (s : State) (n u : Nat) (r : Row) : (s.setUnit n u r).runsB = s.runsB := rfl
@[simp] theorem State.setUnit_liftClk (s : State) (n u : Nat) (r : Row) : (s.setUnit n u r).liftClk = s.liftClk := rfl
@[simp] theorem State.setUnit_trvClk (s : State) (n u : Nat) (r : Row) : (s.setUnit n u r).trvClk = s.trvClk := rfl
@[simp] theorem State.setUnit_spdmUp (s : State) (n u : Nat) (r : Row) : (s.setUnit n u r).spdmUp = s.spdmUp := rfl
@[simp] theorem State.setUnit_faultUnread (s : State) (n u : Nat) (r : Row) : (s.setUnit n u r).faultUnread = s.faultUnread := rfl
@[simp] theorem State.setUnit_free (s : State) (n u : Nat) (r : Row) : (s.setUnit n u r).free = s.free := rfl
@[simp] theorem State.setUnit_outbox (s : State) (n u : Nat) (r : Row) : (s.setUnit n u r).outbox = s.outbox := rfl
@[simp] theorem State.setUnit_pending (s : State) (n u : Nat) (r : Row) : (s.setUnit n u r).pending = s.pending := rfl
@[simp] theorem State.setUnit_core (s : State) (n u : Nat) (r : Row) (i : Nat) : (s.setUnit n u r).core i = s.core i := rfl
@[simp] theorem State.setUnit_page (s : State) (n u : Nat) (r : Row) (i : Nat) : (s.setUnit n u r).page i = s.page i := rfl
@[simp] theorem State.setUnit_reg (s : State) (n u : Nat) (r : Row) (i j : Nat) : (s.setUnit n u r).reg i j = s.reg i j := rfl
@[simp] theorem State.setUnit_counter (s : State) (n u : Nat) (r : Row) (i j : Nat) : (s.setUnit n u r).counter i j = s.counter i j := rfl
@[simp] theorem State.setUnit_pcore (s : State) (n u : Nat) (r : Row) (i : Nat) : (s.setUnit n u r).pcore i = s.pcore i := rfl
@[simp] theorem State.setUnit_hostOf (s : State) (n u : Nat) (r : Row) (i : Nat) : (s.setUnit n u r).hostOf i = s.hostOf i := rfl
@[simp] theorem State.setUnit_isPresented (s : State) (n u : Nat) (r : Row) (i : Nat) : (s.setUnit n u r).isPresented i = s.isPresented i := rfl
@[simp] theorem State.setUnit_physSlice (s : State) (n u : Nat) (r : Row) (i : Nat) : (s.setUnit n u r).physSlice i = s.physSlice i := rfl
@[simp] theorem State.setUnit_context (s : State) (n u : Nat) (r : Row) (i : Nat) : (s.setUnit n u r).context i = s.context i := rfl
@[simp] theorem State.setUnit_task (s : State) (n u : Nat) (r : Row) (i : Nat) : (s.setUnit n u r).task i = s.task i := rfl
@[simp] theorem State.setUnit_queue (s : State) (n u : Nat) (r : Row) (i : Nat) : (s.setUnit n u r).queue i = s.queue i := rfl
@[simp] theorem State.setUnit_ring (s : State) (n u : Nat) (r : Row) (i : Nat) : (s.setUnit n u r).ring i = s.ring i := rfl
@[simp] theorem State.setUnit_bundle (s : State) (n u : Nat) (r : Row) (i : Nat) : (s.setUnit n u r).bundle i = s.bundle i := rfl
@[simp] theorem State.setUnit_trv (s : State) (n u : Nat) (r : Row) (i : TPort) : (s.setUnit n u r).trv i = s.trv i := rfl
@[simp] theorem State.setUnit_liftPort (s : State) (n u : Nat) (r : Row) (i : Side) : (s.setUnit n u r).liftPort i = s.liftPort i := rfl
@[simp] theorem State.setUnit_chan (s : State) (n u : Nat) (r : Row) (i j : Nat) : (s.setUnit n u r).chan i j = s.chan i j := rfl
@[simp] theorem State.setUnit_die (s : State) (n u : Nat) (r : Row) (i : Nat) : (s.setUnit n u r).die i = s.die i := rfl
@[simp] theorem State.setUnit_coreTask (s : State) (n u : Nat) (r : Row) (i : Nat) : (s.setUnit n u r).coreTask i = s.coreTask i := rfl
@[simp] theorem State.setUnit_coreJob (s : State) (n u : Nat) (r : Row) (i : Nat) : (s.setUnit n u r).coreJob i = s.coreJob i := rfl
@[simp] theorem State.setUnit_coreBase (s : State) (n u : Nat) (r : Row) (i : Nat) : (s.setUnit n u r).coreBase i = s.coreBase i := rfl
@[simp] theorem State.setUnit_linkState (s : State) (n u : Nat) (r : Row) (i : Side) : (s.setUnit n u r).linkState i = s.linkState i := rfl
@[simp] theorem State.setUnit_linkUp (s : State) (n u : Nat) (r : Row) (i : Side) : (s.setUnit n u r).linkUp i = s.linkUp i := rfl
@[simp] theorem State.setUnit_coreUp (s : State) (n u : Nat) (r : Row) (i : Nat) : (s.setUnit n u r).coreUp i = s.coreUp i := rfl
@[simp] theorem State.setUnit_coreAwake (s : State) (n u : Nat) (r : Row) (i : Nat) : (s.setUnit n u r).coreAwake i = s.coreAwake i := rfl

@[simp] theorem State.modHost_time (s : State) (f : HostSide → HostSide) : (s.modHost f).time = s.time := rfl
@[simp] theorem State.modHost_refOk (s : State) (f : HostSide → HostSide) : (s.modHost f).refOk = s.refOk := rfl
@[simp] theorem State.modHost_holdover (s : State) (f : HostSide → HostSide) : (s.modHost f).holdover = s.holdover := rfl
@[simp] theorem State.modHost_phase (s : State) (f : HostSide → HostSide) : (s.modHost f).phase = s.phase := rfl
@[simp] theorem State.modHost_porN (s : State) (f : HostSide → HostSide) : (s.modHost f).porN = s.porN := rfl
@[simp] theorem State.modHost_perstN (s : State) (f : HostSide → HostSide) : (s.modHost f).perstN = s.perstN := rfl
@[simp] theorem State.modHost_strap0 (s : State) (f : HostSide → HostSide) : (s.modHost f).strap0 = s.strap0 := rfl
@[simp] theorem State.modHost_strap1 (s : State) (f : HostSide → HostSide) : (s.modHost f).strap1 = s.strap1 := rfl
@[simp] theorem State.modHost_trip (s : State) (f : HostSide → HostSide) : (s.modHost f).trip = s.trip := rfl
@[simp] theorem State.modHost_tap (s : State) (f : HostSide → HostSide) : (s.modHost f).tap = s.tap := rfl
@[simp] theorem State.modHost_chain (s : State) (f : HostSide → HostSide) : (s.modHost f).chain = s.chain := rfl
@[simp] theorem State.modHost_pages (s : State) (f : HostSide → HostSide) : (s.modHost f).pages = s.pages := rfl
@[simp] theorem State.modHost_cores (s : State) (f : HostSide → HostSide) : (s.modHost f).cores = s.cores := rfl
@[simp] theorem State.modHost_slices (s : State) (f : HostSide → HostSide) : (s.modHost f).slices = s.slices := rfl
@[simp] theorem State.modHost_presented (s : State) (f : HostSide → HostSide) : (s.modHost f).presented = s.presented := rfl
@[simp] theorem State.modHost_dies (s : State) (f : HostSide → HostSide) : (s.modHost f).dies = s.dies := rfl
@[simp] theorem State.modHost_place (s : State) (f : HostSide → HostSide) : (s.modHost f).place = s.place := rfl
@[simp] theorem State.modHost_epoch (s : State) (f : HostSide → HostSide) : (s.modHost f).epoch = s.epoch := rfl
@[simp] theorem State.modHost_schedule (s : State) (f : HostSide → HostSide) : (s.modHost f).schedule = s.schedule := rfl
@[simp] theorem State.modHost_pcores (s : State) (f : HostSide → HostSide) : (s.modHost f).pcores = s.pcores := rfl
@[simp] theorem State.modHost_retired (s : State) (f : HostSide → HostSide) : (s.modHost f).retired = s.retired := rfl
@[simp] theorem State.modHost_bridges (s : State) (f : HostSide → HostSide) : (s.modHost f).bridges = s.bridges := rfl
@[simp] theorem State.modHost_chans (s : State) (f : HostSide → HostSide) : (s.modHost f).chans = s.chans := rfl
@[simp] theorem State.modHost_hashQ (s : State) (f : HostSide → HostSide) : (s.modHost f).hashQ = s.hashQ := rfl
@[simp] theorem State.modHost_hot (s : State) (f : HostSide → HostSide) : (s.modHost f).hot = s.hot := rfl
@[simp] theorem State.modHost_lift (s : State) (f : HostSide → HostSide) : (s.modHost f).lift = s.lift := rfl
@[simp] theorem State.modHost_trvA (s : State) (f : HostSide → HostSide) : (s.modHost f).trvA = s.trvA := rfl
@[simp] theorem State.modHost_trvB (s : State) (f : HostSide → HostSide) : (s.modHost f).trvB = s.trvB := rfl
@[simp] theorem State.modHost_bundles (s : State) (f : HostSide → HostSide) : (s.modHost f).bundles = s.bundles := rfl
@[simp] theorem State.modHost_loadOrder (s : State) (f : HostSide → HostSide) : (s.modHost f).loadOrder = s.loadOrder := rfl
@[simp] theorem State.modHost_saves (s : State) (f : HostSide → HostSide) : (s.modHost f).saves = s.saves := rfl
@[simp] theorem State.modHost_saveNo (s : State) (f : HostSide → HostSide) : (s.modHost f).saveNo = s.saveNo := rfl
@[simp] theorem State.modHost_diesPw (s : State) (f : HostSide → HostSide) : (s.modHost f).diesPw = s.diesPw := rfl
@[simp] theorem State.modHost_capMiss (s : State) (f : HostSide → HostSide) : (s.modHost f).capMiss = s.capMiss := rfl
@[simp] theorem State.modHost_flash (s : State) (f : HostSide → HostSide) : (s.modHost f).flash = s.flash := rfl
@[simp] theorem State.modHost_toJournal (s : State) (f : HostSide → HostSide) : (s.modHost f).toJournal = s.toJournal := rfl
@[simp] theorem State.modHost_config (s : State) (f : HostSide → HostSide) : (s.modHost f).config = s.config := rfl
@[simp] theorem State.modHost_fw (s : State) (f : HostSide → HostSide) : (s.modHost f).fw = s.fw := rfl
@[simp] theorem State.modHost_runsB (s : State) (f : HostSide → HostSide) : (s.modHost f).runsB = s.runsB := rfl
@[simp] theorem State.modHost_liftClk (s : State) (f : HostSide → HostSide) : (s.modHost f).liftClk = s.liftClk := rfl
@[simp] theorem State.modHost_trvClk (s : State) (f : HostSide → HostSide) : (s.modHost f).trvClk = s.trvClk := rfl
@[simp] theorem State.modHost_spdmUp (s : State) (f : HostSide → HostSide) : (s.modHost f).spdmUp = s.spdmUp := rfl
@[simp] theorem State.modHost_faultUnread (s : State) (f : HostSide → HostSide) : (s.modHost f).faultUnread = s.faultUnread := rfl
@[simp] theorem State.modHost_free (s : State) (f : HostSide → HostSide) : (s.modHost f).free = s.free := rfl
@[simp] theorem State.modHost_outbox (s : State) (f : HostSide → HostSide) : (s.modHost f).outbox = s.outbox := rfl
@[simp] theorem State.modHost_pending (s : State) (f : HostSide → HostSide) : (s.modHost f).pending = s.pending := rfl
@[simp] theorem State.modHost_core (s : State) (f : HostSide → HostSide) (i : Nat) : (s.modHost f).core i = s.core i := rfl
@[simp] theorem State.modHost_page (s : State) (f : HostSide → HostSide) (i : Nat) : (s.modHost f).page i = s.page i := rfl
@[simp] theorem State.modHost_reg (s : State) (f : HostSide → HostSide) (i j : Nat) : (s.modHost f).reg i j = s.reg i j := rfl
@[simp] theorem State.modHost_counter (s : State) (f : HostSide → HostSide) (i j : Nat) : (s.modHost f).counter i j = s.counter i j := rfl
@[simp] theorem State.modHost_pcore (s : State) (f : HostSide → HostSide) (i : Nat) : (s.modHost f).pcore i = s.pcore i := rfl
@[simp] theorem State.modHost_hostOf (s : State) (f : HostSide → HostSide) (i : Nat) : (s.modHost f).hostOf i = s.hostOf i := rfl
@[simp] theorem State.modHost_isPresented (s : State) (f : HostSide → HostSide) (i : Nat) : (s.modHost f).isPresented i = s.isPresented i := rfl
@[simp] theorem State.modHost_physSlice (s : State) (f : HostSide → HostSide) (i : Nat) : (s.modHost f).physSlice i = s.physSlice i := rfl
@[simp] theorem State.modHost_unit (s : State) (f : HostSide → HostSide) (i j : Nat) : (s.modHost f).unit i j = s.unit i j := rfl
@[simp] theorem State.modHost_bundle (s : State) (f : HostSide → HostSide) (i : Nat) : (s.modHost f).bundle i = s.bundle i := rfl
@[simp] theorem State.modHost_trv (s : State) (f : HostSide → HostSide) (i : TPort) : (s.modHost f).trv i = s.trv i := rfl
@[simp] theorem State.modHost_liftPort (s : State) (f : HostSide → HostSide) (i : Side) : (s.modHost f).liftPort i = s.liftPort i := rfl
@[simp] theorem State.modHost_chan (s : State) (f : HostSide → HostSide) (i j : Nat) : (s.modHost f).chan i j = s.chan i j := rfl
@[simp] theorem State.modHost_die (s : State) (f : HostSide → HostSide) (i : Nat) : (s.modHost f).die i = s.die i := rfl
@[simp] theorem State.modHost_linkState (s : State) (f : HostSide → HostSide) (i : Side) : (s.modHost f).linkState i = s.linkState i := rfl
@[simp] theorem State.modHost_linkUp (s : State) (f : HostSide → HostSide) (i : Side) : (s.modHost f).linkUp i = s.linkUp i := rfl
@[simp] theorem State.modHost_coreUp (s : State) (f : HostSide → HostSide) (i : Nat) : (s.modHost f).coreUp i = s.coreUp i := rfl
@[simp] theorem State.modHost_coreAwake (s : State) (f : HostSide → HostSide) (i : Nat) : (s.modHost f).coreAwake i = s.coreAwake i := rfl

@[simp] theorem State.setContext_time (s : State) (c : Nat) (x : Context) : (s.setContext c x).time = s.time := rfl
@[simp] theorem State.setContext_refOk (s : State) (c : Nat) (x : Context) : (s.setContext c x).refOk = s.refOk := rfl
@[simp] theorem State.setContext_holdover (s : State) (c : Nat) (x : Context) : (s.setContext c x).holdover = s.holdover := rfl
@[simp] theorem State.setContext_phase (s : State) (c : Nat) (x : Context) : (s.setContext c x).phase = s.phase := rfl
@[simp] theorem State.setContext_porN (s : State) (c : Nat) (x : Context) : (s.setContext c x).porN = s.porN := rfl
@[simp] theorem State.setContext_perstN (s : State) (c : Nat) (x : Context) : (s.setContext c x).perstN = s.perstN := rfl
@[simp] theorem State.setContext_strap0 (s : State) (c : Nat) (x : Context) : (s.setContext c x).strap0 = s.strap0 := rfl
@[simp] theorem State.setContext_strap1 (s : State) (c : Nat) (x : Context) : (s.setContext c x).strap1 = s.strap1 := rfl
@[simp] theorem State.setContext_trip (s : State) (c : Nat) (x : Context) : (s.setContext c x).trip = s.trip := rfl
@[simp] theorem State.setContext_tap (s : State) (c : Nat) (x : Context) : (s.setContext c x).tap = s.tap := rfl
@[simp] theorem State.setContext_chain (s : State) (c : Nat) (x : Context) : (s.setContext c x).chain = s.chain := rfl
@[simp] theorem State.setContext_pages (s : State) (c : Nat) (x : Context) : (s.setContext c x).pages = s.pages := rfl
@[simp] theorem State.setContext_cores (s : State) (c : Nat) (x : Context) : (s.setContext c x).cores = s.cores := rfl
@[simp] theorem State.setContext_slices (s : State) (c : Nat) (x : Context) : (s.setContext c x).slices = s.slices := rfl
@[simp] theorem State.setContext_presented (s : State) (c : Nat) (x : Context) : (s.setContext c x).presented = s.presented := rfl
@[simp] theorem State.setContext_dies (s : State) (c : Nat) (x : Context) : (s.setContext c x).dies = s.dies := rfl
@[simp] theorem State.setContext_place (s : State) (c : Nat) (x : Context) : (s.setContext c x).place = s.place := rfl
@[simp] theorem State.setContext_epoch (s : State) (c : Nat) (x : Context) : (s.setContext c x).epoch = s.epoch := rfl
@[simp] theorem State.setContext_schedule (s : State) (c : Nat) (x : Context) : (s.setContext c x).schedule = s.schedule := rfl
@[simp] theorem State.setContext_pcores (s : State) (c : Nat) (x : Context) : (s.setContext c x).pcores = s.pcores := rfl
@[simp] theorem State.setContext_retired (s : State) (c : Nat) (x : Context) : (s.setContext c x).retired = s.retired := rfl
@[simp] theorem State.setContext_bridges (s : State) (c : Nat) (x : Context) : (s.setContext c x).bridges = s.bridges := rfl
@[simp] theorem State.setContext_chans (s : State) (c : Nat) (x : Context) : (s.setContext c x).chans = s.chans := rfl
@[simp] theorem State.setContext_hashQ (s : State) (c : Nat) (x : Context) : (s.setContext c x).hashQ = s.hashQ := rfl
@[simp] theorem State.setContext_hot (s : State) (c : Nat) (x : Context) : (s.setContext c x).hot = s.hot := rfl
@[simp] theorem State.setContext_lift (s : State) (c : Nat) (x : Context) : (s.setContext c x).lift = s.lift := rfl
@[simp] theorem State.setContext_trvA (s : State) (c : Nat) (x : Context) : (s.setContext c x).trvA = s.trvA := rfl
@[simp] theorem State.setContext_trvB (s : State) (c : Nat) (x : Context) : (s.setContext c x).trvB = s.trvB := rfl
@[simp] theorem State.setContext_bundles (s : State) (c : Nat) (x : Context) : (s.setContext c x).bundles = s.bundles := rfl
@[simp] theorem State.setContext_loadOrder (s : State) (c : Nat) (x : Context) : (s.setContext c x).loadOrder = s.loadOrder := rfl
@[simp] theorem State.setContext_saves (s : State) (c : Nat) (x : Context) : (s.setContext c x).saves = s.saves := rfl
@[simp] theorem State.setContext_saveNo (s : State) (c : Nat) (x : Context) : (s.setContext c x).saveNo = s.saveNo := rfl
@[simp] theorem State.setContext_diesPw (s : State) (c : Nat) (x : Context) : (s.setContext c x).diesPw = s.diesPw := rfl
@[simp] theorem State.setContext_capMiss (s : State) (c : Nat) (x : Context) : (s.setContext c x).capMiss = s.capMiss := rfl
@[simp] theorem State.setContext_flash (s : State) (c : Nat) (x : Context) : (s.setContext c x).flash = s.flash := rfl
@[simp] theorem State.setContext_toJournal (s : State) (c : Nat) (x : Context) : (s.setContext c x).toJournal = s.toJournal := rfl
@[simp] theorem State.setContext_config (s : State) (c : Nat) (x : Context) : (s.setContext c x).config = s.config := rfl
@[simp] theorem State.setContext_fw (s : State) (c : Nat) (x : Context) : (s.setContext c x).fw = s.fw := rfl
@[simp] theorem State.setContext_runsB (s : State) (c : Nat) (x : Context) : (s.setContext c x).runsB = s.runsB := rfl
@[simp] theorem State.setContext_liftClk (s : State) (c : Nat) (x : Context) : (s.setContext c x).liftClk = s.liftClk := rfl
@[simp] theorem State.setContext_trvClk (s : State) (c : Nat) (x : Context) : (s.setContext c x).trvClk = s.trvClk := rfl
@[simp] theorem State.setContext_spdmUp (s : State) (c : Nat) (x : Context) : (s.setContext c x).spdmUp = s.spdmUp := rfl
@[simp] theorem State.setContext_faultUnread (s : State) (c : Nat) (x : Context) : (s.setContext c x).faultUnread = s.faultUnread := rfl
@[simp] theorem State.setContext_free (s : State) (c : Nat) (x : Context) : (s.setContext c x).free = s.free := rfl
@[simp] theorem State.setContext_outbox (s : State) (c : Nat) (x : Context) : (s.setContext c x).outbox = s.outbox := rfl
@[simp] theorem State.setContext_pending (s : State) (c : Nat) (x : Context) : (s.setContext c x).pending = s.pending := rfl
@[simp] theorem State.setContext_core (s : State) (c : Nat) (x : Context) (i : Nat) : (s.setContext c x).core i = s.core i := rfl
@[simp] theorem State.setContext_page (s : State) (c : Nat) (x : Context) (i : Nat) : (s.setContext c x).page i = s.page i := rfl
@[simp] theorem State.setContext_reg (s : State) (c : Nat) (x : Context) (i j : Nat) : (s.setContext c x).reg i j = s.reg i j := rfl
@[simp] theorem State.setContext_counter (s : State) (c : Nat) (x : Context) (i j : Nat) : (s.setContext c x).counter i j = s.counter i j := rfl
@[simp] theorem State.setContext_pcore (s : State) (c : Nat) (x : Context) (i : Nat) : (s.setContext c x).pcore i = s.pcore i := rfl
@[simp] theorem State.setContext_hostOf (s : State) (c : Nat) (x : Context) (i : Nat) : (s.setContext c x).hostOf i = s.hostOf i := rfl
@[simp] theorem State.setContext_isPresented (s : State) (c : Nat) (x : Context) (i : Nat) : (s.setContext c x).isPresented i = s.isPresented i := rfl
@[simp] theorem State.setContext_physSlice (s : State) (c : Nat) (x : Context) (i : Nat) : (s.setContext c x).physSlice i = s.physSlice i := rfl
@[simp] theorem State.setContext_unit (s : State) (c : Nat) (x : Context) (i j : Nat) : (s.setContext c x).unit i j = s.unit i j := rfl
@[simp] theorem State.setContext_bundle (s : State) (c : Nat) (x : Context) (i : Nat) : (s.setContext c x).bundle i = s.bundle i := rfl
@[simp] theorem State.setContext_trv (s : State) (c : Nat) (x : Context) (i : TPort) : (s.setContext c x).trv i = s.trv i := rfl
@[simp] theorem State.setContext_liftPort (s : State) (c : Nat) (x : Context) (i : Side) : (s.setContext c x).liftPort i = s.liftPort i := rfl
@[simp] theorem State.setContext_chan (s : State) (c : Nat) (x : Context) (i j : Nat) : (s.setContext c x).chan i j = s.chan i j := rfl
@[simp] theorem State.setContext_die (s : State) (c : Nat) (x : Context) (i : Nat) : (s.setContext c x).die i = s.die i := rfl
@[simp] theorem State.setContext_linkState (s : State) (c : Nat) (x : Context) (i : Side) : (s.setContext c x).linkState i = s.linkState i := rfl
@[simp] theorem State.setContext_linkUp (s : State) (c : Nat) (x : Context) (i : Side) : (s.setContext c x).linkUp i = s.linkUp i := rfl
@[simp] theorem State.setContext_coreUp (s : State) (c : Nat) (x : Context) (i : Nat) : (s.setContext c x).coreUp i = s.coreUp i := rfl
@[simp] theorem State.setContext_coreAwake (s : State) (c : Nat) (x : Context) (i : Nat) : (s.setContext c x).coreAwake i = s.coreAwake i := rfl

@[simp] theorem State.setTask_time (s : State) (t : Nat) (x : Option Task) : (s.setTask t x).time = s.time := rfl
@[simp] theorem State.setTask_refOk (s : State) (t : Nat) (x : Option Task) : (s.setTask t x).refOk = s.refOk := rfl
@[simp] theorem State.setTask_holdover (s : State) (t : Nat) (x : Option Task) : (s.setTask t x).holdover = s.holdover := rfl
@[simp] theorem State.setTask_phase (s : State) (t : Nat) (x : Option Task) : (s.setTask t x).phase = s.phase := rfl
@[simp] theorem State.setTask_porN (s : State) (t : Nat) (x : Option Task) : (s.setTask t x).porN = s.porN := rfl
@[simp] theorem State.setTask_perstN (s : State) (t : Nat) (x : Option Task) : (s.setTask t x).perstN = s.perstN := rfl
@[simp] theorem State.setTask_strap0 (s : State) (t : Nat) (x : Option Task) : (s.setTask t x).strap0 = s.strap0 := rfl
@[simp] theorem State.setTask_strap1 (s : State) (t : Nat) (x : Option Task) : (s.setTask t x).strap1 = s.strap1 := rfl
@[simp] theorem State.setTask_trip (s : State) (t : Nat) (x : Option Task) : (s.setTask t x).trip = s.trip := rfl
@[simp] theorem State.setTask_tap (s : State) (t : Nat) (x : Option Task) : (s.setTask t x).tap = s.tap := rfl
@[simp] theorem State.setTask_chain (s : State) (t : Nat) (x : Option Task) : (s.setTask t x).chain = s.chain := rfl
@[simp] theorem State.setTask_pages (s : State) (t : Nat) (x : Option Task) : (s.setTask t x).pages = s.pages := rfl
@[simp] theorem State.setTask_cores (s : State) (t : Nat) (x : Option Task) : (s.setTask t x).cores = s.cores := rfl
@[simp] theorem State.setTask_slices (s : State) (t : Nat) (x : Option Task) : (s.setTask t x).slices = s.slices := rfl
@[simp] theorem State.setTask_presented (s : State) (t : Nat) (x : Option Task) : (s.setTask t x).presented = s.presented := rfl
@[simp] theorem State.setTask_dies (s : State) (t : Nat) (x : Option Task) : (s.setTask t x).dies = s.dies := rfl
@[simp] theorem State.setTask_place (s : State) (t : Nat) (x : Option Task) : (s.setTask t x).place = s.place := rfl
@[simp] theorem State.setTask_epoch (s : State) (t : Nat) (x : Option Task) : (s.setTask t x).epoch = s.epoch := rfl
@[simp] theorem State.setTask_schedule (s : State) (t : Nat) (x : Option Task) : (s.setTask t x).schedule = s.schedule := rfl
@[simp] theorem State.setTask_pcores (s : State) (t : Nat) (x : Option Task) : (s.setTask t x).pcores = s.pcores := rfl
@[simp] theorem State.setTask_retired (s : State) (t : Nat) (x : Option Task) : (s.setTask t x).retired = s.retired := rfl
@[simp] theorem State.setTask_bridges (s : State) (t : Nat) (x : Option Task) : (s.setTask t x).bridges = s.bridges := rfl
@[simp] theorem State.setTask_chans (s : State) (t : Nat) (x : Option Task) : (s.setTask t x).chans = s.chans := rfl
@[simp] theorem State.setTask_hashQ (s : State) (t : Nat) (x : Option Task) : (s.setTask t x).hashQ = s.hashQ := rfl
@[simp] theorem State.setTask_hot (s : State) (t : Nat) (x : Option Task) : (s.setTask t x).hot = s.hot := rfl
@[simp] theorem State.setTask_lift (s : State) (t : Nat) (x : Option Task) : (s.setTask t x).lift = s.lift := rfl
@[simp] theorem State.setTask_trvA (s : State) (t : Nat) (x : Option Task) : (s.setTask t x).trvA = s.trvA := rfl
@[simp] theorem State.setTask_trvB (s : State) (t : Nat) (x : Option Task) : (s.setTask t x).trvB = s.trvB := rfl
@[simp] theorem State.setTask_bundles (s : State) (t : Nat) (x : Option Task) : (s.setTask t x).bundles = s.bundles := rfl
@[simp] theorem State.setTask_loadOrder (s : State) (t : Nat) (x : Option Task) : (s.setTask t x).loadOrder = s.loadOrder := rfl
@[simp] theorem State.setTask_saves (s : State) (t : Nat) (x : Option Task) : (s.setTask t x).saves = s.saves := rfl
@[simp] theorem State.setTask_saveNo (s : State) (t : Nat) (x : Option Task) : (s.setTask t x).saveNo = s.saveNo := rfl
@[simp] theorem State.setTask_diesPw (s : State) (t : Nat) (x : Option Task) : (s.setTask t x).diesPw = s.diesPw := rfl
@[simp] theorem State.setTask_capMiss (s : State) (t : Nat) (x : Option Task) : (s.setTask t x).capMiss = s.capMiss := rfl
@[simp] theorem State.setTask_flash (s : State) (t : Nat) (x : Option Task) : (s.setTask t x).flash = s.flash := rfl
@[simp] theorem State.setTask_toJournal (s : State) (t : Nat) (x : Option Task) : (s.setTask t x).toJournal = s.toJournal := rfl
@[simp] theorem State.setTask_config (s : State) (t : Nat) (x : Option Task) : (s.setTask t x).config = s.config := rfl
@[simp] theorem State.setTask_fw (s : State) (t : Nat) (x : Option Task) : (s.setTask t x).fw = s.fw := rfl
@[simp] theorem State.setTask_runsB (s : State) (t : Nat) (x : Option Task) : (s.setTask t x).runsB = s.runsB := rfl
@[simp] theorem State.setTask_liftClk (s : State) (t : Nat) (x : Option Task) : (s.setTask t x).liftClk = s.liftClk := rfl
@[simp] theorem State.setTask_trvClk (s : State) (t : Nat) (x : Option Task) : (s.setTask t x).trvClk = s.trvClk := rfl
@[simp] theorem State.setTask_spdmUp (s : State) (t : Nat) (x : Option Task) : (s.setTask t x).spdmUp = s.spdmUp := rfl
@[simp] theorem State.setTask_faultUnread (s : State) (t : Nat) (x : Option Task) : (s.setTask t x).faultUnread = s.faultUnread := rfl
@[simp] theorem State.setTask_free (s : State) (t : Nat) (x : Option Task) : (s.setTask t x).free = s.free := rfl
@[simp] theorem State.setTask_outbox (s : State) (t : Nat) (x : Option Task) : (s.setTask t x).outbox = s.outbox := rfl
@[simp] theorem State.setTask_pending (s : State) (t : Nat) (x : Option Task) : (s.setTask t x).pending = s.pending := rfl
@[simp] theorem State.setTask_core (s : State) (t : Nat) (x : Option Task) (i : Nat) : (s.setTask t x).core i = s.core i := rfl
@[simp] theorem State.setTask_page (s : State) (t : Nat) (x : Option Task) (i : Nat) : (s.setTask t x).page i = s.page i := rfl
@[simp] theorem State.setTask_reg (s : State) (t : Nat) (x : Option Task) (i j : Nat) : (s.setTask t x).reg i j = s.reg i j := rfl
@[simp] theorem State.setTask_counter (s : State) (t : Nat) (x : Option Task) (i j : Nat) : (s.setTask t x).counter i j = s.counter i j := rfl
@[simp] theorem State.setTask_pcore (s : State) (t : Nat) (x : Option Task) (i : Nat) : (s.setTask t x).pcore i = s.pcore i := rfl
@[simp] theorem State.setTask_hostOf (s : State) (t : Nat) (x : Option Task) (i : Nat) : (s.setTask t x).hostOf i = s.hostOf i := rfl
@[simp] theorem State.setTask_isPresented (s : State) (t : Nat) (x : Option Task) (i : Nat) : (s.setTask t x).isPresented i = s.isPresented i := rfl
@[simp] theorem State.setTask_physSlice (s : State) (t : Nat) (x : Option Task) (i : Nat) : (s.setTask t x).physSlice i = s.physSlice i := rfl
@[simp] theorem State.setTask_unit (s : State) (t : Nat) (x : Option Task) (i j : Nat) : (s.setTask t x).unit i j = s.unit i j := rfl
@[simp] theorem State.setTask_bundle (s : State) (t : Nat) (x : Option Task) (i : Nat) : (s.setTask t x).bundle i = s.bundle i := rfl
@[simp] theorem State.setTask_trv (s : State) (t : Nat) (x : Option Task) (i : TPort) : (s.setTask t x).trv i = s.trv i := rfl
@[simp] theorem State.setTask_liftPort (s : State) (t : Nat) (x : Option Task) (i : Side) : (s.setTask t x).liftPort i = s.liftPort i := rfl
@[simp] theorem State.setTask_chan (s : State) (t : Nat) (x : Option Task) (i j : Nat) : (s.setTask t x).chan i j = s.chan i j := rfl
@[simp] theorem State.setTask_die (s : State) (t : Nat) (x : Option Task) (i : Nat) : (s.setTask t x).die i = s.die i := rfl
@[simp] theorem State.setTask_linkState (s : State) (t : Nat) (x : Option Task) (i : Side) : (s.setTask t x).linkState i = s.linkState i := rfl
@[simp] theorem State.setTask_linkUp (s : State) (t : Nat) (x : Option Task) (i : Side) : (s.setTask t x).linkUp i = s.linkUp i := rfl
@[simp] theorem State.setTask_coreUp (s : State) (t : Nat) (x : Option Task) (i : Nat) : (s.setTask t x).coreUp i = s.coreUp i := rfl
@[simp] theorem State.setTask_coreAwake (s : State) (t : Nat) (x : Option Task) (i : Nat) : (s.setTask t x).coreAwake i = s.coreAwake i := rfl

@[simp] theorem State.modJob_time (s : State) (t : Nat) (f : Job → Job) : (s.modJob t f).time = s.time := by unfold State.modJob; split <;> rfl
@[simp] theorem State.modJob_refOk (s : State) (t : Nat) (f : Job → Job) : (s.modJob t f).refOk = s.refOk := by unfold State.modJob; split <;> rfl
@[simp] theorem State.modJob_holdover (s : State) (t : Nat) (f : Job → Job) : (s.modJob t f).holdover = s.holdover := by unfold State.modJob; split <;> rfl
@[simp] theorem State.modJob_phase (s : State) (t : Nat) (f : Job → Job) : (s.modJob t f).phase = s.phase := by unfold State.modJob; split <;> rfl
@[simp] theorem State.modJob_porN (s : State) (t : Nat) (f : Job → Job) : (s.modJob t f).porN = s.porN := by unfold State.modJob; split <;> rfl
@[simp] theorem State.modJob_perstN (s : State) (t : Nat) (f : Job → Job) : (s.modJob t f).perstN = s.perstN := by unfold State.modJob; split <;> rfl
@[simp] theorem State.modJob_strap0 (s : State) (t : Nat) (f : Job → Job) : (s.modJob t f).strap0 = s.strap0 := by unfold State.modJob; split <;> rfl
@[simp] theorem State.modJob_strap1 (s : State) (t : Nat) (f : Job → Job) : (s.modJob t f).strap1 = s.strap1 := by unfold State.modJob; split <;> rfl
@[simp] theorem State.modJob_trip (s : State) (t : Nat) (f : Job → Job) : (s.modJob t f).trip = s.trip := by unfold State.modJob; split <;> rfl
@[simp] theorem State.modJob_tap (s : State) (t : Nat) (f : Job → Job) : (s.modJob t f).tap = s.tap := by unfold State.modJob; split <;> rfl
@[simp] theorem State.modJob_chain (s : State) (t : Nat) (f : Job → Job) : (s.modJob t f).chain = s.chain := by unfold State.modJob; split <;> rfl
@[simp] theorem State.modJob_pages (s : State) (t : Nat) (f : Job → Job) : (s.modJob t f).pages = s.pages := by unfold State.modJob; split <;> rfl
@[simp] theorem State.modJob_cores (s : State) (t : Nat) (f : Job → Job) : (s.modJob t f).cores = s.cores := by unfold State.modJob; split <;> rfl
@[simp] theorem State.modJob_slices (s : State) (t : Nat) (f : Job → Job) : (s.modJob t f).slices = s.slices := by unfold State.modJob; split <;> rfl
@[simp] theorem State.modJob_presented (s : State) (t : Nat) (f : Job → Job) : (s.modJob t f).presented = s.presented := by unfold State.modJob; split <;> rfl
@[simp] theorem State.modJob_dies (s : State) (t : Nat) (f : Job → Job) : (s.modJob t f).dies = s.dies := by unfold State.modJob; split <;> rfl
@[simp] theorem State.modJob_place (s : State) (t : Nat) (f : Job → Job) : (s.modJob t f).place = s.place := by unfold State.modJob; split <;> rfl
@[simp] theorem State.modJob_epoch (s : State) (t : Nat) (f : Job → Job) : (s.modJob t f).epoch = s.epoch := by unfold State.modJob; split <;> rfl
@[simp] theorem State.modJob_schedule (s : State) (t : Nat) (f : Job → Job) : (s.modJob t f).schedule = s.schedule := by unfold State.modJob; split <;> rfl
@[simp] theorem State.modJob_pcores (s : State) (t : Nat) (f : Job → Job) : (s.modJob t f).pcores = s.pcores := by unfold State.modJob; split <;> rfl
@[simp] theorem State.modJob_retired (s : State) (t : Nat) (f : Job → Job) : (s.modJob t f).retired = s.retired := by unfold State.modJob; split <;> rfl
@[simp] theorem State.modJob_bridges (s : State) (t : Nat) (f : Job → Job) : (s.modJob t f).bridges = s.bridges := by unfold State.modJob; split <;> rfl
@[simp] theorem State.modJob_chans (s : State) (t : Nat) (f : Job → Job) : (s.modJob t f).chans = s.chans := by unfold State.modJob; split <;> rfl
@[simp] theorem State.modJob_hashQ (s : State) (t : Nat) (f : Job → Job) : (s.modJob t f).hashQ = s.hashQ := by unfold State.modJob; split <;> rfl
@[simp] theorem State.modJob_hot (s : State) (t : Nat) (f : Job → Job) : (s.modJob t f).hot = s.hot := by unfold State.modJob; split <;> rfl
@[simp] theorem State.modJob_lift (s : State) (t : Nat) (f : Job → Job) : (s.modJob t f).lift = s.lift := by unfold State.modJob; split <;> rfl
@[simp] theorem State.modJob_trvA (s : State) (t : Nat) (f : Job → Job) : (s.modJob t f).trvA = s.trvA := by unfold State.modJob; split <;> rfl
@[simp] theorem State.modJob_trvB (s : State) (t : Nat) (f : Job → Job) : (s.modJob t f).trvB = s.trvB := by unfold State.modJob; split <;> rfl
@[simp] theorem State.modJob_bundles (s : State) (t : Nat) (f : Job → Job) : (s.modJob t f).bundles = s.bundles := by unfold State.modJob; split <;> rfl
@[simp] theorem State.modJob_loadOrder (s : State) (t : Nat) (f : Job → Job) : (s.modJob t f).loadOrder = s.loadOrder := by unfold State.modJob; split <;> rfl
@[simp] theorem State.modJob_saves (s : State) (t : Nat) (f : Job → Job) : (s.modJob t f).saves = s.saves := by unfold State.modJob; split <;> rfl
@[simp] theorem State.modJob_saveNo (s : State) (t : Nat) (f : Job → Job) : (s.modJob t f).saveNo = s.saveNo := by unfold State.modJob; split <;> rfl
@[simp] theorem State.modJob_diesPw (s : State) (t : Nat) (f : Job → Job) : (s.modJob t f).diesPw = s.diesPw := by unfold State.modJob; split <;> rfl
@[simp] theorem State.modJob_capMiss (s : State) (t : Nat) (f : Job → Job) : (s.modJob t f).capMiss = s.capMiss := by unfold State.modJob; split <;> rfl
@[simp] theorem State.modJob_flash (s : State) (t : Nat) (f : Job → Job) : (s.modJob t f).flash = s.flash := by unfold State.modJob; split <;> rfl
@[simp] theorem State.modJob_toJournal (s : State) (t : Nat) (f : Job → Job) : (s.modJob t f).toJournal = s.toJournal := by unfold State.modJob; split <;> rfl
@[simp] theorem State.modJob_config (s : State) (t : Nat) (f : Job → Job) : (s.modJob t f).config = s.config := by unfold State.modJob; split <;> rfl
@[simp] theorem State.modJob_fw (s : State) (t : Nat) (f : Job → Job) : (s.modJob t f).fw = s.fw := by unfold State.modJob; split <;> rfl
@[simp] theorem State.modJob_runsB (s : State) (t : Nat) (f : Job → Job) : (s.modJob t f).runsB = s.runsB := by unfold State.modJob; split <;> rfl
@[simp] theorem State.modJob_liftClk (s : State) (t : Nat) (f : Job → Job) : (s.modJob t f).liftClk = s.liftClk := by unfold State.modJob; split <;> rfl
@[simp] theorem State.modJob_trvClk (s : State) (t : Nat) (f : Job → Job) : (s.modJob t f).trvClk = s.trvClk := by unfold State.modJob; split <;> rfl
@[simp] theorem State.modJob_spdmUp (s : State) (t : Nat) (f : Job → Job) : (s.modJob t f).spdmUp = s.spdmUp := by unfold State.modJob; split <;> rfl
@[simp] theorem State.modJob_faultUnread (s : State) (t : Nat) (f : Job → Job) : (s.modJob t f).faultUnread = s.faultUnread := by unfold State.modJob; split <;> rfl
@[simp] theorem State.modJob_free (s : State) (t : Nat) (f : Job → Job) : (s.modJob t f).free = s.free := by unfold State.modJob; split <;> rfl
@[simp] theorem State.modJob_outbox (s : State) (t : Nat) (f : Job → Job) : (s.modJob t f).outbox = s.outbox := by unfold State.modJob; split <;> rfl
@[simp] theorem State.modJob_pending (s : State) (t : Nat) (f : Job → Job) : (s.modJob t f).pending = s.pending := by unfold State.modJob; split <;> rfl
@[simp] theorem State.modJob_core (s : State) (t : Nat) (f : Job → Job) (i : Nat) : (s.modJob t f).core i = s.core i := by unfold State.modJob; split <;> rfl
@[simp] theorem State.modJob_page (s : State) (t : Nat) (f : Job → Job) (i : Nat) : (s.modJob t f).page i = s.page i := by unfold State.modJob; split <;> rfl
@[simp] theorem State.modJob_reg (s : State) (t : Nat) (f : Job → Job) (i j : Nat) : (s.modJob t f).reg i j = s.reg i j := by unfold State.modJob; split <;> rfl
@[simp] theorem State.modJob_counter (s : State) (t : Nat) (f : Job → Job) (i j : Nat) : (s.modJob t f).counter i j = s.counter i j := by unfold State.modJob; split <;> rfl
@[simp] theorem State.modJob_pcore (s : State) (t : Nat) (f : Job → Job) (i : Nat) : (s.modJob t f).pcore i = s.pcore i := by unfold State.modJob; split <;> rfl
@[simp] theorem State.modJob_hostOf (s : State) (t : Nat) (f : Job → Job) (i : Nat) : (s.modJob t f).hostOf i = s.hostOf i := by unfold State.modJob; split <;> rfl
@[simp] theorem State.modJob_isPresented (s : State) (t : Nat) (f : Job → Job) (i : Nat) : (s.modJob t f).isPresented i = s.isPresented i := by unfold State.modJob; split <;> rfl
@[simp] theorem State.modJob_physSlice (s : State) (t : Nat) (f : Job → Job) (i : Nat) : (s.modJob t f).physSlice i = s.physSlice i := by unfold State.modJob; split <;> rfl
@[simp] theorem State.modJob_unit (s : State) (t : Nat) (f : Job → Job) (i j : Nat) : (s.modJob t f).unit i j = s.unit i j := by unfold State.modJob; split <;> rfl
@[simp] theorem State.modJob_bundle (s : State) (t : Nat) (f : Job → Job) (i : Nat) : (s.modJob t f).bundle i = s.bundle i := by unfold State.modJob; split <;> rfl
@[simp] theorem State.modJob_trv (s : State) (t : Nat) (f : Job → Job) (i : TPort) : (s.modJob t f).trv i = s.trv i := by unfold State.modJob; split <;> rfl
@[simp] theorem State.modJob_liftPort (s : State) (t : Nat) (f : Job → Job) (i : Side) : (s.modJob t f).liftPort i = s.liftPort i := by unfold State.modJob; split <;> rfl
@[simp] theorem State.modJob_chan (s : State) (t : Nat) (f : Job → Job) (i j : Nat) : (s.modJob t f).chan i j = s.chan i j := by unfold State.modJob; split <;> rfl
@[simp] theorem State.modJob_die (s : State) (t : Nat) (f : Job → Job) (i : Nat) : (s.modJob t f).die i = s.die i := by unfold State.modJob; split <;> rfl
@[simp] theorem State.modJob_linkState (s : State) (t : Nat) (f : Job → Job) (i : Side) : (s.modJob t f).linkState i = s.linkState i := by unfold State.modJob; split <;> rfl
@[simp] theorem State.modJob_linkUp (s : State) (t : Nat) (f : Job → Job) (i : Side) : (s.modJob t f).linkUp i = s.linkUp i := by unfold State.modJob; split <;> rfl
@[simp] theorem State.modJob_coreUp (s : State) (t : Nat) (f : Job → Job) (i : Nat) : (s.modJob t f).coreUp i = s.coreUp i := by unfold State.modJob; split <;> rfl
@[simp] theorem State.modJob_coreAwake (s : State) (t : Nat) (f : Job → Job) (i : Nat) : (s.modJob t f).coreAwake i = s.coreAwake i := by unfold State.modJob; split <;> rfl

@[simp] theorem State.setQueue_time (s : State) (q : Nat) (x : Option Queue) : (s.setQueue q x).time = s.time := rfl
@[simp] theorem State.setQueue_refOk (s : State) (q : Nat) (x : Option Queue) : (s.setQueue q x).refOk = s.refOk := rfl
@[simp] theorem State.setQueue_holdover (s : State) (q : Nat) (x : Option Queue) : (s.setQueue q x).holdover = s.holdover := rfl
@[simp] theorem State.setQueue_phase (s : State) (q : Nat) (x : Option Queue) : (s.setQueue q x).phase = s.phase := rfl
@[simp] theorem State.setQueue_porN (s : State) (q : Nat) (x : Option Queue) : (s.setQueue q x).porN = s.porN := rfl
@[simp] theorem State.setQueue_perstN (s : State) (q : Nat) (x : Option Queue) : (s.setQueue q x).perstN = s.perstN := rfl
@[simp] theorem State.setQueue_strap0 (s : State) (q : Nat) (x : Option Queue) : (s.setQueue q x).strap0 = s.strap0 := rfl
@[simp] theorem State.setQueue_strap1 (s : State) (q : Nat) (x : Option Queue) : (s.setQueue q x).strap1 = s.strap1 := rfl
@[simp] theorem State.setQueue_trip (s : State) (q : Nat) (x : Option Queue) : (s.setQueue q x).trip = s.trip := rfl
@[simp] theorem State.setQueue_tap (s : State) (q : Nat) (x : Option Queue) : (s.setQueue q x).tap = s.tap := rfl
@[simp] theorem State.setQueue_chain (s : State) (q : Nat) (x : Option Queue) : (s.setQueue q x).chain = s.chain := rfl
@[simp] theorem State.setQueue_pages (s : State) (q : Nat) (x : Option Queue) : (s.setQueue q x).pages = s.pages := rfl
@[simp] theorem State.setQueue_cores (s : State) (q : Nat) (x : Option Queue) : (s.setQueue q x).cores = s.cores := rfl
@[simp] theorem State.setQueue_slices (s : State) (q : Nat) (x : Option Queue) : (s.setQueue q x).slices = s.slices := rfl
@[simp] theorem State.setQueue_presented (s : State) (q : Nat) (x : Option Queue) : (s.setQueue q x).presented = s.presented := rfl
@[simp] theorem State.setQueue_dies (s : State) (q : Nat) (x : Option Queue) : (s.setQueue q x).dies = s.dies := rfl
@[simp] theorem State.setQueue_place (s : State) (q : Nat) (x : Option Queue) : (s.setQueue q x).place = s.place := rfl
@[simp] theorem State.setQueue_epoch (s : State) (q : Nat) (x : Option Queue) : (s.setQueue q x).epoch = s.epoch := rfl
@[simp] theorem State.setQueue_schedule (s : State) (q : Nat) (x : Option Queue) : (s.setQueue q x).schedule = s.schedule := rfl
@[simp] theorem State.setQueue_pcores (s : State) (q : Nat) (x : Option Queue) : (s.setQueue q x).pcores = s.pcores := rfl
@[simp] theorem State.setQueue_retired (s : State) (q : Nat) (x : Option Queue) : (s.setQueue q x).retired = s.retired := rfl
@[simp] theorem State.setQueue_bridges (s : State) (q : Nat) (x : Option Queue) : (s.setQueue q x).bridges = s.bridges := rfl
@[simp] theorem State.setQueue_chans (s : State) (q : Nat) (x : Option Queue) : (s.setQueue q x).chans = s.chans := rfl
@[simp] theorem State.setQueue_hashQ (s : State) (q : Nat) (x : Option Queue) : (s.setQueue q x).hashQ = s.hashQ := rfl
@[simp] theorem State.setQueue_hot (s : State) (q : Nat) (x : Option Queue) : (s.setQueue q x).hot = s.hot := rfl
@[simp] theorem State.setQueue_lift (s : State) (q : Nat) (x : Option Queue) : (s.setQueue q x).lift = s.lift := rfl
@[simp] theorem State.setQueue_trvA (s : State) (q : Nat) (x : Option Queue) : (s.setQueue q x).trvA = s.trvA := rfl
@[simp] theorem State.setQueue_trvB (s : State) (q : Nat) (x : Option Queue) : (s.setQueue q x).trvB = s.trvB := rfl
@[simp] theorem State.setQueue_bundles (s : State) (q : Nat) (x : Option Queue) : (s.setQueue q x).bundles = s.bundles := rfl
@[simp] theorem State.setQueue_loadOrder (s : State) (q : Nat) (x : Option Queue) : (s.setQueue q x).loadOrder = s.loadOrder := rfl
@[simp] theorem State.setQueue_saves (s : State) (q : Nat) (x : Option Queue) : (s.setQueue q x).saves = s.saves := rfl
@[simp] theorem State.setQueue_saveNo (s : State) (q : Nat) (x : Option Queue) : (s.setQueue q x).saveNo = s.saveNo := rfl
@[simp] theorem State.setQueue_diesPw (s : State) (q : Nat) (x : Option Queue) : (s.setQueue q x).diesPw = s.diesPw := rfl
@[simp] theorem State.setQueue_capMiss (s : State) (q : Nat) (x : Option Queue) : (s.setQueue q x).capMiss = s.capMiss := rfl
@[simp] theorem State.setQueue_flash (s : State) (q : Nat) (x : Option Queue) : (s.setQueue q x).flash = s.flash := rfl
@[simp] theorem State.setQueue_toJournal (s : State) (q : Nat) (x : Option Queue) : (s.setQueue q x).toJournal = s.toJournal := rfl
@[simp] theorem State.setQueue_config (s : State) (q : Nat) (x : Option Queue) : (s.setQueue q x).config = s.config := rfl
@[simp] theorem State.setQueue_fw (s : State) (q : Nat) (x : Option Queue) : (s.setQueue q x).fw = s.fw := rfl
@[simp] theorem State.setQueue_runsB (s : State) (q : Nat) (x : Option Queue) : (s.setQueue q x).runsB = s.runsB := rfl
@[simp] theorem State.setQueue_liftClk (s : State) (q : Nat) (x : Option Queue) : (s.setQueue q x).liftClk = s.liftClk := rfl
@[simp] theorem State.setQueue_trvClk (s : State) (q : Nat) (x : Option Queue) : (s.setQueue q x).trvClk = s.trvClk := rfl
@[simp] theorem State.setQueue_spdmUp (s : State) (q : Nat) (x : Option Queue) : (s.setQueue q x).spdmUp = s.spdmUp := rfl
@[simp] theorem State.setQueue_faultUnread (s : State) (q : Nat) (x : Option Queue) : (s.setQueue q x).faultUnread = s.faultUnread := rfl
@[simp] theorem State.setQueue_free (s : State) (q : Nat) (x : Option Queue) : (s.setQueue q x).free = s.free := rfl
@[simp] theorem State.setQueue_outbox (s : State) (q : Nat) (x : Option Queue) : (s.setQueue q x).outbox = s.outbox := rfl
@[simp] theorem State.setQueue_pending (s : State) (q : Nat) (x : Option Queue) : (s.setQueue q x).pending = s.pending := rfl
@[simp] theorem State.setQueue_core (s : State) (q : Nat) (x : Option Queue) (i : Nat) : (s.setQueue q x).core i = s.core i := rfl
@[simp] theorem State.setQueue_page (s : State) (q : Nat) (x : Option Queue) (i : Nat) : (s.setQueue q x).page i = s.page i := rfl
@[simp] theorem State.setQueue_reg (s : State) (q : Nat) (x : Option Queue) (i j : Nat) : (s.setQueue q x).reg i j = s.reg i j := rfl
@[simp] theorem State.setQueue_counter (s : State) (q : Nat) (x : Option Queue) (i j : Nat) : (s.setQueue q x).counter i j = s.counter i j := rfl
@[simp] theorem State.setQueue_pcore (s : State) (q : Nat) (x : Option Queue) (i : Nat) : (s.setQueue q x).pcore i = s.pcore i := rfl
@[simp] theorem State.setQueue_hostOf (s : State) (q : Nat) (x : Option Queue) (i : Nat) : (s.setQueue q x).hostOf i = s.hostOf i := rfl
@[simp] theorem State.setQueue_isPresented (s : State) (q : Nat) (x : Option Queue) (i : Nat) : (s.setQueue q x).isPresented i = s.isPresented i := rfl
@[simp] theorem State.setQueue_physSlice (s : State) (q : Nat) (x : Option Queue) (i : Nat) : (s.setQueue q x).physSlice i = s.physSlice i := rfl
@[simp] theorem State.setQueue_unit (s : State) (q : Nat) (x : Option Queue) (i j : Nat) : (s.setQueue q x).unit i j = s.unit i j := rfl
@[simp] theorem State.setQueue_bundle (s : State) (q : Nat) (x : Option Queue) (i : Nat) : (s.setQueue q x).bundle i = s.bundle i := rfl
@[simp] theorem State.setQueue_trv (s : State) (q : Nat) (x : Option Queue) (i : TPort) : (s.setQueue q x).trv i = s.trv i := rfl
@[simp] theorem State.setQueue_liftPort (s : State) (q : Nat) (x : Option Queue) (i : Side) : (s.setQueue q x).liftPort i = s.liftPort i := rfl
@[simp] theorem State.setQueue_chan (s : State) (q : Nat) (x : Option Queue) (i j : Nat) : (s.setQueue q x).chan i j = s.chan i j := rfl
@[simp] theorem State.setQueue_die (s : State) (q : Nat) (x : Option Queue) (i : Nat) : (s.setQueue q x).die i = s.die i := rfl
@[simp] theorem State.setQueue_linkState (s : State) (q : Nat) (x : Option Queue) (i : Side) : (s.setQueue q x).linkState i = s.linkState i := rfl
@[simp] theorem State.setQueue_linkUp (s : State) (q : Nat) (x : Option Queue) (i : Side) : (s.setQueue q x).linkUp i = s.linkUp i := rfl
@[simp] theorem State.setQueue_coreUp (s : State) (q : Nat) (x : Option Queue) (i : Nat) : (s.setQueue q x).coreUp i = s.coreUp i := rfl
@[simp] theorem State.setQueue_coreAwake (s : State) (q : Nat) (x : Option Queue) (i : Nat) : (s.setQueue q x).coreAwake i = s.coreAwake i := rfl

@[simp] theorem State.setRing_time (s : State) (r : Nat) (x : Option Ring) : (s.setRing r x).time = s.time := rfl
@[simp] theorem State.setRing_refOk (s : State) (r : Nat) (x : Option Ring) : (s.setRing r x).refOk = s.refOk := rfl
@[simp] theorem State.setRing_holdover (s : State) (r : Nat) (x : Option Ring) : (s.setRing r x).holdover = s.holdover := rfl
@[simp] theorem State.setRing_phase (s : State) (r : Nat) (x : Option Ring) : (s.setRing r x).phase = s.phase := rfl
@[simp] theorem State.setRing_porN (s : State) (r : Nat) (x : Option Ring) : (s.setRing r x).porN = s.porN := rfl
@[simp] theorem State.setRing_perstN (s : State) (r : Nat) (x : Option Ring) : (s.setRing r x).perstN = s.perstN := rfl
@[simp] theorem State.setRing_strap0 (s : State) (r : Nat) (x : Option Ring) : (s.setRing r x).strap0 = s.strap0 := rfl
@[simp] theorem State.setRing_strap1 (s : State) (r : Nat) (x : Option Ring) : (s.setRing r x).strap1 = s.strap1 := rfl
@[simp] theorem State.setRing_trip (s : State) (r : Nat) (x : Option Ring) : (s.setRing r x).trip = s.trip := rfl
@[simp] theorem State.setRing_tap (s : State) (r : Nat) (x : Option Ring) : (s.setRing r x).tap = s.tap := rfl
@[simp] theorem State.setRing_chain (s : State) (r : Nat) (x : Option Ring) : (s.setRing r x).chain = s.chain := rfl
@[simp] theorem State.setRing_pages (s : State) (r : Nat) (x : Option Ring) : (s.setRing r x).pages = s.pages := rfl
@[simp] theorem State.setRing_cores (s : State) (r : Nat) (x : Option Ring) : (s.setRing r x).cores = s.cores := rfl
@[simp] theorem State.setRing_slices (s : State) (r : Nat) (x : Option Ring) : (s.setRing r x).slices = s.slices := rfl
@[simp] theorem State.setRing_presented (s : State) (r : Nat) (x : Option Ring) : (s.setRing r x).presented = s.presented := rfl
@[simp] theorem State.setRing_dies (s : State) (r : Nat) (x : Option Ring) : (s.setRing r x).dies = s.dies := rfl
@[simp] theorem State.setRing_place (s : State) (r : Nat) (x : Option Ring) : (s.setRing r x).place = s.place := rfl
@[simp] theorem State.setRing_epoch (s : State) (r : Nat) (x : Option Ring) : (s.setRing r x).epoch = s.epoch := rfl
@[simp] theorem State.setRing_schedule (s : State) (r : Nat) (x : Option Ring) : (s.setRing r x).schedule = s.schedule := rfl
@[simp] theorem State.setRing_pcores (s : State) (r : Nat) (x : Option Ring) : (s.setRing r x).pcores = s.pcores := rfl
@[simp] theorem State.setRing_retired (s : State) (r : Nat) (x : Option Ring) : (s.setRing r x).retired = s.retired := rfl
@[simp] theorem State.setRing_bridges (s : State) (r : Nat) (x : Option Ring) : (s.setRing r x).bridges = s.bridges := rfl
@[simp] theorem State.setRing_chans (s : State) (r : Nat) (x : Option Ring) : (s.setRing r x).chans = s.chans := rfl
@[simp] theorem State.setRing_hashQ (s : State) (r : Nat) (x : Option Ring) : (s.setRing r x).hashQ = s.hashQ := rfl
@[simp] theorem State.setRing_hot (s : State) (r : Nat) (x : Option Ring) : (s.setRing r x).hot = s.hot := rfl
@[simp] theorem State.setRing_lift (s : State) (r : Nat) (x : Option Ring) : (s.setRing r x).lift = s.lift := rfl
@[simp] theorem State.setRing_trvA (s : State) (r : Nat) (x : Option Ring) : (s.setRing r x).trvA = s.trvA := rfl
@[simp] theorem State.setRing_trvB (s : State) (r : Nat) (x : Option Ring) : (s.setRing r x).trvB = s.trvB := rfl
@[simp] theorem State.setRing_bundles (s : State) (r : Nat) (x : Option Ring) : (s.setRing r x).bundles = s.bundles := rfl
@[simp] theorem State.setRing_loadOrder (s : State) (r : Nat) (x : Option Ring) : (s.setRing r x).loadOrder = s.loadOrder := rfl
@[simp] theorem State.setRing_saves (s : State) (r : Nat) (x : Option Ring) : (s.setRing r x).saves = s.saves := rfl
@[simp] theorem State.setRing_saveNo (s : State) (r : Nat) (x : Option Ring) : (s.setRing r x).saveNo = s.saveNo := rfl
@[simp] theorem State.setRing_diesPw (s : State) (r : Nat) (x : Option Ring) : (s.setRing r x).diesPw = s.diesPw := rfl
@[simp] theorem State.setRing_capMiss (s : State) (r : Nat) (x : Option Ring) : (s.setRing r x).capMiss = s.capMiss := rfl
@[simp] theorem State.setRing_flash (s : State) (r : Nat) (x : Option Ring) : (s.setRing r x).flash = s.flash := rfl
@[simp] theorem State.setRing_toJournal (s : State) (r : Nat) (x : Option Ring) : (s.setRing r x).toJournal = s.toJournal := rfl
@[simp] theorem State.setRing_config (s : State) (r : Nat) (x : Option Ring) : (s.setRing r x).config = s.config := rfl
@[simp] theorem State.setRing_fw (s : State) (r : Nat) (x : Option Ring) : (s.setRing r x).fw = s.fw := rfl
@[simp] theorem State.setRing_runsB (s : State) (r : Nat) (x : Option Ring) : (s.setRing r x).runsB = s.runsB := rfl
@[simp] theorem State.setRing_liftClk (s : State) (r : Nat) (x : Option Ring) : (s.setRing r x).liftClk = s.liftClk := rfl
@[simp] theorem State.setRing_trvClk (s : State) (r : Nat) (x : Option Ring) : (s.setRing r x).trvClk = s.trvClk := rfl
@[simp] theorem State.setRing_spdmUp (s : State) (r : Nat) (x : Option Ring) : (s.setRing r x).spdmUp = s.spdmUp := rfl
@[simp] theorem State.setRing_faultUnread (s : State) (r : Nat) (x : Option Ring) : (s.setRing r x).faultUnread = s.faultUnread := rfl
@[simp] theorem State.setRing_free (s : State) (r : Nat) (x : Option Ring) : (s.setRing r x).free = s.free := rfl
@[simp] theorem State.setRing_outbox (s : State) (r : Nat) (x : Option Ring) : (s.setRing r x).outbox = s.outbox := rfl
@[simp] theorem State.setRing_pending (s : State) (r : Nat) (x : Option Ring) : (s.setRing r x).pending = s.pending := rfl
@[simp] theorem State.setRing_core (s : State) (r : Nat) (x : Option Ring) (i : Nat) : (s.setRing r x).core i = s.core i := rfl
@[simp] theorem State.setRing_page (s : State) (r : Nat) (x : Option Ring) (i : Nat) : (s.setRing r x).page i = s.page i := rfl
@[simp] theorem State.setRing_reg (s : State) (r : Nat) (x : Option Ring) (i j : Nat) : (s.setRing r x).reg i j = s.reg i j := rfl
@[simp] theorem State.setRing_counter (s : State) (r : Nat) (x : Option Ring) (i j : Nat) : (s.setRing r x).counter i j = s.counter i j := rfl
@[simp] theorem State.setRing_pcore (s : State) (r : Nat) (x : Option Ring) (i : Nat) : (s.setRing r x).pcore i = s.pcore i := rfl
@[simp] theorem State.setRing_hostOf (s : State) (r : Nat) (x : Option Ring) (i : Nat) : (s.setRing r x).hostOf i = s.hostOf i := rfl
@[simp] theorem State.setRing_isPresented (s : State) (r : Nat) (x : Option Ring) (i : Nat) : (s.setRing r x).isPresented i = s.isPresented i := rfl
@[simp] theorem State.setRing_physSlice (s : State) (r : Nat) (x : Option Ring) (i : Nat) : (s.setRing r x).physSlice i = s.physSlice i := rfl
@[simp] theorem State.setRing_unit (s : State) (r : Nat) (x : Option Ring) (i j : Nat) : (s.setRing r x).unit i j = s.unit i j := rfl
@[simp] theorem State.setRing_bundle (s : State) (r : Nat) (x : Option Ring) (i : Nat) : (s.setRing r x).bundle i = s.bundle i := rfl
@[simp] theorem State.setRing_trv (s : State) (r : Nat) (x : Option Ring) (i : TPort) : (s.setRing r x).trv i = s.trv i := rfl
@[simp] theorem State.setRing_liftPort (s : State) (r : Nat) (x : Option Ring) (i : Side) : (s.setRing r x).liftPort i = s.liftPort i := rfl
@[simp] theorem State.setRing_chan (s : State) (r : Nat) (x : Option Ring) (i j : Nat) : (s.setRing r x).chan i j = s.chan i j := rfl
@[simp] theorem State.setRing_die (s : State) (r : Nat) (x : Option Ring) (i : Nat) : (s.setRing r x).die i = s.die i := rfl
@[simp] theorem State.setRing_linkState (s : State) (r : Nat) (x : Option Ring) (i : Side) : (s.setRing r x).linkState i = s.linkState i := rfl
@[simp] theorem State.setRing_linkUp (s : State) (r : Nat) (x : Option Ring) (i : Side) : (s.setRing r x).linkUp i = s.linkUp i := rfl
@[simp] theorem State.setRing_coreUp (s : State) (r : Nat) (x : Option Ring) (i : Nat) : (s.setRing r x).coreUp i = s.coreUp i := rfl
@[simp] theorem State.setRing_coreAwake (s : State) (r : Nat) (x : Option Ring) (i : Nat) : (s.setRing r x).coreAwake i = s.coreAwake i := rfl

@[simp] theorem State.setBundle_time (s : State) (b : Nat) (x : Bundle) : (s.setBundle b x).time = s.time := rfl
@[simp] theorem State.setBundle_refOk (s : State) (b : Nat) (x : Bundle) : (s.setBundle b x).refOk = s.refOk := rfl
@[simp] theorem State.setBundle_holdover (s : State) (b : Nat) (x : Bundle) : (s.setBundle b x).holdover = s.holdover := rfl
@[simp] theorem State.setBundle_phase (s : State) (b : Nat) (x : Bundle) : (s.setBundle b x).phase = s.phase := rfl
@[simp] theorem State.setBundle_porN (s : State) (b : Nat) (x : Bundle) : (s.setBundle b x).porN = s.porN := rfl
@[simp] theorem State.setBundle_perstN (s : State) (b : Nat) (x : Bundle) : (s.setBundle b x).perstN = s.perstN := rfl
@[simp] theorem State.setBundle_strap0 (s : State) (b : Nat) (x : Bundle) : (s.setBundle b x).strap0 = s.strap0 := rfl
@[simp] theorem State.setBundle_strap1 (s : State) (b : Nat) (x : Bundle) : (s.setBundle b x).strap1 = s.strap1 := rfl
@[simp] theorem State.setBundle_trip (s : State) (b : Nat) (x : Bundle) : (s.setBundle b x).trip = s.trip := rfl
@[simp] theorem State.setBundle_tap (s : State) (b : Nat) (x : Bundle) : (s.setBundle b x).tap = s.tap := rfl
@[simp] theorem State.setBundle_chain (s : State) (b : Nat) (x : Bundle) : (s.setBundle b x).chain = s.chain := rfl
@[simp] theorem State.setBundle_pages (s : State) (b : Nat) (x : Bundle) : (s.setBundle b x).pages = s.pages := rfl
@[simp] theorem State.setBundle_cores (s : State) (b : Nat) (x : Bundle) : (s.setBundle b x).cores = s.cores := rfl
@[simp] theorem State.setBundle_slices (s : State) (b : Nat) (x : Bundle) : (s.setBundle b x).slices = s.slices := rfl
@[simp] theorem State.setBundle_presented (s : State) (b : Nat) (x : Bundle) : (s.setBundle b x).presented = s.presented := rfl
@[simp] theorem State.setBundle_dies (s : State) (b : Nat) (x : Bundle) : (s.setBundle b x).dies = s.dies := rfl
@[simp] theorem State.setBundle_place (s : State) (b : Nat) (x : Bundle) : (s.setBundle b x).place = s.place := rfl
@[simp] theorem State.setBundle_epoch (s : State) (b : Nat) (x : Bundle) : (s.setBundle b x).epoch = s.epoch := rfl
@[simp] theorem State.setBundle_schedule (s : State) (b : Nat) (x : Bundle) : (s.setBundle b x).schedule = s.schedule := rfl
@[simp] theorem State.setBundle_pcores (s : State) (b : Nat) (x : Bundle) : (s.setBundle b x).pcores = s.pcores := rfl
@[simp] theorem State.setBundle_retired (s : State) (b : Nat) (x : Bundle) : (s.setBundle b x).retired = s.retired := rfl
@[simp] theorem State.setBundle_bridges (s : State) (b : Nat) (x : Bundle) : (s.setBundle b x).bridges = s.bridges := rfl
@[simp] theorem State.setBundle_chans (s : State) (b : Nat) (x : Bundle) : (s.setBundle b x).chans = s.chans := rfl
@[simp] theorem State.setBundle_hashQ (s : State) (b : Nat) (x : Bundle) : (s.setBundle b x).hashQ = s.hashQ := rfl
@[simp] theorem State.setBundle_hot (s : State) (b : Nat) (x : Bundle) : (s.setBundle b x).hot = s.hot := rfl
@[simp] theorem State.setBundle_host (s : State) (b : Nat) (x : Bundle) : (s.setBundle b x).host = s.host := rfl
@[simp] theorem State.setBundle_lift (s : State) (b : Nat) (x : Bundle) : (s.setBundle b x).lift = s.lift := rfl
@[simp] theorem State.setBundle_trvA (s : State) (b : Nat) (x : Bundle) : (s.setBundle b x).trvA = s.trvA := rfl
@[simp] theorem State.setBundle_trvB (s : State) (b : Nat) (x : Bundle) : (s.setBundle b x).trvB = s.trvB := rfl
@[simp] theorem State.setBundle_loadOrder (s : State) (b : Nat) (x : Bundle) : (s.setBundle b x).loadOrder = s.loadOrder := rfl
@[simp] theorem State.setBundle_saves (s : State) (b : Nat) (x : Bundle) : (s.setBundle b x).saves = s.saves := rfl
@[simp] theorem State.setBundle_saveNo (s : State) (b : Nat) (x : Bundle) : (s.setBundle b x).saveNo = s.saveNo := rfl
@[simp] theorem State.setBundle_diesPw (s : State) (b : Nat) (x : Bundle) : (s.setBundle b x).diesPw = s.diesPw := rfl
@[simp] theorem State.setBundle_capMiss (s : State) (b : Nat) (x : Bundle) : (s.setBundle b x).capMiss = s.capMiss := rfl
@[simp] theorem State.setBundle_flash (s : State) (b : Nat) (x : Bundle) : (s.setBundle b x).flash = s.flash := rfl
@[simp] theorem State.setBundle_toJournal (s : State) (b : Nat) (x : Bundle) : (s.setBundle b x).toJournal = s.toJournal := rfl
@[simp] theorem State.setBundle_config (s : State) (b : Nat) (x : Bundle) : (s.setBundle b x).config = s.config := rfl
@[simp] theorem State.setBundle_fw (s : State) (b : Nat) (x : Bundle) : (s.setBundle b x).fw = s.fw := rfl
@[simp] theorem State.setBundle_runsB (s : State) (b : Nat) (x : Bundle) : (s.setBundle b x).runsB = s.runsB := rfl
@[simp] theorem State.setBundle_liftClk (s : State) (b : Nat) (x : Bundle) : (s.setBundle b x).liftClk = s.liftClk := rfl
@[simp] theorem State.setBundle_trvClk (s : State) (b : Nat) (x : Bundle) : (s.setBundle b x).trvClk = s.trvClk := rfl
@[simp] theorem State.setBundle_spdmUp (s : State) (b : Nat) (x : Bundle) : (s.setBundle b x).spdmUp = s.spdmUp := rfl
@[simp] theorem State.setBundle_faultUnread (s : State) (b : Nat) (x : Bundle) : (s.setBundle b x).faultUnread = s.faultUnread := rfl
@[simp] theorem State.setBundle_free (s : State) (b : Nat) (x : Bundle) : (s.setBundle b x).free = s.free := rfl
@[simp] theorem State.setBundle_outbox (s : State) (b : Nat) (x : Bundle) : (s.setBundle b x).outbox = s.outbox := rfl
@[simp] theorem State.setBundle_pending (s : State) (b : Nat) (x : Bundle) : (s.setBundle b x).pending = s.pending := rfl
@[simp] theorem State.setBundle_core (s : State) (b : Nat) (x : Bundle) (i : Nat) : (s.setBundle b x).core i = s.core i := rfl
@[simp] theorem State.setBundle_page (s : State) (b : Nat) (x : Bundle) (i : Nat) : (s.setBundle b x).page i = s.page i := rfl
@[simp] theorem State.setBundle_reg (s : State) (b : Nat) (x : Bundle) (i j : Nat) : (s.setBundle b x).reg i j = s.reg i j := rfl
@[simp] theorem State.setBundle_counter (s : State) (b : Nat) (x : Bundle) (i j : Nat) : (s.setBundle b x).counter i j = s.counter i j := rfl
@[simp] theorem State.setBundle_pcore (s : State) (b : Nat) (x : Bundle) (i : Nat) : (s.setBundle b x).pcore i = s.pcore i := rfl
@[simp] theorem State.setBundle_hostOf (s : State) (b : Nat) (x : Bundle) (i : Nat) : (s.setBundle b x).hostOf i = s.hostOf i := rfl
@[simp] theorem State.setBundle_isPresented (s : State) (b : Nat) (x : Bundle) (i : Nat) : (s.setBundle b x).isPresented i = s.isPresented i := rfl
@[simp] theorem State.setBundle_physSlice (s : State) (b : Nat) (x : Bundle) (i : Nat) : (s.setBundle b x).physSlice i = s.physSlice i := rfl
@[simp] theorem State.setBundle_unit (s : State) (b : Nat) (x : Bundle) (i j : Nat) : (s.setBundle b x).unit i j = s.unit i j := rfl
@[simp] theorem State.setBundle_context (s : State) (b : Nat) (x : Bundle) (i : Nat) : (s.setBundle b x).context i = s.context i := rfl
@[simp] theorem State.setBundle_task (s : State) (b : Nat) (x : Bundle) (i : Nat) : (s.setBundle b x).task i = s.task i := rfl
@[simp] theorem State.setBundle_queue (s : State) (b : Nat) (x : Bundle) (i : Nat) : (s.setBundle b x).queue i = s.queue i := rfl
@[simp] theorem State.setBundle_ring (s : State) (b : Nat) (x : Bundle) (i : Nat) : (s.setBundle b x).ring i = s.ring i := rfl
@[simp] theorem State.setBundle_trv (s : State) (b : Nat) (x : Bundle) (i : TPort) : (s.setBundle b x).trv i = s.trv i := rfl
@[simp] theorem State.setBundle_liftPort (s : State) (b : Nat) (x : Bundle) (i : Side) : (s.setBundle b x).liftPort i = s.liftPort i := rfl
@[simp] theorem State.setBundle_chan (s : State) (b : Nat) (x : Bundle) (i j : Nat) : (s.setBundle b x).chan i j = s.chan i j := rfl
@[simp] theorem State.setBundle_die (s : State) (b : Nat) (x : Bundle) (i : Nat) : (s.setBundle b x).die i = s.die i := rfl
@[simp] theorem State.setBundle_coreTask (s : State) (b : Nat) (x : Bundle) (i : Nat) : (s.setBundle b x).coreTask i = s.coreTask i := rfl
@[simp] theorem State.setBundle_coreJob (s : State) (b : Nat) (x : Bundle) (i : Nat) : (s.setBundle b x).coreJob i = s.coreJob i := rfl
@[simp] theorem State.setBundle_coreBase (s : State) (b : Nat) (x : Bundle) (i : Nat) : (s.setBundle b x).coreBase i = s.coreBase i := rfl
@[simp] theorem State.setBundle_linkState (s : State) (b : Nat) (x : Bundle) (i : Side) : (s.setBundle b x).linkState i = s.linkState i := rfl
@[simp] theorem State.setBundle_linkUp (s : State) (b : Nat) (x : Bundle) (i : Side) : (s.setBundle b x).linkUp i = s.linkUp i := rfl
@[simp] theorem State.setBundle_coreUp (s : State) (b : Nat) (x : Bundle) (i : Nat) : (s.setBundle b x).coreUp i = s.coreUp i := rfl
@[simp] theorem State.setBundle_coreAwake (s : State) (b : Nat) (x : Bundle) (i : Nat) : (s.setBundle b x).coreAwake i = s.coreAwake i := rfl

@[simp] theorem State.modBundle_time (s : State) (b : Nat) (f : Bundle → Bundle) : (s.modBundle b f).time = s.time := rfl
@[simp] theorem State.modBundle_refOk (s : State) (b : Nat) (f : Bundle → Bundle) : (s.modBundle b f).refOk = s.refOk := rfl
@[simp] theorem State.modBundle_holdover (s : State) (b : Nat) (f : Bundle → Bundle) : (s.modBundle b f).holdover = s.holdover := rfl
@[simp] theorem State.modBundle_phase (s : State) (b : Nat) (f : Bundle → Bundle) : (s.modBundle b f).phase = s.phase := rfl
@[simp] theorem State.modBundle_porN (s : State) (b : Nat) (f : Bundle → Bundle) : (s.modBundle b f).porN = s.porN := rfl
@[simp] theorem State.modBundle_perstN (s : State) (b : Nat) (f : Bundle → Bundle) : (s.modBundle b f).perstN = s.perstN := rfl
@[simp] theorem State.modBundle_strap0 (s : State) (b : Nat) (f : Bundle → Bundle) : (s.modBundle b f).strap0 = s.strap0 := rfl
@[simp] theorem State.modBundle_strap1 (s : State) (b : Nat) (f : Bundle → Bundle) : (s.modBundle b f).strap1 = s.strap1 := rfl
@[simp] theorem State.modBundle_trip (s : State) (b : Nat) (f : Bundle → Bundle) : (s.modBundle b f).trip = s.trip := rfl
@[simp] theorem State.modBundle_tap (s : State) (b : Nat) (f : Bundle → Bundle) : (s.modBundle b f).tap = s.tap := rfl
@[simp] theorem State.modBundle_chain (s : State) (b : Nat) (f : Bundle → Bundle) : (s.modBundle b f).chain = s.chain := rfl
@[simp] theorem State.modBundle_pages (s : State) (b : Nat) (f : Bundle → Bundle) : (s.modBundle b f).pages = s.pages := rfl
@[simp] theorem State.modBundle_cores (s : State) (b : Nat) (f : Bundle → Bundle) : (s.modBundle b f).cores = s.cores := rfl
@[simp] theorem State.modBundle_slices (s : State) (b : Nat) (f : Bundle → Bundle) : (s.modBundle b f).slices = s.slices := rfl
@[simp] theorem State.modBundle_presented (s : State) (b : Nat) (f : Bundle → Bundle) : (s.modBundle b f).presented = s.presented := rfl
@[simp] theorem State.modBundle_dies (s : State) (b : Nat) (f : Bundle → Bundle) : (s.modBundle b f).dies = s.dies := rfl
@[simp] theorem State.modBundle_place (s : State) (b : Nat) (f : Bundle → Bundle) : (s.modBundle b f).place = s.place := rfl
@[simp] theorem State.modBundle_epoch (s : State) (b : Nat) (f : Bundle → Bundle) : (s.modBundle b f).epoch = s.epoch := rfl
@[simp] theorem State.modBundle_schedule (s : State) (b : Nat) (f : Bundle → Bundle) : (s.modBundle b f).schedule = s.schedule := rfl
@[simp] theorem State.modBundle_pcores (s : State) (b : Nat) (f : Bundle → Bundle) : (s.modBundle b f).pcores = s.pcores := rfl
@[simp] theorem State.modBundle_retired (s : State) (b : Nat) (f : Bundle → Bundle) : (s.modBundle b f).retired = s.retired := rfl
@[simp] theorem State.modBundle_bridges (s : State) (b : Nat) (f : Bundle → Bundle) : (s.modBundle b f).bridges = s.bridges := rfl
@[simp] theorem State.modBundle_chans (s : State) (b : Nat) (f : Bundle → Bundle) : (s.modBundle b f).chans = s.chans := rfl
@[simp] theorem State.modBundle_hashQ (s : State) (b : Nat) (f : Bundle → Bundle) : (s.modBundle b f).hashQ = s.hashQ := rfl
@[simp] theorem State.modBundle_hot (s : State) (b : Nat) (f : Bundle → Bundle) : (s.modBundle b f).hot = s.hot := rfl
@[simp] theorem State.modBundle_host (s : State) (b : Nat) (f : Bundle → Bundle) : (s.modBundle b f).host = s.host := rfl
@[simp] theorem State.modBundle_lift (s : State) (b : Nat) (f : Bundle → Bundle) : (s.modBundle b f).lift = s.lift := rfl
@[simp] theorem State.modBundle_trvA (s : State) (b : Nat) (f : Bundle → Bundle) : (s.modBundle b f).trvA = s.trvA := rfl
@[simp] theorem State.modBundle_trvB (s : State) (b : Nat) (f : Bundle → Bundle) : (s.modBundle b f).trvB = s.trvB := rfl
@[simp] theorem State.modBundle_loadOrder (s : State) (b : Nat) (f : Bundle → Bundle) : (s.modBundle b f).loadOrder = s.loadOrder := rfl
@[simp] theorem State.modBundle_saves (s : State) (b : Nat) (f : Bundle → Bundle) : (s.modBundle b f).saves = s.saves := rfl
@[simp] theorem State.modBundle_saveNo (s : State) (b : Nat) (f : Bundle → Bundle) : (s.modBundle b f).saveNo = s.saveNo := rfl
@[simp] theorem State.modBundle_diesPw (s : State) (b : Nat) (f : Bundle → Bundle) : (s.modBundle b f).diesPw = s.diesPw := rfl
@[simp] theorem State.modBundle_capMiss (s : State) (b : Nat) (f : Bundle → Bundle) : (s.modBundle b f).capMiss = s.capMiss := rfl
@[simp] theorem State.modBundle_flash (s : State) (b : Nat) (f : Bundle → Bundle) : (s.modBundle b f).flash = s.flash := rfl
@[simp] theorem State.modBundle_toJournal (s : State) (b : Nat) (f : Bundle → Bundle) : (s.modBundle b f).toJournal = s.toJournal := rfl
@[simp] theorem State.modBundle_config (s : State) (b : Nat) (f : Bundle → Bundle) : (s.modBundle b f).config = s.config := rfl
@[simp] theorem State.modBundle_fw (s : State) (b : Nat) (f : Bundle → Bundle) : (s.modBundle b f).fw = s.fw := rfl
@[simp] theorem State.modBundle_runsB (s : State) (b : Nat) (f : Bundle → Bundle) : (s.modBundle b f).runsB = s.runsB := rfl
@[simp] theorem State.modBundle_liftClk (s : State) (b : Nat) (f : Bundle → Bundle) : (s.modBundle b f).liftClk = s.liftClk := rfl
@[simp] theorem State.modBundle_trvClk (s : State) (b : Nat) (f : Bundle → Bundle) : (s.modBundle b f).trvClk = s.trvClk := rfl
@[simp] theorem State.modBundle_spdmUp (s : State) (b : Nat) (f : Bundle → Bundle) : (s.modBundle b f).spdmUp = s.spdmUp := rfl
@[simp] theorem State.modBundle_faultUnread (s : State) (b : Nat) (f : Bundle → Bundle) : (s.modBundle b f).faultUnread = s.faultUnread := rfl
@[simp] theorem State.modBundle_free (s : State) (b : Nat) (f : Bundle → Bundle) : (s.modBundle b f).free = s.free := rfl
@[simp] theorem State.modBundle_outbox (s : State) (b : Nat) (f : Bundle → Bundle) : (s.modBundle b f).outbox = s.outbox := rfl
@[simp] theorem State.modBundle_pending (s : State) (b : Nat) (f : Bundle → Bundle) : (s.modBundle b f).pending = s.pending := rfl
@[simp] theorem State.modBundle_core (s : State) (b : Nat) (f : Bundle → Bundle) (i : Nat) : (s.modBundle b f).core i = s.core i := rfl
@[simp] theorem State.modBundle_page (s : State) (b : Nat) (f : Bundle → Bundle) (i : Nat) : (s.modBundle b f).page i = s.page i := rfl
@[simp] theorem State.modBundle_reg (s : State) (b : Nat) (f : Bundle → Bundle) (i j : Nat) : (s.modBundle b f).reg i j = s.reg i j := rfl
@[simp] theorem State.modBundle_counter (s : State) (b : Nat) (f : Bundle → Bundle) (i j : Nat) : (s.modBundle b f).counter i j = s.counter i j := rfl
@[simp] theorem State.modBundle_pcore (s : State) (b : Nat) (f : Bundle → Bundle) (i : Nat) : (s.modBundle b f).pcore i = s.pcore i := rfl
@[simp] theorem State.modBundle_hostOf (s : State) (b : Nat) (f : Bundle → Bundle) (i : Nat) : (s.modBundle b f).hostOf i = s.hostOf i := rfl
@[simp] theorem State.modBundle_isPresented (s : State) (b : Nat) (f : Bundle → Bundle) (i : Nat) : (s.modBundle b f).isPresented i = s.isPresented i := rfl
@[simp] theorem State.modBundle_physSlice (s : State) (b : Nat) (f : Bundle → Bundle) (i : Nat) : (s.modBundle b f).physSlice i = s.physSlice i := rfl
@[simp] theorem State.modBundle_unit (s : State) (b : Nat) (f : Bundle → Bundle) (i j : Nat) : (s.modBundle b f).unit i j = s.unit i j := rfl
@[simp] theorem State.modBundle_context (s : State) (b : Nat) (f : Bundle → Bundle) (i : Nat) : (s.modBundle b f).context i = s.context i := rfl
@[simp] theorem State.modBundle_task (s : State) (b : Nat) (f : Bundle → Bundle) (i : Nat) : (s.modBundle b f).task i = s.task i := rfl
@[simp] theorem State.modBundle_queue (s : State) (b : Nat) (f : Bundle → Bundle) (i : Nat) : (s.modBundle b f).queue i = s.queue i := rfl
@[simp] theorem State.modBundle_ring (s : State) (b : Nat) (f : Bundle → Bundle) (i : Nat) : (s.modBundle b f).ring i = s.ring i := rfl
@[simp] theorem State.modBundle_trv (s : State) (b : Nat) (f : Bundle → Bundle) (i : TPort) : (s.modBundle b f).trv i = s.trv i := rfl
@[simp] theorem State.modBundle_liftPort (s : State) (b : Nat) (f : Bundle → Bundle) (i : Side) : (s.modBundle b f).liftPort i = s.liftPort i := rfl
@[simp] theorem State.modBundle_chan (s : State) (b : Nat) (f : Bundle → Bundle) (i j : Nat) : (s.modBundle b f).chan i j = s.chan i j := rfl
@[simp] theorem State.modBundle_die (s : State) (b : Nat) (f : Bundle → Bundle) (i : Nat) : (s.modBundle b f).die i = s.die i := rfl
@[simp] theorem State.modBundle_coreTask (s : State) (b : Nat) (f : Bundle → Bundle) (i : Nat) : (s.modBundle b f).coreTask i = s.coreTask i := rfl
@[simp] theorem State.modBundle_coreJob (s : State) (b : Nat) (f : Bundle → Bundle) (i : Nat) : (s.modBundle b f).coreJob i = s.coreJob i := rfl
@[simp] theorem State.modBundle_coreBase (s : State) (b : Nat) (f : Bundle → Bundle) (i : Nat) : (s.modBundle b f).coreBase i = s.coreBase i := rfl
@[simp] theorem State.modBundle_linkState (s : State) (b : Nat) (f : Bundle → Bundle) (i : Side) : (s.modBundle b f).linkState i = s.linkState i := rfl
@[simp] theorem State.modBundle_linkUp (s : State) (b : Nat) (f : Bundle → Bundle) (i : Side) : (s.modBundle b f).linkUp i = s.linkUp i := rfl
@[simp] theorem State.modBundle_coreUp (s : State) (b : Nat) (f : Bundle → Bundle) (i : Nat) : (s.modBundle b f).coreUp i = s.coreUp i := rfl
@[simp] theorem State.modBundle_coreAwake (s : State) (b : Nat) (f : Bundle → Bundle) (i : Nat) : (s.modBundle b f).coreAwake i = s.coreAwake i := rfl

@[simp] theorem State.modLift_time (s : State) (f : Lift → Lift) : (s.modLift f).time = s.time := rfl
@[simp] theorem State.modLift_refOk (s : State) (f : Lift → Lift) : (s.modLift f).refOk = s.refOk := rfl
@[simp] theorem State.modLift_holdover (s : State) (f : Lift → Lift) : (s.modLift f).holdover = s.holdover := rfl
@[simp] theorem State.modLift_phase (s : State) (f : Lift → Lift) : (s.modLift f).phase = s.phase := rfl
@[simp] theorem State.modLift_porN (s : State) (f : Lift → Lift) : (s.modLift f).porN = s.porN := rfl
@[simp] theorem State.modLift_perstN (s : State) (f : Lift → Lift) : (s.modLift f).perstN = s.perstN := rfl
@[simp] theorem State.modLift_strap0 (s : State) (f : Lift → Lift) : (s.modLift f).strap0 = s.strap0 := rfl
@[simp] theorem State.modLift_strap1 (s : State) (f : Lift → Lift) : (s.modLift f).strap1 = s.strap1 := rfl
@[simp] theorem State.modLift_trip (s : State) (f : Lift → Lift) : (s.modLift f).trip = s.trip := rfl
@[simp] theorem State.modLift_tap (s : State) (f : Lift → Lift) : (s.modLift f).tap = s.tap := rfl
@[simp] theorem State.modLift_chain (s : State) (f : Lift → Lift) : (s.modLift f).chain = s.chain := rfl
@[simp] theorem State.modLift_pages (s : State) (f : Lift → Lift) : (s.modLift f).pages = s.pages := rfl
@[simp] theorem State.modLift_cores (s : State) (f : Lift → Lift) : (s.modLift f).cores = s.cores := rfl
@[simp] theorem State.modLift_slices (s : State) (f : Lift → Lift) : (s.modLift f).slices = s.slices := rfl
@[simp] theorem State.modLift_presented (s : State) (f : Lift → Lift) : (s.modLift f).presented = s.presented := rfl
@[simp] theorem State.modLift_dies (s : State) (f : Lift → Lift) : (s.modLift f).dies = s.dies := rfl
@[simp] theorem State.modLift_place (s : State) (f : Lift → Lift) : (s.modLift f).place = s.place := rfl
@[simp] theorem State.modLift_epoch (s : State) (f : Lift → Lift) : (s.modLift f).epoch = s.epoch := rfl
@[simp] theorem State.modLift_schedule (s : State) (f : Lift → Lift) : (s.modLift f).schedule = s.schedule := rfl
@[simp] theorem State.modLift_pcores (s : State) (f : Lift → Lift) : (s.modLift f).pcores = s.pcores := rfl
@[simp] theorem State.modLift_retired (s : State) (f : Lift → Lift) : (s.modLift f).retired = s.retired := rfl
@[simp] theorem State.modLift_bridges (s : State) (f : Lift → Lift) : (s.modLift f).bridges = s.bridges := rfl
@[simp] theorem State.modLift_chans (s : State) (f : Lift → Lift) : (s.modLift f).chans = s.chans := rfl
@[simp] theorem State.modLift_hashQ (s : State) (f : Lift → Lift) : (s.modLift f).hashQ = s.hashQ := rfl
@[simp] theorem State.modLift_hot (s : State) (f : Lift → Lift) : (s.modLift f).hot = s.hot := rfl
@[simp] theorem State.modLift_host (s : State) (f : Lift → Lift) : (s.modLift f).host = s.host := rfl
@[simp] theorem State.modLift_trvA (s : State) (f : Lift → Lift) : (s.modLift f).trvA = s.trvA := rfl
@[simp] theorem State.modLift_trvB (s : State) (f : Lift → Lift) : (s.modLift f).trvB = s.trvB := rfl
@[simp] theorem State.modLift_bundles (s : State) (f : Lift → Lift) : (s.modLift f).bundles = s.bundles := rfl
@[simp] theorem State.modLift_loadOrder (s : State) (f : Lift → Lift) : (s.modLift f).loadOrder = s.loadOrder := rfl
@[simp] theorem State.modLift_saves (s : State) (f : Lift → Lift) : (s.modLift f).saves = s.saves := rfl
@[simp] theorem State.modLift_saveNo (s : State) (f : Lift → Lift) : (s.modLift f).saveNo = s.saveNo := rfl
@[simp] theorem State.modLift_diesPw (s : State) (f : Lift → Lift) : (s.modLift f).diesPw = s.diesPw := rfl
@[simp] theorem State.modLift_capMiss (s : State) (f : Lift → Lift) : (s.modLift f).capMiss = s.capMiss := rfl
@[simp] theorem State.modLift_flash (s : State) (f : Lift → Lift) : (s.modLift f).flash = s.flash := rfl
@[simp] theorem State.modLift_toJournal (s : State) (f : Lift → Lift) : (s.modLift f).toJournal = s.toJournal := rfl
@[simp] theorem State.modLift_config (s : State) (f : Lift → Lift) : (s.modLift f).config = s.config := rfl
@[simp] theorem State.modLift_fw (s : State) (f : Lift → Lift) : (s.modLift f).fw = s.fw := rfl
@[simp] theorem State.modLift_runsB (s : State) (f : Lift → Lift) : (s.modLift f).runsB = s.runsB := rfl
@[simp] theorem State.modLift_liftClk (s : State) (f : Lift → Lift) : (s.modLift f).liftClk = s.liftClk := rfl
@[simp] theorem State.modLift_trvClk (s : State) (f : Lift → Lift) : (s.modLift f).trvClk = s.trvClk := rfl
@[simp] theorem State.modLift_spdmUp (s : State) (f : Lift → Lift) : (s.modLift f).spdmUp = s.spdmUp := rfl
@[simp] theorem State.modLift_faultUnread (s : State) (f : Lift → Lift) : (s.modLift f).faultUnread = s.faultUnread := rfl
@[simp] theorem State.modLift_free (s : State) (f : Lift → Lift) : (s.modLift f).free = s.free := rfl
@[simp] theorem State.modLift_outbox (s : State) (f : Lift → Lift) : (s.modLift f).outbox = s.outbox := rfl
@[simp] theorem State.modLift_pending (s : State) (f : Lift → Lift) : (s.modLift f).pending = s.pending := rfl
@[simp] theorem State.modLift_core (s : State) (f : Lift → Lift) (i : Nat) : (s.modLift f).core i = s.core i := rfl
@[simp] theorem State.modLift_page (s : State) (f : Lift → Lift) (i : Nat) : (s.modLift f).page i = s.page i := rfl
@[simp] theorem State.modLift_reg (s : State) (f : Lift → Lift) (i j : Nat) : (s.modLift f).reg i j = s.reg i j := rfl
@[simp] theorem State.modLift_counter (s : State) (f : Lift → Lift) (i j : Nat) : (s.modLift f).counter i j = s.counter i j := rfl
@[simp] theorem State.modLift_pcore (s : State) (f : Lift → Lift) (i : Nat) : (s.modLift f).pcore i = s.pcore i := rfl
@[simp] theorem State.modLift_hostOf (s : State) (f : Lift → Lift) (i : Nat) : (s.modLift f).hostOf i = s.hostOf i := rfl
@[simp] theorem State.modLift_isPresented (s : State) (f : Lift → Lift) (i : Nat) : (s.modLift f).isPresented i = s.isPresented i := rfl
@[simp] theorem State.modLift_physSlice (s : State) (f : Lift → Lift) (i : Nat) : (s.modLift f).physSlice i = s.physSlice i := rfl
@[simp] theorem State.modLift_unit (s : State) (f : Lift → Lift) (i j : Nat) : (s.modLift f).unit i j = s.unit i j := rfl
@[simp] theorem State.modLift_context (s : State) (f : Lift → Lift) (i : Nat) : (s.modLift f).context i = s.context i := rfl
@[simp] theorem State.modLift_task (s : State) (f : Lift → Lift) (i : Nat) : (s.modLift f).task i = s.task i := rfl
@[simp] theorem State.modLift_queue (s : State) (f : Lift → Lift) (i : Nat) : (s.modLift f).queue i = s.queue i := rfl
@[simp] theorem State.modLift_ring (s : State) (f : Lift → Lift) (i : Nat) : (s.modLift f).ring i = s.ring i := rfl
@[simp] theorem State.modLift_bundle (s : State) (f : Lift → Lift) (i : Nat) : (s.modLift f).bundle i = s.bundle i := rfl
@[simp] theorem State.modLift_trv (s : State) (f : Lift → Lift) (i : TPort) : (s.modLift f).trv i = s.trv i := rfl
@[simp] theorem State.modLift_chan (s : State) (f : Lift → Lift) (i j : Nat) : (s.modLift f).chan i j = s.chan i j := rfl
@[simp] theorem State.modLift_die (s : State) (f : Lift → Lift) (i : Nat) : (s.modLift f).die i = s.die i := rfl
@[simp] theorem State.modLift_coreTask (s : State) (f : Lift → Lift) (i : Nat) : (s.modLift f).coreTask i = s.coreTask i := rfl
@[simp] theorem State.modLift_coreJob (s : State) (f : Lift → Lift) (i : Nat) : (s.modLift f).coreJob i = s.coreJob i := rfl
@[simp] theorem State.modLift_coreBase (s : State) (f : Lift → Lift) (i : Nat) : (s.modLift f).coreBase i = s.coreBase i := rfl
@[simp] theorem State.modLift_linkState (s : State) (f : Lift → Lift) (i : Side) : (s.modLift f).linkState i = s.linkState i := rfl
@[simp] theorem State.modLift_linkUp (s : State) (f : Lift → Lift) (i : Side) : (s.modLift f).linkUp i = s.linkUp i := rfl
@[simp] theorem State.modLift_coreUp (s : State) (f : Lift → Lift) (i : Nat) : (s.modLift f).coreUp i = s.coreUp i := rfl
@[simp] theorem State.modLift_coreAwake (s : State) (f : Lift → Lift) (i : Nat) : (s.modLift f).coreAwake i = s.coreAwake i := rfl

@[simp] theorem State.modLiftPort_time (s : State) (x : Side) (f : LiftPort → LiftPort) : (s.modLiftPort x f).time = s.time := rfl
@[simp] theorem State.modLiftPort_refOk (s : State) (x : Side) (f : LiftPort → LiftPort) : (s.modLiftPort x f).refOk = s.refOk := rfl
@[simp] theorem State.modLiftPort_holdover (s : State) (x : Side) (f : LiftPort → LiftPort) : (s.modLiftPort x f).holdover = s.holdover := rfl
@[simp] theorem State.modLiftPort_phase (s : State) (x : Side) (f : LiftPort → LiftPort) : (s.modLiftPort x f).phase = s.phase := rfl
@[simp] theorem State.modLiftPort_porN (s : State) (x : Side) (f : LiftPort → LiftPort) : (s.modLiftPort x f).porN = s.porN := rfl
@[simp] theorem State.modLiftPort_perstN (s : State) (x : Side) (f : LiftPort → LiftPort) : (s.modLiftPort x f).perstN = s.perstN := rfl
@[simp] theorem State.modLiftPort_strap0 (s : State) (x : Side) (f : LiftPort → LiftPort) : (s.modLiftPort x f).strap0 = s.strap0 := rfl
@[simp] theorem State.modLiftPort_strap1 (s : State) (x : Side) (f : LiftPort → LiftPort) : (s.modLiftPort x f).strap1 = s.strap1 := rfl
@[simp] theorem State.modLiftPort_trip (s : State) (x : Side) (f : LiftPort → LiftPort) : (s.modLiftPort x f).trip = s.trip := rfl
@[simp] theorem State.modLiftPort_tap (s : State) (x : Side) (f : LiftPort → LiftPort) : (s.modLiftPort x f).tap = s.tap := rfl
@[simp] theorem State.modLiftPort_chain (s : State) (x : Side) (f : LiftPort → LiftPort) : (s.modLiftPort x f).chain = s.chain := rfl
@[simp] theorem State.modLiftPort_pages (s : State) (x : Side) (f : LiftPort → LiftPort) : (s.modLiftPort x f).pages = s.pages := rfl
@[simp] theorem State.modLiftPort_cores (s : State) (x : Side) (f : LiftPort → LiftPort) : (s.modLiftPort x f).cores = s.cores := rfl
@[simp] theorem State.modLiftPort_slices (s : State) (x : Side) (f : LiftPort → LiftPort) : (s.modLiftPort x f).slices = s.slices := rfl
@[simp] theorem State.modLiftPort_presented (s : State) (x : Side) (f : LiftPort → LiftPort) : (s.modLiftPort x f).presented = s.presented := rfl
@[simp] theorem State.modLiftPort_dies (s : State) (x : Side) (f : LiftPort → LiftPort) : (s.modLiftPort x f).dies = s.dies := rfl
@[simp] theorem State.modLiftPort_place (s : State) (x : Side) (f : LiftPort → LiftPort) : (s.modLiftPort x f).place = s.place := rfl
@[simp] theorem State.modLiftPort_epoch (s : State) (x : Side) (f : LiftPort → LiftPort) : (s.modLiftPort x f).epoch = s.epoch := rfl
@[simp] theorem State.modLiftPort_schedule (s : State) (x : Side) (f : LiftPort → LiftPort) : (s.modLiftPort x f).schedule = s.schedule := rfl
@[simp] theorem State.modLiftPort_pcores (s : State) (x : Side) (f : LiftPort → LiftPort) : (s.modLiftPort x f).pcores = s.pcores := rfl
@[simp] theorem State.modLiftPort_retired (s : State) (x : Side) (f : LiftPort → LiftPort) : (s.modLiftPort x f).retired = s.retired := rfl
@[simp] theorem State.modLiftPort_bridges (s : State) (x : Side) (f : LiftPort → LiftPort) : (s.modLiftPort x f).bridges = s.bridges := rfl
@[simp] theorem State.modLiftPort_chans (s : State) (x : Side) (f : LiftPort → LiftPort) : (s.modLiftPort x f).chans = s.chans := rfl
@[simp] theorem State.modLiftPort_hashQ (s : State) (x : Side) (f : LiftPort → LiftPort) : (s.modLiftPort x f).hashQ = s.hashQ := rfl
@[simp] theorem State.modLiftPort_hot (s : State) (x : Side) (f : LiftPort → LiftPort) : (s.modLiftPort x f).hot = s.hot := rfl
@[simp] theorem State.modLiftPort_host (s : State) (x : Side) (f : LiftPort → LiftPort) : (s.modLiftPort x f).host = s.host := rfl
@[simp] theorem State.modLiftPort_trvA (s : State) (x : Side) (f : LiftPort → LiftPort) : (s.modLiftPort x f).trvA = s.trvA := rfl
@[simp] theorem State.modLiftPort_trvB (s : State) (x : Side) (f : LiftPort → LiftPort) : (s.modLiftPort x f).trvB = s.trvB := rfl
@[simp] theorem State.modLiftPort_bundles (s : State) (x : Side) (f : LiftPort → LiftPort) : (s.modLiftPort x f).bundles = s.bundles := rfl
@[simp] theorem State.modLiftPort_loadOrder (s : State) (x : Side) (f : LiftPort → LiftPort) : (s.modLiftPort x f).loadOrder = s.loadOrder := rfl
@[simp] theorem State.modLiftPort_saves (s : State) (x : Side) (f : LiftPort → LiftPort) : (s.modLiftPort x f).saves = s.saves := rfl
@[simp] theorem State.modLiftPort_saveNo (s : State) (x : Side) (f : LiftPort → LiftPort) : (s.modLiftPort x f).saveNo = s.saveNo := rfl
@[simp] theorem State.modLiftPort_diesPw (s : State) (x : Side) (f : LiftPort → LiftPort) : (s.modLiftPort x f).diesPw = s.diesPw := rfl
@[simp] theorem State.modLiftPort_capMiss (s : State) (x : Side) (f : LiftPort → LiftPort) : (s.modLiftPort x f).capMiss = s.capMiss := rfl
@[simp] theorem State.modLiftPort_flash (s : State) (x : Side) (f : LiftPort → LiftPort) : (s.modLiftPort x f).flash = s.flash := rfl
@[simp] theorem State.modLiftPort_toJournal (s : State) (x : Side) (f : LiftPort → LiftPort) : (s.modLiftPort x f).toJournal = s.toJournal := rfl
@[simp] theorem State.modLiftPort_config (s : State) (x : Side) (f : LiftPort → LiftPort) : (s.modLiftPort x f).config = s.config := rfl
@[simp] theorem State.modLiftPort_fw (s : State) (x : Side) (f : LiftPort → LiftPort) : (s.modLiftPort x f).fw = s.fw := rfl
@[simp] theorem State.modLiftPort_runsB (s : State) (x : Side) (f : LiftPort → LiftPort) : (s.modLiftPort x f).runsB = s.runsB := rfl
@[simp] theorem State.modLiftPort_liftClk (s : State) (x : Side) (f : LiftPort → LiftPort) : (s.modLiftPort x f).liftClk = s.liftClk := rfl
@[simp] theorem State.modLiftPort_trvClk (s : State) (x : Side) (f : LiftPort → LiftPort) : (s.modLiftPort x f).trvClk = s.trvClk := rfl
@[simp] theorem State.modLiftPort_spdmUp (s : State) (x : Side) (f : LiftPort → LiftPort) : (s.modLiftPort x f).spdmUp = s.spdmUp := rfl
@[simp] theorem State.modLiftPort_faultUnread (s : State) (x : Side) (f : LiftPort → LiftPort) : (s.modLiftPort x f).faultUnread = s.faultUnread := rfl
@[simp] theorem State.modLiftPort_free (s : State) (x : Side) (f : LiftPort → LiftPort) : (s.modLiftPort x f).free = s.free := rfl
@[simp] theorem State.modLiftPort_outbox (s : State) (x : Side) (f : LiftPort → LiftPort) : (s.modLiftPort x f).outbox = s.outbox := rfl
@[simp] theorem State.modLiftPort_pending (s : State) (x : Side) (f : LiftPort → LiftPort) : (s.modLiftPort x f).pending = s.pending := rfl
@[simp] theorem State.modLiftPort_core (s : State) (x : Side) (f : LiftPort → LiftPort) (i : Nat) : (s.modLiftPort x f).core i = s.core i := rfl
@[simp] theorem State.modLiftPort_page (s : State) (x : Side) (f : LiftPort → LiftPort) (i : Nat) : (s.modLiftPort x f).page i = s.page i := rfl
@[simp] theorem State.modLiftPort_reg (s : State) (x : Side) (f : LiftPort → LiftPort) (i j : Nat) : (s.modLiftPort x f).reg i j = s.reg i j := rfl
@[simp] theorem State.modLiftPort_counter (s : State) (x : Side) (f : LiftPort → LiftPort) (i j : Nat) : (s.modLiftPort x f).counter i j = s.counter i j := rfl
@[simp] theorem State.modLiftPort_pcore (s : State) (x : Side) (f : LiftPort → LiftPort) (i : Nat) : (s.modLiftPort x f).pcore i = s.pcore i := rfl
@[simp] theorem State.modLiftPort_hostOf (s : State) (x : Side) (f : LiftPort → LiftPort) (i : Nat) : (s.modLiftPort x f).hostOf i = s.hostOf i := rfl
@[simp] theorem State.modLiftPort_isPresented (s : State) (x : Side) (f : LiftPort → LiftPort) (i : Nat) : (s.modLiftPort x f).isPresented i = s.isPresented i := rfl
@[simp] theorem State.modLiftPort_physSlice (s : State) (x : Side) (f : LiftPort → LiftPort) (i : Nat) : (s.modLiftPort x f).physSlice i = s.physSlice i := rfl
@[simp] theorem State.modLiftPort_unit (s : State) (x : Side) (f : LiftPort → LiftPort) (i j : Nat) : (s.modLiftPort x f).unit i j = s.unit i j := rfl
@[simp] theorem State.modLiftPort_context (s : State) (x : Side) (f : LiftPort → LiftPort) (i : Nat) : (s.modLiftPort x f).context i = s.context i := rfl
@[simp] theorem State.modLiftPort_task (s : State) (x : Side) (f : LiftPort → LiftPort) (i : Nat) : (s.modLiftPort x f).task i = s.task i := rfl
@[simp] theorem State.modLiftPort_queue (s : State) (x : Side) (f : LiftPort → LiftPort) (i : Nat) : (s.modLiftPort x f).queue i = s.queue i := rfl
@[simp] theorem State.modLiftPort_ring (s : State) (x : Side) (f : LiftPort → LiftPort) (i : Nat) : (s.modLiftPort x f).ring i = s.ring i := rfl
@[simp] theorem State.modLiftPort_bundle (s : State) (x : Side) (f : LiftPort → LiftPort) (i : Nat) : (s.modLiftPort x f).bundle i = s.bundle i := rfl
@[simp] theorem State.modLiftPort_trv (s : State) (x : Side) (f : LiftPort → LiftPort) (i : TPort) : (s.modLiftPort x f).trv i = s.trv i := rfl
@[simp] theorem State.modLiftPort_chan (s : State) (x : Side) (f : LiftPort → LiftPort) (i j : Nat) : (s.modLiftPort x f).chan i j = s.chan i j := rfl
@[simp] theorem State.modLiftPort_die (s : State) (x : Side) (f : LiftPort → LiftPort) (i : Nat) : (s.modLiftPort x f).die i = s.die i := rfl
@[simp] theorem State.modLiftPort_coreTask (s : State) (x : Side) (f : LiftPort → LiftPort) (i : Nat) : (s.modLiftPort x f).coreTask i = s.coreTask i := rfl
@[simp] theorem State.modLiftPort_coreJob (s : State) (x : Side) (f : LiftPort → LiftPort) (i : Nat) : (s.modLiftPort x f).coreJob i = s.coreJob i := rfl
@[simp] theorem State.modLiftPort_coreBase (s : State) (x : Side) (f : LiftPort → LiftPort) (i : Nat) : (s.modLiftPort x f).coreBase i = s.coreBase i := rfl
@[simp] theorem State.modLiftPort_linkState (s : State) (x : Side) (f : LiftPort → LiftPort) (i : Side) : (s.modLiftPort x f).linkState i = s.linkState i := rfl
@[simp] theorem State.modLiftPort_linkUp (s : State) (x : Side) (f : LiftPort → LiftPort) (i : Side) : (s.modLiftPort x f).linkUp i = s.linkUp i := rfl
@[simp] theorem State.modLiftPort_coreUp (s : State) (x : Side) (f : LiftPort → LiftPort) (i : Nat) : (s.modLiftPort x f).coreUp i = s.coreUp i := rfl
@[simp] theorem State.modLiftPort_coreAwake (s : State) (x : Side) (f : LiftPort → LiftPort) (i : Nat) : (s.modLiftPort x f).coreAwake i = s.coreAwake i := rfl

@[simp] theorem State.modChan_time (s : State) (st ch : Nat) (f : Chan → Chan) : (s.modChan st ch f).time = s.time := rfl
@[simp] theorem State.modChan_refOk (s : State) (st ch : Nat) (f : Chan → Chan) : (s.modChan st ch f).refOk = s.refOk := rfl
@[simp] theorem State.modChan_holdover (s : State) (st ch : Nat) (f : Chan → Chan) : (s.modChan st ch f).holdover = s.holdover := rfl
@[simp] theorem State.modChan_phase (s : State) (st ch : Nat) (f : Chan → Chan) : (s.modChan st ch f).phase = s.phase := rfl
@[simp] theorem State.modChan_porN (s : State) (st ch : Nat) (f : Chan → Chan) : (s.modChan st ch f).porN = s.porN := rfl
@[simp] theorem State.modChan_perstN (s : State) (st ch : Nat) (f : Chan → Chan) : (s.modChan st ch f).perstN = s.perstN := rfl
@[simp] theorem State.modChan_strap0 (s : State) (st ch : Nat) (f : Chan → Chan) : (s.modChan st ch f).strap0 = s.strap0 := rfl
@[simp] theorem State.modChan_strap1 (s : State) (st ch : Nat) (f : Chan → Chan) : (s.modChan st ch f).strap1 = s.strap1 := rfl
@[simp] theorem State.modChan_trip (s : State) (st ch : Nat) (f : Chan → Chan) : (s.modChan st ch f).trip = s.trip := rfl
@[simp] theorem State.modChan_tap (s : State) (st ch : Nat) (f : Chan → Chan) : (s.modChan st ch f).tap = s.tap := rfl
@[simp] theorem State.modChan_chain (s : State) (st ch : Nat) (f : Chan → Chan) : (s.modChan st ch f).chain = s.chain := rfl
@[simp] theorem State.modChan_pages (s : State) (st ch : Nat) (f : Chan → Chan) : (s.modChan st ch f).pages = s.pages := rfl
@[simp] theorem State.modChan_cores (s : State) (st ch : Nat) (f : Chan → Chan) : (s.modChan st ch f).cores = s.cores := rfl
@[simp] theorem State.modChan_slices (s : State) (st ch : Nat) (f : Chan → Chan) : (s.modChan st ch f).slices = s.slices := rfl
@[simp] theorem State.modChan_presented (s : State) (st ch : Nat) (f : Chan → Chan) : (s.modChan st ch f).presented = s.presented := rfl
@[simp] theorem State.modChan_dies (s : State) (st ch : Nat) (f : Chan → Chan) : (s.modChan st ch f).dies = s.dies := rfl
@[simp] theorem State.modChan_place (s : State) (st ch : Nat) (f : Chan → Chan) : (s.modChan st ch f).place = s.place := rfl
@[simp] theorem State.modChan_epoch (s : State) (st ch : Nat) (f : Chan → Chan) : (s.modChan st ch f).epoch = s.epoch := rfl
@[simp] theorem State.modChan_schedule (s : State) (st ch : Nat) (f : Chan → Chan) : (s.modChan st ch f).schedule = s.schedule := rfl
@[simp] theorem State.modChan_pcores (s : State) (st ch : Nat) (f : Chan → Chan) : (s.modChan st ch f).pcores = s.pcores := rfl
@[simp] theorem State.modChan_retired (s : State) (st ch : Nat) (f : Chan → Chan) : (s.modChan st ch f).retired = s.retired := rfl
@[simp] theorem State.modChan_bridges (s : State) (st ch : Nat) (f : Chan → Chan) : (s.modChan st ch f).bridges = s.bridges := rfl
@[simp] theorem State.modChan_hashQ (s : State) (st ch : Nat) (f : Chan → Chan) : (s.modChan st ch f).hashQ = s.hashQ := rfl
@[simp] theorem State.modChan_hot (s : State) (st ch : Nat) (f : Chan → Chan) : (s.modChan st ch f).hot = s.hot := rfl
@[simp] theorem State.modChan_host (s : State) (st ch : Nat) (f : Chan → Chan) : (s.modChan st ch f).host = s.host := rfl
@[simp] theorem State.modChan_lift (s : State) (st ch : Nat) (f : Chan → Chan) : (s.modChan st ch f).lift = s.lift := rfl
@[simp] theorem State.modChan_trvA (s : State) (st ch : Nat) (f : Chan → Chan) : (s.modChan st ch f).trvA = s.trvA := rfl
@[simp] theorem State.modChan_trvB (s : State) (st ch : Nat) (f : Chan → Chan) : (s.modChan st ch f).trvB = s.trvB := rfl
@[simp] theorem State.modChan_bundles (s : State) (st ch : Nat) (f : Chan → Chan) : (s.modChan st ch f).bundles = s.bundles := rfl
@[simp] theorem State.modChan_loadOrder (s : State) (st ch : Nat) (f : Chan → Chan) : (s.modChan st ch f).loadOrder = s.loadOrder := rfl
@[simp] theorem State.modChan_saves (s : State) (st ch : Nat) (f : Chan → Chan) : (s.modChan st ch f).saves = s.saves := rfl
@[simp] theorem State.modChan_saveNo (s : State) (st ch : Nat) (f : Chan → Chan) : (s.modChan st ch f).saveNo = s.saveNo := rfl
@[simp] theorem State.modChan_diesPw (s : State) (st ch : Nat) (f : Chan → Chan) : (s.modChan st ch f).diesPw = s.diesPw := rfl
@[simp] theorem State.modChan_capMiss (s : State) (st ch : Nat) (f : Chan → Chan) : (s.modChan st ch f).capMiss = s.capMiss := rfl
@[simp] theorem State.modChan_flash (s : State) (st ch : Nat) (f : Chan → Chan) : (s.modChan st ch f).flash = s.flash := rfl
@[simp] theorem State.modChan_toJournal (s : State) (st ch : Nat) (f : Chan → Chan) : (s.modChan st ch f).toJournal = s.toJournal := rfl
@[simp] theorem State.modChan_config (s : State) (st ch : Nat) (f : Chan → Chan) : (s.modChan st ch f).config = s.config := rfl
@[simp] theorem State.modChan_fw (s : State) (st ch : Nat) (f : Chan → Chan) : (s.modChan st ch f).fw = s.fw := rfl
@[simp] theorem State.modChan_runsB (s : State) (st ch : Nat) (f : Chan → Chan) : (s.modChan st ch f).runsB = s.runsB := rfl
@[simp] theorem State.modChan_liftClk (s : State) (st ch : Nat) (f : Chan → Chan) : (s.modChan st ch f).liftClk = s.liftClk := rfl
@[simp] theorem State.modChan_trvClk (s : State) (st ch : Nat) (f : Chan → Chan) : (s.modChan st ch f).trvClk = s.trvClk := rfl
@[simp] theorem State.modChan_spdmUp (s : State) (st ch : Nat) (f : Chan → Chan) : (s.modChan st ch f).spdmUp = s.spdmUp := rfl
@[simp] theorem State.modChan_faultUnread (s : State) (st ch : Nat) (f : Chan → Chan) : (s.modChan st ch f).faultUnread = s.faultUnread := rfl
@[simp] theorem State.modChan_free (s : State) (st ch : Nat) (f : Chan → Chan) : (s.modChan st ch f).free = s.free := rfl
@[simp] theorem State.modChan_outbox (s : State) (st ch : Nat) (f : Chan → Chan) : (s.modChan st ch f).outbox = s.outbox := rfl
@[simp] theorem State.modChan_pending (s : State) (st ch : Nat) (f : Chan → Chan) : (s.modChan st ch f).pending = s.pending := rfl
@[simp] theorem State.modChan_core (s : State) (st ch : Nat) (f : Chan → Chan) (i : Nat) : (s.modChan st ch f).core i = s.core i := rfl
@[simp] theorem State.modChan_page (s : State) (st ch : Nat) (f : Chan → Chan) (i : Nat) : (s.modChan st ch f).page i = s.page i := rfl
@[simp] theorem State.modChan_reg (s : State) (st ch : Nat) (f : Chan → Chan) (i j : Nat) : (s.modChan st ch f).reg i j = s.reg i j := rfl
@[simp] theorem State.modChan_counter (s : State) (st ch : Nat) (f : Chan → Chan) (i j : Nat) : (s.modChan st ch f).counter i j = s.counter i j := rfl
@[simp] theorem State.modChan_pcore (s : State) (st ch : Nat) (f : Chan → Chan) (i : Nat) : (s.modChan st ch f).pcore i = s.pcore i := rfl
@[simp] theorem State.modChan_hostOf (s : State) (st ch : Nat) (f : Chan → Chan) (i : Nat) : (s.modChan st ch f).hostOf i = s.hostOf i := rfl
@[simp] theorem State.modChan_isPresented (s : State) (st ch : Nat) (f : Chan → Chan) (i : Nat) : (s.modChan st ch f).isPresented i = s.isPresented i := rfl
@[simp] theorem State.modChan_physSlice (s : State) (st ch : Nat) (f : Chan → Chan) (i : Nat) : (s.modChan st ch f).physSlice i = s.physSlice i := rfl
@[simp] theorem State.modChan_unit (s : State) (st ch : Nat) (f : Chan → Chan) (i j : Nat) : (s.modChan st ch f).unit i j = s.unit i j := rfl
@[simp] theorem State.modChan_context (s : State) (st ch : Nat) (f : Chan → Chan) (i : Nat) : (s.modChan st ch f).context i = s.context i := rfl
@[simp] theorem State.modChan_task (s : State) (st ch : Nat) (f : Chan → Chan) (i : Nat) : (s.modChan st ch f).task i = s.task i := rfl
@[simp] theorem State.modChan_queue (s : State) (st ch : Nat) (f : Chan → Chan) (i : Nat) : (s.modChan st ch f).queue i = s.queue i := rfl
@[simp] theorem State.modChan_ring (s : State) (st ch : Nat) (f : Chan → Chan) (i : Nat) : (s.modChan st ch f).ring i = s.ring i := rfl
@[simp] theorem State.modChan_bundle (s : State) (st ch : Nat) (f : Chan → Chan) (i : Nat) : (s.modChan st ch f).bundle i = s.bundle i := rfl
@[simp] theorem State.modChan_trv (s : State) (st ch : Nat) (f : Chan → Chan) (i : TPort) : (s.modChan st ch f).trv i = s.trv i := rfl
@[simp] theorem State.modChan_liftPort (s : State) (st ch : Nat) (f : Chan → Chan) (i : Side) : (s.modChan st ch f).liftPort i = s.liftPort i := rfl
@[simp] theorem State.modChan_die (s : State) (st ch : Nat) (f : Chan → Chan) (i : Nat) : (s.modChan st ch f).die i = s.die i := rfl
@[simp] theorem State.modChan_coreTask (s : State) (st ch : Nat) (f : Chan → Chan) (i : Nat) : (s.modChan st ch f).coreTask i = s.coreTask i := rfl
@[simp] theorem State.modChan_coreJob (s : State) (st ch : Nat) (f : Chan → Chan) (i : Nat) : (s.modChan st ch f).coreJob i = s.coreJob i := rfl
@[simp] theorem State.modChan_coreBase (s : State) (st ch : Nat) (f : Chan → Chan) (i : Nat) : (s.modChan st ch f).coreBase i = s.coreBase i := rfl
@[simp] theorem State.modChan_linkState (s : State) (st ch : Nat) (f : Chan → Chan) (i : Side) : (s.modChan st ch f).linkState i = s.linkState i := rfl
@[simp] theorem State.modChan_linkUp (s : State) (st ch : Nat) (f : Chan → Chan) (i : Side) : (s.modChan st ch f).linkUp i = s.linkUp i := rfl
@[simp] theorem State.modChan_coreUp (s : State) (st ch : Nat) (f : Chan → Chan) (i : Nat) : (s.modChan st ch f).coreUp i = s.coreUp i := rfl
@[simp] theorem State.modChan_coreAwake (s : State) (st ch : Nat) (f : Chan → Chan) (i : Nat) : (s.modChan st ch f).coreAwake i = s.coreAwake i := rfl

@[simp] theorem State.modDie_time (s : State) (d : Nat) (f : Die → Die) : (s.modDie d f).time = s.time := rfl
@[simp] theorem State.modDie_refOk (s : State) (d : Nat) (f : Die → Die) : (s.modDie d f).refOk = s.refOk := rfl
@[simp] theorem State.modDie_holdover (s : State) (d : Nat) (f : Die → Die) : (s.modDie d f).holdover = s.holdover := rfl
@[simp] theorem State.modDie_phase (s : State) (d : Nat) (f : Die → Die) : (s.modDie d f).phase = s.phase := rfl
@[simp] theorem State.modDie_porN (s : State) (d : Nat) (f : Die → Die) : (s.modDie d f).porN = s.porN := rfl
@[simp] theorem State.modDie_perstN (s : State) (d : Nat) (f : Die → Die) : (s.modDie d f).perstN = s.perstN := rfl
@[simp] theorem State.modDie_strap0 (s : State) (d : Nat) (f : Die → Die) : (s.modDie d f).strap0 = s.strap0 := rfl
@[simp] theorem State.modDie_strap1 (s : State) (d : Nat) (f : Die → Die) : (s.modDie d f).strap1 = s.strap1 := rfl
@[simp] theorem State.modDie_trip (s : State) (d : Nat) (f : Die → Die) : (s.modDie d f).trip = s.trip := rfl
@[simp] theorem State.modDie_tap (s : State) (d : Nat) (f : Die → Die) : (s.modDie d f).tap = s.tap := rfl
@[simp] theorem State.modDie_chain (s : State) (d : Nat) (f : Die → Die) : (s.modDie d f).chain = s.chain := rfl
@[simp] theorem State.modDie_pages (s : State) (d : Nat) (f : Die → Die) : (s.modDie d f).pages = s.pages := rfl
@[simp] theorem State.modDie_cores (s : State) (d : Nat) (f : Die → Die) : (s.modDie d f).cores = s.cores := rfl
@[simp] theorem State.modDie_slices (s : State) (d : Nat) (f : Die → Die) : (s.modDie d f).slices = s.slices := rfl
@[simp] theorem State.modDie_presented (s : State) (d : Nat) (f : Die → Die) : (s.modDie d f).presented = s.presented := rfl
@[simp] theorem State.modDie_dies (s : State) (d : Nat) (f : Die → Die) : (s.modDie d f).dies = s.dies := rfl
@[simp] theorem State.modDie_place (s : State) (d : Nat) (f : Die → Die) : (s.modDie d f).place = s.place := rfl
@[simp] theorem State.modDie_epoch (s : State) (d : Nat) (f : Die → Die) : (s.modDie d f).epoch = s.epoch := rfl
@[simp] theorem State.modDie_schedule (s : State) (d : Nat) (f : Die → Die) : (s.modDie d f).schedule = s.schedule := rfl
@[simp] theorem State.modDie_pcores (s : State) (d : Nat) (f : Die → Die) : (s.modDie d f).pcores = s.pcores := rfl
@[simp] theorem State.modDie_retired (s : State) (d : Nat) (f : Die → Die) : (s.modDie d f).retired = s.retired := rfl
@[simp] theorem State.modDie_bridges (s : State) (d : Nat) (f : Die → Die) : (s.modDie d f).bridges = s.bridges := rfl
@[simp] theorem State.modDie_chans (s : State) (d : Nat) (f : Die → Die) : (s.modDie d f).chans = s.chans := rfl
@[simp] theorem State.modDie_hashQ (s : State) (d : Nat) (f : Die → Die) : (s.modDie d f).hashQ = s.hashQ := rfl
@[simp] theorem State.modDie_hot (s : State) (d : Nat) (f : Die → Die) : (s.modDie d f).hot = s.hot := rfl
@[simp] theorem State.modDie_host (s : State) (d : Nat) (f : Die → Die) : (s.modDie d f).host = s.host := rfl
@[simp] theorem State.modDie_lift (s : State) (d : Nat) (f : Die → Die) : (s.modDie d f).lift = s.lift := rfl
@[simp] theorem State.modDie_trvA (s : State) (d : Nat) (f : Die → Die) : (s.modDie d f).trvA = s.trvA := rfl
@[simp] theorem State.modDie_trvB (s : State) (d : Nat) (f : Die → Die) : (s.modDie d f).trvB = s.trvB := rfl
@[simp] theorem State.modDie_bundles (s : State) (d : Nat) (f : Die → Die) : (s.modDie d f).bundles = s.bundles := rfl
@[simp] theorem State.modDie_loadOrder (s : State) (d : Nat) (f : Die → Die) : (s.modDie d f).loadOrder = s.loadOrder := rfl
@[simp] theorem State.modDie_saves (s : State) (d : Nat) (f : Die → Die) : (s.modDie d f).saves = s.saves := rfl
@[simp] theorem State.modDie_saveNo (s : State) (d : Nat) (f : Die → Die) : (s.modDie d f).saveNo = s.saveNo := rfl
@[simp] theorem State.modDie_capMiss (s : State) (d : Nat) (f : Die → Die) : (s.modDie d f).capMiss = s.capMiss := rfl
@[simp] theorem State.modDie_flash (s : State) (d : Nat) (f : Die → Die) : (s.modDie d f).flash = s.flash := rfl
@[simp] theorem State.modDie_toJournal (s : State) (d : Nat) (f : Die → Die) : (s.modDie d f).toJournal = s.toJournal := rfl
@[simp] theorem State.modDie_config (s : State) (d : Nat) (f : Die → Die) : (s.modDie d f).config = s.config := rfl
@[simp] theorem State.modDie_fw (s : State) (d : Nat) (f : Die → Die) : (s.modDie d f).fw = s.fw := rfl
@[simp] theorem State.modDie_runsB (s : State) (d : Nat) (f : Die → Die) : (s.modDie d f).runsB = s.runsB := rfl
@[simp] theorem State.modDie_liftClk (s : State) (d : Nat) (f : Die → Die) : (s.modDie d f).liftClk = s.liftClk := rfl
@[simp] theorem State.modDie_trvClk (s : State) (d : Nat) (f : Die → Die) : (s.modDie d f).trvClk = s.trvClk := rfl
@[simp] theorem State.modDie_spdmUp (s : State) (d : Nat) (f : Die → Die) : (s.modDie d f).spdmUp = s.spdmUp := rfl
@[simp] theorem State.modDie_faultUnread (s : State) (d : Nat) (f : Die → Die) : (s.modDie d f).faultUnread = s.faultUnread := rfl
@[simp] theorem State.modDie_free (s : State) (d : Nat) (f : Die → Die) : (s.modDie d f).free = s.free := rfl
@[simp] theorem State.modDie_outbox (s : State) (d : Nat) (f : Die → Die) : (s.modDie d f).outbox = s.outbox := rfl
@[simp] theorem State.modDie_pending (s : State) (d : Nat) (f : Die → Die) : (s.modDie d f).pending = s.pending := rfl
@[simp] theorem State.modDie_core (s : State) (d : Nat) (f : Die → Die) (i : Nat) : (s.modDie d f).core i = s.core i := rfl
@[simp] theorem State.modDie_page (s : State) (d : Nat) (f : Die → Die) (i : Nat) : (s.modDie d f).page i = s.page i := rfl
@[simp] theorem State.modDie_reg (s : State) (d : Nat) (f : Die → Die) (i j : Nat) : (s.modDie d f).reg i j = s.reg i j := rfl
@[simp] theorem State.modDie_counter (s : State) (d : Nat) (f : Die → Die) (i j : Nat) : (s.modDie d f).counter i j = s.counter i j := rfl
@[simp] theorem State.modDie_pcore (s : State) (d : Nat) (f : Die → Die) (i : Nat) : (s.modDie d f).pcore i = s.pcore i := rfl
@[simp] theorem State.modDie_hostOf (s : State) (d : Nat) (f : Die → Die) (i : Nat) : (s.modDie d f).hostOf i = s.hostOf i := rfl
@[simp] theorem State.modDie_isPresented (s : State) (d : Nat) (f : Die → Die) (i : Nat) : (s.modDie d f).isPresented i = s.isPresented i := rfl
@[simp] theorem State.modDie_physSlice (s : State) (d : Nat) (f : Die → Die) (i : Nat) : (s.modDie d f).physSlice i = s.physSlice i := rfl
@[simp] theorem State.modDie_unit (s : State) (d : Nat) (f : Die → Die) (i j : Nat) : (s.modDie d f).unit i j = s.unit i j := rfl
@[simp] theorem State.modDie_context (s : State) (d : Nat) (f : Die → Die) (i : Nat) : (s.modDie d f).context i = s.context i := rfl
@[simp] theorem State.modDie_task (s : State) (d : Nat) (f : Die → Die) (i : Nat) : (s.modDie d f).task i = s.task i := rfl
@[simp] theorem State.modDie_queue (s : State) (d : Nat) (f : Die → Die) (i : Nat) : (s.modDie d f).queue i = s.queue i := rfl
@[simp] theorem State.modDie_ring (s : State) (d : Nat) (f : Die → Die) (i : Nat) : (s.modDie d f).ring i = s.ring i := rfl
@[simp] theorem State.modDie_bundle (s : State) (d : Nat) (f : Die → Die) (i : Nat) : (s.modDie d f).bundle i = s.bundle i := rfl
@[simp] theorem State.modDie_trv (s : State) (d : Nat) (f : Die → Die) (i : TPort) : (s.modDie d f).trv i = s.trv i := rfl
@[simp] theorem State.modDie_liftPort (s : State) (d : Nat) (f : Die → Die) (i : Side) : (s.modDie d f).liftPort i = s.liftPort i := rfl
@[simp] theorem State.modDie_chan (s : State) (d : Nat) (f : Die → Die) (i j : Nat) : (s.modDie d f).chan i j = s.chan i j := rfl
@[simp] theorem State.modDie_coreTask (s : State) (d : Nat) (f : Die → Die) (i : Nat) : (s.modDie d f).coreTask i = s.coreTask i := rfl
@[simp] theorem State.modDie_coreJob (s : State) (d : Nat) (f : Die → Die) (i : Nat) : (s.modDie d f).coreJob i = s.coreJob i := rfl
@[simp] theorem State.modDie_coreBase (s : State) (d : Nat) (f : Die → Die) (i : Nat) : (s.modDie d f).coreBase i = s.coreBase i := rfl
@[simp] theorem State.modDie_linkState (s : State) (d : Nat) (f : Die → Die) (i : Side) : (s.modDie d f).linkState i = s.linkState i := rfl
@[simp] theorem State.modDie_linkUp (s : State) (d : Nat) (f : Die → Die) (i : Side) : (s.modDie d f).linkUp i = s.linkUp i := rfl
@[simp] theorem State.modDie_coreUp (s : State) (d : Nat) (f : Die → Die) (i : Nat) : (s.modDie d f).coreUp i = s.coreUp i := rfl
@[simp] theorem State.modDie_coreAwake (s : State) (d : Nat) (f : Die → Die) (i : Nat) : (s.modDie d f).coreAwake i = s.coreAwake i := rfl

@[simp] theorem State.emit_time (s : State) (o : Out) : (s.emit o).time = s.time := rfl
@[simp] theorem State.emit_refOk (s : State) (o : Out) : (s.emit o).refOk = s.refOk := rfl
@[simp] theorem State.emit_holdover (s : State) (o : Out) : (s.emit o).holdover = s.holdover := rfl
@[simp] theorem State.emit_phase (s : State) (o : Out) : (s.emit o).phase = s.phase := rfl
@[simp] theorem State.emit_porN (s : State) (o : Out) : (s.emit o).porN = s.porN := rfl
@[simp] theorem State.emit_perstN (s : State) (o : Out) : (s.emit o).perstN = s.perstN := rfl
@[simp] theorem State.emit_strap0 (s : State) (o : Out) : (s.emit o).strap0 = s.strap0 := rfl
@[simp] theorem State.emit_strap1 (s : State) (o : Out) : (s.emit o).strap1 = s.strap1 := rfl
@[simp] theorem State.emit_trip (s : State) (o : Out) : (s.emit o).trip = s.trip := rfl
@[simp] theorem State.emit_tap (s : State) (o : Out) : (s.emit o).tap = s.tap := rfl
@[simp] theorem State.emit_chain (s : State) (o : Out) : (s.emit o).chain = s.chain := rfl
@[simp] theorem State.emit_pages (s : State) (o : Out) : (s.emit o).pages = s.pages := rfl
@[simp] theorem State.emit_cores (s : State) (o : Out) : (s.emit o).cores = s.cores := rfl
@[simp] theorem State.emit_slices (s : State) (o : Out) : (s.emit o).slices = s.slices := rfl
@[simp] theorem State.emit_presented (s : State) (o : Out) : (s.emit o).presented = s.presented := rfl
@[simp] theorem State.emit_dies (s : State) (o : Out) : (s.emit o).dies = s.dies := rfl
@[simp] theorem State.emit_place (s : State) (o : Out) : (s.emit o).place = s.place := rfl
@[simp] theorem State.emit_epoch (s : State) (o : Out) : (s.emit o).epoch = s.epoch := rfl
@[simp] theorem State.emit_schedule (s : State) (o : Out) : (s.emit o).schedule = s.schedule := rfl
@[simp] theorem State.emit_pcores (s : State) (o : Out) : (s.emit o).pcores = s.pcores := rfl
@[simp] theorem State.emit_retired (s : State) (o : Out) : (s.emit o).retired = s.retired := rfl
@[simp] theorem State.emit_bridges (s : State) (o : Out) : (s.emit o).bridges = s.bridges := rfl
@[simp] theorem State.emit_chans (s : State) (o : Out) : (s.emit o).chans = s.chans := rfl
@[simp] theorem State.emit_hashQ (s : State) (o : Out) : (s.emit o).hashQ = s.hashQ := rfl
@[simp] theorem State.emit_hot (s : State) (o : Out) : (s.emit o).hot = s.hot := rfl
@[simp] theorem State.emit_host (s : State) (o : Out) : (s.emit o).host = s.host := rfl
@[simp] theorem State.emit_lift (s : State) (o : Out) : (s.emit o).lift = s.lift := rfl
@[simp] theorem State.emit_trvA (s : State) (o : Out) : (s.emit o).trvA = s.trvA := rfl
@[simp] theorem State.emit_trvB (s : State) (o : Out) : (s.emit o).trvB = s.trvB := rfl
@[simp] theorem State.emit_bundles (s : State) (o : Out) : (s.emit o).bundles = s.bundles := rfl
@[simp] theorem State.emit_loadOrder (s : State) (o : Out) : (s.emit o).loadOrder = s.loadOrder := rfl
@[simp] theorem State.emit_saves (s : State) (o : Out) : (s.emit o).saves = s.saves := rfl
@[simp] theorem State.emit_saveNo (s : State) (o : Out) : (s.emit o).saveNo = s.saveNo := rfl
@[simp] theorem State.emit_diesPw (s : State) (o : Out) : (s.emit o).diesPw = s.diesPw := rfl
@[simp] theorem State.emit_capMiss (s : State) (o : Out) : (s.emit o).capMiss = s.capMiss := rfl
@[simp] theorem State.emit_flash (s : State) (o : Out) : (s.emit o).flash = s.flash := rfl
@[simp] theorem State.emit_toJournal (s : State) (o : Out) : (s.emit o).toJournal = s.toJournal := rfl
@[simp] theorem State.emit_config (s : State) (o : Out) : (s.emit o).config = s.config := rfl
@[simp] theorem State.emit_fw (s : State) (o : Out) : (s.emit o).fw = s.fw := rfl
@[simp] theorem State.emit_runsB (s : State) (o : Out) : (s.emit o).runsB = s.runsB := rfl
@[simp] theorem State.emit_liftClk (s : State) (o : Out) : (s.emit o).liftClk = s.liftClk := rfl
@[simp] theorem State.emit_trvClk (s : State) (o : Out) : (s.emit o).trvClk = s.trvClk := rfl
@[simp] theorem State.emit_spdmUp (s : State) (o : Out) : (s.emit o).spdmUp = s.spdmUp := rfl
@[simp] theorem State.emit_faultUnread (s : State) (o : Out) : (s.emit o).faultUnread = s.faultUnread := rfl
@[simp] theorem State.emit_free (s : State) (o : Out) : (s.emit o).free = s.free := rfl
@[simp] theorem State.emit_pending (s : State) (o : Out) : (s.emit o).pending = s.pending := rfl
@[simp] theorem State.emit_core (s : State) (o : Out) (i : Nat) : (s.emit o).core i = s.core i := rfl
@[simp] theorem State.emit_page (s : State) (o : Out) (i : Nat) : (s.emit o).page i = s.page i := rfl
@[simp] theorem State.emit_reg (s : State) (o : Out) (i j : Nat) : (s.emit o).reg i j = s.reg i j := rfl
@[simp] theorem State.emit_counter (s : State) (o : Out) (i j : Nat) : (s.emit o).counter i j = s.counter i j := rfl
@[simp] theorem State.emit_pcore (s : State) (o : Out) (i : Nat) : (s.emit o).pcore i = s.pcore i := rfl
@[simp] theorem State.emit_hostOf (s : State) (o : Out) (i : Nat) : (s.emit o).hostOf i = s.hostOf i := rfl
@[simp] theorem State.emit_isPresented (s : State) (o : Out) (i : Nat) : (s.emit o).isPresented i = s.isPresented i := rfl
@[simp] theorem State.emit_physSlice (s : State) (o : Out) (i : Nat) : (s.emit o).physSlice i = s.physSlice i := rfl
@[simp] theorem State.emit_unit (s : State) (o : Out) (i j : Nat) : (s.emit o).unit i j = s.unit i j := rfl
@[simp] theorem State.emit_context (s : State) (o : Out) (i : Nat) : (s.emit o).context i = s.context i := rfl
@[simp] theorem State.emit_task (s : State) (o : Out) (i : Nat) : (s.emit o).task i = s.task i := rfl
@[simp] theorem State.emit_queue (s : State) (o : Out) (i : Nat) : (s.emit o).queue i = s.queue i := rfl
@[simp] theorem State.emit_ring (s : State) (o : Out) (i : Nat) : (s.emit o).ring i = s.ring i := rfl
@[simp] theorem State.emit_bundle (s : State) (o : Out) (i : Nat) : (s.emit o).bundle i = s.bundle i := rfl
@[simp] theorem State.emit_trv (s : State) (o : Out) (i : TPort) : (s.emit o).trv i = s.trv i := rfl
@[simp] theorem State.emit_liftPort (s : State) (o : Out) (i : Side) : (s.emit o).liftPort i = s.liftPort i := rfl
@[simp] theorem State.emit_chan (s : State) (o : Out) (i j : Nat) : (s.emit o).chan i j = s.chan i j := rfl
@[simp] theorem State.emit_die (s : State) (o : Out) (i : Nat) : (s.emit o).die i = s.die i := rfl
@[simp] theorem State.emit_coreTask (s : State) (o : Out) (i : Nat) : (s.emit o).coreTask i = s.coreTask i := rfl
@[simp] theorem State.emit_coreJob (s : State) (o : Out) (i : Nat) : (s.emit o).coreJob i = s.coreJob i := rfl
@[simp] theorem State.emit_coreBase (s : State) (o : Out) (i : Nat) : (s.emit o).coreBase i = s.coreBase i := rfl
@[simp] theorem State.emit_linkState (s : State) (o : Out) (i : Side) : (s.emit o).linkState i = s.linkState i := rfl
@[simp] theorem State.emit_linkUp (s : State) (o : Out) (i : Side) : (s.emit o).linkUp i = s.linkUp i := rfl
@[simp] theorem State.emit_coreUp (s : State) (o : Out) (i : Nat) : (s.emit o).coreUp i = s.coreUp i := rfl
@[simp] theorem State.emit_coreAwake (s : State) (o : Out) (i : Nat) : (s.emit o).coreAwake i = s.coreAwake i := rfl

@[simp] theorem State.takeFree_time (s : State) (k : Nat) : (s.takeFree k).time = s.time := rfl
@[simp] theorem State.takeFree_refOk (s : State) (k : Nat) : (s.takeFree k).refOk = s.refOk := rfl
@[simp] theorem State.takeFree_holdover (s : State) (k : Nat) : (s.takeFree k).holdover = s.holdover := rfl
@[simp] theorem State.takeFree_phase (s : State) (k : Nat) : (s.takeFree k).phase = s.phase := rfl
@[simp] theorem State.takeFree_porN (s : State) (k : Nat) : (s.takeFree k).porN = s.porN := rfl
@[simp] theorem State.takeFree_perstN (s : State) (k : Nat) : (s.takeFree k).perstN = s.perstN := rfl
@[simp] theorem State.takeFree_strap0 (s : State) (k : Nat) : (s.takeFree k).strap0 = s.strap0 := rfl
@[simp] theorem State.takeFree_strap1 (s : State) (k : Nat) : (s.takeFree k).strap1 = s.strap1 := rfl
@[simp] theorem State.takeFree_trip (s : State) (k : Nat) : (s.takeFree k).trip = s.trip := rfl
@[simp] theorem State.takeFree_tap (s : State) (k : Nat) : (s.takeFree k).tap = s.tap := rfl
@[simp] theorem State.takeFree_chain (s : State) (k : Nat) : (s.takeFree k).chain = s.chain := rfl
@[simp] theorem State.takeFree_pages (s : State) (k : Nat) : (s.takeFree k).pages = s.pages := rfl
@[simp] theorem State.takeFree_cores (s : State) (k : Nat) : (s.takeFree k).cores = s.cores := rfl
@[simp] theorem State.takeFree_slices (s : State) (k : Nat) : (s.takeFree k).slices = s.slices := rfl
@[simp] theorem State.takeFree_presented (s : State) (k : Nat) : (s.takeFree k).presented = s.presented := rfl
@[simp] theorem State.takeFree_dies (s : State) (k : Nat) : (s.takeFree k).dies = s.dies := rfl
@[simp] theorem State.takeFree_place (s : State) (k : Nat) : (s.takeFree k).place = s.place := rfl
@[simp] theorem State.takeFree_epoch (s : State) (k : Nat) : (s.takeFree k).epoch = s.epoch := rfl
@[simp] theorem State.takeFree_schedule (s : State) (k : Nat) : (s.takeFree k).schedule = s.schedule := rfl
@[simp] theorem State.takeFree_pcores (s : State) (k : Nat) : (s.takeFree k).pcores = s.pcores := rfl
@[simp] theorem State.takeFree_retired (s : State) (k : Nat) : (s.takeFree k).retired = s.retired := rfl
@[simp] theorem State.takeFree_bridges (s : State) (k : Nat) : (s.takeFree k).bridges = s.bridges := rfl
@[simp] theorem State.takeFree_chans (s : State) (k : Nat) : (s.takeFree k).chans = s.chans := rfl
@[simp] theorem State.takeFree_hashQ (s : State) (k : Nat) : (s.takeFree k).hashQ = s.hashQ := rfl
@[simp] theorem State.takeFree_hot (s : State) (k : Nat) : (s.takeFree k).hot = s.hot := rfl
@[simp] theorem State.takeFree_host (s : State) (k : Nat) : (s.takeFree k).host = s.host := rfl
@[simp] theorem State.takeFree_lift (s : State) (k : Nat) : (s.takeFree k).lift = s.lift := rfl
@[simp] theorem State.takeFree_trvA (s : State) (k : Nat) : (s.takeFree k).trvA = s.trvA := rfl
@[simp] theorem State.takeFree_trvB (s : State) (k : Nat) : (s.takeFree k).trvB = s.trvB := rfl
@[simp] theorem State.takeFree_bundles (s : State) (k : Nat) : (s.takeFree k).bundles = s.bundles := rfl
@[simp] theorem State.takeFree_loadOrder (s : State) (k : Nat) : (s.takeFree k).loadOrder = s.loadOrder := rfl
@[simp] theorem State.takeFree_saves (s : State) (k : Nat) : (s.takeFree k).saves = s.saves := rfl
@[simp] theorem State.takeFree_saveNo (s : State) (k : Nat) : (s.takeFree k).saveNo = s.saveNo := rfl
@[simp] theorem State.takeFree_diesPw (s : State) (k : Nat) : (s.takeFree k).diesPw = s.diesPw := rfl
@[simp] theorem State.takeFree_capMiss (s : State) (k : Nat) : (s.takeFree k).capMiss = s.capMiss := rfl
@[simp] theorem State.takeFree_flash (s : State) (k : Nat) : (s.takeFree k).flash = s.flash := rfl
@[simp] theorem State.takeFree_toJournal (s : State) (k : Nat) : (s.takeFree k).toJournal = s.toJournal := rfl
@[simp] theorem State.takeFree_config (s : State) (k : Nat) : (s.takeFree k).config = s.config := rfl
@[simp] theorem State.takeFree_fw (s : State) (k : Nat) : (s.takeFree k).fw = s.fw := rfl
@[simp] theorem State.takeFree_runsB (s : State) (k : Nat) : (s.takeFree k).runsB = s.runsB := rfl
@[simp] theorem State.takeFree_liftClk (s : State) (k : Nat) : (s.takeFree k).liftClk = s.liftClk := rfl
@[simp] theorem State.takeFree_trvClk (s : State) (k : Nat) : (s.takeFree k).trvClk = s.trvClk := rfl
@[simp] theorem State.takeFree_spdmUp (s : State) (k : Nat) : (s.takeFree k).spdmUp = s.spdmUp := rfl
@[simp] theorem State.takeFree_faultUnread (s : State) (k : Nat) : (s.takeFree k).faultUnread = s.faultUnread := rfl
@[simp] theorem State.takeFree_outbox (s : State) (k : Nat) : (s.takeFree k).outbox = s.outbox := rfl
@[simp] theorem State.takeFree_pending (s : State) (k : Nat) : (s.takeFree k).pending = s.pending := rfl
@[simp] theorem State.takeFree_core (s : State) (k : Nat) (i : Nat) : (s.takeFree k).core i = s.core i := rfl
@[simp] theorem State.takeFree_page (s : State) (k : Nat) (i : Nat) : (s.takeFree k).page i = s.page i := rfl
@[simp] theorem State.takeFree_reg (s : State) (k : Nat) (i j : Nat) : (s.takeFree k).reg i j = s.reg i j := rfl
@[simp] theorem State.takeFree_counter (s : State) (k : Nat) (i j : Nat) : (s.takeFree k).counter i j = s.counter i j := rfl
@[simp] theorem State.takeFree_pcore (s : State) (k : Nat) (i : Nat) : (s.takeFree k).pcore i = s.pcore i := rfl
@[simp] theorem State.takeFree_hostOf (s : State) (k : Nat) (i : Nat) : (s.takeFree k).hostOf i = s.hostOf i := rfl
@[simp] theorem State.takeFree_isPresented (s : State) (k : Nat) (i : Nat) : (s.takeFree k).isPresented i = s.isPresented i := rfl
@[simp] theorem State.takeFree_physSlice (s : State) (k : Nat) (i : Nat) : (s.takeFree k).physSlice i = s.physSlice i := rfl
@[simp] theorem State.takeFree_unit (s : State) (k : Nat) (i j : Nat) : (s.takeFree k).unit i j = s.unit i j := rfl
@[simp] theorem State.takeFree_context (s : State) (k : Nat) (i : Nat) : (s.takeFree k).context i = s.context i := rfl
@[simp] theorem State.takeFree_task (s : State) (k : Nat) (i : Nat) : (s.takeFree k).task i = s.task i := rfl
@[simp] theorem State.takeFree_queue (s : State) (k : Nat) (i : Nat) : (s.takeFree k).queue i = s.queue i := rfl
@[simp] theorem State.takeFree_ring (s : State) (k : Nat) (i : Nat) : (s.takeFree k).ring i = s.ring i := rfl
@[simp] theorem State.takeFree_bundle (s : State) (k : Nat) (i : Nat) : (s.takeFree k).bundle i = s.bundle i := rfl
@[simp] theorem State.takeFree_trv (s : State) (k : Nat) (i : TPort) : (s.takeFree k).trv i = s.trv i := rfl
@[simp] theorem State.takeFree_liftPort (s : State) (k : Nat) (i : Side) : (s.takeFree k).liftPort i = s.liftPort i := rfl
@[simp] theorem State.takeFree_chan (s : State) (k : Nat) (i j : Nat) : (s.takeFree k).chan i j = s.chan i j := rfl
@[simp] theorem State.takeFree_die (s : State) (k : Nat) (i : Nat) : (s.takeFree k).die i = s.die i := rfl
@[simp] theorem State.takeFree_coreTask (s : State) (k : Nat) (i : Nat) : (s.takeFree k).coreTask i = s.coreTask i := rfl
@[simp] theorem State.takeFree_coreJob (s : State) (k : Nat) (i : Nat) : (s.takeFree k).coreJob i = s.coreJob i := rfl
@[simp] theorem State.takeFree_coreBase (s : State) (k : Nat) (i : Nat) : (s.takeFree k).coreBase i = s.coreBase i := rfl
@[simp] theorem State.takeFree_linkState (s : State) (k : Nat) (i : Side) : (s.takeFree k).linkState i = s.linkState i := rfl
@[simp] theorem State.takeFree_linkUp (s : State) (k : Nat) (i : Side) : (s.takeFree k).linkUp i = s.linkUp i := rfl
@[simp] theorem State.takeFree_coreUp (s : State) (k : Nat) (i : Nat) : (s.takeFree k).coreUp i = s.coreUp i := rfl
@[simp] theorem State.takeFree_coreAwake (s : State) (k : Nat) (i : Nat) : (s.takeFree k).coreAwake i = s.coreAwake i := rfl

@[simp] theorem State.modSeq_time (s : State) (n : Nat) (f : Seq → Seq) : (s.modSeq n f).time = s.time := rfl
@[simp] theorem State.modSeq_refOk (s : State) (n : Nat) (f : Seq → Seq) : (s.modSeq n f).refOk = s.refOk := rfl
@[simp] theorem State.modSeq_holdover (s : State) (n : Nat) (f : Seq → Seq) : (s.modSeq n f).holdover = s.holdover := rfl
@[simp] theorem State.modSeq_phase (s : State) (n : Nat) (f : Seq → Seq) : (s.modSeq n f).phase = s.phase := rfl
@[simp] theorem State.modSeq_porN (s : State) (n : Nat) (f : Seq → Seq) : (s.modSeq n f).porN = s.porN := rfl
@[simp] theorem State.modSeq_perstN (s : State) (n : Nat) (f : Seq → Seq) : (s.modSeq n f).perstN = s.perstN := rfl
@[simp] theorem State.modSeq_strap0 (s : State) (n : Nat) (f : Seq → Seq) : (s.modSeq n f).strap0 = s.strap0 := rfl
@[simp] theorem State.modSeq_strap1 (s : State) (n : Nat) (f : Seq → Seq) : (s.modSeq n f).strap1 = s.strap1 := rfl
@[simp] theorem State.modSeq_trip (s : State) (n : Nat) (f : Seq → Seq) : (s.modSeq n f).trip = s.trip := rfl
@[simp] theorem State.modSeq_tap (s : State) (n : Nat) (f : Seq → Seq) : (s.modSeq n f).tap = s.tap := rfl
@[simp] theorem State.modSeq_chain (s : State) (n : Nat) (f : Seq → Seq) : (s.modSeq n f).chain = s.chain := rfl
@[simp] theorem State.modSeq_pages (s : State) (n : Nat) (f : Seq → Seq) : (s.modSeq n f).pages = s.pages := rfl
@[simp] theorem State.modSeq_slices (s : State) (n : Nat) (f : Seq → Seq) : (s.modSeq n f).slices = s.slices := rfl
@[simp] theorem State.modSeq_presented (s : State) (n : Nat) (f : Seq → Seq) : (s.modSeq n f).presented = s.presented := rfl
@[simp] theorem State.modSeq_dies (s : State) (n : Nat) (f : Seq → Seq) : (s.modSeq n f).dies = s.dies := rfl
@[simp] theorem State.modSeq_place (s : State) (n : Nat) (f : Seq → Seq) : (s.modSeq n f).place = s.place := rfl
@[simp] theorem State.modSeq_epoch (s : State) (n : Nat) (f : Seq → Seq) : (s.modSeq n f).epoch = s.epoch := rfl
@[simp] theorem State.modSeq_schedule (s : State) (n : Nat) (f : Seq → Seq) : (s.modSeq n f).schedule = s.schedule := rfl
@[simp] theorem State.modSeq_pcores (s : State) (n : Nat) (f : Seq → Seq) : (s.modSeq n f).pcores = s.pcores := rfl
@[simp] theorem State.modSeq_retired (s : State) (n : Nat) (f : Seq → Seq) : (s.modSeq n f).retired = s.retired := rfl
@[simp] theorem State.modSeq_bridges (s : State) (n : Nat) (f : Seq → Seq) : (s.modSeq n f).bridges = s.bridges := rfl
@[simp] theorem State.modSeq_chans (s : State) (n : Nat) (f : Seq → Seq) : (s.modSeq n f).chans = s.chans := rfl
@[simp] theorem State.modSeq_hashQ (s : State) (n : Nat) (f : Seq → Seq) : (s.modSeq n f).hashQ = s.hashQ := rfl
@[simp] theorem State.modSeq_hot (s : State) (n : Nat) (f : Seq → Seq) : (s.modSeq n f).hot = s.hot := rfl
@[simp] theorem State.modSeq_host (s : State) (n : Nat) (f : Seq → Seq) : (s.modSeq n f).host = s.host := rfl
@[simp] theorem State.modSeq_lift (s : State) (n : Nat) (f : Seq → Seq) : (s.modSeq n f).lift = s.lift := rfl
@[simp] theorem State.modSeq_trvA (s : State) (n : Nat) (f : Seq → Seq) : (s.modSeq n f).trvA = s.trvA := rfl
@[simp] theorem State.modSeq_trvB (s : State) (n : Nat) (f : Seq → Seq) : (s.modSeq n f).trvB = s.trvB := rfl
@[simp] theorem State.modSeq_bundles (s : State) (n : Nat) (f : Seq → Seq) : (s.modSeq n f).bundles = s.bundles := rfl
@[simp] theorem State.modSeq_loadOrder (s : State) (n : Nat) (f : Seq → Seq) : (s.modSeq n f).loadOrder = s.loadOrder := rfl
@[simp] theorem State.modSeq_saves (s : State) (n : Nat) (f : Seq → Seq) : (s.modSeq n f).saves = s.saves := rfl
@[simp] theorem State.modSeq_saveNo (s : State) (n : Nat) (f : Seq → Seq) : (s.modSeq n f).saveNo = s.saveNo := rfl
@[simp] theorem State.modSeq_diesPw (s : State) (n : Nat) (f : Seq → Seq) : (s.modSeq n f).diesPw = s.diesPw := rfl
@[simp] theorem State.modSeq_capMiss (s : State) (n : Nat) (f : Seq → Seq) : (s.modSeq n f).capMiss = s.capMiss := rfl
@[simp] theorem State.modSeq_flash (s : State) (n : Nat) (f : Seq → Seq) : (s.modSeq n f).flash = s.flash := rfl
@[simp] theorem State.modSeq_toJournal (s : State) (n : Nat) (f : Seq → Seq) : (s.modSeq n f).toJournal = s.toJournal := rfl
@[simp] theorem State.modSeq_config (s : State) (n : Nat) (f : Seq → Seq) : (s.modSeq n f).config = s.config := rfl
@[simp] theorem State.modSeq_fw (s : State) (n : Nat) (f : Seq → Seq) : (s.modSeq n f).fw = s.fw := rfl
@[simp] theorem State.modSeq_runsB (s : State) (n : Nat) (f : Seq → Seq) : (s.modSeq n f).runsB = s.runsB := rfl
@[simp] theorem State.modSeq_liftClk (s : State) (n : Nat) (f : Seq → Seq) : (s.modSeq n f).liftClk = s.liftClk := rfl
@[simp] theorem State.modSeq_trvClk (s : State) (n : Nat) (f : Seq → Seq) : (s.modSeq n f).trvClk = s.trvClk := rfl
@[simp] theorem State.modSeq_spdmUp (s : State) (n : Nat) (f : Seq → Seq) : (s.modSeq n f).spdmUp = s.spdmUp := rfl
@[simp] theorem State.modSeq_faultUnread (s : State) (n : Nat) (f : Seq → Seq) : (s.modSeq n f).faultUnread = s.faultUnread := rfl
@[simp] theorem State.modSeq_free (s : State) (n : Nat) (f : Seq → Seq) : (s.modSeq n f).free = s.free := rfl
@[simp] theorem State.modSeq_outbox (s : State) (n : Nat) (f : Seq → Seq) : (s.modSeq n f).outbox = s.outbox := rfl
@[simp] theorem State.modSeq_pending (s : State) (n : Nat) (f : Seq → Seq) : (s.modSeq n f).pending = s.pending := rfl
@[simp] theorem State.modSeq_page (s : State) (n : Nat) (f : Seq → Seq) (i : Nat) : (s.modSeq n f).page i = s.page i := rfl
@[simp] theorem State.modSeq_reg (s : State) (n : Nat) (f : Seq → Seq) (i j : Nat) : (s.modSeq n f).reg i j = s.reg i j := rfl
@[simp] theorem State.modSeq_counter (s : State) (n : Nat) (f : Seq → Seq) (i j : Nat) : (s.modSeq n f).counter i j = s.counter i j := rfl
@[simp] theorem State.modSeq_pcore (s : State) (n : Nat) (f : Seq → Seq) (i : Nat) : (s.modSeq n f).pcore i = s.pcore i := rfl
@[simp] theorem State.modSeq_hostOf (s : State) (n : Nat) (f : Seq → Seq) (i : Nat) : (s.modSeq n f).hostOf i = s.hostOf i := rfl
@[simp] theorem State.modSeq_isPresented (s : State) (n : Nat) (f : Seq → Seq) (i : Nat) : (s.modSeq n f).isPresented i = s.isPresented i := rfl
@[simp] theorem State.modSeq_physSlice (s : State) (n : Nat) (f : Seq → Seq) (i : Nat) : (s.modSeq n f).physSlice i = s.physSlice i := rfl
@[simp] theorem State.modSeq_unit (s : State) (n : Nat) (f : Seq → Seq) (i j : Nat) : (s.modSeq n f).unit i j = s.unit i j := rfl
@[simp] theorem State.modSeq_context (s : State) (n : Nat) (f : Seq → Seq) (i : Nat) : (s.modSeq n f).context i = s.context i := rfl
@[simp] theorem State.modSeq_task (s : State) (n : Nat) (f : Seq → Seq) (i : Nat) : (s.modSeq n f).task i = s.task i := rfl
@[simp] theorem State.modSeq_queue (s : State) (n : Nat) (f : Seq → Seq) (i : Nat) : (s.modSeq n f).queue i = s.queue i := rfl
@[simp] theorem State.modSeq_ring (s : State) (n : Nat) (f : Seq → Seq) (i : Nat) : (s.modSeq n f).ring i = s.ring i := rfl
@[simp] theorem State.modSeq_bundle (s : State) (n : Nat) (f : Seq → Seq) (i : Nat) : (s.modSeq n f).bundle i = s.bundle i := rfl
@[simp] theorem State.modSeq_trv (s : State) (n : Nat) (f : Seq → Seq) (i : TPort) : (s.modSeq n f).trv i = s.trv i := rfl
@[simp] theorem State.modSeq_liftPort (s : State) (n : Nat) (f : Seq → Seq) (i : Side) : (s.modSeq n f).liftPort i = s.liftPort i := rfl
@[simp] theorem State.modSeq_chan (s : State) (n : Nat) (f : Seq → Seq) (i j : Nat) : (s.modSeq n f).chan i j = s.chan i j := rfl
@[simp] theorem State.modSeq_die (s : State) (n : Nat) (f : Seq → Seq) (i : Nat) : (s.modSeq n f).die i = s.die i := rfl
@[simp] theorem State.modSeq_linkState (s : State) (n : Nat) (f : Seq → Seq) (i : Side) : (s.modSeq n f).linkState i = s.linkState i := rfl
@[simp] theorem State.modSeq_linkUp (s : State) (n : Nat) (f : Seq → Seq) (i : Side) : (s.modSeq n f).linkUp i = s.linkUp i := rfl
@[simp] theorem State.modSeq_coreUp (s : State) (n : Nat) (f : Seq → Seq) (i : Nat) : (s.modSeq n f).coreUp i = s.coreUp i := rfl
@[simp] theorem State.modSeq_coreAwake (s : State) (n : Nat) (f : Seq → Seq) (i : Nat) : (s.modSeq n f).coreAwake i = s.coreAwake i := rfl

@[simp] theorem State.modSpm_time (s : State) (n : Nat) (f : Spm → Spm) : (s.modSpm n f).time = s.time := rfl
@[simp] theorem State.modSpm_refOk (s : State) (n : Nat) (f : Spm → Spm) : (s.modSpm n f).refOk = s.refOk := rfl
@[simp] theorem State.modSpm_holdover (s : State) (n : Nat) (f : Spm → Spm) : (s.modSpm n f).holdover = s.holdover := rfl
@[simp] theorem State.modSpm_phase (s : State) (n : Nat) (f : Spm → Spm) : (s.modSpm n f).phase = s.phase := rfl
@[simp] theorem State.modSpm_porN (s : State) (n : Nat) (f : Spm → Spm) : (s.modSpm n f).porN = s.porN := rfl
@[simp] theorem State.modSpm_perstN (s : State) (n : Nat) (f : Spm → Spm) : (s.modSpm n f).perstN = s.perstN := rfl
@[simp] theorem State.modSpm_strap0 (s : State) (n : Nat) (f : Spm → Spm) : (s.modSpm n f).strap0 = s.strap0 := rfl
@[simp] theorem State.modSpm_strap1 (s : State) (n : Nat) (f : Spm → Spm) : (s.modSpm n f).strap1 = s.strap1 := rfl
@[simp] theorem State.modSpm_trip (s : State) (n : Nat) (f : Spm → Spm) : (s.modSpm n f).trip = s.trip := rfl
@[simp] theorem State.modSpm_tap (s : State) (n : Nat) (f : Spm → Spm) : (s.modSpm n f).tap = s.tap := rfl
@[simp] theorem State.modSpm_chain (s : State) (n : Nat) (f : Spm → Spm) : (s.modSpm n f).chain = s.chain := rfl
@[simp] theorem State.modSpm_pages (s : State) (n : Nat) (f : Spm → Spm) : (s.modSpm n f).pages = s.pages := rfl
@[simp] theorem State.modSpm_slices (s : State) (n : Nat) (f : Spm → Spm) : (s.modSpm n f).slices = s.slices := rfl
@[simp] theorem State.modSpm_presented (s : State) (n : Nat) (f : Spm → Spm) : (s.modSpm n f).presented = s.presented := rfl
@[simp] theorem State.modSpm_dies (s : State) (n : Nat) (f : Spm → Spm) : (s.modSpm n f).dies = s.dies := rfl
@[simp] theorem State.modSpm_place (s : State) (n : Nat) (f : Spm → Spm) : (s.modSpm n f).place = s.place := rfl
@[simp] theorem State.modSpm_epoch (s : State) (n : Nat) (f : Spm → Spm) : (s.modSpm n f).epoch = s.epoch := rfl
@[simp] theorem State.modSpm_schedule (s : State) (n : Nat) (f : Spm → Spm) : (s.modSpm n f).schedule = s.schedule := rfl
@[simp] theorem State.modSpm_pcores (s : State) (n : Nat) (f : Spm → Spm) : (s.modSpm n f).pcores = s.pcores := rfl
@[simp] theorem State.modSpm_retired (s : State) (n : Nat) (f : Spm → Spm) : (s.modSpm n f).retired = s.retired := rfl
@[simp] theorem State.modSpm_bridges (s : State) (n : Nat) (f : Spm → Spm) : (s.modSpm n f).bridges = s.bridges := rfl
@[simp] theorem State.modSpm_chans (s : State) (n : Nat) (f : Spm → Spm) : (s.modSpm n f).chans = s.chans := rfl
@[simp] theorem State.modSpm_hashQ (s : State) (n : Nat) (f : Spm → Spm) : (s.modSpm n f).hashQ = s.hashQ := rfl
@[simp] theorem State.modSpm_hot (s : State) (n : Nat) (f : Spm → Spm) : (s.modSpm n f).hot = s.hot := rfl
@[simp] theorem State.modSpm_host (s : State) (n : Nat) (f : Spm → Spm) : (s.modSpm n f).host = s.host := rfl
@[simp] theorem State.modSpm_lift (s : State) (n : Nat) (f : Spm → Spm) : (s.modSpm n f).lift = s.lift := rfl
@[simp] theorem State.modSpm_trvA (s : State) (n : Nat) (f : Spm → Spm) : (s.modSpm n f).trvA = s.trvA := rfl
@[simp] theorem State.modSpm_trvB (s : State) (n : Nat) (f : Spm → Spm) : (s.modSpm n f).trvB = s.trvB := rfl
@[simp] theorem State.modSpm_bundles (s : State) (n : Nat) (f : Spm → Spm) : (s.modSpm n f).bundles = s.bundles := rfl
@[simp] theorem State.modSpm_loadOrder (s : State) (n : Nat) (f : Spm → Spm) : (s.modSpm n f).loadOrder = s.loadOrder := rfl
@[simp] theorem State.modSpm_saves (s : State) (n : Nat) (f : Spm → Spm) : (s.modSpm n f).saves = s.saves := rfl
@[simp] theorem State.modSpm_saveNo (s : State) (n : Nat) (f : Spm → Spm) : (s.modSpm n f).saveNo = s.saveNo := rfl
@[simp] theorem State.modSpm_diesPw (s : State) (n : Nat) (f : Spm → Spm) : (s.modSpm n f).diesPw = s.diesPw := rfl
@[simp] theorem State.modSpm_capMiss (s : State) (n : Nat) (f : Spm → Spm) : (s.modSpm n f).capMiss = s.capMiss := rfl
@[simp] theorem State.modSpm_flash (s : State) (n : Nat) (f : Spm → Spm) : (s.modSpm n f).flash = s.flash := rfl
@[simp] theorem State.modSpm_toJournal (s : State) (n : Nat) (f : Spm → Spm) : (s.modSpm n f).toJournal = s.toJournal := rfl
@[simp] theorem State.modSpm_config (s : State) (n : Nat) (f : Spm → Spm) : (s.modSpm n f).config = s.config := rfl
@[simp] theorem State.modSpm_fw (s : State) (n : Nat) (f : Spm → Spm) : (s.modSpm n f).fw = s.fw := rfl
@[simp] theorem State.modSpm_runsB (s : State) (n : Nat) (f : Spm → Spm) : (s.modSpm n f).runsB = s.runsB := rfl
@[simp] theorem State.modSpm_liftClk (s : State) (n : Nat) (f : Spm → Spm) : (s.modSpm n f).liftClk = s.liftClk := rfl
@[simp] theorem State.modSpm_trvClk (s : State) (n : Nat) (f : Spm → Spm) : (s.modSpm n f).trvClk = s.trvClk := rfl
@[simp] theorem State.modSpm_spdmUp (s : State) (n : Nat) (f : Spm → Spm) : (s.modSpm n f).spdmUp = s.spdmUp := rfl
@[simp] theorem State.modSpm_faultUnread (s : State) (n : Nat) (f : Spm → Spm) : (s.modSpm n f).faultUnread = s.faultUnread := rfl
@[simp] theorem State.modSpm_free (s : State) (n : Nat) (f : Spm → Spm) : (s.modSpm n f).free = s.free := rfl
@[simp] theorem State.modSpm_outbox (s : State) (n : Nat) (f : Spm → Spm) : (s.modSpm n f).outbox = s.outbox := rfl
@[simp] theorem State.modSpm_pending (s : State) (n : Nat) (f : Spm → Spm) : (s.modSpm n f).pending = s.pending := rfl
@[simp] theorem State.modSpm_page (s : State) (n : Nat) (f : Spm → Spm) (i : Nat) : (s.modSpm n f).page i = s.page i := rfl
@[simp] theorem State.modSpm_reg (s : State) (n : Nat) (f : Spm → Spm) (i j : Nat) : (s.modSpm n f).reg i j = s.reg i j := rfl
@[simp] theorem State.modSpm_counter (s : State) (n : Nat) (f : Spm → Spm) (i j : Nat) : (s.modSpm n f).counter i j = s.counter i j := rfl
@[simp] theorem State.modSpm_pcore (s : State) (n : Nat) (f : Spm → Spm) (i : Nat) : (s.modSpm n f).pcore i = s.pcore i := rfl
@[simp] theorem State.modSpm_hostOf (s : State) (n : Nat) (f : Spm → Spm) (i : Nat) : (s.modSpm n f).hostOf i = s.hostOf i := rfl
@[simp] theorem State.modSpm_isPresented (s : State) (n : Nat) (f : Spm → Spm) (i : Nat) : (s.modSpm n f).isPresented i = s.isPresented i := rfl
@[simp] theorem State.modSpm_physSlice (s : State) (n : Nat) (f : Spm → Spm) (i : Nat) : (s.modSpm n f).physSlice i = s.physSlice i := rfl
@[simp] theorem State.modSpm_unit (s : State) (n : Nat) (f : Spm → Spm) (i j : Nat) : (s.modSpm n f).unit i j = s.unit i j := rfl
@[simp] theorem State.modSpm_context (s : State) (n : Nat) (f : Spm → Spm) (i : Nat) : (s.modSpm n f).context i = s.context i := rfl
@[simp] theorem State.modSpm_task (s : State) (n : Nat) (f : Spm → Spm) (i : Nat) : (s.modSpm n f).task i = s.task i := rfl
@[simp] theorem State.modSpm_queue (s : State) (n : Nat) (f : Spm → Spm) (i : Nat) : (s.modSpm n f).queue i = s.queue i := rfl
@[simp] theorem State.modSpm_ring (s : State) (n : Nat) (f : Spm → Spm) (i : Nat) : (s.modSpm n f).ring i = s.ring i := rfl
@[simp] theorem State.modSpm_bundle (s : State) (n : Nat) (f : Spm → Spm) (i : Nat) : (s.modSpm n f).bundle i = s.bundle i := rfl
@[simp] theorem State.modSpm_trv (s : State) (n : Nat) (f : Spm → Spm) (i : TPort) : (s.modSpm n f).trv i = s.trv i := rfl
@[simp] theorem State.modSpm_liftPort (s : State) (n : Nat) (f : Spm → Spm) (i : Side) : (s.modSpm n f).liftPort i = s.liftPort i := rfl
@[simp] theorem State.modSpm_chan (s : State) (n : Nat) (f : Spm → Spm) (i j : Nat) : (s.modSpm n f).chan i j = s.chan i j := rfl
@[simp] theorem State.modSpm_die (s : State) (n : Nat) (f : Spm → Spm) (i : Nat) : (s.modSpm n f).die i = s.die i := rfl
@[simp] theorem State.modSpm_linkState (s : State) (n : Nat) (f : Spm → Spm) (i : Side) : (s.modSpm n f).linkState i = s.linkState i := rfl
@[simp] theorem State.modSpm_linkUp (s : State) (n : Nat) (f : Spm → Spm) (i : Side) : (s.modSpm n f).linkUp i = s.linkUp i := rfl
@[simp] theorem State.modSpm_coreUp (s : State) (n : Nat) (f : Spm → Spm) (i : Nat) : (s.modSpm n f).coreUp i = s.coreUp i := rfl
@[simp] theorem State.modSpm_coreAwake (s : State) (n : Nat) (f : Spm → Spm) (i : Nat) : (s.modSpm n f).coreAwake i = s.coreAwake i := rfl

@[simp] theorem State.markStage_time (s : State) (n id : Nat) (st : Stage) : (s.markStage n id st).time = s.time := rfl
@[simp] theorem State.markStage_refOk (s : State) (n id : Nat) (st : Stage) : (s.markStage n id st).refOk = s.refOk := rfl
@[simp] theorem State.markStage_holdover (s : State) (n id : Nat) (st : Stage) : (s.markStage n id st).holdover = s.holdover := rfl
@[simp] theorem State.markStage_phase (s : State) (n id : Nat) (st : Stage) : (s.markStage n id st).phase = s.phase := rfl
@[simp] theorem State.markStage_porN (s : State) (n id : Nat) (st : Stage) : (s.markStage n id st).porN = s.porN := rfl
@[simp] theorem State.markStage_perstN (s : State) (n id : Nat) (st : Stage) : (s.markStage n id st).perstN = s.perstN := rfl
@[simp] theorem State.markStage_strap0 (s : State) (n id : Nat) (st : Stage) : (s.markStage n id st).strap0 = s.strap0 := rfl
@[simp] theorem State.markStage_strap1 (s : State) (n id : Nat) (st : Stage) : (s.markStage n id st).strap1 = s.strap1 := rfl
@[simp] theorem State.markStage_trip (s : State) (n id : Nat) (st : Stage) : (s.markStage n id st).trip = s.trip := rfl
@[simp] theorem State.markStage_tap (s : State) (n id : Nat) (st : Stage) : (s.markStage n id st).tap = s.tap := rfl
@[simp] theorem State.markStage_chain (s : State) (n id : Nat) (st : Stage) : (s.markStage n id st).chain = s.chain := rfl
@[simp] theorem State.markStage_pages (s : State) (n id : Nat) (st : Stage) : (s.markStage n id st).pages = s.pages := rfl
@[simp] theorem State.markStage_slices (s : State) (n id : Nat) (st : Stage) : (s.markStage n id st).slices = s.slices := rfl
@[simp] theorem State.markStage_presented (s : State) (n id : Nat) (st : Stage) : (s.markStage n id st).presented = s.presented := rfl
@[simp] theorem State.markStage_dies (s : State) (n id : Nat) (st : Stage) : (s.markStage n id st).dies = s.dies := rfl
@[simp] theorem State.markStage_place (s : State) (n id : Nat) (st : Stage) : (s.markStage n id st).place = s.place := rfl
@[simp] theorem State.markStage_epoch (s : State) (n id : Nat) (st : Stage) : (s.markStage n id st).epoch = s.epoch := rfl
@[simp] theorem State.markStage_schedule (s : State) (n id : Nat) (st : Stage) : (s.markStage n id st).schedule = s.schedule := rfl
@[simp] theorem State.markStage_pcores (s : State) (n id : Nat) (st : Stage) : (s.markStage n id st).pcores = s.pcores := rfl
@[simp] theorem State.markStage_retired (s : State) (n id : Nat) (st : Stage) : (s.markStage n id st).retired = s.retired := rfl
@[simp] theorem State.markStage_bridges (s : State) (n id : Nat) (st : Stage) : (s.markStage n id st).bridges = s.bridges := rfl
@[simp] theorem State.markStage_chans (s : State) (n id : Nat) (st : Stage) : (s.markStage n id st).chans = s.chans := rfl
@[simp] theorem State.markStage_hashQ (s : State) (n id : Nat) (st : Stage) : (s.markStage n id st).hashQ = s.hashQ := rfl
@[simp] theorem State.markStage_hot (s : State) (n id : Nat) (st : Stage) : (s.markStage n id st).hot = s.hot := rfl
@[simp] theorem State.markStage_host (s : State) (n id : Nat) (st : Stage) : (s.markStage n id st).host = s.host := rfl
@[simp] theorem State.markStage_lift (s : State) (n id : Nat) (st : Stage) : (s.markStage n id st).lift = s.lift := rfl
@[simp] theorem State.markStage_trvA (s : State) (n id : Nat) (st : Stage) : (s.markStage n id st).trvA = s.trvA := rfl
@[simp] theorem State.markStage_trvB (s : State) (n id : Nat) (st : Stage) : (s.markStage n id st).trvB = s.trvB := rfl
@[simp] theorem State.markStage_bundles (s : State) (n id : Nat) (st : Stage) : (s.markStage n id st).bundles = s.bundles := rfl
@[simp] theorem State.markStage_loadOrder (s : State) (n id : Nat) (st : Stage) : (s.markStage n id st).loadOrder = s.loadOrder := rfl
@[simp] theorem State.markStage_saves (s : State) (n id : Nat) (st : Stage) : (s.markStage n id st).saves = s.saves := rfl
@[simp] theorem State.markStage_saveNo (s : State) (n id : Nat) (st : Stage) : (s.markStage n id st).saveNo = s.saveNo := rfl
@[simp] theorem State.markStage_diesPw (s : State) (n id : Nat) (st : Stage) : (s.markStage n id st).diesPw = s.diesPw := rfl
@[simp] theorem State.markStage_capMiss (s : State) (n id : Nat) (st : Stage) : (s.markStage n id st).capMiss = s.capMiss := rfl
@[simp] theorem State.markStage_flash (s : State) (n id : Nat) (st : Stage) : (s.markStage n id st).flash = s.flash := rfl
@[simp] theorem State.markStage_toJournal (s : State) (n id : Nat) (st : Stage) : (s.markStage n id st).toJournal = s.toJournal := rfl
@[simp] theorem State.markStage_config (s : State) (n id : Nat) (st : Stage) : (s.markStage n id st).config = s.config := rfl
@[simp] theorem State.markStage_fw (s : State) (n id : Nat) (st : Stage) : (s.markStage n id st).fw = s.fw := rfl
@[simp] theorem State.markStage_runsB (s : State) (n id : Nat) (st : Stage) : (s.markStage n id st).runsB = s.runsB := rfl
@[simp] theorem State.markStage_liftClk (s : State) (n id : Nat) (st : Stage) : (s.markStage n id st).liftClk = s.liftClk := rfl
@[simp] theorem State.markStage_trvClk (s : State) (n id : Nat) (st : Stage) : (s.markStage n id st).trvClk = s.trvClk := rfl
@[simp] theorem State.markStage_spdmUp (s : State) (n id : Nat) (st : Stage) : (s.markStage n id st).spdmUp = s.spdmUp := rfl
@[simp] theorem State.markStage_faultUnread (s : State) (n id : Nat) (st : Stage) : (s.markStage n id st).faultUnread = s.faultUnread := rfl
@[simp] theorem State.markStage_free (s : State) (n id : Nat) (st : Stage) : (s.markStage n id st).free = s.free := rfl
@[simp] theorem State.markStage_outbox (s : State) (n id : Nat) (st : Stage) : (s.markStage n id st).outbox = s.outbox := rfl
@[simp] theorem State.markStage_pending (s : State) (n id : Nat) (st : Stage) : (s.markStage n id st).pending = s.pending := rfl
@[simp] theorem State.markStage_page (s : State) (n id : Nat) (st : Stage) (i : Nat) : (s.markStage n id st).page i = s.page i := rfl
@[simp] theorem State.markStage_reg (s : State) (n id : Nat) (st : Stage) (i j : Nat) : (s.markStage n id st).reg i j = s.reg i j := rfl
@[simp] theorem State.markStage_counter (s : State) (n id : Nat) (st : Stage) (i j : Nat) : (s.markStage n id st).counter i j = s.counter i j := rfl
@[simp] theorem State.markStage_pcore (s : State) (n id : Nat) (st : Stage) (i : Nat) : (s.markStage n id st).pcore i = s.pcore i := rfl
@[simp] theorem State.markStage_hostOf (s : State) (n id : Nat) (st : Stage) (i : Nat) : (s.markStage n id st).hostOf i = s.hostOf i := rfl
@[simp] theorem State.markStage_isPresented (s : State) (n id : Nat) (st : Stage) (i : Nat) : (s.markStage n id st).isPresented i = s.isPresented i := rfl
@[simp] theorem State.markStage_physSlice (s : State) (n id : Nat) (st : Stage) (i : Nat) : (s.markStage n id st).physSlice i = s.physSlice i := rfl
@[simp] theorem State.markStage_unit (s : State) (n id : Nat) (st : Stage) (i j : Nat) : (s.markStage n id st).unit i j = s.unit i j := rfl
@[simp] theorem State.markStage_context (s : State) (n id : Nat) (st : Stage) (i : Nat) : (s.markStage n id st).context i = s.context i := rfl
@[simp] theorem State.markStage_task (s : State) (n id : Nat) (st : Stage) (i : Nat) : (s.markStage n id st).task i = s.task i := rfl
@[simp] theorem State.markStage_queue (s : State) (n id : Nat) (st : Stage) (i : Nat) : (s.markStage n id st).queue i = s.queue i := rfl
@[simp] theorem State.markStage_ring (s : State) (n id : Nat) (st : Stage) (i : Nat) : (s.markStage n id st).ring i = s.ring i := rfl
@[simp] theorem State.markStage_bundle (s : State) (n id : Nat) (st : Stage) (i : Nat) : (s.markStage n id st).bundle i = s.bundle i := rfl
@[simp] theorem State.markStage_trv (s : State) (n id : Nat) (st : Stage) (i : TPort) : (s.markStage n id st).trv i = s.trv i := rfl
@[simp] theorem State.markStage_liftPort (s : State) (n id : Nat) (st : Stage) (i : Side) : (s.markStage n id st).liftPort i = s.liftPort i := rfl
@[simp] theorem State.markStage_chan (s : State) (n id : Nat) (st : Stage) (i j : Nat) : (s.markStage n id st).chan i j = s.chan i j := rfl
@[simp] theorem State.markStage_die (s : State) (n id : Nat) (st : Stage) (i : Nat) : (s.markStage n id st).die i = s.die i := rfl
@[simp] theorem State.markStage_linkState (s : State) (n id : Nat) (st : Stage) (i : Side) : (s.markStage n id st).linkState i = s.linkState i := rfl
@[simp] theorem State.markStage_linkUp (s : State) (n id : Nat) (st : Stage) (i : Side) : (s.markStage n id st).linkUp i = s.linkUp i := rfl
@[simp] theorem State.markStage_coreUp (s : State) (n id : Nat) (st : Stage) (i : Nat) : (s.markStage n id st).coreUp i = s.coreUp i := rfl
@[simp] theorem State.markStage_coreAwake (s : State) (n id : Nat) (st : Stage) (i : Nat) : (s.markStage n id st).coreAwake i = s.coreAwake i := rfl

@[simp] theorem State.setTrv_time (s : State) (p : TPort) (x : Traverse) : (s.setTrv p x).time = s.time := by cases p <;> rfl
@[simp] theorem State.setTrv_refOk (s : State) (p : TPort) (x : Traverse) : (s.setTrv p x).refOk = s.refOk := by cases p <;> rfl
@[simp] theorem State.setTrv_holdover (s : State) (p : TPort) (x : Traverse) : (s.setTrv p x).holdover = s.holdover := by cases p <;> rfl
@[simp] theorem State.setTrv_phase (s : State) (p : TPort) (x : Traverse) : (s.setTrv p x).phase = s.phase := by cases p <;> rfl
@[simp] theorem State.setTrv_porN (s : State) (p : TPort) (x : Traverse) : (s.setTrv p x).porN = s.porN := by cases p <;> rfl
@[simp] theorem State.setTrv_perstN (s : State) (p : TPort) (x : Traverse) : (s.setTrv p x).perstN = s.perstN := by cases p <;> rfl
@[simp] theorem State.setTrv_strap0 (s : State) (p : TPort) (x : Traverse) : (s.setTrv p x).strap0 = s.strap0 := by cases p <;> rfl
@[simp] theorem State.setTrv_strap1 (s : State) (p : TPort) (x : Traverse) : (s.setTrv p x).strap1 = s.strap1 := by cases p <;> rfl
@[simp] theorem State.setTrv_trip (s : State) (p : TPort) (x : Traverse) : (s.setTrv p x).trip = s.trip := by cases p <;> rfl
@[simp] theorem State.setTrv_tap (s : State) (p : TPort) (x : Traverse) : (s.setTrv p x).tap = s.tap := by cases p <;> rfl
@[simp] theorem State.setTrv_chain (s : State) (p : TPort) (x : Traverse) : (s.setTrv p x).chain = s.chain := by cases p <;> rfl
@[simp] theorem State.setTrv_pages (s : State) (p : TPort) (x : Traverse) : (s.setTrv p x).pages = s.pages := by cases p <;> rfl
@[simp] theorem State.setTrv_cores (s : State) (p : TPort) (x : Traverse) : (s.setTrv p x).cores = s.cores := by cases p <;> rfl
@[simp] theorem State.setTrv_slices (s : State) (p : TPort) (x : Traverse) : (s.setTrv p x).slices = s.slices := by cases p <;> rfl
@[simp] theorem State.setTrv_presented (s : State) (p : TPort) (x : Traverse) : (s.setTrv p x).presented = s.presented := by cases p <;> rfl
@[simp] theorem State.setTrv_dies (s : State) (p : TPort) (x : Traverse) : (s.setTrv p x).dies = s.dies := by cases p <;> rfl
@[simp] theorem State.setTrv_place (s : State) (p : TPort) (x : Traverse) : (s.setTrv p x).place = s.place := by cases p <;> rfl
@[simp] theorem State.setTrv_epoch (s : State) (p : TPort) (x : Traverse) : (s.setTrv p x).epoch = s.epoch := by cases p <;> rfl
@[simp] theorem State.setTrv_schedule (s : State) (p : TPort) (x : Traverse) : (s.setTrv p x).schedule = s.schedule := by cases p <;> rfl
@[simp] theorem State.setTrv_pcores (s : State) (p : TPort) (x : Traverse) : (s.setTrv p x).pcores = s.pcores := by cases p <;> rfl
@[simp] theorem State.setTrv_retired (s : State) (p : TPort) (x : Traverse) : (s.setTrv p x).retired = s.retired := by cases p <;> rfl
@[simp] theorem State.setTrv_bridges (s : State) (p : TPort) (x : Traverse) : (s.setTrv p x).bridges = s.bridges := by cases p <;> rfl
@[simp] theorem State.setTrv_chans (s : State) (p : TPort) (x : Traverse) : (s.setTrv p x).chans = s.chans := by cases p <;> rfl
@[simp] theorem State.setTrv_hashQ (s : State) (p : TPort) (x : Traverse) : (s.setTrv p x).hashQ = s.hashQ := by cases p <;> rfl
@[simp] theorem State.setTrv_hot (s : State) (p : TPort) (x : Traverse) : (s.setTrv p x).hot = s.hot := by cases p <;> rfl
@[simp] theorem State.setTrv_host (s : State) (p : TPort) (x : Traverse) : (s.setTrv p x).host = s.host := by cases p <;> rfl
@[simp] theorem State.setTrv_lift (s : State) (p : TPort) (x : Traverse) : (s.setTrv p x).lift = s.lift := by cases p <;> rfl
@[simp] theorem State.setTrv_bundles (s : State) (p : TPort) (x : Traverse) : (s.setTrv p x).bundles = s.bundles := by cases p <;> rfl
@[simp] theorem State.setTrv_loadOrder (s : State) (p : TPort) (x : Traverse) : (s.setTrv p x).loadOrder = s.loadOrder := by cases p <;> rfl
@[simp] theorem State.setTrv_saves (s : State) (p : TPort) (x : Traverse) : (s.setTrv p x).saves = s.saves := by cases p <;> rfl
@[simp] theorem State.setTrv_saveNo (s : State) (p : TPort) (x : Traverse) : (s.setTrv p x).saveNo = s.saveNo := by cases p <;> rfl
@[simp] theorem State.setTrv_diesPw (s : State) (p : TPort) (x : Traverse) : (s.setTrv p x).diesPw = s.diesPw := by cases p <;> rfl
@[simp] theorem State.setTrv_capMiss (s : State) (p : TPort) (x : Traverse) : (s.setTrv p x).capMiss = s.capMiss := by cases p <;> rfl
@[simp] theorem State.setTrv_flash (s : State) (p : TPort) (x : Traverse) : (s.setTrv p x).flash = s.flash := by cases p <;> rfl
@[simp] theorem State.setTrv_toJournal (s : State) (p : TPort) (x : Traverse) : (s.setTrv p x).toJournal = s.toJournal := by cases p <;> rfl
@[simp] theorem State.setTrv_config (s : State) (p : TPort) (x : Traverse) : (s.setTrv p x).config = s.config := by cases p <;> rfl
@[simp] theorem State.setTrv_fw (s : State) (p : TPort) (x : Traverse) : (s.setTrv p x).fw = s.fw := by cases p <;> rfl
@[simp] theorem State.setTrv_runsB (s : State) (p : TPort) (x : Traverse) : (s.setTrv p x).runsB = s.runsB := by cases p <;> rfl
@[simp] theorem State.setTrv_liftClk (s : State) (p : TPort) (x : Traverse) : (s.setTrv p x).liftClk = s.liftClk := by cases p <;> rfl
@[simp] theorem State.setTrv_trvClk (s : State) (p : TPort) (x : Traverse) : (s.setTrv p x).trvClk = s.trvClk := by cases p <;> rfl
@[simp] theorem State.setTrv_spdmUp (s : State) (p : TPort) (x : Traverse) : (s.setTrv p x).spdmUp = s.spdmUp := by cases p <;> rfl
@[simp] theorem State.setTrv_faultUnread (s : State) (p : TPort) (x : Traverse) : (s.setTrv p x).faultUnread = s.faultUnread := by cases p <;> rfl
@[simp] theorem State.setTrv_free (s : State) (p : TPort) (x : Traverse) : (s.setTrv p x).free = s.free := by cases p <;> rfl
@[simp] theorem State.setTrv_outbox (s : State) (p : TPort) (x : Traverse) : (s.setTrv p x).outbox = s.outbox := by cases p <;> rfl
@[simp] theorem State.setTrv_pending (s : State) (p : TPort) (x : Traverse) : (s.setTrv p x).pending = s.pending := by cases p <;> rfl
@[simp] theorem State.setTrv_core (s : State) (p : TPort) (x : Traverse) (i : Nat) : (s.setTrv p x).core i = s.core i := by cases p <;> rfl
@[simp] theorem State.setTrv_page (s : State) (p : TPort) (x : Traverse) (i : Nat) : (s.setTrv p x).page i = s.page i := by cases p <;> rfl
@[simp] theorem State.setTrv_reg (s : State) (p : TPort) (x : Traverse) (i j : Nat) : (s.setTrv p x).reg i j = s.reg i j := by cases p <;> rfl
@[simp] theorem State.setTrv_counter (s : State) (p : TPort) (x : Traverse) (i j : Nat) : (s.setTrv p x).counter i j = s.counter i j := by cases p <;> rfl
@[simp] theorem State.setTrv_pcore (s : State) (p : TPort) (x : Traverse) (i : Nat) : (s.setTrv p x).pcore i = s.pcore i := by cases p <;> rfl
@[simp] theorem State.setTrv_hostOf (s : State) (p : TPort) (x : Traverse) (i : Nat) : (s.setTrv p x).hostOf i = s.hostOf i := by cases p <;> rfl
@[simp] theorem State.setTrv_isPresented (s : State) (p : TPort) (x : Traverse) (i : Nat) : (s.setTrv p x).isPresented i = s.isPresented i := by cases p <;> rfl
@[simp] theorem State.setTrv_physSlice (s : State) (p : TPort) (x : Traverse) (i : Nat) : (s.setTrv p x).physSlice i = s.physSlice i := by cases p <;> rfl
@[simp] theorem State.setTrv_unit (s : State) (p : TPort) (x : Traverse) (i j : Nat) : (s.setTrv p x).unit i j = s.unit i j := by cases p <;> rfl
@[simp] theorem State.setTrv_context (s : State) (p : TPort) (x : Traverse) (i : Nat) : (s.setTrv p x).context i = s.context i := by cases p <;> rfl
@[simp] theorem State.setTrv_task (s : State) (p : TPort) (x : Traverse) (i : Nat) : (s.setTrv p x).task i = s.task i := by cases p <;> rfl
@[simp] theorem State.setTrv_queue (s : State) (p : TPort) (x : Traverse) (i : Nat) : (s.setTrv p x).queue i = s.queue i := by cases p <;> rfl
@[simp] theorem State.setTrv_ring (s : State) (p : TPort) (x : Traverse) (i : Nat) : (s.setTrv p x).ring i = s.ring i := by cases p <;> rfl
@[simp] theorem State.setTrv_bundle (s : State) (p : TPort) (x : Traverse) (i : Nat) : (s.setTrv p x).bundle i = s.bundle i := by cases p <;> rfl
@[simp] theorem State.setTrv_liftPort (s : State) (p : TPort) (x : Traverse) (i : Side) : (s.setTrv p x).liftPort i = s.liftPort i := by cases p <;> rfl
@[simp] theorem State.setTrv_chan (s : State) (p : TPort) (x : Traverse) (i j : Nat) : (s.setTrv p x).chan i j = s.chan i j := by cases p <;> rfl
@[simp] theorem State.setTrv_die (s : State) (p : TPort) (x : Traverse) (i : Nat) : (s.setTrv p x).die i = s.die i := by cases p <;> rfl
@[simp] theorem State.setTrv_coreTask (s : State) (p : TPort) (x : Traverse) (i : Nat) : (s.setTrv p x).coreTask i = s.coreTask i := by cases p <;> rfl
@[simp] theorem State.setTrv_coreJob (s : State) (p : TPort) (x : Traverse) (i : Nat) : (s.setTrv p x).coreJob i = s.coreJob i := by cases p <;> rfl
@[simp] theorem State.setTrv_coreBase (s : State) (p : TPort) (x : Traverse) (i : Nat) : (s.setTrv p x).coreBase i = s.coreBase i := by cases p <;> rfl
@[simp] theorem State.setTrv_linkState (s : State) (p : TPort) (x : Traverse) (i : Side) : (s.setTrv p x).linkState i = s.linkState i := by cases p <;> rfl
@[simp] theorem State.setTrv_linkUp (s : State) (p : TPort) (x : Traverse) (i : Side) : (s.setTrv p x).linkUp i = s.linkUp i := by cases p <;> rfl
@[simp] theorem State.setTrv_coreUp (s : State) (p : TPort) (x : Traverse) (i : Nat) : (s.setTrv p x).coreUp i = s.coreUp i := by cases p <;> rfl
@[simp] theorem State.setTrv_coreAwake (s : State) (p : TPort) (x : Traverse) (i : Nat) : (s.setTrv p x).coreAwake i = s.coreAwake i := by cases p <;> rfl

@[simp] theorem State.modTrv_time (s : State) (p : TPort) (f : Traverse → Traverse) : (s.modTrv p f).time = s.time := by cases p <;> rfl
@[simp] theorem State.modTrv_refOk (s : State) (p : TPort) (f : Traverse → Traverse) : (s.modTrv p f).refOk = s.refOk := by cases p <;> rfl
@[simp] theorem State.modTrv_holdover (s : State) (p : TPort) (f : Traverse → Traverse) : (s.modTrv p f).holdover = s.holdover := by cases p <;> rfl
@[simp] theorem State.modTrv_phase (s : State) (p : TPort) (f : Traverse → Traverse) : (s.modTrv p f).phase = s.phase := by cases p <;> rfl
@[simp] theorem State.modTrv_porN (s : State) (p : TPort) (f : Traverse → Traverse) : (s.modTrv p f).porN = s.porN := by cases p <;> rfl
@[simp] theorem State.modTrv_perstN (s : State) (p : TPort) (f : Traverse → Traverse) : (s.modTrv p f).perstN = s.perstN := by cases p <;> rfl
@[simp] theorem State.modTrv_strap0 (s : State) (p : TPort) (f : Traverse → Traverse) : (s.modTrv p f).strap0 = s.strap0 := by cases p <;> rfl
@[simp] theorem State.modTrv_strap1 (s : State) (p : TPort) (f : Traverse → Traverse) : (s.modTrv p f).strap1 = s.strap1 := by cases p <;> rfl
@[simp] theorem State.modTrv_trip (s : State) (p : TPort) (f : Traverse → Traverse) : (s.modTrv p f).trip = s.trip := by cases p <;> rfl
@[simp] theorem State.modTrv_tap (s : State) (p : TPort) (f : Traverse → Traverse) : (s.modTrv p f).tap = s.tap := by cases p <;> rfl
@[simp] theorem State.modTrv_chain (s : State) (p : TPort) (f : Traverse → Traverse) : (s.modTrv p f).chain = s.chain := by cases p <;> rfl
@[simp] theorem State.modTrv_pages (s : State) (p : TPort) (f : Traverse → Traverse) : (s.modTrv p f).pages = s.pages := by cases p <;> rfl
@[simp] theorem State.modTrv_cores (s : State) (p : TPort) (f : Traverse → Traverse) : (s.modTrv p f).cores = s.cores := by cases p <;> rfl
@[simp] theorem State.modTrv_slices (s : State) (p : TPort) (f : Traverse → Traverse) : (s.modTrv p f).slices = s.slices := by cases p <;> rfl
@[simp] theorem State.modTrv_presented (s : State) (p : TPort) (f : Traverse → Traverse) : (s.modTrv p f).presented = s.presented := by cases p <;> rfl
@[simp] theorem State.modTrv_dies (s : State) (p : TPort) (f : Traverse → Traverse) : (s.modTrv p f).dies = s.dies := by cases p <;> rfl
@[simp] theorem State.modTrv_place (s : State) (p : TPort) (f : Traverse → Traverse) : (s.modTrv p f).place = s.place := by cases p <;> rfl
@[simp] theorem State.modTrv_epoch (s : State) (p : TPort) (f : Traverse → Traverse) : (s.modTrv p f).epoch = s.epoch := by cases p <;> rfl
@[simp] theorem State.modTrv_schedule (s : State) (p : TPort) (f : Traverse → Traverse) : (s.modTrv p f).schedule = s.schedule := by cases p <;> rfl
@[simp] theorem State.modTrv_pcores (s : State) (p : TPort) (f : Traverse → Traverse) : (s.modTrv p f).pcores = s.pcores := by cases p <;> rfl
@[simp] theorem State.modTrv_retired (s : State) (p : TPort) (f : Traverse → Traverse) : (s.modTrv p f).retired = s.retired := by cases p <;> rfl
@[simp] theorem State.modTrv_bridges (s : State) (p : TPort) (f : Traverse → Traverse) : (s.modTrv p f).bridges = s.bridges := by cases p <;> rfl
@[simp] theorem State.modTrv_chans (s : State) (p : TPort) (f : Traverse → Traverse) : (s.modTrv p f).chans = s.chans := by cases p <;> rfl
@[simp] theorem State.modTrv_hashQ (s : State) (p : TPort) (f : Traverse → Traverse) : (s.modTrv p f).hashQ = s.hashQ := by cases p <;> rfl
@[simp] theorem State.modTrv_hot (s : State) (p : TPort) (f : Traverse → Traverse) : (s.modTrv p f).hot = s.hot := by cases p <;> rfl
@[simp] theorem State.modTrv_host (s : State) (p : TPort) (f : Traverse → Traverse) : (s.modTrv p f).host = s.host := by cases p <;> rfl
@[simp] theorem State.modTrv_lift (s : State) (p : TPort) (f : Traverse → Traverse) : (s.modTrv p f).lift = s.lift := by cases p <;> rfl
@[simp] theorem State.modTrv_bundles (s : State) (p : TPort) (f : Traverse → Traverse) : (s.modTrv p f).bundles = s.bundles := by cases p <;> rfl
@[simp] theorem State.modTrv_loadOrder (s : State) (p : TPort) (f : Traverse → Traverse) : (s.modTrv p f).loadOrder = s.loadOrder := by cases p <;> rfl
@[simp] theorem State.modTrv_saves (s : State) (p : TPort) (f : Traverse → Traverse) : (s.modTrv p f).saves = s.saves := by cases p <;> rfl
@[simp] theorem State.modTrv_saveNo (s : State) (p : TPort) (f : Traverse → Traverse) : (s.modTrv p f).saveNo = s.saveNo := by cases p <;> rfl
@[simp] theorem State.modTrv_diesPw (s : State) (p : TPort) (f : Traverse → Traverse) : (s.modTrv p f).diesPw = s.diesPw := by cases p <;> rfl
@[simp] theorem State.modTrv_capMiss (s : State) (p : TPort) (f : Traverse → Traverse) : (s.modTrv p f).capMiss = s.capMiss := by cases p <;> rfl
@[simp] theorem State.modTrv_flash (s : State) (p : TPort) (f : Traverse → Traverse) : (s.modTrv p f).flash = s.flash := by cases p <;> rfl
@[simp] theorem State.modTrv_toJournal (s : State) (p : TPort) (f : Traverse → Traverse) : (s.modTrv p f).toJournal = s.toJournal := by cases p <;> rfl
@[simp] theorem State.modTrv_config (s : State) (p : TPort) (f : Traverse → Traverse) : (s.modTrv p f).config = s.config := by cases p <;> rfl
@[simp] theorem State.modTrv_fw (s : State) (p : TPort) (f : Traverse → Traverse) : (s.modTrv p f).fw = s.fw := by cases p <;> rfl
@[simp] theorem State.modTrv_runsB (s : State) (p : TPort) (f : Traverse → Traverse) : (s.modTrv p f).runsB = s.runsB := by cases p <;> rfl
@[simp] theorem State.modTrv_liftClk (s : State) (p : TPort) (f : Traverse → Traverse) : (s.modTrv p f).liftClk = s.liftClk := by cases p <;> rfl
@[simp] theorem State.modTrv_trvClk (s : State) (p : TPort) (f : Traverse → Traverse) : (s.modTrv p f).trvClk = s.trvClk := by cases p <;> rfl
@[simp] theorem State.modTrv_spdmUp (s : State) (p : TPort) (f : Traverse → Traverse) : (s.modTrv p f).spdmUp = s.spdmUp := by cases p <;> rfl
@[simp] theorem State.modTrv_faultUnread (s : State) (p : TPort) (f : Traverse → Traverse) : (s.modTrv p f).faultUnread = s.faultUnread := by cases p <;> rfl
@[simp] theorem State.modTrv_free (s : State) (p : TPort) (f : Traverse → Traverse) : (s.modTrv p f).free = s.free := by cases p <;> rfl
@[simp] theorem State.modTrv_outbox (s : State) (p : TPort) (f : Traverse → Traverse) : (s.modTrv p f).outbox = s.outbox := by cases p <;> rfl
@[simp] theorem State.modTrv_pending (s : State) (p : TPort) (f : Traverse → Traverse) : (s.modTrv p f).pending = s.pending := by cases p <;> rfl
@[simp] theorem State.modTrv_core (s : State) (p : TPort) (f : Traverse → Traverse) (i : Nat) : (s.modTrv p f).core i = s.core i := by cases p <;> rfl
@[simp] theorem State.modTrv_page (s : State) (p : TPort) (f : Traverse → Traverse) (i : Nat) : (s.modTrv p f).page i = s.page i := by cases p <;> rfl
@[simp] theorem State.modTrv_reg (s : State) (p : TPort) (f : Traverse → Traverse) (i j : Nat) : (s.modTrv p f).reg i j = s.reg i j := by cases p <;> rfl
@[simp] theorem State.modTrv_counter (s : State) (p : TPort) (f : Traverse → Traverse) (i j : Nat) : (s.modTrv p f).counter i j = s.counter i j := by cases p <;> rfl
@[simp] theorem State.modTrv_pcore (s : State) (p : TPort) (f : Traverse → Traverse) (i : Nat) : (s.modTrv p f).pcore i = s.pcore i := by cases p <;> rfl
@[simp] theorem State.modTrv_hostOf (s : State) (p : TPort) (f : Traverse → Traverse) (i : Nat) : (s.modTrv p f).hostOf i = s.hostOf i := by cases p <;> rfl
@[simp] theorem State.modTrv_isPresented (s : State) (p : TPort) (f : Traverse → Traverse) (i : Nat) : (s.modTrv p f).isPresented i = s.isPresented i := by cases p <;> rfl
@[simp] theorem State.modTrv_physSlice (s : State) (p : TPort) (f : Traverse → Traverse) (i : Nat) : (s.modTrv p f).physSlice i = s.physSlice i := by cases p <;> rfl
@[simp] theorem State.modTrv_unit (s : State) (p : TPort) (f : Traverse → Traverse) (i j : Nat) : (s.modTrv p f).unit i j = s.unit i j := by cases p <;> rfl
@[simp] theorem State.modTrv_context (s : State) (p : TPort) (f : Traverse → Traverse) (i : Nat) : (s.modTrv p f).context i = s.context i := by cases p <;> rfl
@[simp] theorem State.modTrv_task (s : State) (p : TPort) (f : Traverse → Traverse) (i : Nat) : (s.modTrv p f).task i = s.task i := by cases p <;> rfl
@[simp] theorem State.modTrv_queue (s : State) (p : TPort) (f : Traverse → Traverse) (i : Nat) : (s.modTrv p f).queue i = s.queue i := by cases p <;> rfl
@[simp] theorem State.modTrv_ring (s : State) (p : TPort) (f : Traverse → Traverse) (i : Nat) : (s.modTrv p f).ring i = s.ring i := by cases p <;> rfl
@[simp] theorem State.modTrv_bundle (s : State) (p : TPort) (f : Traverse → Traverse) (i : Nat) : (s.modTrv p f).bundle i = s.bundle i := by cases p <;> rfl
@[simp] theorem State.modTrv_liftPort (s : State) (p : TPort) (f : Traverse → Traverse) (i : Side) : (s.modTrv p f).liftPort i = s.liftPort i := by cases p <;> rfl
@[simp] theorem State.modTrv_chan (s : State) (p : TPort) (f : Traverse → Traverse) (i j : Nat) : (s.modTrv p f).chan i j = s.chan i j := by cases p <;> rfl
@[simp] theorem State.modTrv_die (s : State) (p : TPort) (f : Traverse → Traverse) (i : Nat) : (s.modTrv p f).die i = s.die i := by cases p <;> rfl
@[simp] theorem State.modTrv_coreTask (s : State) (p : TPort) (f : Traverse → Traverse) (i : Nat) : (s.modTrv p f).coreTask i = s.coreTask i := by cases p <;> rfl
@[simp] theorem State.modTrv_coreJob (s : State) (p : TPort) (f : Traverse → Traverse) (i : Nat) : (s.modTrv p f).coreJob i = s.coreJob i := by cases p <;> rfl
@[simp] theorem State.modTrv_coreBase (s : State) (p : TPort) (f : Traverse → Traverse) (i : Nat) : (s.modTrv p f).coreBase i = s.coreBase i := by cases p <;> rfl
@[simp] theorem State.modTrv_linkState (s : State) (p : TPort) (f : Traverse → Traverse) (i : Side) : (s.modTrv p f).linkState i = s.linkState i := by cases p <;> rfl
@[simp] theorem State.modTrv_linkUp (s : State) (p : TPort) (f : Traverse → Traverse) (i : Side) : (s.modTrv p f).linkUp i = s.linkUp i := by cases p <;> rfl
@[simp] theorem State.modTrv_coreUp (s : State) (p : TPort) (f : Traverse → Traverse) (i : Nat) : (s.modTrv p f).coreUp i = s.coreUp i := by cases p <;> rfl
@[simp] theorem State.modTrv_coreAwake (s : State) (p : TPort) (f : Traverse → Traverse) (i : Nat) : (s.modTrv p f).coreAwake i = s.coreAwake i := by cases p <;> rfl

/-! ## A read after a write -/

theorem State.core_setCore (s : State) (n m : Nat) (c : Core) :
    (s.setCore n c).core m = if m = n then c else s.core m := by
  simp [State.core, State.setCore, SMap.get_set]
theorem State.core_modCore (s : State) (n m : Nat) (f : Core → Core) :
    (s.modCore n f).core m = if m = n then f (s.core n) else s.core m := by
  simp [State.core, State.modCore, State.setCore, SMap.get_set]
@[simp] theorem State.core_setCore_same (s : State) (n : Nat) (c : Core) : (s.setCore n c).core n = c := by
  simp [State.core_setCore]
@[simp] theorem State.core_modCore_same (s : State) (n : Nat) (f : Core → Core) : (s.modCore n f).core n = f (s.core n) := by
  simp [State.core_modCore]
@[simp] theorem State.core_modSeq_same (s : State) (n : Nat) (f : Seq → Seq) :
    (s.modSeq n f).core n = { s.core n with seq := f (s.core n).seq } := by
  simp [State.modSeq]
@[simp] theorem State.core_modSpm_same (s : State) (n : Nat) (f : Spm → Spm) :
    (s.modSpm n f).core n = { s.core n with spm := f (s.core n).spm } := by
  simp [State.modSpm]
theorem State.page_setPage (s : State) (p q : Nat) (x : Page) :
    (s.setPage p x).page q = if q = p then x else s.page q := by
  simp [State.page, State.setPage, SMap.get_set]
theorem State.page_modPage (s : State) (p q : Nat) (f : Page → Page) :
    (s.modPage p f).page q = if q = p then f (s.page p) else s.page q := by
  simp [State.page, State.modPage, State.setPage, SMap.get_set]
@[simp] theorem State.page_modPage_same (s : State) (p : Nat) (f : Page → Page) : (s.modPage p f).page p = f (s.page p) := by
  simp [State.page_modPage]
theorem State.pcore_modPcore (s : State) (p q : Nat) (f : Pcore → Pcore) :
    (s.modPcore p f).pcore q = if q = p then f (s.pcore p) else s.pcore q := by
  simp [State.pcore, State.modPcore, SMap.get_set]
@[simp] theorem State.pcore_modPcore_same (s : State) (p : Nat) (f : Pcore → Pcore) :
    (s.modPcore p f).pcore p = f (s.pcore p) := by
  simp [State.pcore_modPcore]
theorem State.task_setTask (s : State) (t u : Nat) (x : Option Task) :
    (s.setTask t x).task u = if u = t then x else s.task u := by
  simp [State.task, State.setTask, State.modHost, SMap.get_set]
theorem State.context_setContext (s : State) (c d : Nat) (x : Context) :
    (s.setContext c x).context d = if d = c then x else s.context d := by
  simp [State.context, State.setContext, State.modHost, SMap.get_set]
theorem State.queue_setQueue (s : State) (q r : Nat) (x : Option Queue) :
    (s.setQueue q x).queue r = if r = q then x else s.queue r := by
  simp [State.queue, State.setQueue, State.modHost, SMap.get_set]
theorem State.bundle_setBundle (s : State) (b c : Nat) (x : Bundle) :
    (s.setBundle b x).bundle c = if c = b then x else s.bundle c := by
  simp [State.bundle, State.setBundle, SMap.get_set]
theorem State.bundle_modBundle (s : State) (b c : Nat) (f : Bundle → Bundle) :
    (s.modBundle b f).bundle c = if c = b then f (s.bundle b) else s.bundle c := by
  simp [State.bundle, State.modBundle, State.setBundle, SMap.get_set]
theorem State.chan_modChan_same (s : State) (st ch : Nat) (f : Chan → Chan) :
    (s.modChan st ch f).chan st ch = f (s.chan st ch) := by
  simp [State.chan, State.modChan]
theorem State.die_modDie (s : State) (d e : Nat) (f : Die → Die) :
    (s.modDie d f).die e = if e = d then f (s.die d) else s.die e := by
  simp [State.die, State.modDie, SMap.get_set]
theorem State.liftPort_modLiftPort (s : State) (x y : Side) (f : LiftPort → LiftPort) :
    (s.modLiftPort x f).liftPort y = if y = x then f (s.liftPort x) else s.liftPort y := by
  cases x <;> cases y <;> simp [State.liftPort, State.modLiftPort, State.modLift, sideNat, SMap.get_set]
theorem State.unit_setUnit (s : State) (n u v : Nat) (r : Row) :
    (s.setUnit n u r).unit n v = if v = u then r else s.unit n v := by
  simp [State.unit, State.setUnit, State.physSlice, State.homeDie, SMap.get_set]
@[simp] theorem State.trv_setTrv (s : State) (p : TPort) (x : Traverse) : (s.setTrv p x).trv p = x := by cases p <;> rfl
@[simp] theorem State.trv_modTrv (s : State) (p : TPort) (f : Traverse → Traverse) : (s.modTrv p f).trv p = f (s.trv p) := by
  cases p <;> rfl

/-- A register after a write of a register. -/
theorem State.reg_setReg (s : State) (p off q o : Nat) (v : Word) :
    (s.setReg p off v).reg q o = if q = p ∧ o = off then v else s.reg q o := by
  simp only [State.reg, State.setReg, State.page_modPage]
  by_cases h : q = p
  · subst h; simp [SMap.get_set]
  · simp [h]

/-- What a page does not count itself is the same after a count (log entries 10, 20). -/
theorem State.counter_eq (s t : State) (q o : Nat) (hc : (t.page q).counters.get (fun _ => 0) o = (s.page q).counters.get (fun _ => 0) o)
    (hw : (t.page q).work = (s.page q).work) (hs : (t.page q).since = (s.page q).since) (ht : t.time = s.time) :
    t.counter q o = s.counter q o := by
  simp only [State.counter, Page.unstated, hc, hw, hs, ht]

/-- A counter after a count. -/
theorem State.counter_count (s : State) (p off k q o : Nat) :
    (s.count p off k).counter q o = if q = p ∧ o = off then s.counter p off + BitVec.ofNat 64 k else s.counter q o := by
  by_cases h : q = p ∧ o = off
  · obtain ⟨rfl, rfl⟩ := h
    simp only [State.counter, State.count, State.page_modPage, Page.unstated, State.modPage_time, SMap.get_set_same, and_self, if_true]
    ac_rfl
  · rw [if_neg h]
    refine State.counter_eq s _ q o ?_ ?_ ?_ rfl <;> simp only [State.count, State.page_modPage] <;> split <;>
      (subst_vars; simp_all [SMap.get_set])

@[simp] theorem State.reg_count (s : State) (p off k q o : Nat) : (s.count p off k).reg q o = s.reg q o := by
  simp only [State.reg, State.count, State.page_modPage]
  split <;> simp_all

@[simp] theorem State.counter_setReg (s : State) (p off q o : Nat) (v : Word) : (s.setReg p off v).counter q o = s.counter q o := by
  refine State.counter_eq s _ q o ?_ ?_ ?_ rfl <;> simp only [State.setReg, State.page_modPage] <;> split <;> simp_all

/-- Counting leaves a page's error bits, notice and fence registers and details alone. -/
@[simp] theorem State.err_count (s : State) (p off k q : Nat) : ((s.count p off k).page q).err = (s.page q).err := by
  simp only [State.count, State.page_modPage]
  split <;> simp_all

end Sys2Proof.Machine
end

