-- ==== Sys2Proof/Laws/Issue.lean ====
section
/-!
SUPPORT. Laws of issue: what a command at the program counter does once the checks of R167 pass, and how the program
counter moves past it.
-/
namespace Sys2Proof.Machine

@[simp] theorem State.core_noteIssue (s : State) (n m : Nat) : (s.noteIssue n).core m = s.core m := by
  unfold State.noteIssue; split <;> simp

/-- Passing a command changes the core's loop stack and program counter, and no other core. -/
theorem State.core_advance (s : State) (n m : Nat) :
    (s.advance n).core m = if m = n then (s.core n).passed (s.core n).seq else s.core m := by
  by_cases h : m = n
  · subst h
    simp only [State.advance, State.advanceFrom, Core.passed]
    by_cases g : (resolveEnd (s.core m).seq.pc (s.core m).seq.loops).2.2 = 0 <;> simp [g]
  · simp only [State.advance, State.advanceFrom, h, if_false]
    by_cases g : (resolveEnd (s.core n).seq.pc (s.core n).seq.loops).2.2 = 0 <;> simp [g, State.core_modCore, h]

theorem State.core_advance_modSeq (s : State) (n : Nat) (f : Seq → Seq) (h1 : (f (s.core n).seq).pc = (s.core n).seq.pc)
    (h2 : (f (s.core n).seq).loops = (s.core n).seq.loops) :
    ((s.modSeq n f).advance n).core n = (s.core n).passed (f (s.core n).seq) := by
  simp [State.core_advance, Core.passed, h1, h2]

@[simp] theorem Seq.setReg_pc (q : Seq) (i : Nat) (v : Word64) : (q.setReg i v).pc = q.pc := by
  unfold Seq.setReg; split <;> rfl

@[simp] theorem Seq.setReg_loops (q : Seq) (i : Nat) (v : Word64) : (q.setReg i v).loops = q.loops := by
  unfold Seq.setReg; split <;> rfl

/-- What `atCommand` says. -/
theorem State.atCommand_iff (s : State) (n op : Nat) (w : BitVec 128) :
    s.atCommand n op w = true ↔ s.canIssue n = true ∧ (s.core n).seq.fetch = w ∧ opcodeOf w = op ∧
      (cmdMask op).isSome = true ∧ badBits w = false := by
  simp [State.atCommand, and_assoc]

/-- A command that no check of R167 steps 1 to 3 stops takes effect. -/
theorem State.issue_on {s : State} {n op : Nat} {w : BitVec 128} (h : s.runs n op w = true) (isRow : BitVec 128 → Bool)
    (bad : Core → BitVec 128 → Bool) (off on : BitVec 128 → State → State) (hr : isRow w = true)
    (hb : bad (s.core n) w = false) : s.issue n isRow bad off on = on w s := by
  simp only [State.runs, Bool.and_eq_true] at h
  obtain ⟨h, h6⟩ := h
  obtain ⟨h1, h2, h3, h4, h5⟩ := (s.atCommand_iff n op w).1 h
  subst h2 h3
  have h4' : ¬ (cmdMask (opcodeOf (s.core n).seq.fetch)).isNone = true := by
    cases hc : cmdMask (opcodeOf (s.core n).seq.fetch) <;> simp_all
  simp [State.issue, h1, h4', hr, h5, hb, h6]

/-- A command whose predicate does not hold is passed (R174). -/
theorem State.issue_off {s : State} {n op : Nat} {w : BitVec 128} (h : s.atCommand n op w = true)
    (hp : (s.core n).seq.predOn w = false) (isRow : BitVec 128 → Bool) (bad : Core → BitVec 128 → Bool)
    (off on : BitVec 128 → State → State) (hr : isRow w = true) (hb : bad (s.core n) w = false) :
    s.issue n isRow bad off on = off w s := by
  obtain ⟨h1, h2, h3, h4, h5⟩ := (s.atCommand_iff n op w).1 h
  subst h2 h3
  have h4' : ¬ (cmdMask (opcodeOf (s.core n).seq.fetch)).isNone = true := by
    cases hc : cmdMask (opcodeOf (s.core n).seq.fetch) <;> simp_all
  simp [State.issue, h1, h4', hr, h5, hb, hp]

/-! ## The frame of a core -/

theorem State.CoreFrame.refl (s : State) (n : Nat) : s.CoreFrame s n :=
  ⟨rfl, fun _ _ => rfl, fun _ _ => rfl, fun _ => rfl, fun _ => .inl rfl⟩

theorem State.CoreFrame.trans {s t u : State} {n : Nat} (h : s.CoreFrame t n) (g : t.CoreFrame u n) : s.CoreFrame u n := by
  obtain ⟨h1, h2, h3, h4, h5⟩ := h
  obtain ⟨g1, g2, g3, g4, g5⟩ := g
  refine ⟨?_, fun m hm => (g2 m hm).trans (h2 m hm), fun p hp => (g3 p hp).trans (h3 p hp), fun p => ?_, fun x => ?_⟩
  · rw [g1, h1]
  · rw [g4, h4]
  · rcases g5 x with g | g <;> rcases h5 x with h | h <;> rw [g, h]
    · exact .inl rfl
    · exact .inr rfl
    · exact .inr rfl
    · refine .inr ?_
      cases s.task x with
      | none => rfl
      | some y => obtain ⟨_, _, _, j⟩ := y; cases j <;> simp

theorem State.frame_modCore (s : State) (n : Nat) (f : Core → Core) : s.CoreFrame (s.modCore n f) n :=
  ⟨rfl, fun m hm => by simp [State.core_modCore, hm], fun _ _ => rfl, fun _ => rfl, fun _ => .inl rfl⟩

theorem State.frame_modSeq (s : State) (n : Nat) (f : Seq → Seq) : s.CoreFrame (s.modSeq n f) n := s.frame_modCore ..
theorem State.frame_modSpm (s : State) (n : Nat) (f : Spm → Spm) : s.CoreFrame (s.modSpm n f) n := s.frame_modCore ..
theorem State.frame_markStage (s : State) (n id : Nat) (st : Stage) : s.CoreFrame (s.markStage n id st) n := s.frame_modCore ..

theorem State.frame_count (s : State) (n k o m : Nat) (hk : k < 16) : s.CoreFrame (s.count (corePage n k) o m) n :=
  ⟨rfl, fun _ _ => rfl, fun p hp => by simp [State.count, State.page_modPage, hp k hk],
   fun p => by simp only [State.count, State.page_modPage]; split <;> simp_all, fun _ => .inl rfl⟩

theorem State.frame_noteIssue (s : State) (n : Nat) : s.CoreFrame (s.noteIssue n) n := by
  unfold State.noteIssue
  split
  · unfold State.modJob
    split
    · rename_i t _ _ x hx
      refine ⟨rfl, fun _ _ => rfl, fun _ _ => rfl, fun _ => rfl, fun y => ?_⟩
      rw [State.task_setTask]
      split
      · subst_vars; right; rw [hx]; rfl
      · exact .inl rfl
    · exact .refl ..
  · exact .refl ..

theorem State.frame_advanceFrom (s : State) (n at_ : Nat) : s.CoreFrame (s.advanceFrom n at_) n := by
  unfold State.advanceFrom
  simp only []
  have h := ((s.frame_modCore n (fun c => { c with seq := { c.seq with
    loops := (resolveEnd at_ (s.core n).seq.loops).1, pc := (resolveEnd at_ (s.core n).seq.loops).2.1 } })).trans
      (State.frame_noteIssue ..)).trans (State.frame_count _ _ kSEQ 0x100 1 (by decide))
  split
  · exact h
  · exact h.trans (State.frame_count _ _ kSEQ _ _ (by decide))

theorem State.frame_advance (s : State) (n : Nat) : s.CoreFrame (s.advance n) n := s.frame_advanceFrom ..

theorem State.frame_signalNow (s : State) (n : Nat) (sg : Option (Byte × Byte)) : s.CoreFrame (s.signalNow n sg) n := by
  unfold State.signalNow; exact s.frame_modSpm ..

/-! ## Engine commands -/

/-- The scratchpad state that a captured command leaves: its ticket taken and its writes in their ports' windows. -/
def Capture.queuedSpm (x : Capture) (id : Nat) (w : BitVec 128) : Spm :=
  { (x.spm.ticket (syncSignal w)).2 with
    window := ((writePorts x.ops).map (fun p =>
      { port := p.1, cmd := id, req := p.2.1, rows := p.2.2, ticket := (x.spm.ticket (syncSignal w)).1, ordered := [],
        old := [] : WinEntry })).foldl pushWindow (x.spm.ticket (syncSignal w)).2.window }

/-- The command that a capture makes. -/
def Capture.queued (x : Capture) (k : Core) (w : BitVec 128) (races rivals : List Nat) : EngCmd :=
  { id := k.nextId, req := x.req, op := x.op, opcode := BitVec.ofNat 8 (opcodeOf w), pc := k.seq.pc, bank := k.seq.bank,
    wait := syncWait k.seq w, sig := syncSignal w, port := (x.ops.map (fun r => r.role.port)).headD 0,
    reads := x.reads, writes := x.writes, dmR := x.dmR, dmW := x.dmW, stage := .queued, races := races,
    rivals := rivals, replays := 0, number := 0, counted := false, round := k.seq.round, tile := k.seq.tile,
    layer := k.seq.layer, tracked := false, got := [], taken := 0, out := [], tags := 0, fail := none }

/-- What entering its queue does to the core (R161). -/
theorem State.core_enqueue (s : State) (n : Nat) (w : BitVec 128) (x : Capture) (races rivals : List Nat) :
    (s.enqueue n w x races rivals).core n =
      { s.core n with spm := x.queuedSpm (s.core n).nextId w,
                      inflight := (s.core n).inflight ++ [x.queued (s.core n) w races rivals],
                      nextId := (s.core n).nextId + 1 }.passed (s.core n).seq := by
  have h : ∀ t : State, (t.vary n).core n = t.core n := by
    intro t; unfold State.vary; split <;> simp
  unfold State.enqueue
  simp only []
  rw [State.core_advance]
  simp only [if_true, Core.passed]
  split
  · simp only [State.core_modCore_same]; rfl
  · simp only [h, State.count_core, State.core_modCore_same]; rfl

/-- The command just queued is found under its number. -/
theorem State.command_entered (s : State) (n : Nat) (w : BitVec 128) (x : Capture) :
    ∃ c, ((s.entered n w x).core n).command (s.core n).nextId = some c := by
  unfold State.entered
  rw [State.core_enqueue]
  simp only [Core.passed, Core.command]
  generalize he : Capture.queued _ _ _ _ _ = e
  have hid : e.id = (s.core n).nextId := by rw [← he]; rfl
  cases hf : ((s.core n).inflight ++ [e]).find? (fun d => d.id == (s.core n).nextId) with
  | some c => exact ⟨c, rfl⟩
  | none => simp [hid] at hf

/-- A captured command that passes the last checks enters its queue and its engine begins with it. -/
theorem State.engineOnGated_enters (s : State) (n : Nat) (w : BitVec 128) (x : Capture) (gate : State → Option State)
    (onC : State → State) (f : State → EngCmd → State) (hg : gate s = none) (he : s.enters n w x = true) :
    ∃ c, ((s.entered n w x).core n).command (s.core n).nextId = some c ∧
      s.engineOnGated n w x gate onC f = f (s.entered n w x) c := by
  obtain ⟨c, hc⟩ := s.command_entered n w x
  refine ⟨c, hc, ?_⟩
  simp only [State.enters, Bool.and_eq_true, Bool.not_eq_true', Option.isNone_iff_eq_none] at he
  obtain ⟨⟨⟨h1, h2⟩, h3⟩, h4⟩ := he
  unfold State.engineOnGated
  rw [h1]
  simp only [Core.ordered] at h2
  simp only [h2, hg, h3, Bool.false_eq_true, if_false, h4, Bool.not_true]
  simp only [State.entered, Core.ordered, Core.command] at hc ⊢
  rw [h1] at hc
  rw [h1]
  simp only [hc]

end Sys2Proof.Machine
end

