-- ==== Sys2Proof/Laws/Report.lean ====
section
/-!
SUPPORT. Laws of reporting (R362-R367, R380): posting a notice and writing the fault log touch the register pages, the
rings, the backlog, the pending vectors, the unread list and what leaves the part, and nothing else; raising an event may
also mark a pcore for its fence.
-/
namespace Sys2Proof.Machine

/-- `t` is `s` but for pages, rings, backlog, pending vectors, unread log entries and what has left the part. -/
def State.Notes (s t : State) : Prop :=
  t = { s with pages := t.pages, outbox := t.outbox, faultUnread := t.faultUnread,
               host := { s.host with rings := t.host.rings, backlog := t.host.backlog, pba := t.host.pba } }

theorem State.Notes.refl (s : State) : s.Notes s := rfl

theorem State.Notes.trans {s t u : State} (h : s.Notes t) (g : t.Notes u) : s.Notes u := by
  unfold State.Notes at *
  rw [g]
  rw [h]

theorem State.notes_setReg (s : State) (p off : Nat) (v : Word) : s.Notes (s.setReg p off v) := rfl
theorem State.notes_modPage (s : State) (p : Nat) (f : Page → Page) : s.Notes (s.modPage p f) := rfl
theorem State.notes_count (s : State) (p off k : Nat) : s.Notes (s.count p off k) := rfl
theorem State.notes_emit (s : State) (o : Out) : s.Notes (s.emit o) := rfl
theorem State.notes_setRing (s : State) (r : Nat) (x : Option Ring) : s.Notes (s.setRing r x) := rfl

theorem State.notes_sendVector (s : State) (v : Nat) : s.Notes (s.sendVector v) := by
  unfold State.sendVector
  split
  · rfl
  · exact (s.notes_count ..).trans (State.notes_emit ..)

theorem State.notes_ringWrite (s : State) (r : Nat) (n : Notice) : s.Notes (s.ringWrite r n) := by
  unfold State.ringWrite
  split
  · exact .refl s
  · simp only []
    split
    · exact (((s.notes_emit _).trans (State.notes_count ..)).trans (State.notes_setRing ..)).trans (State.notes_sendVector ..)
    · exact ((s.notes_emit _).trans (State.notes_count ..)).trans (State.notes_setRing ..)

theorem State.notes_drainRing (fuel : Nat) : ∀ (s : State) (r : Nat), s.Notes (State.drainRing fuel s r) := by
  induction fuel with
  | zero => intro s r; exact .refl s
  | succ k ih =>
    intro s r
    unfold State.drainRing
    split
    · rfl
    · split
      · exact .refl s
      · split
        · exact ((s.notes_setRing ..).trans (State.notes_ringWrite ..)).trans (ih ..)
        · split
          · exact .refl s
          · refine State.Notes.trans ?_ (ih ..)
            exact State.Notes.trans (t := { s with host := { s.host with backlog := _ } }) rfl (State.notes_ringWrite ..)

theorem State.notes_unread (s : State) (xs : List Nat) : s.Notes { s with faultUnread := xs } := rfl

theorem State.notes_logEntry (s : State) (code : Word) (ctx id : Nat) : s.Notes (s.logEntry code ctx id) := by
  unfold State.logEntry
  simp only []
  split
  · refine State.Notes.trans ?_ (State.notes_modPage ..)
    refine State.Notes.trans ?_ (State.notes_unread ..)
    refine State.Notes.trans ?_ (State.notes_setReg ..)
    exact (((s.notes_setReg ..).trans (State.notes_setReg ..)).trans (State.notes_setReg ..)).trans (State.notes_setReg ..)
  · refine State.Notes.trans ?_ (State.notes_unread ..)
    refine State.Notes.trans ?_ (State.notes_setReg ..)
    exact (((s.notes_setReg ..).trans (State.notes_setReg ..)).trans (State.notes_setReg ..)).trans (State.notes_setReg ..)

theorem State.notes_putNotice (s : State) (r : Nat) (n : Notice) : s.Notes (s.putNotice r n) := by
  unfold State.putNotice
  simp only []
  refine State.Notes.trans (State.notes_drainRing 4098 s r) ?_
  split
  · exact .refl _
  · split
    · exact State.notes_ringWrite ..
    · split
      · rfl
      · refine State.Notes.trans ?_ (State.notes_logEntry ..)
        rfl

theorem State.notes_tellNew (s : State) (before : Word) (p b : Nat) : s.Notes (s.tellNew before p b) := by
  unfold State.tellNew
  split
  · exact State.notes_putNotice ..
  · exact .refl s

/-- Posting a notice. -/
theorem State.notes_post (s : State) (r : Nat) (n : Notice) : s.Notes (s.post r n) := by
  unfold State.post
  exact (((s.notes_putNotice ..).trans (State.notes_tellNew ..)).trans (State.notes_tellNew ..)).trans (State.notes_tellNew ..)

/-- Writing the fault log. -/
theorem State.notes_faultLog (s : State) (code : Word) (ctx id : Nat) : s.Notes (s.faultLog code ctx id) := by
  unfold State.faultLog
  simp only []
  split
  · exact (s.notes_logEntry ..).trans (State.notes_post ..)
  · exact s.notes_logEntry ..

theorem State.notes_postPageError (s : State) (p b : Nat) : s.Notes (s.postPageError p b) := by
  unfold State.postPageError
  simp only []
  split
  · split
    · exact s.notes_post ..
    · exact (s.notes_post ..).trans (State.notes_post ..)
  · exact s.notes_post ..

/-- `u` is `s` but for what a notice touches and the fences that have fallen due. -/
def State.Raises (s u : State) : Prop :=
  ∃ t, s.Notes t ∧ u = { t with pcores := u.pcores } ∧
    ∀ q, u.pcore q = { s.pcore q with due := (u.pcore q).due, dueJournal := (u.pcore q).dueJournal,
                                      cause := (u.pcore q).cause }

theorem State.Notes.pcore {s t : State} (h : s.Notes t) (q : Nat) : t.pcore q = s.pcore q := by
  unfold State.Notes at h; rw [h]; rfl

theorem State.Notes.raises {s t : State} (h : s.Notes t) : s.Raises t := ⟨t, h, rfl, fun q => by rw [h.pcore]⟩

theorem State.raises_fenceDue {s t : State} (h : s.Notes t) (p : Nat) (c : Word) (j : Bool) : s.Raises (t.fenceDue p c j) := by
  refine ⟨t, h, ?_, fun q => ?_⟩
  · unfold State.fenceDue; split <;> rfl
  · unfold State.fenceDue
    split
    · rw [h.pcore]
    · rw [State.pcore_modPcore]
      split
      · subst_vars; simp only [h.pcore]
      · rw [h.pcore]

/-- Reporting an event: beside what a notice touches, a fence that falls due (R380-R382). -/
theorem State.raises_raise (s : State) (p b : Nat) (i j : Word) : s.Raises (s.raise p b i j) := by
  unfold State.raise
  split
  · exact (State.Notes.refl s).raises
  · simp only []
    have key : ∀ (f : Page → Page) (c : Bool) (x : Word) (y z : Nat) (m : Option Nat),
        s.Notes (match m with
          | some off => ((if c = true then (s.modPage p f).postPageError p b else s.modPage p f).faultLog x y z).count pFLT off 1
          | none => (if c = true then (s.modPage p f).postPageError p b else s.modPage p f).faultLog x y z) := by
      intro f c x y z m
      have h : s.Notes (if c = true then (s.modPage p f).postPageError p b else s.modPage p f) := by
        split
        · exact (s.notes_modPage ..).trans (State.notes_postPageError ..)
        · exact s.notes_modPage ..
      split
      · exact (h.trans (State.notes_faultLog ..)).trans (State.notes_count ..)
      · exact h.trans (State.notes_faultLog ..)
    split
    · split
      · exact State.raises_fenceDue (key ..) ..
      · exact (key ..).raises
    · exact (key ..).raises

/-! ## PAGE_ERR bits stay set -/

/-- Every PAGE_ERR bit that is set in `s` is set in `t`. -/
structure State.ErrKept (s t : State) : Prop where
  kept : ∀ p i, bit (s.page p).err i = true → bit (t.page p).err i = true

theorem State.ErrKept.refl (s : State) : s.ErrKept s := ⟨fun _ _ h => h⟩
theorem State.ErrKept.trans {s t u : State} (h : s.ErrKept t) (g : t.ErrKept u) : s.ErrKept u :=
  ⟨fun p i x => g.kept p i (h.kept p i x)⟩

theorem State.errKept_of_pages {s t : State} (h : t.pages = s.pages) : s.ErrKept t := by
  constructor; intro p i; unfold State.page; rw [h]; exact id

theorem State.errKept_emit (s : State) (o : Out) : s.ErrKept (s.emit o) := State.errKept_of_pages rfl
theorem State.errKept_setRing (s : State) (r : Nat) (x : Option Ring) : s.ErrKept (s.setRing r x) := State.errKept_of_pages rfl
theorem State.errKept_unread (s : State) (xs : List Nat) : s.ErrKept { s with faultUnread := xs } := State.errKept_of_pages rfl
theorem State.errKept_modHost (s : State) (f : HostSide → HostSide) : s.ErrKept (s.modHost f) := State.errKept_of_pages rfl

theorem State.errKept_modPage (s : State) (p : Nat) (f : Page → Page)
    (h : ∀ x i, bit (x : Page).err i = true → bit (f x).err i = true) : s.ErrKept (s.modPage p f) := by
  constructor
  intro q i hb
  rw [State.page_modPage]
  split
  · subst_vars; exact h _ _ hb
  · exact hb

theorem State.errKept_setReg (s : State) (p off : Nat) (v : Word) : s.ErrKept (s.setReg p off v) :=
  s.errKept_modPage _ _ (fun _ _ h => h)

theorem State.errKept_count (s : State) (p off k : Nat) : s.ErrKept (s.count p off k) := s.errKept_modPage _ _ (fun _ _ h => h)

theorem bit_or_left {w v : Word} {i : Nat} (h : bit w i = true) : bit (w ||| v) i = true := by
  unfold bit at *; simp [h]

theorem State.errKept_sendVector (s : State) (v : Nat) : s.ErrKept (s.sendVector v) := by
  unfold State.sendVector
  split
  · exact State.errKept_of_pages rfl
  · exact (s.errKept_count ..).trans (State.errKept_emit ..)

theorem State.errKept_ringWrite (s : State) (r : Nat) (n : Notice) : s.ErrKept (s.ringWrite r n) := by
  unfold State.ringWrite
  split
  · exact .refl s
  · simp only []
    have h : ∀ (o : Out) (y : Option Ring), s.ErrKept (((s.emit o).count pNTC 0x100 1).setRing r y) := fun o y =>
      ((s.errKept_emit o).trans ((s.emit o).errKept_count ..)).trans (State.errKept_setRing ..)
    split
    · exact (h ..).trans (State.errKept_sendVector ..)
    · exact h ..

theorem State.errKept_drainRing (fuel : Nat) : ∀ (s : State) (r : Nat), s.ErrKept (State.drainRing fuel s r) := by
  induction fuel with
  | zero => intro s r; exact .refl s
  | succ k ih =>
    intro s r
    unfold State.drainRing
    split
    · exact State.errKept_of_pages rfl
    · split
      · exact .refl s
      · split
        · exact ((s.errKept_setRing ..).trans (State.errKept_ringWrite ..)).trans (ih ..)
        · split
          · exact .refl s
          · refine State.ErrKept.trans ?_ (ih ..)
            exact State.ErrKept.trans (s.errKept_modHost (fun h => { h with backlog := s.host.backlog.erase _ }))
              (State.errKept_ringWrite ..)

theorem State.errKept_logEntry (s : State) (code : Word) (ctx id : Nat) : s.ErrKept (s.logEntry code ctx id) := by
  unfold State.logEntry
  simp only []
  have h : ∀ (i1 i2 i3 i4 : Nat) (a b c d e : Word) (xs : List Nat), s.ErrKept
      { (((((s.setReg pFLT i1 a).setReg pFLT i2 b).setReg pFLT i3 c).setReg pFLT i4 d).setReg pFLT 0x58 e) with
        faultUnread := xs } :=
    fun i1 i2 i3 i4 a b c d e xs => (((((s.errKept_setReg pFLT i1 a).trans (State.errKept_setReg _ pFLT i2 b)).trans
      (State.errKept_setReg _ pFLT i3 c)).trans (State.errKept_setReg _ pFLT i4 d)).trans
      (State.errKept_setReg _ pFLT 0x58 e)).trans (State.errKept_unread ..)
  split
  · exact (h ..).trans (State.errKept_modPage _ _ _ (fun _ _ h => bit_or_left h))
  · exact h ..

theorem State.errKept_putNotice (s : State) (r : Nat) (n : Notice) : s.ErrKept (s.putNotice r n) := by
  unfold State.putNotice
  simp only []
  refine State.ErrKept.trans (State.errKept_drainRing 4098 s r) ?_
  split
  · exact .refl _
  · split
    · exact State.errKept_ringWrite ..
    · split
      · exact ((State.errKept_modHost ..).trans (State.errKept_count _ pNTC 0x118 1)).trans (State.errKept_setReg ..)
      · refine State.ErrKept.trans ?_ (State.errKept_logEntry ..)
        refine State.ErrKept.trans ?_ (State.errKept_modPage _ _ _ (fun _ _ h => bit_or_left h))
        exact (State.errKept_setRing ..).trans (State.errKept_count _ pNTC 0x110 1)

theorem State.errKept_tellNew (s : State) (before : Word) (p b : Nat) : s.ErrKept (s.tellNew before p b) := by
  unfold State.tellNew
  split
  · exact State.errKept_putNotice ..
  · exact .refl s

theorem State.errKept_post (s : State) (r : Nat) (n : Notice) : s.ErrKept (s.post r n) := by
  unfold State.post
  exact (((s.errKept_putNotice ..).trans (State.errKept_tellNew ..)).trans (State.errKept_tellNew ..)).trans (State.errKept_tellNew ..)

theorem State.errKept_faultLog (s : State) (code : Word) (ctx id : Nat) : s.ErrKept (s.faultLog code ctx id) := by
  unfold State.faultLog
  simp only []
  split
  · exact (s.errKept_logEntry ..).trans (State.errKept_post ..)
  · exact s.errKept_logEntry ..

theorem State.errKept_postPageError (s : State) (p b : Nat) : s.ErrKept (s.postPageError p b) := by
  unfold State.postPageError
  simp only []
  split
  · split
    · exact s.errKept_post ..
    · exact (s.errKept_post ..).trans (State.errKept_post ..)
  · exact s.errKept_post ..

theorem State.fenceDue_pages (s : State) (p : Nat) (c : Word) (j : Bool) : (s.fenceDue p c j).pages = s.pages := by
  unfold State.fenceDue; split <;> rfl

/-- What follows the setting of the bit keeps every PAGE_ERR bit. -/
theorem State.errKept_raise_tail (s t : State) (p b : Nat) (i j : Word) (x : Blk × Nat) (hp : pageBlk p = some x)
    (ht : t = s.modPage p (fun x => { x with err := x.err ||| (1#32 <<< b),
                                             info0 := if (s.page p).err == 0 then i else x.info0,
                                             info1 := if (s.page p).err == 0 then j else x.info1 })) :
    t.ErrKept (s.raise p b i j) := by
  unfold State.raise
  rw [hp]
  simp only []
  rw [← ht]
  have key : ∀ (c : Bool) (x : Word) (y z : Nat) (m : Option Nat),
      t.ErrKept (match m with
        | some off => ((if c = true then t.postPageError p b else t).faultLog x y z).count pFLT off 1
        | none => (if c = true then t.postPageError p b else t).faultLog x y z) := by
    intro c x y z m
    have h : t.ErrKept (if c = true then t.postPageError p b else t) := by
      split
      · exact State.errKept_postPageError ..
      · exact .refl _
    split
    · exact (h.trans (State.errKept_faultLog ..)).trans (State.errKept_count ..)
    · exact h.trans (State.errKept_faultLog ..)
  split
  · split
    · exact (key ..).trans (State.errKept_of_pages (State.fenceDue_pages ..))
    · exact key ..
  · exact key ..

/-- Reporting an event clears no PAGE_ERR bit. -/
theorem State.errKept_raise (s : State) (p b : Nat) (i j : Word) : s.ErrKept (s.raise p b i j) := by
  cases hp : pageBlk p with
  | none => unfold State.raise; rw [hp]; exact .refl s
  | some x =>
    exact (s.errKept_modPage p _ (fun _ _ h => bit_or_left h)).trans (s.errKept_raise_tail _ p b i j x hp rfl)

/-- Reporting an event sets its PAGE_ERR bit (R456). -/
theorem State.raised (s : State) (p b : Nat) (i j : Word) (hp : (pageBlk p).isSome = true) (hb : b < 32) :
    bit ((s.raise p b i j).page p).err b = true := by
  obtain ⟨x, hx⟩ := Option.isSome_iff_exists.1 hp
  refine (s.errKept_raise_tail _ p b i j x hx rfl).kept p b ?_
  rw [State.page_modPage_same]
  simp [bit, hb]

/-! ## Pages that reporting leaves alone -/

theorem State.page_setReg_other (s : State) {p q : Nat} (off : Nat) (v : Word) (h : q ≠ p) : (s.setReg p off v).page q = s.page q := by
  simp [State.setReg, State.page_modPage, h]

theorem State.page_count_other (s : State) {p q : Nat} (off k : Nat) (h : q ≠ p) : (s.count p off k).page q = s.page q := by
  simp [State.count, State.page_modPage, h]

theorem State.page_modPage_other (s : State) {p q : Nat} (f : Page → Page) (h : q ≠ p) : (s.modPage p f).page q = s.page q := by
  simp [State.page_modPage, h]

theorem State.page_unread (s : State) (xs : List Nat) (q : Nat) : State.page { s with faultUnread := xs } q = s.page q := rfl

theorem State.page_sendVector (s : State) (v : Nat) {q : Nat} (h : q ≠ pNTC) : (s.sendVector v).page q = s.page q := by
  unfold State.sendVector
  split
  · rfl
  · exact s.page_count_other _ _ h

theorem State.page_ringWrite (s : State) (r : Nat) (n : Notice) {q : Nat} (h : q ≠ pNTC) : (s.ringWrite r n).page q = s.page q := by
  unfold State.ringWrite
  split
  · rfl
  · simp only []
    split
    · rw [State.page_sendVector _ _ h]; exact State.page_count_other (s.emit _) _ _ h
    · exact State.page_count_other (s.emit _) _ _ h

theorem State.page_drainRing (fuel : Nat) : ∀ (s : State) (r : Nat) {q : Nat}, q ≠ pNTC → (State.drainRing fuel s r).page q = s.page q := by
  induction fuel with
  | zero => intro s r q _; rfl
  | succ k ih =>
    intro s r q h
    unfold State.drainRing
    split
    · rfl
    · split
      · rfl
      · split
        · rw [ih _ _ h, State.page_ringWrite _ _ _ h]; rfl
        · split
          · rfl
          · rw [ih _ _ h, State.page_ringWrite _ _ _ h]; rfl

theorem State.page_logEntry (s : State) (code : Word) (ctx id : Nat) {q : Nat} (h : q ≠ pFLT) :
    (s.logEntry code ctx id).page q = s.page q := by
  have g : ∀ (i1 i2 i3 i4 : Nat) (a b c d e : Word) (xs : List Nat), State.page
      { (((((s.setReg pFLT i1 a).setReg pFLT i2 b).setReg pFLT i3 c).setReg pFLT i4 d).setReg pFLT 0x58 e) with
        faultUnread := xs } q = s.page q := by
    intro i1 i2 i3 i4 a b c d e xs
    rw [State.page_unread, State.page_setReg_other _ _ _ h, State.page_setReg_other _ _ _ h, State.page_setReg_other _ _ _ h, State.page_setReg_other _ _ _ h,
      State.page_setReg_other _ _ _ h]
  unfold State.logEntry
  simp only []
  split
  · exact (State.page_modPage_other _ _ h).trans (g ..)
  · exact g ..

theorem State.page_putNotice (s : State) (r : Nat) (n : Notice) {q : Nat} (h : q ≠ pNTC) (h' : q ≠ pFLT) :
    (s.putNotice r n).page q = s.page q := by
  unfold State.putNotice
  simp only []
  have e := State.page_drainRing 4098 s r h
  generalize State.drainRing 4098 s r = d at e
  rw [← e]
  have h1 : ∀ (f : HostSide → HostSide) (v : Word), (((d.modHost f).count pNTC 0x118 1).setReg pNTC 0x4C v).page q = d.page q :=
    fun f v => (State.page_setReg_other _ _ _ h).trans (State.page_count_other _ _ _ h)
  have h2 : ∀ (x : Option Ring) (f : Page → Page) (a : Word) (b c : Nat),
      ((((d.setRing r x).count pNTC 0x110 1).modPage pNTC f).logEntry a b c).page q = d.page q :=
    fun x f a b c => (State.page_logEntry _ _ _ _ h').trans ((State.page_modPage_other _ _ h).trans (State.page_count_other _ _ _ h))
  split
  · rfl
  · split
    · exact State.page_ringWrite _ _ _ h
    · split
      · exact h1 ..
      · exact h2 ..

theorem State.page_tellNew (s : State) (before : Word) (p b : Nat) {q : Nat} (h : q ≠ pNTC) (h' : q ≠ pFLT) :
    (s.tellNew before p b).page q = s.page q := by
  unfold State.tellNew
  split
  · exact State.page_putNotice _ _ _ h h'
  · rfl

/-- Posting a notice leaves every page but NTC and FLT. -/
theorem State.page_post (s : State) (r : Nat) (n : Notice) {q : Nat} (h : q ≠ pNTC) (h' : q ≠ pFLT) :
    (s.post r n).page q = s.page q := by
  unfold State.post
  simp only []
  rw [State.page_tellNew _ _ _ _ h h', State.page_tellNew _ _ _ _ h h', State.page_tellNew _ _ _ _ h h', State.page_putNotice _ _ _ h h']

theorem State.page_faultLog (s : State) (code : Word) (ctx id : Nat) {q : Nat} (h : q ≠ pNTC) (h' : q ≠ pFLT) :
    (s.faultLog code ctx id).page q = s.page q := by
  unfold State.faultLog
  simp only []
  split
  · rw [State.page_post _ _ _ h h', State.page_logEntry _ _ _ _ h']
  · exact State.page_logEntry _ _ _ _ h'

/-- Reporting an event leaves every page but the event's own, NTC and FLT. -/
theorem State.page_raise (s : State) (p b : Nat) (i j : Word) {q : Nat} (hq : q ≠ p) (h : q ≠ pNTC) (h' : q ≠ pFLT) :
    (s.raise p b i j).page q = s.page q := by
  unfold State.raise
  split
  · rfl
  · simp only []
    have hp : ∀ (s : State) (x y : Nat), (s.postPageError x y).page q = s.page q := by
      intro s x y
      unfold State.postPageError
      simp only []
      split
      · split
        · exact State.page_post _ _ _ h h'
        · rw [State.page_post _ _ _ h h', State.page_post _ _ _ h h']
      · exact State.page_post _ _ _ h h'
    have key : ∀ (f : Page → Page) (c : Bool) (x : Word) (y z : Nat) (m : Option Nat),
        (match m with
          | some off => ((if c = true then (s.modPage p f).postPageError p b else s.modPage p f).faultLog x y z).count pFLT off 1
          | none => (if c = true then (s.modPage p f).postPageError p b else s.modPage p f).faultLog x y z).page q = s.page q := by
      intro f c x y z m
      have g : (if c = true then (s.modPage p f).postPageError p b else s.modPage p f).page q = s.page q := by
        split
        · rw [hp]; exact State.page_modPage_other _ _ hq
        · exact State.page_modPage_other _ _ hq
      split
      · rw [State.page_count_other _ _ _ h', State.page_faultLog _ _ _ _ h h', g]
      · rw [State.page_faultLog _ _ _ _ h h', g]
    split
    · split
      · unfold State.page; rw [State.fenceDue_pages]; exact key ..
      · exact key ..
    · exact key ..

end Sys2Proof.Machine
end

