-- ==== Sys2Proof/Tests/Slice0.lean ====
section
/-!
SUPPORT. Witnesses that the premises of the statements of Obligations.lean can be met, and tests against the spec's own
vectors and worked cases. The helpers build small states.
-/
namespace Sys2Proof.Tests
open Machine

/-- A command word from its four 32-bit words (R164). -/
def wd (w0 w1 w2 w3 : Nat) : BitVec 128 := BitVec.ofNat 128 (w0 + w1 * 2 ^ 32 + w2 * 2 ^ 64 + w3 * 2 ^ 96)

def ready : State := { State.reset with phase := .ready }

def job : Job :=
  { id := 7, repro := true, tracks := false, lift := true, traverse := true, bookVer := 1, bundle := some 3, trvEpoch := 5,
    seed := 0, jobWord := 0, program := 0, inputs := none, start := 0, fault := none, vary := 0, resumed := none, merged := [],
    records := 0, chain := 0, batches := 0, held := [], hold := .running, saveRegions := [], demandCores := 1, tokenBase := 0,
    tasked := false }

def tk : Task := { ctx := 0, base := 0, cores := 32, job := some job }

/-- Bank p is port p's, and region p covers it; region 0 covers bank 7. Circular region 0 has one bank of 512 slots. -/
def spm0 : Spm :=
  { Spm.reset with
    banks := (List.range 7).map (fun p => (p + 1, { bankDefault 0 with owner := .port (Fin.ofNat 8 (p + 1)) })),
    regions := (List.range 8).map (fun p => (p, { base := if p = 0 then 3584 else 512 * p, count1 := 511, valid := true })),
    circs := [(0, { circDefault 0 with cfg := { valid := true, slotLog2 := 0, banks := 1, base := 8, slots := 512 } })] }

/-- A running core with command 0 and g16 as given; partition 0 is one square. -/
def coreAt (w : BitVec 128) (e : Word64) : Core :=
  { Core.reset with
    task := some 0, spm := spm0,
    arr := { parts := [(0, { partDefault 0 with geom := some { top := 0, h := 1, w := 1 } })], acc := [] },
    seq := { Seq.reset with
      bank0 := { ProgBank.reset with state := .executing, cmds := [(0, w)] }, run := .running, g := [(16, e)] } }

/-- The part with core 0 as given, running the job `job` on task 0. -/
def onCore (k : Core) : State := { ready.setTask 0 (some tk) with cores := [(0, k)] }

def at0 (w : BitVec 128) : State := onCore (coreAt w 0)

theorem witness_SequencerResults :
    [(0x08, wd 0x001F0008 1 2 0), (0x09, wd 0x00010009 0 0xC 0), (0x0A, wd 0x0007000A 0 0x27 0), (0x0B, wd 0x0C00000B 5 0 0),
        (0x0C, wd 0x8003000C 9 0 0), (0x0D, wd 0x007F000D 0 0 0), (0x02, wd 2 0 0 0), (0x11, wd 0x11 0xFFFFFFFF 0xFFFFFF 0)].all
      (fun x => (at0 x.2).runs 0 x.1 x.2) ∧
    cf (wd 0x00010009 0 0xC 0) 2 3 0 = 12 ∧ cf (wd 0x0007000A 0 0x27 0) 2 3 0 = 7 ∧ cf (wd 0x0007000A 0 0x27 0) 2 5 4 = 2 ∧
    cf (wd 0x0007000A 0 0x27 0) 0 18 16 = 7 := by decide +kernel

theorem witness_DataMemory :
    [(0x0E, wd 0x0E 0xFFF8 0 0), (0x0F, wd 0x0F 0xFFF8 0 0)].all (fun x =>
      (at0 x.2).runs 0 x.1 x.2 && ldstAddr x.2 ((at0 x.2).core 0).seq == 0xFFF8 && ((at0 x.2).core 0).inflight.isEmpty) := by
  decide +kernel

/-- Core 0 at END, with bank 1 valid, armed or not. -/
def atEnd (a : Bool) : State :=
  let k := coreAt 1 0
  onCore { k with seq := { k.seq with armed := a, bank1 := { ProgBank.reset with state := .valid } } }

theorem witness_SequencerControl :
    [wd 0 0 0 0x0000FF07, wd 3 0xFFFFFFFF 0 0].all (fun w => (at0 w).runs 0 (opcodeOf w) w &&
      ((at0 w).core 0).spm.waitMet (syncWait ((at0 w).core 0).seq w) && ((at0 w).core 0).inflight.isEmpty) ∧
    ((at0 (wd 0x00030010 1 0 0)).runs 0 0x10 (wd 0x00030010 1 0 0) && cf (wd 0x00030010 1 0 0) 1 12 0 == 1 &&
      ((at0 (wd 0x00030010 1 0 0)).core 0).seq.loops.isEmpty) ∧
    [false, true].all (fun a => (atEnd a).runs 0 0x01 1 && ((atEnd a).core 0).seq.armed == a &&
      (((atEnd a).core 0).seq.progBank true).state == .valid) := by
  decide +kernel

/-- A word for each engine row, in the order of `arrayRows`, `linkRows` and `rowRows`, with g16. -/
def engineWords : List (BitVec 128 × Word64) :=
  [(wd 0x007F0020 0x00060000 0xFE00 0, 0), (wd 0x21 0x00060000 0 0, 0), (wd 0x2A 1 0 0, 0), (wd 0x31 0x00010000 0x00200001 0, 0x00030000),
   (wd 0x1C000032 0x00020000 0 0, 0), (wd 0x33 0x00020000 0 0, 0), (wd 0x38 0 0 0, 0), (wd 0x00010039 0x1000 0 0, 0),
   (wd 0x0001003A 0 0x1C0000 0, 0), (wd 0x40 0x00050000 0 0, 0)] ++
  [(wd 0x50 0x00040000 0 0, 0), (wd 0x58 0x00040000 0x7F 0, 1), (wd 0x59 0xFFE0 0 0, 0), (wd 0x5A 0x00040000 0 0, 0), (wd 0x60 0x00040000 0 0, 0),
   (wd 0x61 0 0 0, 0), (wd 0x20061 0x00040000 0 0, 0), (wd 0x40061 0x00040000 0 0, 0), (wd 0x60061 0x00040000 0 0, 0),
   (wd 0x80061 0x00040000 0 0, 0), (wd 0xA0061 0 0 0, 0)] ++
  (rowopRows 0).map (fun r => (wd (0x48 + 65536 * r.1) 0 0 0, 0)) ++
  [0x0001, 0x0002, 0x0010, 0x0020, 0x0030, 0x0040, 0x0041, 0x0042, 0x0050, 0x0051, 0x0052, 0x0060, 0x0061, 0x0062].map
    (fun r => (wd (0x49 + 65536 * r) 0 0 0, 0))

theorem witness_EngineCommandsEnter :
    engineWords.length = (arrayRows 0 ++ linkRows 0 ++ rowRows 0).length ∧
    ((arrayRows 0 ++ linkRows 0 ++ rowRows 0).zip engineWords).all (fun x =>
      (onCore (coreAt x.2.1 x.2.2)).enterable 0 x.2.1 x.1) = true := by decide +kernel

theorem witness_EnteredCommand :
    let w := wd 0x007F0020 0x00060000 0xFE00 0
    raceRows (((at0 w).core 0).ordered w (captureRows true w ((at0 w).core 0))).spm (captureRows true w ((at0 w).core 0)).ops = [] := by
  decide +kernel

/-- The word with predicate p1, which is 0. -/
def off (w : BitVec 128) : BitVec 128 := w ||| 0x100#128

theorem witness_PredicatedOff :
    [wd 1 0 0 0, wd 2 0 0 0, wd 8 0 0 0, wd 0x0B 0 0 0, wd 0x0C 0 0 0, wd 0x0D 0 0 0, wd 0x0E 0 0 0, wd 0x0F 0 0 0, wd 0x11 0 0 0,
        wd 0x09 0 0xC 0, wd 0x0007000A 0 0x27 0, wd 0 0 0 0xFF, wd 3 0 0 0xFF, wd 0x29 0 0 0xFF, wd 0x30 0 0 0xFF,
        wd 0x00070028 0 0 0xFF, wd 0x10 0x1FFF 0 0].all (fun w =>
      (at0 (off w)).atCommand 0 (opcodeOf w) (off w) && !((at0 (off w)).core 0).seq.predOn (off w)) ∧
    ((arrayRows 0 ++ rowRows 0).zip (engineWords.take 10 ++ engineWords.drop 21)).all (fun x =>
      let w := off x.2.1
      let s := onCore (coreAt w x.2.2)
      s.atCommand 0 (opcodeOf w) w && !(s.core 0).seq.predOn w && x.1.isRow w && !x.1.bad (s.core 0) w && (syncSignal w).isNone) := by
  decide +kernel

theorem witness_IssueChecks :
    (at0 0xFF).jobOn 0 0 tk job ∧ (at0 (wd 2 1 0 0)).jobOn 0 0 tk job ∧
    ((at0 0xFF).canIssue 0 && (cmdMask (opcodeOf ((at0 0xFF).core 0).seq.fetch)).isNone &&
     (at0 (wd 2 1 0 0)).canIssue 0 && badBits ((at0 (wd 2 1 0 0)).core 0).seq.fetch) ∧
    (opcodeOf ((at0 (wd 2 1 0 0)).core 0).seq.fetch, Instr.switchBank 0) ∈ commandRows 0 := by
  unfold State.jobOn
  decide +kernel

theorem witness_ScratchpadOwnership :
    [(wd 0x00070028 0 0x8000 0, true), (wd 0x28 0x100 0 0, false), (wd 0x001F0029 24575 24575 0, true),
        (wd 0x00100029 24576 0 0, false), (wd 0xFFFF0030 0x00110011 0x00110011 0, true), (wd 0x00210030 0 0 0, false)].all (fun x =>
      let s := onCore { coreAt x.1 0 with spm := { spm0 with banks := [(8, { bankDefault 0 with owner := .circ 0 })] } }
      s.runs 0 (opcodeOf x.1) x.1 && (s.core 0).spm.waitMet (syncWait (s.core 0).seq x.1) &&
      (opcodeOf x.1 != 0x28 || cf x.1 0 19 16 ≤ 7 &&
        (claimBanks x.1).all (fun b => (List.range 4).all (fun c => ((s.core 0).spm.bank b).owner != .circ (Fin.ofNat 4 c))) == x.2) &&
      (opcodeOf x.1 != 0x29 || cf x.1 0 20 20 == 1 && (cf x.1 1 14 0 ≤ 24575 && cf x.1 2 14 0 ≤ 24575) == x.2) &&
      (opcodeOf x.1 != 0x30 || (List.range 16).all (fun p => (partSquares x.1 p).isEmpty || (rectangle (partSquares x.1 p)).isSome) == x.2)) := by
  decide +kernel

/-- Core 0 with a busy bank 47. -/
def bankIn (b : Option Busy) (take : Option Nat) : State :=
  onCore { coreAt 0 0 with spm := { spm0 with banks := [(47, { bankDefault 0 with busy := b, takeover := take })] } }

theorem witness_ScratchpadBanks :
    ((bankIn none (some 3)).core 0).spm.bank 47 = { bankDefault 0 with takeover := some 3 } ∧ ((bankIn none (some 3)).core 0).inflight = [] ∧
    (((bankIn (some .waking) none).core 0).spm.bank 47).busy = some .waking ∧
    (((bankIn (some .zeroing) none).core 0).spm.bank 47).busy = some .zeroing ∧
    (let s := (bankIn none none).modHost (fun h => { h with tests := [(1, 47)] })
     let s := s.setReg (corePage 0 kSPM) 0x40 3
     s.bankTest 0 47 = true ∧ s.hosted 0 = some 0 ∧ (s.core 0).spm.idleBank 47 = true ∧ ((s.core 0).spm.bank 47).busy = none ∧
       bit (s.reg (corePage 0 kSPM) 0x40) 1 = true) ∧
    (let s := (bankIn (some .testing) none).modHost (fun h => { h with tests := [(1, 47)] })
     s.bankTest 0 47 = true ∧ s.hosted 0 = some 0 ∧ ((s.core 0).spm.bank 47).busy = some .testing ∧
       ((s.pcore 0).spares.get (fun _ => []) 47).length + (List.range 17).length > 16) ∧
    (let s := (ready.modHost (fun h => { h with tests := [(1, 67 * 64 + 47)] })).modPcore 67 (fun x => { x with state := .testing, testKind := 1 })
     s.bankTest 67 47 = true ∧ s.hosted 67 = none ∧ (s.pcore 67).state = .testing ∧ (s.pcore 67).testKind = 1) := by
  decide +kernel

/-- The part once word `w` has entered its queue. -/
def enteredBy (cap : BitVec 128 → Core → Capture) (w : BitVec 128) (e : Word64) : State :=
  (onCore (coreAt w e)).entered 0 w (cap w (coreAt w e))

/-- The oldest command of core 0. -/
def oldest (s : State) : EngCmd := (s.core 0).inflight.headD default

theorem witness_CommandsEnd :
    let s := enteredBy (captureRows true) (wd 0x007F0020 0x00060000 0xFE00 0) 0
    let t := s.markStage 0 0 .performed
    t.engineRuns 0 = true ∧ t.nextCmd 0 .rowPath = some (oldest t) ∧ (oldest t).stage = .performed ∧ (oldest t).req = .rowPath := by
  decide +kernel

theorem witness_RowResults :
    [true, false].all (fun l =>
      let s := enteredBy (captureRows l) (wd (if l then 0x007F0020 else 0x007F0021) 0x00060000 0xFE00 0) 0
      let c := oldest s
      s.mayGo 0 c && c.req == .rowPath && (match c.op with
        | .rowld o a | .rowst o a => o.plain && o.trans.isNone && o.rows.length == 128 && decide (o.rows.Nodup) && a == 0xFE00
        | _ => false)) ∧
    [(wd 0x00380048 0 0 0, 0x0007700000000000#64, none), (wd 0x00010048 0 0 0, 0x0007700300000000#64, none), (wd 0x00010048 0 0 0, 0x0000000000000000#64, some 1),
        (wd 0x00200048 0 0 0, 0x0007700000000000#64, some 2)].all (fun x =>
      let s := enteredBy captureRowop x.1 x.2.1
      let c := oldest s
      s.mayGo 0 c && c.req == .row && (match c.op with
        | .rowop y => y.startErr == x.2.2 && y.srcA.plain && y.srcB.all Operand.plain && y.dst.plain
        | _ => false)) := by
  decide +kernel

theorem witness_AccumulatorResults :
    [(captureDrain false, wd 0x1C1F0032 0x00020000 0x0000FF00 0, true), (captureDrain false, wd 0x1C3F0032 0x00020000 0x0000FF00 0, false),
     (captureDrain true, wd 0x001F0033 0x00020000 0x0000FF00 0, true), (captureDrain true, wd 0x00000033 0x00020000 0x000001FF 0, false)].all (fun x =>
      let s := enteredBy x.1 x.2.1 0
      let k := s.core 0
      let c := oldest s
      s.mayGo 0 c && !c.tracked && c.req == .accPort && (match c.op with
        | .drain y | .fill y => y.inRange == x.2.2 && !k.passAhead c && y.opnd.plain
        | _ => false)) ∧
    (let s := enteredBy captureVload (wd 0x000F0038 0 0x1FF 0) 0
     let c := oldest s
     s.mayGo 0 c && !c.tracked && c.req == .schuss && (s.core 0).startReady c && (match c.op with
       | .vload slot _ klen o => slot == 15 && klen == 16384 && o.plain &&
           !(s.core 0).inflight.any (fun d => decide (d.id < c.id) && d.sweepsSlot slot)
       | _ => false)) := by decide +kernel

def isPassP (c : EngCmd) (f : PassP → Bool) : Bool := match c.op with | .pass x => f x | _ => false
def isSweepP (c : EngCmd) (f : SweepP → Bool) : Bool := match c.op with | .sweep x => f x | _ => false

def passWord : BitVec 128 := wd 0x31 0x00010000 0x00200001 0

/-- A sweep of vector 0 over 64 columns with stream-fed weights; vector 0 is loaded. -/
def sweepState (col0 : Nat) : State :=
  let w := wd 0x00010039 0x1000 (col0 * 8192) 0
  let k := { coreAt w 0 with sch := { Sch.reset with vecs := [(0, some { fmt := 0, klen := 32, rows := [] })] } }
  (onCore k).entered 0 w (captureSweep w k)

theorem witness_PassesAndSweeps :
    [(passWord, none), (wd 0x80000031 0x00010000 0x00207C01 0, none), (wd 0x31 0x00010000 0x0020FC01 0, some 1)].all (fun y =>
      let s := enteredBy capturePass y.1 0x00030000
      let k := s.core 0
      let c := oldest s
      let q := k.arr.part 0
      k.command c.id == some c && k.inflight.find? (fun d => d.queuedPass 0) == some c && s.engineStarts 0 && !q.stopped && q.aborted.isEmpty &&
      k.startReady c && isPassP c (fun x => x.p == 0 && q.startErr x == y.2 && (match x.shape with
        | some (t, g) => y.2.isSome || k.passGoes c x t g
        | none => false))) ∧
    (let s := (enteredBy capturePass passWord 0x00030000).modPart 0 0 (fun q => { q with aborted := [0] })
     let k := s.core 0
     let c := oldest s
     k.command c.id == some c && (k.arr.part 0).aborted == [c.id] && !(k.arr.part 0).stopped && s.engineStarts 0 &&
       isPassP c (fun x => x.p == 0 && (match x.shape with
         | some (t, g) => k.passGoes c x t g
         | none => false))) ∧
    (let s := (enteredBy capturePass passWord 0x00030000).modPart 0 0 (fun q => { q with running := [{ cmd := 0, working := [(131071, 5)] }] })
     let c := oldest s
     (s.core 0).command c.id == some c && isPassP c (fun x => x.p == 0) && (((s.core 0).arr.part 0).running.head?.map (·.cmd)) == some c.id &&
       s.phase == .ready && !(s.core 0).inflight.any (fun d => decide (d.id < c.id) && d.isDrain && d.stage != .performed && shareEntry d.region c.region)) ∧
    [(0, none), (4032, none), (4033, some 1)].all (fun y =>
      let s := sweepState y.1
      let k := s.core 0
      let c := oldest s
      k.command c.id == some c && k.inflight.find? (fun d => d.isSweep && d.stage == .queued) == some c && s.engineStarts 0 && !k.sch.stopped &&
      k.sch.aborted.isEmpty && k.sweepReady c && isSweepP c (fun x => k.sch.startErr x == y.2 && (y.2.isSome || k.sweepGoes c x))) ∧
    (let s := (sweepState 0).modSch 0 (fun v => { v with running := [{ cmd := 0, working := [(0, 5)] }] })
     let c := oldest s
     (s.core 0).command c.id == some c && isSweepP c (fun _ => true) && ((s.core 0).sch.running.head?.map (·.cmd)) == some c.id && s.phase == .ready &&
       !(s.core 0).inflight.any (fun d => decide (d.id < c.id) && d.isSdrain && d.stage != .performed && shareSum d.sumRegion c.sumRegion)) := by
  decide +kernel

theorem witness_StreamsAndTables :
    [(wd 0x00100050 0x00040000 0 0, true, true), (wd 0x00100050 0x00040000 1 0, true, false), (wd 0x000F0050 0x00040000 1 0, false, false)].all (fun y =>
      let k := { coreAt y.1 0x4FBFFFE00 with str := { Str.reset with desc := [(0, 0x8), (1, 0x0)] } }
      let s := (onCore k).entered 0 y.1 (captureStream y.1 k)
      let c := oldest s
      match c.op with
      | .stream x => s.streamGoes 0 c x && c.req == .ctx x.ctx && x.out == y.2.1 && descZero ((s.core 0).str.descriptor x.desc) == y.2.2
      | _ => false) ∧
    (let s := (enteredBy captureStream (wd 0x00100050 0x00040000 0 0) 0).markStage 0 0 .performed
     let c := oldest s
     c.req == .ctx 0 && s.engineRuns 0 && ((s.core 0).queueOf c.req).head? == some c && c.stage == .performed) ∧
    (let s := (enteredBy captureTload (wd 0x00F70040 0x00050000 0 0) 0).markStage 0 0 .started
     let s := s.modExp 0 (fun x => x.modSlot 7 (fun t => { t with loading := some (15, 1) }))
     ((s.core 0).exp.slot 7).loading == some (15, 1) &&
       (s.core 0).inflight.find? (fun d => d.stage == .started && d.loadsSlot == some 7) == some (oldest s)) := by
  decide +kernel

theorem witness_Hangs :
    (let s := (((((enteredBy capturePass passWord 0x00030000).modPart 0 15 (fun q => { q with running := [{ cmd := 0, working := [] }] })).modSch 0
        (fun v => { v with running := [{ cmd := 0, working := [] }] })).setReg (corePage 0 kARR) 0x40 1).setReg (corePage 0 kSCH) 0x40 1)
     s.phase == .ready && bit (s.reg (corePage 0 kARR) 0x40) 0 && !((s.core 0).arr.part 15).running.isEmpty &&
       bit (s.reg (corePage 0 kSCH) 0x40) 0 && !(s.core 0).sch.running.isEmpty) ∧
    (let s := (enteredBy captureRowop (wd 0x00380048 0 0 0) 0x0007700000000000).setReg (corePage 0 kROW) 0x40 1
     s.phase == .ready && bit (s.reg (corePage 0 kROW) 0x40) 0 && ((s.core 0).queueOf .row).head?.any (s.rowGoes 0)) ∧
    (let s := (enteredBy captureStream (wd 0x000F0050 0x00040000 0 0) 0).setReg (corePage 0 kSTR) 0x40 1
     let s := s.modCore 0 (fun k => k.updateCmd 0 (fun d => { d with tags := 1 }))
     s.phase == .ready && bit (s.reg (corePage 0 kSTR) 0x40) 0 && ((s.core 0).queueOf (.ctx 15)).head?.any (fun d => d.tags != 0)) := by
  decide +kernel

theorem witness_MemoryErrors :
    let s := at0 0
    s.phase = .ready ∧ s.hostOf 0 = some 0 ∧ s.jobOn 0 0 tk job ∧
    (s.canIssue 0 && bit (s.page (corePage 0 kSPM)).fence 8 && (s.pcore 0).state != .fenced) ∧
    (let t := s.modPage (corePage 0 kSPM) (fun x => { x with fence := 0 })
     t.phase = .ready ∧ t.hostOf 0 = some 0 ∧ t.jobOn 0 0 tk job ∧ bit (t.page (corePage 0 kSPM)).fence 8 = false) ∧
    (let t := enteredBy captureStream (wd 0x000F0050 0x00040000 0 0) 0
     let j := { job with tasked := true }
     t.phase = .ready ∧ t.hostOf 0 = some 0 ∧ t.jobOn 0 0 { tk with job := some j } j ∧ (t.streamStarting 0 0).isSome = true) := by
  unfold State.jobOn
  decide +kernel

theorem witness_Placement :
    (let s := ready.modPcore 67 (fun x => { x with due := true })
     s.schedule = none ∧ s.nextLeaver = some 67 ∧ s.hosted 67 = none) ∧
    (let s := ready.modPcore 0 (fun x => { x with due := true })
     s.schedule = none ∧ s.nextLeaver = some 0 ∧ s.hosted 0 = some 0 ∧ (s.pcore 0).due = true ∧ s.pickSpare 0 = some 16 ∧ s.scheduleClash 0 = false) ∧
    (let s := { ready.modPcore 0 (fun x => { x with due := true }) with dies := [0, 0, 2, 3] }
     s.schedule = none ∧ s.nextLeaver = some 0 ∧ s.hosted 0 = some 0 ∧ (s.pcore 0).due = true ∧ s.pickSpare 0 = some 16 ∧ s.scheduleClash 0 = true) ∧
    (let s := { ready with bridges := [(0, 1)], place := [(0, some 33)] }
     s.schedule = none ∧ s.nextLeaver = some 33 ∧ s.hosted 33 = some 0 ∧ (s.pcore 33).due = false) ∧
    (let s := [0, 16, 33, 50, 67].foldl (fun s p => s.modPcore p (fun x => { x with state := .fenced })) ready
     let s := s.modPcore 1 (fun x => { x with due := true })
     s.schedule = none ∧ s.nextLeaver = some 1 ∧ s.hosted 1 = some 1 ∧ (s.pcore 1).due = true ∧ s.pickSpare 1 = none) ∧
    ({ ready with schedule := some (0xFFFF, 63) }).schedule = some (0xFFFF, 63) ∧
    (let s := { ready with place := [(0, some 67)] }
     adjacentDies 3 0 && !s.bridges.contains (0, 3) && s.hostOf 0 == some 67 && (routeBridges (s.homeDie 0) (pcoreDie 67)).contains (0, 3)) := by
  decide +kernel

theorem witness_PcoreEvents :
    (ready.modPcore 67 (fun x => { x with waking := true })).pcore 67 = { pcoreDefault 67 with waking := true } ∧
    (let s := ready.modPcore 67 (fun x => { x with state := .testing })
     (s.pcore 67).state = .testing ∧ (s.pcore 67).testKind = 0 ∧ (s.pcore 67).waking = false ∧ (s.pcore 67).before ≠ .fenced) ∧
    adjacentDies 0 2 = false := by
  decide +kernel

/-- The part after the two cores' ... job on task 63, cores 32 to 63, fault as given. -/
def endState (f : Option Word) (run : SeqRun) : State :=
  { ready.setTask 63 (some { tk with base := 32, job := some { job with fault := f } }) with
    cores := (List.range 32).map (fun i => (32 + i, { Core.reset with task := some 63, seq := { Seq.reset with run := run } })) }

theorem witness_JobsEnd :
    (let s := endState none .draining
     let j := job
     let t := { tk with base := 32, job := some j }
     s.phase = .ready ∧ s.task 63 = some t ∧ t.coreList.all (fun n => (s.core n).seq.run == .draining && (s.core n).inflight.isEmpty) ∧
       s.tracksDone t j = true) ∧
    (let s := endState (some 5) .stopped
     let j := { job with fault := some 5 }
     let t := { tk with base := 32, job := some j }
     s.phase = .ready ∧ s.task 63 = some t ∧ j.fault.isSome = true ∧ j.merged = [] ∧
       t.coreList.all (fun n => (s.core n).inflight.all (s.core n).stuck && (s.core n).atBoundary && (s.core n).trk.openKeys.isEmpty &&
         (s.core n).trk.ring.isEmpty && (s.core n).trk.closing.isEmpty)) := by
  decide +kernel

def key (r : Nat) : Key := { round := BitVec.ofNat 24 r, layer := 31, sum := 5, count := 1, pending := 0 }

theorem witness_TrackEvents :
    (let s := { ready with cores := [(63, { Core.reset with trk := { Trk.reset with openKeys := [key 12] } })] }
     s.phase = .ready ∧ (s.core 63).closeAll.trk.closing.find? (fun y => y.pending == 0) = some (key 12) ∧ (s.core 63).trk.ring.length < 32768) ∧
    (let j := { job with merged := [key 12] }
     let t := { tk with base := 32, job := some j }
     let s := (endState none .draining).setTask 63 (some t)
     s.task 63 = some t ∧ ((s.mergeRings 63 t).task 63).bind (·.job) = some j ∧ leastKey j.merged = some (key 12) ∧
       t.coreList.all (fun n => ((s.mergeRings 63 t).core n).pastKey (key 12)) = true) ∧
    (let s := { ready with host := { HostSide.reset with records :=
        [{ job := 8, body := [], sig := some [] }, { job := 8, body := [1], sig := none }] } }
     (s.host.records.reverse.find? (fun r => r.job == 8 && r.sig.isNone)).isSome = true) := by
  decide +kernel

theorem task_zero : (ready.setTask 0 (some tk)).task 0 = some tk := by decide +kernel

/-- A full ring holds back a tracked drain whose key is closing. -/
theorem witness_TrackStall : ∃ k : Core, k.ringWaiter.isSome = true ∧ (onCore k).jobOn 0 0 tk job := by
  have long : ∃ r : List Key, 32768 ≤ r.length := ⟨List.replicate 32768 (key 11), by rw [List.length_replicate]⟩
  obtain ⟨r, hr⟩ := long
  refine ⟨{ coreAt 0 0 with
    inflight := [{ (default : EngCmd) with tracked := true, round := 12, layer := 31 }],
    trk := { Trk.reset with closing := [{ key 12 with pending := 1 }], ring := r } }, ?_, rfl, task_zero, rfl, rfl, by decide +kernel⟩
  simp [Core.ringWaiter, Trk.ringBlocks, trackRing, Key.is, key, hr]

theorem witness_ChannelEvents :
    (let s := (ready.setReg (pHBM 19) 0x40 1).modChan 19 31 (fun c => { c with lowProbes := 2 })
     s.chanRuns 19 31 = true ∧ (s.chan 19 31).retrain = false ∧ (s.chan 19 31).windows = 0 ∧ bit (s.reg (pHBM 19) 0x40) 0 = true ∧
       bits (s.reg (pHBM 19) 0x44) 7 0 = 20) ∧
    (let s := ready.modChan 19 31 (fun c => { c with retrain := true })
     s.chanRuns 19 31 = true ∧ (s.chan 19 31).retrain = true ∧ s.retired.contains (chanSlice 19 31) = false) ∧
    [Feeding.pass 15, .sweep, .launch, .stream 15].all (fun f =>
      let s := match f with
        | .pass _ => (enteredBy capturePass passWord 0x00030000).modPart 0 15 (fun q => { q with running := [{ cmd := 0, working := [] }] })
        | .sweep => (sweepState 0).modSch 0 (fun v => { v with running := [{ cmd := 0, working := [] }] })
        | .launch => enteredBy captureLaunch (wd 0x00080058 0 0 0) 1
        | .stream _ => enteredBy captureStream (wd 0x000F0050 0x00040000 0 0) 0
      let u := if f = .sweep then 0 else sliceUnits - 1
      s.phase == .ready && s.isPresented 0 && decide ((s.unitPlace 0 u).1 < 20) && (s.core 0).fedBy u f == some 0 &&
        decide (bits (s.reg (pHBM (s.unitPlace 0 u).1) 0x40) 2 1 < 4)) ∧
    bits (((ready.setReg (pHBM 0) 0x40 7)).reg (pHBM 0) 0x40) 2 1 = 3 := by
  decide +kernel

theorem witness_StackUpkeep :
    (let s := (ready.setReg pPWR 0x40 4).modChan 19 31 (fun c => { c with marked := [(31, 8191)] })
     s.phase = .ready ∧ (s.softDue 19).head? = some (31, 31, 8191) ∧ s.retired.contains (chanSlice 19 31) = false ∧
     s.isPresented 63 = true ∧ bit (s.reg pPWR 0x40) 2 = true ∧ (s.core 63).task = none ∧ (s.core 63).str.asleep = false ∧
     (s.core 63).str.drill.running = false) ∧
    (({ ready with cores := [(63, { Core.reset with str := { Str.reset with asleep := true, waking := true } })] }).core 63).str.waking = true ∧
    bits (ready.reg (pHBM 19) 0x4C) 31 16 < (0xFFFF#16).toNat := by
  decide +kernel

/-- Core 0's drill at instruction 511: d0 the first unit, d1 the count. -/
def drillAt (w d0 d1 : Word64) (loops : List (Fin 2 × Nat × Nat)) : State :=
  { ready with cores := [(0, { Core.reset with str := { Str.reset with
      drill := { Drill.reset with code := [(511, w)], running := true, pc := 511, d := [(0, d0), (1, d1)], loops := loops } } })] }

def drillWd (op a b imm16 imm32 : Nat) : Word64 := BitVec.ofNat 64 (op + a * 256 + b * 4096 + imm16 * 65536 + imm32 * 2 ^ 32)

theorem witness_Drills :
    [(drillWd 1 7 0 0 0xFFFFFFFF, 0), (drillWd 2 7 6 0 0xFFFFFFFF, 0), (drillWd 3 1 0 511 0, 0), (drillWd 3 1 0 511 5, 0), (drillWd 3 1 0 511 5, 1),
     (drillWd 0x20 0 0 0 0, 0), (drillWd 0x21 0 0 0 9, 0), (drillWd 0x3F 0 0 0 0, 0)].all (fun x =>
      let s := drillAt x.1 0 2 (List.replicate (2 * x.2) (0, 0, 511))
      let d := (s.core 0).str.drill
      s.drillRuns 0 && decide (d.pc < 512) && (s.drillHeld 0 (drillOp x.1)).isNone && d.code.get (fun _ => 0) d.pc == x.1 && d.loops.length == 2 * x.2) ∧
    (let s := drillAt (drillWd 0x7F 0 0 0 0) 0 2 []
     s.drillRuns 0 && !drillOps.contains 0x7F && drillOp ((s.core 0).str.drill.code.get (fun _ => 0) 511) == 0x7F) ∧
    (let s := (drillAt (drillWd 0x3F 0 0 0 0) 0 2 []).modCore 0 (fun k => { k with str := { k.str with drill := { k.str.drill with next := some (some 1, []) } } })
     s.drillRuns 0 && (s.drillHeld 0 0x3F).isNone && (s.core 0).str.drill.next.isSome) ∧
    [(drillWd 0x10 0 1 7 1, true), (drillWd 0x11 0 1 7 1, true), (drillWd 0x12 0 1 24574 0, true), (drillWd 0x13 0 1 24574 0, true),
     (drillWd 0x10 0 1 7 1, false), (drillWd 0x11 0 1 7 1, false), (drillWd 0x12 0 1 0 0, false), (drillWd 0x13 0 1 0 0, false)].all (fun x =>
      let s := drillAt x.1 (BitVec.ofNat 64 (sliceUnits - if x.2 then 2 else 1)) 2 []
      let d := (s.core 0).str.drill
      let w := d.code.get (fun _ => 0) d.pc
      s.drillRuns 0 && w == x.1 && (s.drillHeld 0 (drillOp w)).isNone && (drillUnits d w (if drillOp w ≤ 0x11 then (drillImm32 w).toInt else 1)).isSome == x.2) := by
  decide +kernel

/-- A station at position `pos` of a lift of 4, formed with epoch 5, both links up. -/
def lifted (pos : Nat) : State :=
  let s := ((ready.setReg pLFC 0x40 (word (9 * 65536 + 3 * 256 + pos))).setReg (pLFT .up) 0x48 (word 0x2002)).setReg (pLFT .down) 0x48 (word 0x2002)
  { s with lift := { Lift.reset with state := .formed, epoch := 5 } }

/-- A station that is forming, with both links up. -/
def shaping (pos : Nat) (agreed : Bool) : State :=
  let s := (lifted pos).setReg pLFC 0x40 (word (2 ^ 31 + 9 * 65536 + 3 * 256 + pos))
  { s with lift := { Lift.reset with state := .checking, port := if agreed then
    [(0, { liftPortDefault 0 with agreed := true }), (1, { liftPortDefault 0 with agreed := true })] else [] } }

/-- A lift frame of type `ft` without chair fields, as station `s`'s port `x` takes it. -/
def plainFrame (s : State) (x : Side) (ft : Nat) (data : List Byte) : LiftFrame :=
  { fcs := .good, etype := 0x88B5, dstOk := true, data := data,
    hdr := FrameHdr.bytes { ftype := ft, kind := 0, down := x == .up, first := false, last := false, origin := 0, id := s.liftId,
                            epoch := s.lift.epoch.toNat, len := data.length, mask := 0, seq := 0, rows1 := 0, index := 0, core := 0 }
      (linkBytes false false 0 0 0 0) }

theorem witness_LiftForming :
    (ready.phase = .ready ∧ ready.forming = false ∧ ready.lift.isFormed = false ∧ bit (0x80000000#32) 31 = true ∧
      bits (0x80000000#32) 14 8 = 0 ∧ bits (0x80007F7F#32) 14 8 = 127) ∧
    (ready.setReg (pLFT .down) 0x48 1).linkState .down = 1 ∧
    (let s := shaping 3 false
     let f : Formation := { position := 0, length := 3, liftId := 9, cores := 64, stepping := 0x00B0, epoch := 0 }
     s.phase = .ready ∧ s.forming = true ∧ s.linkUp .up = true ∧ s.hears .up (plainFrame s .up 2 [1]) 2 = true ∧ s.formMismatch .up f = none ∧
       s.formMismatch .up { f with liftId := 8 } ≠ none) ∧
    [0, 3].all (fun p => [false, true].all (fun a =>
      let s := shaping p a
      s.hears .down (plainFrame s .down 2 [1]) 2 && s.forming && s.liftPos == p && (s.liftPort .up).agreed == a && (s.liftPort .down).agreed == a)) := by
  decide +kernel

theorem witness_DeliberateBreak :
    (lifted 3).phase = .ready ∧ (lifted 3).lift.isFormed = true ∧ (lifted 3).forming = false ∧ bit (0x80000000#32) 31 = true ∧
      ((lifted 3).page pLFC).err = 0 := by
  decide +kernel

def chair (o : Nat) (q : Nat) : Chair :=
  { hdr := { kind := 0, dir := .uphill, origin := o, mask := 0x8000000000000000, seq := word q, rows := 1, core := 63 }, rows := [5] }

/-- A frame of station `pos`'s lift, arriving at its down port. -/
def frameOf (pos kind : Nat) (seq : BitVec 16) (h : ChairHdr) : LiftFrame :=
  { fcs := .good, etype := 0x88B5, dstOk := true,
    hdr := (if kind = 3 then (lifted pos).demandHead h else (lifted pos).chairHead { h with kind := Fin.ofNat 4 kind } 0).bytes (linkBytes false true 0 seq 0 0),
    data := List.replicate (if kind = 3 then 32 else 512) 1 }

/-- Station `pos` with core 63 in a task, its landing region valid. -/
def landing (pos : Nat) : State :=
  { lifted pos with cores := [(63, { Core.reset with task := some 0, spm := { spm0 with
      circs := [(0, { circDefault 0 with cfg := { valid := true, slotLog2 := 0, banks := 1, base := 8, slots := 512 } })] } })] }

theorem witness_LiftReception :
    (let f := frameOf 2 0 0 (chair 0 0).hdr
     let c := { f with hdr := { ((lifted 2).chairHead (chair 0 0).hdr 0) with ftype := 1, len := 0 }.bytes (linkBytes false false 0 0 0 0), data := [] }
     (lifted 2).takes .down f .ok = true ∧ leAt f.hdr 0 1 / 16 = 0 ∧
     (lifted 2).takes .down c .ok = true ∧ leAt c.hdr 0 1 / 16 = 1 ∧
     (lifted 2).takes .down { f with fcs := .bad } .error = true ∧ ((lifted 2).liftPort .down).nakSent = false ∧
     (lifted 2).takes .down { f with etype := 0x88B6 } .foreign = true ∧ (lifted 2).linkUp .down = true) := by
  decide +kernel

theorem witness_ChairsArrive :
    (let s := landing 3
     let f := frameOf 3 0 0 (chair 0 0).hdr
     let h := chairHdrOf .down f.hdr
     let s1 := s.linkFields .down f.hdr
     s.takes .down f .ok = true ∧ leAt f.hdr 0 1 / 16 = 0 ∧ leAt f.hdr 1 1 % 2 = 0 ∧ h.rows ≤ 16 ∧ leAt f.hdr 0x1D 1 = 0 ∧
       (s.liftPort .down).rxChair = none ∧ s1.retires h = true ∧ s1.unpresented h.mask = none ∧ s1.regionless h.mask = none ∧ h.mask ≠ 0 ∧
       s.lift.held = []) ∧
    (let s := landing 3
     let f := frameOf 3 3 0 { (chair 0 3).hdr with kind := 3 }
     let h := chairHdrOf .down f.hdr
     let s1 := s.linkFields .down f.hdr
     s.takes .down f .ok = true ∧ leAt f.hdr 0 1 / 16 = 0 ∧ leAt f.hdr 1 1 % 4 = 3 ∧ (s.liftPort .down).rxDemand = [] ∧
       h.seq.toNat < s.lift.demanded + 4 ∧ s1.retires h = true ∧ (s1.lift.lap h.seq.toNat).sent = false) := by
  decide +kernel

/-- A station with an own chair first in its launch order, or a forwarded one, and `used` entries sent. -/
def leaving (own : Bool) (used : Nat) : State :=
  let s := landing 3
  let s := s.modLiftPort .up (fun p => { p with sentUsed := used })
  s.modLift (fun l => { l with
    ownQ := if own then [{ core := 63, cmd := 0, chair := some (chair 3 0) }] else [],
    held := if own then [] else [{ chair := chair 1 0, side := some .down, left := 0, waiting := true, stale := 0, bad := false, grad := none }] })

theorem witness_ChairsLeave :
    [(true, 511), (false, 511), (true, 512)].all (fun x =>
      let s := leaving x.1 x.2
      s.phase == .ready && s.lift.isFormed && s.linkUp .up && s.lift.demands.isEmpty && (s.liftPort .up).through.isNone &&
      (s.ownReady .uphill).isSome == x.1 && (s.forwardReady .uphill).isSome == !x.1 && (s.regionless (chair 3 0).hdr.mask).isNone && (s.unpresented (chair 3 0).hdr.mask).isNone &&
      (s.nextChair .uphill).isSome &&
      s.credit .up (chairSize (chair 3 0)) == decide (x.2 = 511) && s.replayRoom .up (chairSize (chair 3 0))) := by
  decide +kernel

theorem witness_ChairsLand :
    [((0 : Word64), false), (0, true), (0x8000000000000000, false)].all (fun x =>
      let h : Held := { chair := chair 0 0, side := some .down, left := 0x8000000000000000, waiting := false, stale := x.1, bad := x.2, grad := none }
      let s := (landing 3).modLift (fun l => { l with held := [h] })
      s.phase == .ready && (s.hostOf 63).isSome && s.lift.held.find? (s.landable 63) == some h && bit h.stale 63 == decide (x.1 ≠ 0)) := by
  decide +kernel

theorem witness_LinkUpkeep :
    [8, 9].all (fun n =>
      let s := (lifted 3).modLiftPort .up (fun p => { p with replay := [{ seq := 0, hdr := [], data := [], sends := n }] })
      s.phase == .ready && s.linkUp .up && s.lift.isFormed &&
      ((s.liftPort .up).replay.all (fun f => decide (f.sends < s.retryMax .up + 1))) == decide (n < s.retryMax .up + 1)) ∧
    (lifted 3).retryMax .up + 1 = 9 ∧ ((lifted 3).setReg (pLFT .up) 0x48 3).linkState .up = 3 := by
  decide +kernel

theorem witness_LiftTroubles :
    (let s := (lifted 3).modLift (fun l => { l with laps := [{ lap := 0, bits := 0, own := 0, others := 0, sent := false }] })
     s.phase = .ready ∧ s.lift.state = .formed ∧ s.lift.isFormed = true ∧ s.linkUp .up = true ∧ s.linkUp .down = true ∧ s.holdsChair = true ∧
       s.admitWait = false ∧ (2#7).toNat ≠ s.liftPos ∧ (3#7).toNat = s.liftPos ∧ s.hears .up (plainFrame s .up 3 [1]) 3 = true ∧
       s.hears .down (plainFrame s .down 3 [1]) 3 = true ∧ s.liftTasks.any s.swapHolds = false) ∧
    (let s := (lifted 3).modLift (fun l => { l with state := .broken })
     s.lift.state = .broken ∧ s.hears .up (plainFrame s .up 3 [1]) 3 = true ∧ s.linkUp .down = true) ∧
    (let s := { lifted 3 with cores := (landing 3).cores }.modSpm 63 (fun m => { m with circs := [(0, { m.circ 0 with slots := [(0, { full := true, expected := 0, failed := false })] })] })
     let s := s.setTask 0 (some { tk with base := 32 })
     s.holdsLanding = true ∧ s.admitWait = false) ∧
    (let y : Bundle := { bundleDefault 0 with state := .swapping, newMan := some (bundleDefault 0).man, ready := true,
                                              man := { (bundleDefault 0).man with layers := 1 } }
     let s := { (lifted 3).setTask 0 (some { tk with cores := 32 }) with cores := [(0, coreAt (wd 0 0 0 0x000001FF) 0)] }.setBundle 3 y
     let s := s.modLift (fun l => { l with laps := [{ lap := 0, bits := 0, own := 0, others := 0, sent := false }] })
     s.hears .down (plainFrame s .down 3 [1]) 3 = true ∧ s.lift.state = .formed ∧ s.liftTasks.any s.swapHolds = true ∧ s.holdsChair = true) ∧
    [true, false].all (fun a =>
      let s := (lifted 3).modLift (fun l => { l with state := .quiescing, asked := a })
      s.hears .down (plainFrame s .down 3 [1]) 3 && s.lift.state == .quiescing && s.lift.asked == a && s.lapQuiet) := by
  decide +kernel

/-! ### The traverse -/

/-- Port A in state `st`, coordinate 129, job epoch 5, with job `job` on task 0. -/
def trvIn (st : Nat) : State :=
  (((ready.setTask 0 (some tk)).setReg (pTRV .A) 0x44 (word (0xFF00 + st))).setReg (pTRV .A) 0x48 129).setReg (pTRV .A) 0x80 5

def hdr (type kind : Nat) (psn ack : Word) : TrvHdr :=
  { type := type, ece := true, last := true, kind := kind, src := 32767, dst := 129, core := 63, phase := 0, psn := psn, ack := ack,
    seq := 3, param := 0, rows := 0, offset := 0, len := if type = 0 then 512 else 0, epoch := 5 }

/-- A packet for this port (R272, R274). -/
def packet (h : TrvHdr) : TrvPacket :=
  let s := trvIn 2
  { fcs := true, ipv6 := false, vlan := if bit (s.reg (pTRV .A) 0x50) 31 then some (BitVec.ofNat 12 (bits (s.reg (pTRV .A) 0x50) 27 16)) else none,
    dst := s.ownAddress .A, ipSum := true, dstPort := 0xB71A, udpSum := true, ce := false, hdr := h.bytes, data := List.replicate h.len 1 }

/-- The flow of the running job to peer 32767, with a packet unacknowledged, and the one from it, with one to acknowledge. -/
def flowS : Flow :=
  { peer := 32767, sends := true, job := true, epoch := 5, unacked := [{ hdr := hdr 0 0 0xFFFFFFFE 0, data := [] }], got := 0, ece := false,
    nak := false, rtoUs := 100, rate := 1000000, cut := false }

def flowR : Flow :=
  { peer := 32767, sends := false, job := true, epoch := 5, unacked := [], got := 1, ece := true, nak := false, rtoUs := 100, rate := 1000000,
    cut := false }

def withFlows (s : State) : State := s.modTrv .A (fun t => { t with flows := [flowS, flowR], txPsn := [(32767, 0xFFFFFFFF)] })

def msg0 (rows : List Row) : TrvMsg :=
  { core := 0, cmd := 0, dst := 32767, dstCore := 63, kind := 0, phase := 0, seq := 3, param := 0, rows := rows, epoch := 5,
    asked := true, granted := false, sent := 0, lastPsn := none }

def req0 (granted : Bool) (kind : Nat) : TrvReq :=
  { src := 32767, core := 63, kind := kind, phase := 0, seq := 3, param := 0, rows := 1, epoch := 5, granted := granted, got := 0 }

def open0 : TrvOpen :=
  { core := 63, cmd := 0, coll := 0, number := 3, rows := 2, e := 0, group := 0, source := [], chunk := [], added := [], reduced := false,
    ownDue := false, landed := [], joined := [], done := 0, closed := false }

theorem witness_TraverseLink :
    [(1, BitVec.allOnes 8), (3, 0x7F#8)].all (fun x => (trvIn x.1).trvState .A == x.1 && (trvIn x.1).phase == .ready) ∧
    (let s := (withFlows (trvIn 2)).modTrv .A (fun t => { t with paused := true })
     s.phase = .ready ∧ s.trvState .A = 2 ∧ s.trvUp .A = true ∧ s.jobPeers .A ≠ [] ∧ (s.trv .A).paused = true) := by
  decide +kernel

theorem witness_TraverseData :
    [(0#32, true), (0xFFFFFFFF#32, false), (1#32, false)].all (fun x =>
      let p := packet (hdr 0 0 x.1 0)
      let s := (withFlows (trvIn 2)).modTrv .A (fun t => { t with requests := [req0 true 0] })
      s.admits .A p && (trvHdrOf p.hdr).type == 0 && !p.ce && (match s.useFlow .A 32767 false 5 with
        | some s1 => s1.flowOf .A 32767 false == some flowR
        | none => false) && decide ((trvHdrOf p.hdr).psn = s.rxPsn .A 32767) == x.2 && (s.trv .A).out.isEmpty && (s.trv .A).serves.isEmpty &&
      (s.trv .A).opens.isEmpty && (req0 true 0).of (trvHdrOf p.hdr)) ∧
    ((0xFFFFFFFF#32 - (trvIn 2).rxPsn .A 32767).toInt < 0 ∧ 0 < (1#32 - (trvIn 2).rxPsn .A 32767).toInt) ∧
    [(1, []), (1, [{ msg0 [] with lastPsn := some 7 }]), (2, [])].all (fun x =>
      let p := packet (hdr x.1 0 0xFFFFFFFF 0xFFFFFFFF)
      let s := (withFlows (trvIn 2)).modTrv .A (fun t => { t with out := x.2 })
      s.admits .A p && (trvHdrOf p.hdr).type == x.1 && s.flow .A 32767 == some flowS && (s.trv .A).out == x.2 && (s.trv .A).serves.isEmpty &&
        !flowS.unacked.any (fun d => d.hdr.psn == 7)) := by
  decide +kernel

theorem witness_TraverseMessages :
    (let x := packet (hdr 3 1 0 0)
     let s := trvIn 2
     let r := s.modTrv .A (fun t => { t with requests := [req0 true 1] })
     let o := s.modTrv .A (fun t => { t with opens := [open0] })
     let q : TrvReq := { req0 false 1 with rows := (trvHdrOf x.hdr).rows + 1 }
     (r.admits .A x && (trvHdrOf x.hdr).type == 3 && ((r.trv .A).requests.find? (fun q => q.of (trvHdrOf x.hdr))).isSome) ∧
     (s.admits .A x && ((s.trv .A).requests.find? (fun q => q.of (trvHdrOf x.hdr))).isNone && (s.openFor .A 63 1 3).isNone) ∧
     (o.admits .A x && (o.trv .A).requests.isEmpty && (trvHdrOf x.hdr).epoch != 0 && decide (1 ≤ (trvHdrOf x.hdr).kind) &&
       o.openFor .A 63 1 3 == some open0 && o.findOpen .A open0.core open0.cmd == some open0 && open0.mismatch q == some 0)) ∧
    [[], [(5 : Row)]].all (fun rows =>
      let x := packet (hdr 4 0 0 0)
      let f := { flowS with unacked := [] }
      let s := (trvIn 2).modTrv .A (fun t => { t with flows := [f], out := [msg0 rows] })
      let h := trvHdrOf x.hdr
      let m := msg0 rows
      s.admits .A x && h.type == 4 && m.dst.toNat == h.src && m.dstCore == h.core && m.kind == h.kind && m.phase == h.phase && m.seq == h.seq &&
        m.epoch == h.epoch && decide (m.rows.length ≤ s.packetRows .A) && s.flow .A m.dst == some f && !(s.trv .A).paused) ∧
    (let x := packet (hdr 5 0 0 0)
     (trvIn 2).admits .A x && (trvHdrOf x.hdr).type == 5 && (trvHdrOf x.hdr).epoch != 0) ∧
    (let x := packet { hdr 5 0 0 0 with epoch := 6 }
     (trvIn 2).trvUp .A && (trvIn 2).outerOk .A x && trvHeaderOk x.hdr x.data && (trvHdrOf x.hdr).epoch != 0 &&
       (trvHdrOf x.hdr).epoch != (trvIn 2).trvEpoch .A && !trvHeaderOk (x.hdr.set 0 0x52) x.data && !(trvIn 2).outerOk .A { x with fcs := false }) ∧
    (let x := packet { hdr 3 1 0 0 with epoch := 0, len := 512 }
     (trvIn 2).admits .A x && (trvHdrOf x.hdr).type == 3 && (trvHdrOf x.hdr).epoch == 0 && !x.data.isEmpty &&
       (List.range 64).all (fun b => !(trvIn 2).holdsShard b (BitVec.ofNat 512 (leAt x.data 0 64)))) := by
  decide +kernel

theorem witness_TraverseTimers :
    (let k := { Core.reset with spm := { spm0 with circs := [(1, { circDefault 0 with cfg := { valid := true, slotLog2 := 0, banks := 1, base := 8, slots := 512 } })] } }
     let s := { (trvIn 2).modTrv .A (fun t => { t with requests := [req0 false 0] }) with cores := [(63, k)] }
     s.phase == .ready && s.trvUp .A && (s.trv .A).requests[0]? == some (req0 false 0) && s.canGrant .A (req0 false 0) && !(s.trv .A).paused) ∧
    (let s := (withFlows (trvIn 2)).modTrv .A (fun t => { t with aborts := 1 })
     s.trvUp .A && s.flow .A 32767 == some flowS && s.flowOf .A 32767 false == some flowR && decide (0 < flowR.got) && !flowS.unacked.isEmpty &&
       s.lossHolds .A 32767 1 && (s.jobPeers .A).contains 32767 && decide (0 < (s.trv .A).aborts) && !(s.trv .A).paused &&
       ((s.modTrv .A (fun t => { t with paused := true })).trv .A).paused) := by
  decide +kernel

/-! ### Queues and commands -/

/-- A 64-byte entry: opcode, and operand bytes given as offset and value (R353). -/
def entry (op : Nat) (fields : List (Nat × Nat)) : List Byte :=
  let body := leBytes 60 (op + fields.foldl (fun a f => a + f.2 * 2 ^ (8 * f.1)) 0)
  body ++ leBytes 4 (crc32c body)

def fetched (e : List Byte) : Fetched := { entry := e, after := 1, writes := 0 }

/-- The part with entry `e` at the front of queue 0. -/
def withFront (s : State) (e : List Byte) : State := s.setQueue 0 (some { queueReset with tail := 1, head := 1, fetched := [fetched e] })

/-- The part with entry `e` of queue 0 under way. -/
def withStarted (s : State) (e : List Byte) : State := s.setQueue 0 (some { queueReset with tail := 1, head := 1, started := [(fetched e).begun] })

/-- `State.front` on queue 0, with no reserved byte set. -/
theorem front_of (s : State) (op : Nat) (e : List Byte)
    (h : ((withFront s e).phase == .ready && decide ((withFront s e).queue 0 = some { queueReset with tail := 1, head := 1, fetched := [fetched e] }) &&
      opOf e == op && (withFront s e).mayStart { queueReset with tail := 1, head := 1, fetched := [fetched e] } (fetched e)) = true) :
    (withFront s e).front 0 op { queueReset with tail := 1, head := 1, fetched := [fetched e] } (fetched e) := by
  simp only [Bool.and_eq_true, beq_iff_eq, decide_eq_true_eq] at h
  exact ⟨h.1.1.1, h.1.1.2, rfl, h.1.2, h.2, fun c hc => absurd hc (by simp [queueReset])⟩

/-- The command at the front of queue 0 may start, and no reserved byte of it is set. -/
def frontOk (s : State) (op : Nat) (fields : List (Nat × Nat)) : Bool :=
  let e := entry op fields
  let x := { queueReset with tail := 1, head := 1, fetched := [fetched e] }
  let t := withFront s e
  t.phase == .ready && decide (t.queue 0 = some x) && opOf e == op && t.mayStart x (fetched e) && (reservedBad e).isNone

/-- The command of queue 0 is under way. -/
def underOk (s : State) (op : Nat) (fields : List (Nat × Nat)) : Bool :=
  let e := entry op fields
  let x := { queueReset with tail := 1, head := 1, started := [(fetched e).begun] }
  let t := withStarted s e
  t.phase == .ready && decide (t.queue 0 = some x) && decide (x.started.filter (fun d => opOf d.entry == op) = [(fetched e).begun])

theorem under_of (s : State) (op : Nat) (fields : List (Nat × Nat)) (h : underOk s op fields = true) :
    (withStarted s (entry op fields)).underWay 0 op { queueReset with tail := 1, head := 1, started := [(fetched (entry op fields)).begun] }
      (fetched (entry op fields)).begun := by
  simp only [underOk, Bool.and_eq_true, beq_iff_eq, decide_eq_true_eq] at h
  exact ⟨h.1.1, h.1.2, h.2⟩

def door (ring : Bool) (number value rsv : Nat) : Word64 := BitVec.ofNat 64 (number + boolNat ring * 2 ^ 20 + rsv * 2 ^ 21 + value * 2 ^ 32)

theorem witness_QueueAccess :
    (let v := door false 0 63 0
     ready.phase = .ready ∧ doorKind v = false ∧ bits v 31 21 = 0 ∧ ready.liveQueue (doorNumber v) = some queueReset ∧
       doorValue v < ready.queueSize (doorNumber v) queueReset ∧
     bits (door false 0 0 1) 31 21 ≠ 0 ∧ ready.liveQueue (doorNumber (door false 1048575 0 0)) = none) ∧
    [(255, true), (1, false)].all (fun x =>
      let s := ready.setRing 0 (some { ringReset with tail := if x.2 then 255 else 0 })
      let v := door true 0 x.1 0
      doorKind v && bits v 31 21 == 0 && (match s.ring (doorNumber v) with
        | some y => decide (doorValue v < 2 ^ y.log2) &&
            decide ((doorValue v + 2 ^ y.log2 - y.head % 2 ^ y.log2) % 2 ^ y.log2 ≤ y.tail - y.head) == x.2
        | none => false)) ∧
    (let s := ((ready.setQueue 0 (some { queueReset with tail := 1 })).modHost (fun h => { h with busMaster := true })).setReg pHOST 0x40 1
     (s.liveQueue 0).isSome && s.host.busMaster && bit (s.reg pHOST 0x40) 0) ∧
    (entryCrcOk (entry 0 []) && (operandBytes 0).isSome && !entryCrcOk ((entry 0 []).set 0 1) && entryCrcOk (entry 9 []) && (operandBytes 9).isNone) ∧
    [0, 3].all (fun d =>
      let s := ready.modHost (fun h =>
        { h with busMaster := true, rings := [(0, some { ringReset with dropped := d })],
                 backlog := [(0, { type := 1, error := false, ctx := 0, time := 0, payload := 0 })] })
      s.host.busMaster && (s.host.backlog.map (·.1) ++ 0 :: s.host.rings.map (·.1)).find? s.owed == some 0 &&
        (s.ring 0).map (·.dropped) == some d) := by
  decide +kernel

/-- The number of fetched entries of a queue after a row. -/
def left (o : Host.Outcome State Fault Refusal) (q : Nat) : Option Nat :=
  match o with
  | .next t => (t.queue q).map (fun x => x.fetched.length)
  | _ => none

theorem not_idle (s : State) (c : Instr) (q : Nat) (h : left (exec c s) q ≠ left (.next s) q) : exec c s ≠ .next s := by
  intro e
  rw [e] at h
  exact h rfl

theorem witness_CommandChecks :
    (let e := entry 1 [(8, 1)]
     let x := { queueReset with tail := 1, head := 1, fetched := [fetched e] }
     let s := ready.setQueue 1048575 (some x)
     (1, Instr.ctxCreate 1048575) ∈ hostRows 1048575 none none false ∧ s.front 1048575 1 x (fetched e) ∧
       exec (.ctxCreate 1048575) s ≠ .next s) ∧
    (let e := entry 0 [(59, 1)]
     (0, Instr.queueNop 0) ∈ hostRows 0 none none false ∧
       (withFront ready e).front 0 0 { queueReset with tail := 1, head := 1, fetched := [fetched e] } (fetched e) ∧
       reservedBad (fetched e).entry = some 59 ∧ exec (.queueNop 0) (withFront ready e) ≠ .next (withFront ready e)) := by
  refine ⟨⟨by decide +kernel, ⟨rfl, by decide +kernel, rfl, by decide +kernel, by decide +kernel, ?_⟩, not_idle _ _ 1048575 (by decide +kernel)⟩,
    by decide +kernel, front_of _ _ _ (by decide +kernel), by decide +kernel, not_idle _ _ 0 (by decide +kernel)⟩
  intro c hc
  exact absurd hc (by simp [queueReset])

theorem witness_QueueCommands :
    frontOk ready 0 [] ∧ (frontOk ready 0x3F [] && (withFront ready (entry 0x3F [])).flushed (fetched (entry 0x3F []))) ∧
    frontOk ready 1 [(8, 4095), (0xA, 4095)] ∧
    frontOk (ready.setContext 4095 { ctxNone 0 with live := true }) 2 [(8, 4095)] ∧ (frontOk ready 2 [(8, 4095)] && !(ready.context 4095).live) ∧
    (frontOk ready 3 [(8, 1048575), (0x18, 16)] && (ready.queue 1048575).isNone) ∧
    (frontOk (ready.setQueue 1048575 (some queueReset)) 4 [(8, 1048575)] &&
      ((ready.setQueue 1048575 (some queueReset)).liveQueue 1048575).isSome && (ready.liveQueue 1048575).isNone) ∧
    (frontOk ready 5 [(8, 4095), (0xA, 16), (0xB, 1), (0xC, 2047), (0x10, 4096)] && (ready.ring 4095).isNone) ∧
    frontOk ready 6 [(8, 4095)] ∧
    (underOk (ready.setQueue 1048575 (some { queueReset with deleting := true })) 4 [(8, 1048575)]) ∧
    (underOk ready 2 [(8, 4095)] && (ready.context 4095).zeroing.isEmpty &&
      (List.range 64).all (fun n => (ready.core n).task.isSome || !(ready.core n).zeroing)) := by
  decide +kernel

theorem witness_PartCommands :
    [PcState.fenced, .hosting].all (fun p =>
      let s := (ready.modPcore 67 (fun c => { c with state := p }))
      frontOk s 7 [(8, 67)] && (s.pcore 67).state == p) ∧
    (let s := ready.modPcore 67 (fun c => { c with state := .fenced })
     underOk s 7 [(8, 67)] && (s.pcore 67).state == .fenced) ∧
    (let s := ready.modPcore 67 (fun c => { c with state := .spare })
     frontOk s 8 [(8, 67)] && frontOk s 8 [(8, 67), (9, 1)] && (s.pcore 67).state == .spare &&
       frontOk s 8 [(8, 63), (9, 2)] && s.sliceCore 63 == some 63 && s.sliceFree 63 && !(s.core 63).str.drill.running) ∧
    (underOk ready 8 [(8, 67)] && ready.testDone 0 67) ∧
    [(21407727616 - 2097152, true), (21407727616, false)].all (fun x =>
      frontOk ready 0x10 [(8, 63), (0x10, x.1), (0x18, 2097152)] && ready.presented == 64 &&
        decide (x.1 + 2097152 ≤ 21407727616) == x.2 && x.1 % 2097152 == 0 && !ready.meetsAny 63 x.1 2097152) ∧
    (let r : HbmRegion := { core := 63, base := 2097152, len := 2097152 }
     let s := ready.setContext 0 { ctxNone 0 with live := true, regions := [r], zeroing := [r] }
     frontOk s 0x11 [(8, 63), (0x10, 2097152), (0x18, 2097152)] && (s.context 0).zeroing.all (fun z => s.mayDrill z.core.val) &&
       regionOf (entry 0x11 [(8, 63), (0x10, 2097152), (0x18, 2097152)]) == r && (s.context 0).regions.contains r &&
       frontOk s 0x10 [(8, 63), (0x10, 2097152), (0x18, 2097152)] && s.meetsAny 63 2097152 2097152) ∧
    (underOk ready 0x11 [(8, 63), (0x10, 2097152), (0x18, 2097152)] && (ready.context 0).zeroing.isEmpty) ∧
    (let s := ready.setBundle 63 { bundleDefault 0 with state := .zeroing, extents := [(63, 0, 2097152)] }
     (s.bundle 63).state == .zeroing && (s.bundle 63).extents.length == 1) := by
  decide +kernel

/-- A task of context 0 on the upper 32 cores, with or without a job. -/
def upper (j : Option Job) : Task := { ctx := 0, base := 32, cores := 32, job := j }

/-- A function of a number that is evaluated first. -/
def force {α : Type} (n : Nat) (f : Nat → α) : α :=
  match n with
  | 0 => f 0
  | k + 1 => f (k + 1)

theorem force_eq {α : Type} (n : Nat) (f : Nat → α) : force n f = f n := by cases n <;> rfl

/-- The checksum's fold, evaluated byte by byte. -/
def crcRun : Nat → List Byte → Nat
  | c, [] => c
  | c, b :: t => force (crcByte c b) (fun d => crcRun d t)

theorem crcRun_eq (l : List Byte) : ∀ c, crcRun c l = l.foldl crcByte c := by
  induction l with
  | nil => intro c; rfl
  | cons b t ih => intro c; rw [crcRun, force_eq, List.foldl_cons, ih]

theorem crc_run (l : List Byte) : crc32c l = crcRun 0xFFFFFFFF l ^^^ 0xFFFFFFFF := by rw [crcRun_eq]; rfl

/-- An image of 256 header bytes with the given fields, and its CRC. -/
def imageOf (fields : List (Nat × Nat)) : List Byte :=
  let body := leBytes 256 (fields.foldl (fun a f => a + f.2 * 2 ^ (8 * f.1)) 0)
  body ++ leBytes 4 (crcRun 0xFFFFFFFF body ^^^ 0xFFFFFFFF)

/-- The image of core 31 of a job of 32 cores that reads no bundle. -/
def image31 : List Byte := imageOf [(0, 0x7A5C0DE1), (4, 1), (5, 32), (7, 31)]

theorem witness_TaskCommands :
    (let s := ready
     frontOk s 0x18 [(8, 63), (9, 32), (0xA, 32)] && (s.task 63).isNone && s.presented == 64 &&
       (upper none).coreList.all (fun n => (s.core n).task.isNone)) ∧
    (let s := { ready with cores := [(63, { Core.reset with task := some 0 })] }
     frontOk s 0x18 [(8, 63), (9, 32), (0xA, 32)] && (s.task 63).isNone && (s.core 63).task == some 0) ∧
    (let s := ready.setTask 63 (some (upper none))
     underOk s 0x18 [(8, 63), (9, 32), (0xA, 32)] && s.task 63 == some (upper none) &&
       (List.range 68).all (fun p => !(s.pcore p).waking)) ∧
    [0, 1].all (fun c =>
      let s := ready.setTask 63 (some { upper (some job) with ctx := c })
      frontOk s 0x19 [(8, 63)] && (s.task 63).map (·.ctx) == some c) ∧
    (frontOk ready 0x19 [(8, 63)] && (ready.task 63).isNone) ∧
    (let s := ready.setTask 63 (some (upper none))
     underOk s 0x19 [(8, 63)] && (upper none).coreList.all (fun n => !(s.core n).zeroing)) ∧
    [false, true].all (fun e =>
      let k := { Core.reset with seq := { Seq.reset with bank1 := { ProgBank.reset with state := if e then .executing else .valid } } }
      let s := { ready.setTask 63 (some (upper none)) with cores := [(63, k)] }
      frontOk s 0x20 [(8, 63), (9, 31), (0xA, 1), (0x10, 512)] && s.task 63 == some (upper none) &&
        (((s.core 63).seq.bankOf 1).state == .executing) == e) ∧
    (underOk (ready.setTask 63 (some (upper none))) 0x20 [(8, 63), (9, 31), (0xA, 1), (0x10, 512), (0x18, 260)] &&
       image31.length == 260 && headerOk image31 31) := by
  decide +kernel

theorem witness_TaskCommands_image : leAt image31 256 4 = crc32c (image31.take 256) ∧
    leAt (image31.set 9 1) 256 4 ≠ crc32c ((image31.set 9 1).take 256) := by
  rw [crc_run, crc_run]
  decide +kernel

/-- SHA3-512 of no bytes, from FIPS 202. -/
def emptyDigest : BitVec 512 :=
  BitVec.ofNat 512 (leNat [0xA6, 0x9F, 0x73, 0xCC, 0xA2, 0x3A, 0x9A, 0xC5, 0xC8, 0xB5, 0x67, 0xDC, 0x18, 0x5A, 0x75, 0x6E,
    0x97, 0xC9, 0x82, 0x16, 0x4F, 0xE2, 0x58, 0x59, 0xE0, 0xD1, 0xDC, 0xC1, 0x47, 0x5C, 0x80, 0xA6, 0x15, 0xB2, 0x12, 0x3A, 0xF1,
    0xF5, 0xF9, 0x4C, 0x11, 0xE3, 0xE9, 0x40, 0x2C, 0x3A, 0xC5, 0x58, 0xF5, 0x00, 0x19, 0x9D, 0x95, 0xB6, 0xD3, 0xE3, 0x01, 0x75,
    0x85, 0x86, 0x28, 0x1D, 0xCD, 0x26])

theorem test_sha3_empty : sha3x512 [] = emptyDigest := by decide +kernel

/-- The upper 32 cores with bank 1 valid, each with the header that `h` gives it, and an empty image. -/
def loaded (h : ProgHeader) : State :=
  { ready.setTask 63 (some (upper none)) with cores := (List.range 32).map (fun i => (32 + i, { Core.reset with task := some 63, seq := { Seq.reset with
      bank1 := { ProgBank.reset with state := .valid, header := some { h with core := i } } } })) }

def header : ProgHeader :=
  { cores := 32, buildRepro := false, tracks := false, lift := false, traverse := false, core := 0, bookVersion := 0, tokenBase := 0,
    extentAddr := 0, demandCores := 0, regions := [], circs := [], quotas := [] }

/-- Each of the upper 32 cores with a save image. -/
def imaged (good : Bool) : State :=
  { loaded header with saves := (List.range 32).map (fun i => (2 * (32 + i), some { (default : SaveImage) with
      good := good, program := emptyDigest, regionDigest := emptyDigest,
      core := { Core.reset with seq := { Seq.reset with bank := true } }, job := { job with bundle := none, lift := false, traverse := false, repro := false, bookVer := 0 } })) }

def launchEntry : List (Nat × Nat) := [(8, 63), (9, 1), (0xA, 0xFF), (0xC, 5)]

theorem witness_JobCommands :
    (let s := loaded header
     frontOk s 0x21 launchEntry && (s.task 63) == some (upper none) && supplied none 0 == some (some []) &&
       (s.launchRefusal (upper none) 1 0xFF).isNone && s.launchHeader (upper none) 1 == some header &&
       (upper none).coreList.all (fun n => ((s.core n).seq.bankOf 1).header.isSome) && s.regionListOk [] && s.regionsOwned 0 []) ∧
    (let s := loaded { header with buildRepro := true }
     frontOk s 0x21 launchEntry && s.launchRefusal (upper none) 1 0xFF == some 1) ∧
    (let s := loaded { header with traverse := true }
     frontOk s 0x21 launchEntry && s.launchRefusal (upper none) 1 0xFF == some 5) ∧
    [true, false].all (fun l =>
      let t := upper (some { job with hold := .preempted, lift := l })
      let s := { ready.setTask 63 (some t) with lift := { Lift.reset with state := .quiescent } }
      frontOk s 0x23 [(8, 63)] && s.task 63 == some t) ∧
    (frontOk (loaded header) 0x23 [(8, 63), (9, 1)] && ((loaded header).images 32).isEmpty) ∧
    (let t := upper (some { job with tasked := true })
     let s := ready.setTask 63 (some t)
     underOk s 0x21 launchEntry && underOk s 0x23 [(8, 63)] && s.jobIssued 63) := by
  decide +kernel

/-- The images of the upper 32 cores, newest first. -/
def newest (s : State) : List (Nat × SaveImage) := (upper none).coreList.filterMap (fun n => (s.images n).head?.map (fun y => (n, y)))

theorem imaged_program : (imaged true).programDigest (upper none) 1 = emptyDigest := by decide +kernel

theorem imaged_regions : (imaged true).regionDigest [] = emptyDigest := by decide +kernel

/-- Nothing refuses the resume of images whose program and regions have the digest `d`. -/
theorem resume_ok (s : State) (t : Task) (d : BitVec 512) (n : Nat) (x : SaveImage) (rest : List (Nat × SaveImage))
    (hp : s.programDigest t (boolNat x.core.seq.bank) = d) (hr : s.regionDigest [] = d)
    (h : (((n, x) :: rest).all (fun y => y.2.good && y.2.program == d && y.2.regions.isEmpty && y.2.regionDigest == d) &&
      x.bundles.isEmpty && x.job.repro == bit (s.reg pDEV 0x44) 0 && x.job.bookVer == s.bookVersion &&
      decide (t.base + t.cores ≤ s.presented) && t.coreList.all (fun n => (s.hostOf n).isSome) && !s.sliceLost &&
      x.job.bundle.isNone && !x.job.lift && t.job.isNone) = true) :
    s.resumeRefusal t ((n, x) :: rest) = none := by
  simp only [Bool.and_eq_true, List.all_eq_true, beq_iff_eq, decide_eq_true_eq, List.isEmpty_iff, Bool.not_eq_true', Option.isNone_iff_eq_none] at h
  obtain ⟨⟨⟨⟨⟨⟨⟨⟨⟨h1, h2⟩, h3⟩, h4⟩, h5⟩, h6⟩, h7⟩, h8⟩, h9⟩, h10⟩ := h
  have g1 : ((n, x) :: rest).any (fun y => !y.2.good) = false := by
    rw [List.any_eq_false]; intro y hy; simp [(h1 y hy).1.1.1]
  have g2 : ((n, x) :: rest).any (fun y => decide (y.2.program ≠ s.programDigest t (boolNat x.core.seq.bank))) = false := by
    rw [List.any_eq_false]; intro y hy; simp [(h1 y hy).1.1.2, hp]
  have g3 : ((n, x) :: rest).any (fun y => decide (s.regionDigest y.2.regions ≠ y.2.regionDigest)) = false := by
    rw [List.any_eq_false]; intro y hy; simp [(h1 y hy).1.2, (h1 y hy).2, hr]
  have g4 : t.coreList.any (fun n => (s.hostOf n).isNone) = false := by
    rw [List.any_eq_false]; intro y hy; have := h6 y hy; cases hh : s.hostOf y <;> simp_all
  simp only [State.resumeRefusal, g1, g2, g3, g4]
  simp [h2, h3, h4, h7, h8, h9, h10, State.bundleReady, Nat.not_lt.mpr h5]

theorem witness_JobCommands_resume :
    [true, false].all (fun g => let s := imaged g
      frontOk s 0x23 [(8, 63), (9, 1)] && s.task 63 == some (upper none) && (newest s).length == 32 && (newest s).all (fun y => y.2.good == g)) ∧
    (imaged false).resumeRefusal (upper none) (newest (imaged false)) = some 8 ∧
    (imaged true).resumeRefusal (upper none) (newest (imaged true)) = none := by
  refine ⟨by decide +kernel, by decide +kernel, ?_⟩
  have h : newest (imaged true) = (newest (imaged true)).head! :: (newest (imaged true)).tail := by decide +kernel
  rw [h]
  exact resume_ok _ _ _ _ _ _ imaged_program imaged_regions (by decide +kernel)

/-- A job of the upper 32 cores that no lift or traverse holds up. -/
def held (h : Hold) : Task := upper (some { job with lift := false, traverse := false, hold := h })

/-- One region descriptor: core 63, slice byte 2 MiB, 512 bytes. -/
def regionList : List Byte := leBytes 8 (63 * 2 ^ 58 + 2097152) ++ leBytes 8 512

theorem witness_HoldCommands :
    [Hold.running, .preempted].all (fun h =>
      let s := (ready.setTask 63 (some (held h))).setContext 0 { ctxNone 0 with live := true, regions := [{ core := 63, base := 2097152, len := 2097152 }] }
      s.task 63 == some (held h) && !s.swapHolds 63 && (h == .preempted || frontOk s 0x22 [(8, 63)]) &&
        frontOk s 0x24 [(8, 63), (9, 1)] && supplied (some regionList) 16 == some (some regionList) &&
        s.regionListOk regionList && s.regionsOwned 0 regionList) ∧
    (let s := (ready.setTask 63 (some (held .running))).setBundle 3 { bundleDefault 0 with state := .armed }
     frontOk s 0x27 [(8, 63), (0xA, 65535)] && s.task 63 == some (held .running) && !s.swapHolds 63 && (s.bundle 3).state == .armed) ∧
    (let y := { (default : SaveImage) with good := true, number := 7 }
     let s := { ready.setTask 63 (some (upper none)) with saves := [(126, some y), (127, some y)] }
     frontOk s 0x25 [(8, 63), (9, 31), (0xA, 1), (0x18, 0xFFFFFFFF)] && s.task 63 == some (upper none) && (s.images 63)[1]? == some y &&
       frontOk s 0x26 [(8, 63), (9, 31), (0x18, 3)] && supplied (some [1, 2, 3]) 3 == some (some [1, 2, 3])) ∧
    (let r : ProvRecord := { job := 0xFFFFFFFFFFFFFFFF, body := [1], sig := some [2] }
     let s := ready.modHost (fun h => { h with records := [r] })
     frontOk s 0x28 [(8, 0xFFFFFFFFFFFFFFFF)] && s.host.records.find? (fun r => r.job.toNat == 0xFFFFFFFFFFFFFFFF) == some r) ∧
    (let s := ready.setTask 63 (some (held .preempting))
     underOk s 0x22 [(8, 63)] && s.allStopped 63) ∧
    (let s := ready.setTask 63 (some (held .running))
     underOk s 0x24 [(8, 63)] && s.task 63 == some (held .running)) ∧
    [Hold.saving, .saveHeld].all (fun h =>
      let s := ready.setTask 63 (some (held h))
      s.phase == .ready && s.task 63 == some (held h) && s.allStopped 63 && ((held h).job.map (fun j => !s.jobSwaps j)) == some true) := by
  decide +kernel

/-- The length of a save image is the model's free value, so that of an export's image is a premise here. -/
theorem witness_HoldCommands_export (y : SaveImage) (h : (Config.saveImageBytes y).length ≤ 0xFFFFFFFF) :
    (Config.saveImageBytes y).length ≤ leAt (entry 0x25 [(8, 63), (9, 31), (0xA, 1), (0x18, 0xFFFFFFFF)]) 0x18 4 := by
  have e : leAt (entry 0x25 [(8, 63), (9, 31), (0xA, 1), (0x18, 0xFFFFFFFF)]) 0x18 4 = 0xFFFFFFFF := by decide +kernel
  rw [e]
  exact h

/-- A manifest of one shard and one layer: 336 bytes with the given fields, an owner key and a signature of zeros. -/
def manifest : List Byte :=
  leBytes 336 (0x0B4ED1E5 + 2 ^ 32 + 2 ^ 40 + 32 * 2 ^ 48 + 2 ^ 64 + 2 ^ 80 + 7555 * 2 ^ 96 + 0x50000 * 2 ^ (8 * 0x100)) ++ List.replicate 7219 0

/-- Its directory: one segment of 512 bytes of core 31. -/
def directory : List Byte := leBytes 160 (0x0B4E5D1A + 2 ^ 32 + 2 ^ 48 + (160 + 512 * 2 ^ 64 + 31 * 2 ^ 96) * 2 ^ 512)

def seg0 (st : SegState) : Segment := { len := 0, core := 31, slot := 0, digest := emptyDigest, place := 0, state := st, again := false }

def bundleAt (b : Bundle) : State := ready.setBundle 63 b

def slotOf (st : BundleState) (g : SegState) : Bundle := { bundleDefault 0 with state := st, segs := [seg0 g] }

def loadEntry : List (Nat × Nat) := [(8, 63), (9, 1), (0xA, 1), (0xC, 32767), (0x18, 7555)]

theorem manifest_length : manifest.length = 7555 := by
  simp only [manifest, leBytes, List.length_append, List.length_map, List.length_range, List.length_replicate]

theorem manifest_ok : manifestOk manifest = true := by
  have h : (manifest.length == leAt manifest 0xC 4) = true := by rw [manifest_length]; decide +kernel
  rw [manifestOk, h]
  decide +kernel

theorem witness_BundleCommands :
    [BundleState.loading, .verified, .armed, .swapping].all (fun st =>
      frontOk (bundleAt (slotOf st .loading)) 0x30 loadEntry && ((bundleAt (slotOf st .loading)).bundle 63).state == st) ∧
    (frontOk ready 0x30 [(8, 63), (0x18, 3)] && ready.manifestErr [1, 2, 3] == some 1 && !ready.sliceTested (some directory) && (ready.bundle 63).state == .empty) ∧
    [false, true].all (fun w =>
      let y := { slotOf .loading .loading with waiting := w }
      frontOk (bundleAt y) 0x31 [(8, 63)] && (y.live[0]?) == some (seg0 .loading) && y.delivers (seg0 .loading) == !w) ∧
    [false, true].all (fun p =>
      let y := { slotOf .verified .verified with pinned := p }
      frontOk (bundleAt y) 0x33 [(8, 63)] && (bundleAt y).evictable 63 == !p) ∧
    (frontOk ready 0x33 [(8, 63)] && frontOk ready 0x34 [(8, 63), (9, 1)] && frontOk ready 0x35 [(8, 63)] && frontOk ready 0x32 loadEntry &&
      (ready.bundle 63).state == .empty) ∧
    (underOk (bundleAt (slotOf .loading .verified)) 0x31 [(8, 63)] && (slotOf .loading .verified).live[0]? == some (seg0 .verified)) ∧
    (underOk ready 0x33 [(8, 63)]) ∧
    (let s := { bundleAt (slotOf .loading .hashing) with hashQ := [(63, 0)] }
     (s.bundle 63).live[0]? = some (seg0 .hashing) ∧ s.hashQ.head? = some (63, 0)) ∧
    sha3x512 ((bundleAt (slotOf .loading .hashing)).segBytes (seg0 .hashing)) = emptyDigest := by
  decide +kernel

/-- Everything that an accepted load and an accepted swap ask for but what hashes and signatures answer: those are the model's uninterpreted
functions or too long to evaluate. -/
theorem witness_BundleCommands_good :
    manifestOk manifest = true ∧
    (directoryOk directory (manifestOf manifest) 0 (leAt manifest 0x100 8) && frontOk ready 0x30 loadEntry &&
      (ready.placement ((List.range (leAt directory 6 2)).map (dirEntry directory))) == some [(31, 0, 2097152)] && (ready.bundle 63).extents.isEmpty && !ready.sliceTested (some directory)) ∧
    (let g := dirEntry directory 0
     let y := { slotOf .armed .verified with extents := [(31, 0, 2097152)], man := { manifestOf manifest with digest := 0 }, segs := [g] }
     let s := bundleAt y
     frontOk s 0x32 loadEntry && ((s.bundle 63).newMan).isNone && s.newPlaces 63 (manifestOf manifest) [g] == some [g] &&
       !s.admitted 63 0 && !s.lift.isFormed) := by
  exact ⟨manifest_ok, by decide +kernel, by decide +kernel⟩

def ringFrame (op : Nat) (rel : Bool) (ready refuse : BitVec 128) : ResRing :=
  { op := BitVec.ofNat 2 op, releaseBit := rel, slot := 63, firstNew := 0, digest := 0, ready := ready, refuse := refuse }

/-- A bundle with a swap of one layer slot under way or to come. -/
def swapping (st : BundleState) (opened : Bool) (g : SegState) (layers : Nat) : Bundle :=
  { slotOf st .verified with
    man := { (bundleDefault 0).man with layers := layers }, newMan := some { (bundleDefault 0).man with layers := layers },
    newSegs := [seg0 g], opened := opened, ready := true }

theorem witness_BundleEvents :
    [3, 0].all (fun p =>
      let s := (lifted p).setBundle 63 (slotOf .verified .verified)
      s.phase == .ready && s.lift.isFormed && s.liftPos == p && s.liftLen == 4 && (s.bundle 63).state == .verified &&
        (s.bundle 63).man.digest == 0) ∧
    (let s := (lifted 3).setBundle 63 (swapping .armed false .loading 1)
     s.ringReady (ringFrame 2 true 15 0) && (s.bundle 63).state != .swapping && !(ringFrame 1 false 15 0).releaseBit &&
       (ringFrame 1 false 0 8).refuse != 0 && (List.range 4).all (fun p => (ringFrame 1 false 15 0).ready.getLsbD p)) ∧
    [1, 2].all (fun op =>
      let s := (lifted 0).setBundle 63 (if op = 1 then slotOf .verified .verified else swapping .armed false .loading 1)
      s.lift.isFormed && s.liftPos == 0 && decide (1 < s.liftLen) && s.ringOp 63 == some op) ∧
    ((bundleAt (slotOf .loading .loading)).bundle 63).state = .loading ∧
    (let y := swapping .swapping true .loading 1
     y.newSegs.any (fun g => g.slot == y.front && g.state != .verified) && y.opened && y.ready) ∧
    (let s := bundleAt (swapping .swapping false .loading 1)
     s.passed 63 0 && decide ((s.bundle 63).front < (s.bundle 63).man.layers) && !(s.bundle 63).opened) ∧
    [1, 2].all (fun l =>
      let y := swapping .swapping true .verified l
      y.newSegs.all (fun g => g.state == .verified) && (y.front + 1 == y.man.layers) == (l == 1)) := by
  decide +kernel

/-- Core 63's slice byte `a` lies at this window offset. -/
def windowAt (a : Nat) : Nat := 63 * 0x500000000 + a

/-- A region of 2 MiB at the slice's start. -/
def owning : State := ready.setContext 0 { ctxNone 0 with live := true, regions := [{ core := 63, base := 0, len := 2097152 }] }

def buffered (o : Nat) : State := owning.modHost (fun h => { h with winBuf := [{ number := 0, offset := o, data := 7, enable := 1 }] })

theorem witness_WindowMapping :
    (let o := windowAt 2097088
     let n := o / 0x500000000
     let a := o % 0x500000000
     owning.phase == .ready && o % 64 == 0 && decide (o < owning.presented * 0x500000000) && (owning.winTarget n a).reads &&
       !(owning.core n).str.asleep && (owning.winTarget n a).discard.isNone && n == 63 && a == 2097088 &&
       ((buffered o).host.winBuf[0]?).map (·.offset) == some o && ((buffered o).winTarget n a).discard.isNone) := by
  decide +kernel

theorem witness_WindowAccess :
    [2097152, 0x4FFFFFFC0].all (fun x =>
      let o := windowAt x
      owning.inWindow o && !(owning.winTarget 63 x).reads && (buffered o).phase == .ready &&
        ((buffered o).winTarget 63 x).discard.isSome && o / 0x500000000 == 63 && o % 0x500000000 == x) := by
  decide +kernel

theorem witness_HostSideEvents :
    ready.phase = .ready ∧ bits ((ready.setReg pHOST 0x44 2).reg pHOST 0x44) 1 0 ≠ 0 ∧ (1 ≤ (3#4).toNat ∧ (3#4).toNat ≤ 3) ∧
    ready.host.fnMask = false ∧ (let s := ready.modHost (fun h => { h with pba := [2047] }); 2047 ∈ s.host.pba) := by
  decide +kernel

theorem witness_RegisterAccess :
    (ready.canAccess pDEV && ready.pageThere pDEV && ready.readyPin) ∧
    (let p := pHOST
     (pageBlk p).isSome && ready.canAccess p && decide (p < 16384) && ready.pageThere p) ∧
    [(corePage 63 kSEQ, 0xFFC), (pPWR, 0x44), (pTIM, 0x20), (pDEV, 0x40)].all (fun x => match pageBlk x.1 with
      | some (b, _) => ready.canAccess x.1 && ready.pageThere x.1 && x.2 % 4 == 0 && decide (0x20 ≤ x.2) && decide (x.2 < 4096) &&
          !ready.writeIgnored b x.2 && (!([Blk.pwr, .lft, .trv, .spm, .lfc].contains b) || x.2 != 0x40) && (b != .dev || x.2 != 0x44)
      | none => false) ∧
    ((pageBlk pDEV).map (fun x => x.1.isPair 0x100 && x.1.isCounter 0x100)) = some true ∧
    !ready.anyJob ∧ (ready.setTask 63 (some (upper (some job)))).anyJob := by
  decide +kernel

theorem witness_Management :
    ready.mgtUp = true ∧ { ready with phase := .tripped }.phase = .tripped ∧ { ready with phase := .recovery }.mgtBus = true ∧
    ready.readyPin = true ∧ ({ ready with perstN := true } : State).perstN = true := by
  decide +kernel

def goodCopy : FwCopy := { version := 1, svn := 0, bookVer := 0, digest := 0, good := true }

theorem witness_ResetsAndBoot :
    (ready.porN && ready.perstN && State.reset.phase == .booting && !ready.trip) ∧
    [false, true].all (fun b => let s := { ready with porN := false, perstN := b }; !s.porN && s.perstN == b) ∧
    (let s := { ready with perstN := false }; !s.perstN && s.porN && !s.trip) ∧
    [true, false].all (fun g =>
      let s := { ready with flash := { ready.flash with fwA := none, fwB := some { goodCopy with good := g } } }
      s.flash.ranked.any (fun c => c.2.passes (floorOf s.flash.inForce)) == g) ∧
    (let s := { State.reset with fw := some goodCopy, flash := { State.reset.flash with factory := true } }
     s.phase == .booting && s.fw.isSome && s.flash.factory) ∧
    (let s := { ready with holdover := true }
     s.pending.isEmpty && s.phase != .off && s.phase != .inReset && s.phase != .tripped && s.refOk) ∧
    (let s := { ready with phase := .inReset }; s.pending.isEmpty && s.phase == .inReset) ∧
    ((lifted 3).phase == .ready && (lifted 3).lift.isFormed && (lifted 3).linkUp .down) := by
  decide +kernel

def sampled : List DieSample :=
  List.replicate 4 { rings := List.replicate 24 100, detectors := List.replicate 8 2, hottest := 80 }

theorem witness_MarginAndLimits :
    sampled.length = 4 ∧ (ready.die 3).stretched = false ∧
    (let s := ready.modDie 3 (fun x => { x with stretched := true, least := 8 })
     (s.die 3).stretched && decide ((s.minPct : Int) ≤ (s.die 3).least)) ∧
    (let s := (((ready.setReg pMRG 0x40 3).setReg pMRG 0x4C 0x0500).modDie 3 (fun x => { x with least := 100 }))
     s.loopOn && bit (s.reg pMRG 0x40) 1 && !(s.die 3).stretched && decide ((s.minPct : Int) + 2 ≤ (s.die 3).least) &&
       decide ((s.die 3).offset + 5 ≤ bits (s.reg pMRG 0x4C) 15 8)) ∧
    25 < (((700#16).toNat : Int) - (726#16).toNat).natAbs ∧
    (let s := (ready.setReg pPWR 0x40 1).setReg pPWR 0x44 800
     bit (s.reg pPWR 0x40) 0 && decide (bits (s.reg pPWR 0x44) 15 0 < (801#16).toNat) && decide (750 < s.capRate) &&
       decide ((775#16).toNat * 100 < bits (s.reg pPWR 0x44) 15 0 * 97)) ∧
    (let limit : Int := (min 105 (bits (ready.reg pPWR 0x48) 7 0) : Nat)
     (∃ h ∈ [limit + 1, 0, 0, 0], limit < h) ∧ (∀ h ∈ [limit + 1, 0, 0, 0], h < 110) ∧
       (∃ h ∈ [110, 0, 0, 0], limit < h ∧ 110 ≤ h) ∧ ∀ h ∈ [limit - 3, limit - 3, limit - 3, limit - 3], h + 3 ≤ limit) := by
  decide +kernel

theorem witness_UpdatesAndJournal :
    (ready.mgtUp && !(copyOf []).passes (floorOf ready.config) && ({ ready with phase := .recovery } : State).phase == .recovery) ∧
    ((({ ready with flash := { ready.flash with helper := true } }).claimErr []) == some 3 &&
      (({ ready with flash := { ready.flash with helper := false } }).claimErr []) == some 0) ∧
    (let s := { ready with toJournal := [{ kind := 1, payload := [] }], flash := { ready.flash with helper := true } }
     (s.toJournal.head?).isSome && s.phase == .ready && s.flash.helper && decide (s.flash.journal.length < 1024)) := by
  decide +kernel

/-- A firmware image that is well formed passes once its signature and its key's digest do; both are uninterpreted here. -/
theorem witness_UpdatesAndJournal_image (m : List Byte) (hf : imageFormat m = true) (hs : imageSigned m = true) :
    (copyOf m).passes (floorOf ready.config) = true := by
  simp [FwCopy.passes, copyOf, hf, hs, floorOf, ready, State.reset]

/-- A record that is well formed and within the firmware's version claims a part without an owner once its signature passes. -/
theorem witness_UpdatesAndJournal_record (m : List Byte) (hf : cfgFormat m = true) (hv : leAt m 6 2 = 0)
    (hs : Config.mldsaVerify (cfgKey m) (cfgSigned m) (cfgSig m) = true) :
    ({ ready with flash := { ready.flash with helper := true } } : State).claimErr m = none := by
  simp [State.claimErr, hf, hv, hs, ready, State.reset]

/-- A full journal, every record of it live. -/
theorem witness_UpdatesAndJournal_full :
    ∃ xs : List Repair, 1024 ≤ xs.length ∧ 1024 < (liveRecords xs).length + 64 := by
  refine ⟨List.replicate 1024 { kind := 1, payload := [] }, by rw [List.length_replicate], ?_⟩
  rw [liveRecords, List.filter_replicate, if_pos (by rfl), List.length_replicate]
  decide

theorem witness_SpdmAnswers :
    [Transport.mctp, .doe].all (fun t => [0, 2, 3].all (fun k => [false, true].all (fun id =>
      let s := { ready with flash := { ready.flash with helper := id }, spdmUp := if k = 0 then [] else [(transportNat t, k)] }
      s.spdmReaches t && s.flash.helper == id && s.spdmUp.get natZero (transportNat t) == k))) ∧
    (ready.measurement 7).isSome = true := by
  decide +kernel

theorem next_of {o : Host.Outcome State Fault Refusal}
    (h : (match o with
      | .next _ => true
      | .fault _ => false
      | .refused _ => false) = true) : ∃ t, o = .next t := by
  cases o with
  | next t => exact ⟨t, rfl⟩
  | fault f => cases h
  | refused r => cases h

/-- Core 0 at LI with a command waiting. -/
def waiting : State := { at0 (wd 0x001F0008 1 2 0) with pending := [.li 0, .fence 0] }

theorem witness_StepKeepsCanonical : waiting.Canonical ∧ ∃ t, step waiting = .next t :=
  ⟨⟨by decide +kernel, by decide +kernel, by decide +kernel, by decide +kernel⟩, next_of (by decide +kernel)⟩

theorem witness_ReadyStaysHigh :
    waiting.readyPin = true ∧ waiting.presented ≠ 0 ∧ waiting.porN = true ∧ waiting.perstN = true ∧
      (Instr.li 0) ∉ [Instr.porNFall, .perstNFall, .powerLoss, .thermtrip] ∧ ∃ t, exec (.li 0) waiting = .next t :=
  ⟨by decide +kernel, by decide +kernel, by decide +kernel, by decide +kernel, by simp, next_of (by decide +kernel)⟩

theorem witness_HeaderRoundTrips :
    (let h : TrvHdr := { type := 15, ece := true, last := true, kind := 3, src := 32767, dst := 32767, core := 63, phase := 255, psn := -1, ack := -1,
                         seq := -1, param := 4194303, rows := 65535, offset := 65535, len := 65024, epoch := -1 }
     h.type < 16 ∧ h.kind < 4 ∧ h.src < 32768 ∧ h.dst < 32768 ∧ h.core < 64 ∧ h.phase < 256 ∧ h.rows < 65536 ∧ h.offset < 65536 ∧
       h.len < 65536 ∧ h.param.toNat < 4194304 ∧ h.len % 512 = 0 ∧ (hdr 5 2 0 0).type ≤ 5 ∧ (hdr 5 2 0 0).kind ≤ 2 ∧ (hdr 5 2 0 0).len % 512 = 0) ∧
    (let h : ChairHdr := { kind := 3, dir := arrivingDir .up, origin := 127, mask := -1, seq := -1, rows := 256, core := 63 }
     h.origin < 128 ∧ 1 ≤ h.rows ∧ h.rows ≤ 256 ∧ h.core < 64) := by
  decide +kernel

def loopAt (w : BitVec 128) (ls : List LoopFrame) : State :=
  let k := coreAt w 0
  onCore { k with seq := { k.seq with loops := ls } }

def frame (c : Fin 4) (e : Nat) : LoopFrame := { lc := c, endPc := e, count := 2, index := 0, start := 0 }

theorem witness_LoopChecks :
    (let deep := [frame 0 10, frame 1 10, frame 2 10, frame 3 10]
     (loopAt (wd 0x00010010 0 0 0) []).runs 0 0x10 (wd 0x00010010 0 0 0) && cf (wd 0x00010010 0 0 0) 1 12 0 == 0 &&
     (loopAt (wd 0x00010010 11 0 0) [frame 0 10]).runs 0 0x10 (wd 0x00010010 11 0 0) && cf (wd 0x00010010 11 0 0) 1 12 0 == 11 &&
     (loopAt (wd 0x00010010 10 0 0) deep).runs 0 0x10 (wd 0x00010010 10 0 0) && deep.length == 4 &&
     (loopAt (wd 0x00010010 10 0 0) [frame 1 10]).runs 0 0x10 (wd 0x00010010 10 0 0) && cf (wd 0x00010010 10 0 0) 0 17 16 == 1 &&
     (loopAt (wd 0x00010010 10 0 0) [frame 0 10, frame 2 10]).runs 0 0x10 (wd 0x00010010 10 0 0)) ∧
    (onCore (coreAt (wd 0x00010010 0 0 0) 0)).jobOn 0 0 tk job := by
  refine ⟨by decide +kernel, rfl, by decide +kernel, rfl, rfl, by decide +kernel⟩

theorem witness_StepRunsFront : ({ waiting with pending := .li 0 :: [.fence 0] } : State).pending = .li 0 :: [.fence 0] := rfl

/-! ### Vectors and worked cases of the spec -/

/-- The check value of CRC-32C (R353). -/
theorem test_crc32c : crc32c [0x31, 0x32, 0x33, 0x34, 0x35, 0x36, 0x37, 0x38, 0x39] = 0xE3069283 := by decide +kernel

/-- R45's vectors. -/
theorem test_generator :
    ocg (fun _ => 0) (fun _ => 0) = (0x3E149F23, 0xBB20FA21, 0x14128A27, 0xB81AE360) ∧
    ocg (fun i => if i = 0 then 1 else 0) (fun _ => 0) = (0x62DC2675, 0x0C5CBF21, 0xE9589A25, 0x5C39D50E) := by decide +kernel

/-- R46's worked case: FP32 0x3FA6C000 to BF16 with the first word of vector 1; and with a word whose U is 0.25. -/
theorem test_stochastic_rounding :
    convertTo 3 false (.sr 0x3E149F23) (f32 0x3FA6C000) = 0x3FA6 ∧ convertTo 3 false (.sr 0x40000000) (f32 0x3FA6C000) = 0x3FA7 := by
  decide +kernel

/-- R39's worked case: 5.0, 7.0, 0.25 and -2.75 to E2M1. -/
theorem test_mx_elements :
    [0x40A00000, 0x40E00000, 0x3E800000, 0xC0300000].map (fun x => convertTo 2 true .rne (f32 x)) = [6, 7, 0, 0xD] := by decide +kernel

/-- R326's vectors. -/
theorem test_track_term : trackTerm 0 0 0 0 = 0xBF584768E626DED1 ∧ trackTerm 0 0 0 1 = 0x7EB08ED9CC4DBDA3 := by decide +kernel

/-- The expander chapter's worked decode, steps 1 and 5. -/
theorem test_expander_decode :
    (let img : Row := BitVec.ofNat 4096 (1 * 2 ^ (8 * 32) + 4 * 2 ^ (8 * (32 + 0x0F)) + 2 * 2 ^ (8 * (32 + 0x11)) + 3 * 2 ^ (8 * (32 + 0x22)) +
      4 * 2 ^ (8 * (32 + 0xF0)))
     match readSymbols (canonical img) (0xB2 + 0x77 * 256) 24 8 0 with
      | .ok xs => xs == [0x00, 0x11, 0x00, 0x22, 0xF0, 0x00, 0x0F, 0x00]
      | .error _ => false) = true := by decide +kernel

/-- The architecture chapter's worked cases: core 37's host, stack and channels; station 5 on lift 3 is coordinate 389. -/
theorem test_placement :
    ready.hostOf 37 = some 39 ∧ ready.homeDie 37 = 2 ∧ (ready.unitPlace 37 0).1 = 11 ∧ (ready.unitPlace 37 0).2.1 = 18 ∧
      (ready.unitPlace 37 9).2.1 = 27 ∧ (ready.setReg pLFC 0x40 (word (3 * 65536 + 5))).deviceCoord = 389 := by decide +kernel

/-- The degraded part of the worked case after R388: slice 21 retired and pcore 3 fenced in the journal. -/
theorem test_presentation :
    (match presentations.findSome? (([{ kind := 6, payload := [21] }, { kind := 2, payload := [3, 0] }] : List Repair).foldl
        State.replay State.reset).present with
      | some t => t.presented == 48 && t.dies == [0, 2, 3] && t.hostOf 3 == some 16 && t.hostOf 20 == some 38 && t.physSlice 20 == 36 &&
          (t.pcore 50).state == .spare && (t.pcore 17).state == .released
      | none => false) = true := by decide +kernel

/-- From reset the boot ends with READY and 64 cores presented (R423); its work counters hold amounts the spec does not give. -/
theorem test_boot :
    (match exec .bootComplete State.reset with
      | .next t => t.readyPin && t.phase == .ready && t.presented == 64 && t.hostOf 63 == some 66 && (t.page pSEC).work.length == 2
      | _ => false) = true := by decide +kernel

/-- R344's worked case: core 37's slice address 0x40001400. -/
theorem test_window : (0xB940001400 : Nat) / 0x500000000 = 37 ∧ 0xB940001400 % 0x500000000 = 0x40001400 ∧ ready.inWindow 0xB940001400 = true := by
  decide +kernel

/-- LI to g31, ALU g0 = g16 + 12, and a loop's counter, from the command words of R168. -/
theorem test_sequencer_step :
    (match step { waiting with pending := [.li 0] } with
      | .next t => (t.core 0).seq.reg 31 == 0x200000001 && (t.core 0).seq.pc == 1 && t.pending.isEmpty
      | _ => false) = true := by decide +kernel

/-! ### Ill-formed commands are refused -/

def row0 : LiftFrame := { fcs := .good, etype := 0, dstOk := true, hdr := List.replicate 40 0, data := [] }
def packet0 : TrvPacket := { packet (hdr 0 0 0 0) with hdr := List.replicate 40 0, data := [] }

theorem test_wf_pcores : (Instr.spmBistStart 68 0).wf = false ∧ (Instr.spmBistDone 68 0 []).wf = false ∧
    (Instr.arraySelfTestDone 68 none).wf = false ∧ (Instr.pcoreWakeDone 68).wf = false ∧ (Instr.pcoreWakeDone 67).wf = true := by decide

theorem test_wf_stacks : (Instr.hbmRefreshWindow 20 0 0).wf = false ∧ (Instr.channelRetrain 20 0 true).wf = false ∧
    (Instr.softRepair 20 true).wf = false ∧ (Instr.stackHot 20 0).wf = false ∧ (Instr.stackHot 19 0).wf = true ∧
    (Instr.hbmReadReport 0 41943040 0 .sweep).wf = false := by decide

theorem test_wf_bridges : (Instr.routeFail 0 2).wf = false ∧ (Instr.routeFail 0 0).wf = false ∧ (Instr.routeFail 3 0).wf = true := by decide

theorem test_wf_frames :
    [Instr.chairFrame .up, .demandChairRx .up, .gradChairRx .up, .linkControlFrame .up].all (fun c =>
      !(c { row0 with hdr := [] }).wf && (c row0).wf) = true ∧
    [Instr.trvDataPacket .A, .trvAck .A, .trvNak .A, .trvRequest .A, .trvGrant .A, .trvAbort .A].all (fun c =>
      !(c { packet0 with hdr := [] }).wf && (c packet0).wf) = true := by decide +kernel

theorem test_wf_entry : (Instr.commandFetch 0 (some [1, 2])).wf = false ∧ (Instr.commandFetch 0 (some (List.replicate 64 0))).wf = true := by
  decide +kernel

theorem test_wf_samples : (Instr.marginSample []).wf = false ∧ (Instr.marginSample sampled).wf = true ∧
    (Instr.marginSample (List.replicate 4 { rings := [], detectors := [], hottest := 0 })).wf = false ∧ (Instr.thermStep [1]).wf = false := by
  decide +kernel

theorem test_wf_addresses : (Instr.windowRead 32).wf = false ∧ (Instr.windowWrite 32 0 0).wf = false ∧ (Instr.pageCtlSnap 16384).wf = false ∧
    (Instr.pageCtlClear 16384).wf = false ∧ (Instr.pageCtlLive 16384).wf = false ∧ (Instr.pageErrWrite 16384 0).wf = false ∧
    (Instr.counterLowRead 0 4).wf = false ∧ (Instr.counterLowRead 16384 0).wf = false ∧ (Instr.registerWrite 2 0).wf = false ∧
    (Instr.registerWrite 67108864 0).wf = false := by decide

end Sys2Proof.Tests
end

section
/-!
Proofs of chapter 00: what one report of an event does to the event's own page, what the gating pass can change, and from
these the events of pcores (R389, R411).
-/
namespace Sys2Proof.Machine

/-! ## The event's own page (R456, R457) -/

/-- A page on which an event has been reported: its PAGE_ERR bit is set, and INFO0 and INFO1 hold its details where no bit
was set before. -/
def Page.mark (x : Page) (b : Nat) (i j : Word) : Page :=
  { x with err := x.err ||| (1#32 <<< b), info0 := if x.err == 0 then i else x.info0, info1 := if x.err == 0 then j else x.info1 }

theorem State.page_postPageError (s : State) (p b : Nat) {q : Nat} (h : q ≠ pNTC) (h' : q ≠ pFLT) :
    (s.postPageError p b).page q = s.page q := by
  unfold State.postPageError
  simp only []
  have ring0 := State.page_post s 0 (s.errorNotice p b) h h'
  split
  · split
    · exact ring0
    · exact (State.page_post _ _ _ h h').trans ring0
  · exact ring0

theorem State.page_fenceDue (s : State) (p q : Nat) (c : Word) (j : Bool) : (s.fenceDue p c j).page q = s.page q := by
  simp only [State.page, State.fenceDue_pages]

/-- Reporting an event marks the event's own page and leaves it as it is otherwise. -/
theorem State.page_raise_same (s : State) {p : Nat} (b : Nat) (i j : Word) (hp : (pageBlk p).isSome = true)
    (h : p ≠ pNTC) (h' : p ≠ pFLT) : (s.raise p b i j).page p = (s.page p).mark b i j := by
  obtain ⟨x, hx⟩ := Option.isSome_iff_exists.1 hp
  have told (t : State) (c : Bool) : (if c then t.postPageError p b else t).page p = t.page p := by
    cases c
    · rfl
    · exact t.page_postPageError p b h h'
  have counted (f : Page → Page) (c : Bool) (code : Word) (ctx id : Nat) (m : Option Nat) :
      (match m with
        | some off => ((if c then (s.modPage p f).postPageError p b else s.modPage p f).faultLog code ctx id).count pFLT off 1
        | none => (if c then (s.modPage p f).postPageError p b else s.modPage p f).faultLog code ctx id).page p = f (s.page p) := by
    have logged : ((if c then (s.modPage p f).postPageError p b else s.modPage p f).faultLog code ctx id).page p = f (s.page p) := by
      rw [State.page_faultLog _ _ _ _ h h', told, State.page_modPage_same]
    cases m with
    | none => exact logged
    | some off => exact (State.page_count_other _ _ _ h').trans logged
  unfold State.raise
  rw [hx]
  simp only []
  split
  · split
    · exact (State.page_fenceDue ..).trans (counted ..)
    · exact counted ..
  · exact counted ..

/-! ## What reporting leaves alone -/

section
variable {s t : State} (h : s.Raises t)
include h

theorem State.Raises.time : t.time = s.time := by
  obtain ⟨u, hu, ht, -⟩ := h; rw [ht, hu]

theorem State.Raises.core (n : Nat) : t.core n = s.core n := by
  obtain ⟨u, hu, ht, -⟩ := h; rw [ht, hu]; rfl

theorem State.Raises.readData : t.host.readData = s.host.readData := by
  obtain ⟨u, hu, ht, -⟩ := h; rw [ht, hu]

theorem State.Raises.pcore_state (q : Nat) : (t.pcore q).state = (s.pcore q).state := by
  obtain ⟨-, -, -, hq⟩ := h; rw [hq]

theorem State.Raises.pcore_testResult (q : Nat) : (t.pcore q).testResult = (s.pcore q).testResult := by
  obtain ⟨-, -, -, hq⟩ := h; rw [hq]

end

theorem State.reg_raise_same (s : State) {p : Nat} (b : Nat) (i j : Word) (o : Nat) (hp : (pageBlk p).isSome = true)
    (h : p ≠ pNTC) (h' : p ≠ pFLT) : (s.raise p b i j).reg p o = s.reg p o := by
  simp only [State.reg, s.page_raise_same b i j hp h h', Page.mark]

theorem State.counter_raise_same (s : State) {p : Nat} (b : Nat) (i j : Word) (o : Nat) (hp : (pageBlk p).isSome = true)
    (h : p ≠ pNTC) (h' : p ≠ pFLT) : (s.raise p b i j).counter p o = s.counter p o := by
  have hpage := s.page_raise_same b i j hp h h'
  exact State.counter_eq s _ p o (by rw [hpage]; rfl) (by rw [hpage]; rfl) (by rw [hpage]; rfl) (s.raises_raise p b i j).time

/-! ## Power gates (R411) -/

/-- What gating and waking pcores can change: their gates, and on the pages only the counter of wakes. -/
structure State.Regated (s t : State) : Prop where
  frame : t = { s with pages := t.pages, pcores := t.pcores }
  pcore : ∀ q, t.pcore q = { s.pcore q with gated := (t.pcore q).gated, waking := (t.pcore q).waking }
  page : ∀ q, q ≠ pPWR → t.page q = s.page q

theorem State.Regated.refl (s : State) : s.Regated s := ⟨rfl, fun _ => rfl, fun _ _ => rfl⟩

theorem State.Regated.trans {s t u : State} (h : s.Regated t) (g : t.Regated u) : s.Regated u where
  frame := by rw [g.frame, h.frame]
  pcore q := by rw [g.pcore q, h.pcore q]
  page q hq := (g.page q hq).trans (h.page q hq)

theorem State.regated_modPcore (s : State) (p : Nat) (f : Pcore → Pcore)
    (hf : ∀ x, f x = { x with gated := (f x).gated, waking := (f x).waking }) : s.Regated (s.modPcore p f) where
  frame := rfl
  pcore q := by
    rw [State.pcore_modPcore]
    split
    · next h => rw [h]; exact hf _
    · rfl
  page _ _ := rfl

theorem State.regated_countWake (s : State) : s.Regated (s.count pPWR 0x118 1) :=
  ⟨rfl, fun _ => rfl, fun _ hq => s.page_count_other _ _ hq⟩

theorem State.Regated.foldl {f : State → Nat → State} (hf : ∀ (s : State) p, s.Regated (f s p)) (ps : List Nat) :
    ∀ s : State, s.Regated (ps.foldl f s) := by
  induction ps with
  | nil => exact .refl
  | cons p ps ih => exact fun s => (hf s p).trans (ih _)

theorem State.regated_regate (s : State) : s.Regated s.regate := by
  refine State.Regated.foldl (fun s p => ?_) _ s
  simp only []
  split
  · exact s.regated_modPcore p _ (fun _ => rfl)
  · split
    · exact (s.regated_modPcore p _ (fun _ => rfl)).trans (State.regated_countWake _)
    · exact .refl s

section
variable {s t : State} (h : s.Regated t)
include h

theorem State.Regated.pcore_state (q : Nat) : (t.pcore q).state = (s.pcore q).state := by rw [h.pcore]
theorem State.Regated.pcore_testResult (q : Nat) : (t.pcore q).testResult = (s.pcore q).testResult := by rw [h.pcore]
theorem State.Regated.pcore_due (q : Nat) : (t.pcore q).due = (s.pcore q).due := by rw [h.pcore]
theorem State.Regated.pcore_dueJournal (q : Nat) : (t.pcore q).dueJournal = (s.pcore q).dueJournal := by rw [h.pcore]
theorem State.Regated.tests : t.host.tests = s.host.tests := by rw [h.frame]

theorem State.Regated.counter {q : Nat} (hq : q ≠ pPWR) (o : Nat) : t.counter q o = s.counter q o :=
  State.counter_eq s t q o (by rw [h.page q hq]) (by rw [h.page q hq]) (by rw [h.page q hq]) (by rw [h.frame])

end

/-! ## Pcores (R389, R411) -/

theorem pageBlk_pPCR {p : Nat} (h : p < 68) : pageBlk (pPCR p) = some (.pcr, p) := by
  have h0 : ¬ 0x800 + p < 16 := by omega
  have h1 : ¬ 0x800 + p < 0x24 := by omega
  have h2 : ¬ (0x100 ≤ 0x800 + p ∧ 0x800 + p < 0x500 ∧ (0x800 + p) % 16 < 8) := by omega
  have h3 : 0x800 ≤ 0x800 + p ∧ 0x800 + p < 0x844 := by omega
  rw [pageBlk, pPCR, if_neg h0, if_neg h1, if_neg h2, if_pos h3, Nat.add_sub_cancel_left]

theorem pPCR_ne_pPWR (p : Nat) : pPCR p ≠ pPWR := by unfold pPCR pPWR; omega

/-- A pcore that is not fenced is to be fenced, and journalled where the cause is of the hardware class (R382, R383). -/
theorem State.pcore_fenceDue (s : State) (p : Nat) (c : Word) (j : Bool) (h : (s.pcore p).state ≠ .fenced) :
    (s.fenceDue p c j).pcore p = { s.pcore p with
      due := true, dueJournal := (s.pcore p).dueJournal || j, cause := if (s.pcore p).due then (s.pcore p).cause else c } := by
  unfold State.fenceDue
  rw [if_neg (by simpa using h), State.pcore_modPcore_same]

theorem exec_pcoreWakeDone (p : Nat) (s : State) : exec (.pcoreWakeDone p) s = execPcoreWakeDone p s := rfl

theorem exec_arraySelfTestDone (p : Nat) (f : Option (Fin 16)) (s : State) :
    exec (.arraySelfTestDone p f) s = execArraySelfTestDone p f s := rfl

theorem pcoreWakeDone_ends_wake (s : State) {p : Nat} (hp : p < 68) (hw : (s.pcore p).waking = true) :
    exec (.pcoreWakeDone p) s = .next (s.modPcore p (fun x => { x with waking := false })) := by
  rw [exec_pcoreWakeDone, execPcoreWakeDone, if_neg (by omega), if_pos hw]

/-- The state in which an array self-test has ended: the pcore is back in the state it was tested from. -/
def State.testEnded (s : State) (p result : Nat) : State :=
  ((s.modHost (fun h => { h with tests := h.tests.filter (fun t => t != (0, p)) })).modPcore p
    (fun x => { x with state := x.before, testResult := result })).count (pPCR p) 0x110 1

theorem State.pcore_testEnded (s : State) (p result : Nat) :
    (s.testEnded p result).pcore p = { s.pcore p with state := (s.pcore p).before, testResult := result } := by
  rw [State.testEnded, State.count_pcore, State.pcore_modPcore_same, State.modHost_pcore]

/-- The state after TEST_FAIL has been counted and reported. -/
def State.testFailed (s : State) (p : Nat) (q : Fin 16) : State :=
  ((s.testEnded p 2).count (pPCR p) 0x118 1).raise (pPCR p) 1 (cause 1 q.val) (word s.epoch.toNat)

theorem State.pcore_state_testFailed (s : State) (p : Nat) (q : Fin 16) :
    ((s.testFailed p q).pcore p).state = (s.pcore p).before := by
  rw [State.testFailed, (State.raises_raise ..).pcore_state, State.count_pcore, State.pcore_testEnded]

theorem State.pcore_testResult_testFailed (s : State) (p : Nat) (q : Fin 16) :
    ((s.testFailed p q).pcore p).testResult = 2 := by
  rw [State.testFailed, (State.raises_raise ..).pcore_testResult, State.count_pcore, State.pcore_testEnded]

section
variable (s : State) {p : Nat} (hp : p < 68) (hs : (s.pcore p).state = .testing) (hk : (s.pcore p).testKind = 0)
  (hw : (s.pcore p).waking = false)
include hp hs hk hw

theorem arraySelfTestDone_passed : exec (.arraySelfTestDone p none) s = .next (s.testEnded p 1).regate := by
  rw [exec_arraySelfTestDone, execArraySelfTestDone, if_neg (by omega)]
  simp only [hs, hk, hw]
  rfl

theorem arraySelfTestDone_failed (q : Fin 16) : ∃ code,
    exec (.arraySelfTestDone p (some q)) s = .next ((s.testFailed p q).fenceDue p code true).regate := by
  rw [exec_arraySelfTestDone, execArraySelfTestDone, if_neg (by omega)]
  simp only [hs, hk, hw]
  exact ⟨_, rfl⟩

end

/-! ## Units that the part does not have (R11, R12) -/

theorem pcoreCommands_noSuchUnit (s : State) {k : Nat} (hk : 68 ≤ k) (b : Fin 48) (xs : List (Fin 512)) (f : Option (Fin 16)) :
    ∀ c ∈ [Instr.spmBistStart k b, .spmBistDone k b xs, .arraySelfTestDone k f, .pcoreWakeDone k],
      exec c s = .fault .noSuchUnit := by
  intro c hc
  simp only [List.mem_cons, List.not_mem_nil, or_false] at hc
  obtain rfl | rfl | rfl | rfl := hc <;> exact if_pos hk

theorem stackCommands_noSuchUnit (s : State) {k : Nat} (hk : 20 ≤ k) (ch : Fin 32) (m : Byte) (v : BitVec 16) (r : Bool) :
    ∀ c ∈ [Instr.hbmRefreshWindow k ch m, .channelRetrain k ch r, .softRepair k r, .stackHot k v],
      exec c s = .fault .noSuchUnit := by
  intro c hc
  simp only [List.mem_cons, List.not_mem_nil, or_false] at hc
  obtain rfl | rfl | rfl | rfl := hc <;> exact if_pos hk

theorem same_or_opposite_of_not_adjacentDies : ∀ d e : Fin 4, adjacentDies d e = false → d = e ∨ e.val = (d.val + 2) % 4 := by
  decide

theorem routeFail_noSuchUnit (s : State) {d e : Fin 4} (h : adjacentDies d e = false) :
    exec (.routeFail d e) s = .fault .noSuchUnit :=
  if_pos (same_or_opposite_of_not_adjacentDies d e h)

/-- Settles O19: the wake ends by one write of the pcore; both ends of an array test are a state whose fields the laws of
reporting, fencing and gating keep; units past R11 and R12 stop at the command's first test (log entry 18). -/
theorem pcoreEvents : Obligations.PcoreEvents := by
  refine ⟨fun s p hp => ⟨fun hw => ?_, fun hs hk hw => ⟨?_, fun q hb => ?_⟩⟩, fun s k b ch xs f m v r d e => ⟨?_, ?_, ?_⟩⟩
  · exact ⟨_, pcoreWakeDone_ends_wake s hp hw, rfl, fun q => State.pcore_modPcore ..⟩
  · have g := (s.testEnded p 1).regated_regate
    refine ⟨_, arraySelfTestDone_passed s hp hs hk hw, ?_, ?_, g.tests, ?_⟩
    · rw [g.pcore_state, State.pcore_testEnded]
    · rw [g.pcore_testResult, State.pcore_testEnded]
    · rw [g.counter (pPCR_ne_pPWR p), State.testEnded, State.counter_count, if_pos ⟨rfl, rfl⟩]; rfl
  · obtain ⟨code, hexec⟩ := arraySelfTestDone_failed s hp hs hk hw q
    have g := ((s.testFailed p q).fenceDue p code true).regated_regate
    have hstate := s.pcore_state_testFailed p q
    have hdue := (s.testFailed p q).pcore_fenceDue p code true (by rw [hstate]; exact hb)
    refine ⟨_, hexec, ?_, ?_, ?_, ?_, ?_⟩
    · rw [g.pcore_state, hdue, hstate]
    · rw [g.pcore_testResult, hdue]; exact s.pcore_testResult_testFailed p q
    · rw [g.pcore_due, hdue]
    · rw [g.pcore_dueJournal, hdue]; exact Bool.or_true _
    · rw [State.reported, g.page _ (pPCR_ne_pPWR p), State.page_fenceDue]
      exact State.raised _ _ _ _ _ (by rw [pageBlk_pPCR hp]; rfl) (by decide)
  · exact fun hk => pcoreCommands_noSuchUnit s hk b xs f
  · exact fun hk => stackCommands_noSuchUnit s hk ch m v r
  · exact routeFail_noSuchUnit s

end Sys2Proof.Machine
end

section
/-!
Proofs of chapter 00: what each kind of access to BAR0 does to the page it names (R7, R9, R456-R461).
-/
namespace Sys2Proof

/-- A read of a map of which the entries at some keys have been dropped. -/
theorem SMap.get_filter_key {α : Type} (m : SMap α) (d : Nat → α) (f : Nat → Bool) (k : Nat) :
    SMap.get (m.filter (fun e => f e.1)) d k = if f k then m.get d k else d k := by
  induction m with
  | nil => simp [SMap.get]
  | cons e m ih =>
    obtain ⟨k', v⟩ := e
    by_cases hk : k = k'
    · subst hk
      by_cases hf : f k = true
      · simp [SMap.get, hf]
      · simpa [List.filter_cons, hf] using ih
    · cases hf : f k' <;> simpa [SMap.get, List.filter_cons, hf, hk] using ih

namespace Machine

/-! ## Reads of counters (R459) -/

/-- The counters of a page as they read, each what is counted and what is counted in free amounts. -/
theorem Page.get_live (x : Page) (o : Nat) :
    x.live.get (fun _ => 0) o = x.counters.get (fun _ => 0) o + x.unstated o := by
  unfold Page.live Page.unstated
  induction x.work with
  | nil => simp
  | cons e work ih =>
    rw [List.foldr_cons, SMap.get_set]
    by_cases h : o = e.1
    · subst h
      rw [if_pos rfl, ih, List.filter_cons_of_pos (by simp), List.foldr_cons, BitVec.add_assoc]
    · rw [if_neg h, ih, List.filter_cons_of_neg (by simpa using Ne.symm h)]

theorem unreported_self (p o : Nat) (t : Word64) : unreported p o t t = 0 := by simp [unreported]

theorem unreported_eq_zero {p i : Nat} {b : Blk} (hp : pageBlk p = some (b, i)) {o : Nat} (ho : o ∉ b.unreported) (t u : Word64) :
    unreported p o t u = 0 := by simp [unreported, hp, ho]

/-! ## Page control (R459) -/

theorem State.onPage_eq {s : State} {p : Nat} (ha : s.canAccess p = true) (ht : s.pageThere p = true) (k : State → State) :
    s.onPage p k = k s := by simp [State.onPage, ha, ht]

theorem State.counter_snap (s : State) (p o : Nat) : (s.snap p).counter p o = s.counter p o := by
  apply State.counter_eq <;> simp [State.snap]

/-- After a snapshot a counter reads as it stood. -/
theorem State.readCounter_snap (s : State) {p : Nat} (hp : p ≠ pTIM) (o : Nat) : (s.snap p).readCounter p o = s.counter p o := by
  simp only [State.readCounter, State.snap, State.counter, State.page_modPage_same, if_neg hp, if_true, Page.get_live]

/-- A counter that a clear leaves running, of a page that is cleared, is counted by commands alone (log entry 20). -/
theorem Blk.not_mem_unreported {b : Blk} {o : Nat} (hb : b.perCore = false) (ho : b.fromReset o = false) : o ∉ b.unreported := by
  cases b
  case lfc => exact List.not_mem_nil
  case trv =>
    have h : o < 0x120 := by simpa [Blk.fromReset, Blk.perCore] using ho
    simp only [Blk.unreported, List.mem_cons, List.not_mem_nil, or_false]
    omega
  all_goals simp [Blk.fromReset, Blk.perCore] at hb ho

theorem Blk.perCore_of_fromReset {b : Blk} {o : Nat} (h : b.fromReset o = true) : b.perCore = false := by
  simp only [Blk.fromReset, Bool.and_eq_true, Bool.not_eq_true'] at h
  exact h.1.1

/-- A page after a clear at a time. -/
def Page.cleared (x : Page) (b : Blk) (now : Word64) : Page :=
  { x with counters := x.counters.filter (fun e => !b.fromReset e.1), work := x.work.filter (fun e => !b.fromReset e.1),
           since := if b.perCore then x.since else now }

theorem State.clearPage_eq {s : State} {p i : Nat} {b : Blk} (hp : pageBlk p = some (b, i)) :
    s.clearPage p = s.modPage p (fun x => x.cleared b s.time) := by
  rw [State.clearPage, hp]; rfl

theorem Page.unstated_cleared (x : Page) (b : Blk) (now : Word64) (o : Nat) :
    (x.cleared b now).unstated o = if b.fromReset o then 0 else x.unstated o := by
  simp only [Page.unstated, Page.cleared, List.filter_filter]
  split
  · next h =>
    have none_left : x.work.filter (fun e => e.1 == o && !b.fromReset e.1) = [] := by
      rw [List.filter_eq_nil_iff]; rintro e - he
      simp only [Bool.and_eq_true, beq_iff_eq] at he
      obtain ⟨rfl, hf⟩ := he
      simp [h] at hf
    rw [none_left]; rfl
  · next h =>
    have all_left : ∀ e ∈ x.work, (e.1 == o && !b.fromReset e.1) = (e.1 == o) := by
      intro e _
      by_cases he : e.1 = o
      · simp [he, h]
      · simp [he]
    rw [List.filter_congr all_left]

/-- A clear zeroes the counters that run from reset and no other. -/
theorem State.counter_clearPage (s : State) {p i : Nat} {b : Blk} (hp : pageBlk p = some (b, i)) (o : Nat) :
    (s.clearPage p).counter p o = if b.fromReset o then 0 else s.counter p o := by
  have hcounters : ((s.page p).cleared b s.time).counters.get (fun _ => 0) o =
      if b.fromReset o then 0 else (s.page p).counters.get (fun _ => 0) o :=
    (SMap.get_filter_key _ _ (fun k => !b.fromReset k) o).trans (by cases b.fromReset o <;> rfl)
  rw [State.clearPage_eq hp]
  simp only [State.counter, State.page_modPage_same, State.modPage_time, Page.unstated_cleared, hcounters]
  by_cases h : b.fromReset o = true
  · simp [h, Page.cleared, Blk.perCore_of_fromReset h, unreported_self]
  · by_cases hb : b.perCore = true
    · simp [h, Page.cleared, hb]
    · have ho := Blk.not_mem_unreported (Bool.eq_false_iff.2 hb) (Bool.eq_false_iff.2 h)
      simp [h, unreported_eq_zero hp ho]

theorem exec_pageCtlSnap {s : State} {p : Nat} (ha : s.canAccess p = true) (ht : s.pageThere p = true) :
    exec (.pageCtlSnap p) s = .next (s.snap p) := congrArg _ (State.onPage_eq ha ht _)

theorem exec_pageCtlClear {s : State} {p : Nat} (ha : s.canAccess p = true) (ht : s.pageThere p = true) :
    exec (.pageCtlClear p) s = .next (s.clearPage p) := congrArg _ (State.onPage_eq ha ht _)

theorem exec_pageCtlLive {s : State} {p : Nat} (ha : s.canAccess p = true) (ht : s.pageThere p = true) :
    exec (.pageCtlLive p) s = .next (s.live p) := congrArg _ (State.onPage_eq ha ht _)

theorem exec_pageErrWrite {s : State} {p : Nat} (v : Word) (ha : s.canAccess p = true) (ht : s.pageThere p = true) :
    exec (.pageErrWrite p v) s = .next (s.clearErr p v) := congrArg _ (State.onPage_eq ha ht _)

theorem exec_devModeWrite {s : State} (v : Word) (ha : s.canAccess pDEV = true) :
    exec (.devModeWrite v) s = .next (s.writeMode v) := congrArg _ (State.onPage_eq ha rfl _)

/-! ## Reads (R7, R9) -/

/-- The state after a read of BAR0 has returned a register. -/
def State.readDone (s : State) (p off : Nat) : State :=
  s.modHost (fun h => { h with readData := (s.readReg p off).setWidth 512 })

/-- The state after a read of the low word of a 64-bit pair, with the high word latched (R9). -/
def State.latched (s : State) (p off : Nat) (high : Word) : State :=
  (s.readDone p off).modPage p (fun x => { x with latch := x.latch.set wordZero off high })

theorem State.reg_latched (s : State) (p off : Nat) (high : Word) (q o : Nat) : (s.latched p off high).reg q o = s.reg q o := by
  simp only [State.latched, State.reg, State.page_modPage]
  split
  · subst_vars; rfl
  · rfl

theorem State.counter_latched (s : State) (p off : Nat) (high : Word) (q o : Nat) :
    (s.latched p off high).counter q o = s.counter q o := by
  have hpage : ∃ l, (s.latched p off high).page q = { s.page q with latch := l } := by
    simp only [State.latched, State.page_modPage]
    split
    · next h => subst h; exact ⟨_, rfl⟩
    · exact ⟨_, rfl⟩
  obtain ⟨l, hl⟩ := hpage
  exact State.counter_eq s _ q o (by rw [hl]) (by rw [hl]) (by rw [hl]) rfl

theorem State.logRead_eq (s : State) (p off : Nat) : ∃ xs, s.logRead p off = { s with faultUnread := xs } := by
  unfold State.logRead
  split
  · exact ⟨_, rfl⟩
  · exact ⟨_, rfl⟩

section
variable {s : State} {p off : Nat} (ha : s.canAccess p = true) (h4 : off % 4 = 0) (ho : off < 4096) (hp : p < 16384)
include ha h4 ho hp

theorem counterLowRead_performed :
    (!s.canAccess p || off % 4 != 0 || decide (4096 ≤ off) || decide (bar0Bytes / 4096 ≤ p)) = false := by
  have hbytes : ¬ bar0Bytes / 4096 ≤ p := by rw [bar0Bytes]; omega
  simp [ha, h4, ho, hbytes]

/-- A read of the low word of a pair. -/
theorem exec_counterLowRead_pair {b : Blk} {i : Nat} (hb : pageBlk p = some (b, i)) (ht : s.pageThere p = true)
    (hpair : b.isPair off = true) : exec (.counterLowRead p off) s = .next (s.latched p off
      (if b.isCounter off then ((s.readCounter p off) >>> 32).setWidth 32 else s.readBlk b i (off + 4))) := by
  change execCounterLowRead p off s = _
  simp [execCounterLowRead, counterLowRead_performed ha h4 ho hp, hb, ht, hpair, State.latched, State.readDone]

/-- A read of any other register. -/
theorem exec_counterLowRead_single (h : ∀ b i, pageBlk p = some (b, i) → s.pageThere p = true → b.isPair off = false) :
    ∃ xs, exec (.counterLowRead p off) s = .next { s.readDone p off with faultUnread := xs } := by
  obtain ⟨xs, hxs⟩ := (s.readDone p off).logRead_eq p off
  change ∃ xs, execCounterLowRead p off s = _
  cases hb : pageBlk p with
  | none => exact ⟨s.faultUnread, by simp [execCounterLowRead, counterLowRead_performed ha h4 ho hp, hb]; rfl⟩
  | some x =>
    have hpair : (s.pageThere p && x.1.isPair off) = false := by
      cases ht : s.pageThere p
      · rfl
      · exact h x.1 x.2 hb ht
    refine ⟨xs, ?_⟩
    rw [← hxs]
    simp [execCounterLowRead, counterLowRead_performed ha h4 ho hp, hb, hpair, State.readDone]

theorem counterLowRead_returns : ∃ t, exec (.counterLowRead p off) s = .next t ∧
    t.host.readData = (s.readReg p off).setWidth 512 ∧ (∀ q o, t.reg q o = s.reg q o) ∧ (∀ q o, t.counter q o = s.counter q o) ∧
    ∀ b i, s.pageThere p = true → pageBlk p = some (b, i) → b.isPair off = true → b.isCounter off = true →
      (t.page p).latch.get wordZero off = ((s.readCounter p off) >>> 32).setWidth 32 := by
  by_cases hpair : ∃ b i, pageBlk p = some (b, i) ∧ s.pageThere p = true ∧ b.isPair off = true
  · obtain ⟨b, i, hb, ht, hbp⟩ := hpair
    refine ⟨_, exec_counterLowRead_pair ha h4 ho hp hb ht hbp, rfl, s.reg_latched p off _, s.counter_latched p off _, ?_⟩
    intro b' i' _ hb' _ hc
    obtain ⟨rfl, rfl⟩ := Prod.mk.inj (Option.some.inj (hb.symm.trans hb'))
    simp [State.latched, hc]
  · obtain ⟨xs, hexec⟩ := exec_counterLowRead_single ha h4 ho hp (s := s) (p := p) (off := off)
      (fun b i hb ht => Bool.eq_false_iff.2 fun hbp => hpair ⟨b, i, hb, ht, hbp⟩)
    exact ⟨_, hexec, rfl, fun _ _ => rfl, fun _ _ => rfl, fun b i ht hb hbp _ => absurd ⟨b, i, hb, ht, hbp⟩ hpair⟩

end

/-! ## Writes (R7, R461) -/

/-- A write whose register sets nothing off. -/
theorem State.afterWrite_eq (s : State) {b : Blk} {off : Nat} (h : b ∉ [.pwr, .lft, .trv, .spm, .lfc] ∨ off ≠ 0x40) (i : Nat)
    (old : Word) : s.afterWrite b i off old = s := by
  cases b
  case pwr | lft | trv | spm => exact if_neg (by simpa using h)
  all_goals rfl

theorem State.writeReg_eq_writeBlk (s : State) {p off i : Nat} {b : Blk} (v : Word) (hb : pageBlk p = some (b, i))
    (ht : s.pageThere p = true) (ho : 0x20 ≤ off) (hdev : ¬ (b = .dev ∧ off = 0x44)) (hlfc : ¬ (b = .lfc ∧ off = 0x40)) :
    s.writeReg p off v = s.writeBlk b i p off v := by
  have hthere : (b.perCore && !s.isPresented i) = false := by
    have h : (!b.perCore || s.isPresented i) = true := by simpa [State.pageThere, hb] using ht
    cases hc : b.perCore <;> simp_all
  unfold State.writeReg
  rw [hb]
  simp only [hthere]
  rw [if_neg Bool.false_ne_true]
  split
  case h_5 => rw [if_neg hdev, if_neg hlfc]
  all_goals omega

theorem exec_registerWrite {s : State} {p off : Nat} (v : Word) (ha : s.canAccess p = true) (hp : p < 16384) (h4 : off % 4 = 0)
    (ho : off < 4096) : exec (.registerWrite (4096 * p + off) v) s = .next (s.writeReg p off v) := by
  have hpage : (4096 * p + off) / 4096 = p := by omega
  have hoff : (4096 * p + off) % 4096 = off := by omega
  have hreach : (s.canAccess ((4096 * p + off) / 4096) && (4096 * p + off) % 4 == 0 && decide (4096 * p + off < bar0Bytes)) = true := by
    have halign : (4096 * p + off) % 4 = 0 := by omega
    have hbytes : 4096 * p + off < bar0Bytes := by rw [bar0Bytes]; omega
    simp [ha, hpage, halign, hbytes]
  change execRegisterWrite _ _ s = _
  rw [execRegisterWrite, if_pos hreach, hpage, hoff]

/-! ## Accesses of the wrong size, and the mode (R7, R320, R465) -/

/-- The state in which an access of the wrong size is reported: a read has returned 0. -/
def State.refusedAccess (s : State) (isWrite : Bool) : State :=
  (if isWrite then s else s.modHost (fun h => { h with readData := 0 })).count pHOST 0x130 1

theorem exec_badAccess {s : State} {a : Nat} (hr : s.readyPin = true) (ha : a < 0x4000000) (w : Bool) :
    exec (.badAccess a w) s =
      .next ((s.refusedAccess w).raise pHOST 0 (cause 0 (boolNat w * 2 ^ 24)) (word a)) := by
  change execBadAccess a w s = _
  rw [execBadAccess, if_pos (by simp [hr, bar0Bytes, ha])]
  rfl

theorem State.counter_refusedAccess (s : State) (w : Bool) :
    (s.refusedAccess w).counter pHOST 0x130 = s.counter pHOST 0x130 + 1 := by
  rw [State.refusedAccess, State.counter_count, if_pos ⟨rfl, rfl⟩]
  cases w <;> rfl

theorem State.core_refusedAccess (s : State) (w : Bool) (k : Nat) : (s.refusedAccess w).core k = s.core k := by cases w <;> rfl

theorem badAccess_reported {s : State} {a : Nat} (hr : s.readyPin = true) (ha : a < 0x4000000) (w : Bool) :
    ∃ t, exec (.badAccess a w) s = .next t ∧ t.reported pHOST 0 = true ∧
      t.counter pHOST 0x130 = s.counter pHOST 0x130 + 1 ∧ (w = false → t.host.readData = 0) ∧ ∀ k, t.core k = s.core k := by
  have raises := (s.refusedAccess w).raises_raise pHOST 0 (cause 0 (boolNat w * 2 ^ 24)) (word a)
  refine ⟨_, exec_badAccess hr ha w, State.raised _ _ _ _ _ rfl (by decide), ?_, ?_, ?_⟩
  · rw [State.counter_raise_same _ _ _ _ _ rfl (by decide) (by decide), State.counter_refusedAccess]
  · rintro rfl; exact raises.readData
  · intro k; rw [raises.core, State.core_refusedAccess]

theorem State.reg_writeMode (s : State) (v : Word) : (s.writeMode v).reg pDEV 0x44 = v &&& 1 := by
  have held : (s.setReg pDEV 0x44 (v &&& 1)).reg pDEV 0x44 = v &&& 1 := by rw [State.reg_setReg, if_pos ⟨rfl, rfl⟩]
  unfold State.writeMode
  simp only []
  split
  · rw [State.reg_raise_same _ _ _ _ _ rfl (by decide) (by decide), held]
  · exact held

theorem State.writeMode_idle {s : State} (v : Word) (h : s.anyJob = false) : s.writeMode v = s.setReg pDEV 0x44 (v &&& 1) :=
  if_neg (Bool.eq_false_iff.1 h)

theorem State.reported_writeMode {s : State} (v : Word) (h : s.anyJob = true) : (s.writeMode v).reported pDEV 1 = true := by
  have hraise : s.writeMode v = (s.setReg pDEV 0x44 (v &&& 1)).raise pDEV 1 (cause 1 0) (v &&& 1) := if_pos h
  rw [hraise]
  exact State.raised _ _ _ _ _ rfl (by decide)

/-- Settles O49: each access is one lemma about the page it names; a report keeps the registers and counters of its own
page. -/
theorem registerAccess : Obligations.RegisterAccess := by
  refine fun s p off v => ⟨counterLowRead_returns, fun ha ht => ⟨?_, fun b i hb => ?_, ?_, ?_⟩,
    fun w hr ho => badAccess_reported hr ho w, fun b i ha hp h4 ho20 ho hb ht hi hafter hdev => ?_, fun ha => ?_⟩
  · exact ⟨_, exec_pageCtlSnap ha ht, by simp [State.snap], s.counter_snap p, fun o hp => s.readCounter_snap hp o,
      fun _ h => s.page_modPage_other _ h⟩
  · refine ⟨_, exec_pageCtlClear ha ht, s.counter_clearPage hb, ?_⟩
    rw [State.clearPage_eq hb]
    exact fun _ h => s.page_modPage_other _ h
  · exact ⟨_, exec_pageCtlLive ha ht, s.page_modPage_same p _, fun _ h => s.page_modPage_other _ h⟩
  · exact ⟨_, exec_pageErrWrite v ha ht, s.page_modPage_same p _, fun _ h => s.page_modPage_other _ h⟩
  · have hlfc : ¬ (b = .lfc ∧ off = 0x40) := by rintro ⟨rfl, rfl⟩; simp at hafter
    have hdev' : ¬ (b = .dev ∧ off = 0x44) := by rintro ⟨rfl, rfl⟩; simp at hdev
    rw [exec_registerWrite v ha hp h4 ho, s.writeReg_eq_writeBlk v hb ht ho20 hdev' hlfc]
    simp [State.writeBlk, hi, State.afterWrite_eq _ hafter]
  · exact ⟨_, exec_devModeWrite v ha, s.reg_writeMode v, s.writeMode_idle v, s.reported_writeMode v⟩

end Machine
end Sys2Proof
end

section
/-!
Proofs of chapter 01: what a job's fault and a fence leave of the placement (R14-R16, R382-R385), the scratchpad of a moved
core (R148), and from these CORE_MOVE, SCHEDULE_EFFECT and ROUTE_FAIL.
-/
namespace Sys2Proof.Machine

/-! ## Reporting (R380, R381) -/

/-- Reporting touches the pages, the rings and what leaves the part, and marks fences. -/
theorem State.Raises.frame {s t : State} (h : s.Raises t) : t = { s with
    pages := t.pages, outbox := t.outbox, faultUnread := t.faultUnread, host := t.host, pcores := t.pcores } := by
  obtain ⟨u, hu, ht, -⟩ := h
  rw [ht, hu]

theorem State.Raises.refl (s : State) : s.Raises s := (State.Notes.refl s).raises

theorem State.Raises.trans {s t u : State} (h : s.Raises t) (g : t.Raises u) : s.Raises u := by
  obtain ⟨a, ha, ht, hp⟩ := h
  obtain ⟨b, hb, hu, gp⟩ := g
  refine ⟨{ b with pcores := s.pcores }, ?_, hu, fun q => by rw [gp, hp]⟩
  unfold State.Notes at *
  rw [hb, ht, ha]

theorem State.Notes.pagePcore {s t : State} (h : s.Notes t) (p : Nat) : t.pagePcore p = s.pagePcore p := by
  unfold State.Notes at h
  rw [h]; rfl

/-- Beside what a notice touches, reporting an event can only mark the fence of the pcore that its page concerns. -/
theorem State.raise_notes_or_fences (s : State) (p b : Nat) (i j : Word) :
    ∃ t, s.Notes t ∧ (s.raise p b i j = t ∨ ∃ q c x, s.pagePcore p = some q ∧ s.raise p b i j = t.fenceDue q c x) := by
  cases hp : pageBlk p with
  | none => exact ⟨s, .refl s, .inl (by rw [State.raise, hp])⟩
  | some x =>
    have logged (f : Page → Page) (c : Bool) (code : Word) (ctx id : Nat) :
        s.Notes ((if c then (s.modPage p f).postPageError p b else s.modPage p f).faultLog code ctx id) := by
      refine State.Notes.trans ?_ (State.notes_faultLog ..)
      split
      · exact (s.notes_modPage ..).trans (State.notes_postPageError ..)
      · exact s.notes_modPage ..
    have counted (f : Page → Page) (c : Bool) (code : Word) (ctx id : Nat) (m : Option Nat) :
        s.Notes (match m with
          | some off => ((if c then (s.modPage p f).postPageError p b else s.modPage p f).faultLog code ctx id).count pFLT off 1
          | none => (if c then (s.modPage p f).postPageError p b else s.modPage p f).faultLog code ctx id) := by
      cases m with
      | none => exact logged ..
      | some off => exact (logged ..).trans (State.notes_count ..)
    unfold State.raise
    rw [hp]
    simp only []
    split
    · split
      · next hq => exact ⟨_, counted .., .inr ⟨_, _, _, ((counted ..).pagePcore p).symm.trans hq, rfl⟩⟩
      · exact ⟨_, counted .., .inl rfl⟩
    · exact ⟨_, counted .., .inl rfl⟩

/-- An event whose page concerns no pcore, or a fenced one, leaves every pcore. -/
theorem State.pcore_raise (s : State) (p b : Nat) (i j : Word) (h : ∀ q, s.pagePcore p = some q → (s.pcore q).state = .fenced)
    (q : Nat) : (s.raise p b i j).pcore q = s.pcore q := by
  obtain ⟨t, ht, hr | ⟨q', c, x, hq, hr⟩⟩ := s.raise_notes_or_fences p b i j
  · rw [hr, ht.pcore]
  · have fenced : ((t.pcore q').state == .fenced) = true := by rw [ht.pcore, h q' hq]; rfl
    rw [hr, State.fenceDue, if_pos fenced, ht.pcore]

/-! ## What reports and faults of jobs keep -/

/-- From `s` to `t` the placement, the schedule and the slices stand, no pcore changes its state, no PAGE_ERR bit is cleared,
and every core keeps its integer registers and, but for circular slots, its scratchpad. -/
structure State.PlacementKept (s t : State) : Prop where
  frame : t = { s with pages := t.pages, cores := t.cores, pcores := t.pcores, host := t.host, trvA := t.trvA,
                       trvB := t.trvB, outbox := t.outbox, faultUnread := t.faultUnread }
  errKept : s.ErrKept t
  pcore_state : ∀ q, (t.pcore q).state = (s.pcore q).state
  spm : ∀ m, (t.core m).spm = { (s.core m).spm with circs := (t.core m).spm.circs }
  regs : ∀ m, (t.core m).seq.g = (s.core m).seq.g

theorem State.PlacementKept.refl (s : State) : s.PlacementKept s := ⟨rfl, .refl s, fun _ => rfl, fun _ => rfl, fun _ => rfl⟩

theorem State.PlacementKept.trans {s t u : State} (h : s.PlacementKept t) (g : t.PlacementKept u) : s.PlacementKept u where
  frame := by rw [g.frame, h.frame]
  errKept := h.errKept.trans g.errKept
  pcore_state q := (g.pcore_state q).trans (h.pcore_state q)
  spm m := by rw [g.spm, h.spm]
  regs m := (g.regs m).trans (h.regs m)

theorem State.PlacementKept.foldl {α : Type} {f : State → α → State} (hf : ∀ (s : State) a, s.PlacementKept (f s a))
    (l : List α) : ∀ s : State, s.PlacementKept (l.foldl f s) := by
  induction l with
  | nil => exact .refl
  | cons a l ih => exact fun s => (hf s a).trans (ih _)

theorem State.Raises.placementKept {s t : State} (h : s.Raises t) (he : s.ErrKept t) : s.PlacementKept t where
  frame := by rw [h.frame]
  errKept := he
  pcore_state := h.pcore_state
  spm m := by rw [h.core]
  regs m := by rw [h.core]

theorem State.kept_raise (s : State) (p b : Nat) (i j : Word) : s.PlacementKept (s.raise p b i j) :=
  (s.raises_raise p b i j).placementKept (s.errKept_raise p b i j)

theorem State.kept_count (s : State) (p off k : Nat) : s.PlacementKept (s.count p off k) :=
  (s.notes_count p off k).raises.placementKept (s.errKept_count p off k)

theorem State.kept_emit (s : State) (o : Out) : s.PlacementKept (s.emit o) :=
  (s.notes_emit o).raises.placementKept (s.errKept_emit o)

theorem State.kept_modHost (s : State) (f : HostSide → HostSide) : s.PlacementKept (s.modHost f) :=
  ⟨rfl, s.errKept_modHost f, fun _ => rfl, fun _ => rfl, fun _ => rfl⟩

theorem State.kept_modTrv (s : State) (p : TPort) (f : Traverse → Traverse) : s.PlacementKept (s.modTrv p f) := by
  cases p
  · exact ⟨rfl, State.errKept_of_pages rfl, fun _ => rfl, fun _ => rfl, fun _ => rfl⟩
  · exact ⟨rfl, State.errKept_of_pages rfl, fun _ => rfl, fun _ => rfl, fun _ => rfl⟩

/-- An update of a core that keeps its registers and, but for circular slots, its scratchpad. -/
theorem State.kept_modCore (s : State) (n : Nat) (f : Core → Core)
    (hspm : ∀ k, (f k).spm = { k.spm with circs := (f k).spm.circs }) (hregs : ∀ k, (f k).seq.g = k.seq.g) :
    s.PlacementKept (s.modCore n f) where
  frame := rfl
  errKept := State.errKept_of_pages rfl
  pcore_state _ := rfl
  spm m := by
    rw [State.core_modCore]
    split
    · next h => rw [h]; exact hspm _
    · rfl
  regs m := by
    rw [State.core_modCore]
    split
    · next h => rw [h]; exact hregs _
    · rfl

/-- The same update of each core of a list. -/
theorem State.kept_modCores {α : Type} (at_ : α → Nat) (f : State → α → Core → Core)
    (hspm : ∀ s a k, (f s a k).spm = { k.spm with circs := (f s a k).spm.circs }) (hregs : ∀ s a k, (f s a k).seq.g = k.seq.g)
    (l : List α) (s : State) : s.PlacementKept (l.foldl (fun s a => s.modCore (at_ a) (f s a)) s) :=
  State.PlacementKept.foldl (fun s a => s.kept_modCore (at_ a) (f s a) (hspm s a) (hregs s a)) l s

theorem State.kept_modJob (s : State) (t : Nat) (f : Job → Job) : s.PlacementKept (s.modJob t f) := by
  unfold State.modJob
  split
  · exact s.kept_modHost _
  · exact .refl s

/-- A fault of the job on a task at this station (R379). -/
theorem State.kept_faultLocal (s : State) (t : Nat) (code : Word) : s.PlacementKept (s.faultLocal t code) := by
  unfold State.faultLocal
  split
  · exact .refl s
  · split
    · exact .refl s
    · have stops (ns : List Nat) (s : State) : s.PlacementKept (ns.foldl (fun s n => s.modCore n Core.stopIssue) s) :=
        State.kept_modCores id (fun _ _ => Core.stopIssue) (fun _ _ _ => rfl) (fun _ _ _ => rfl) ns s
      refine State.PlacementKept.trans ?_ (stops _ _)
      split
      · exact .refl s
      · exact s.kept_modJob ..

theorem State.kept_sendTrv (s : State) (p : TPort) (h : TrvHdr) (data : List Byte) : s.PlacementKept (s.sendTrv p h data) := by
  unfold State.sendTrv
  split
  · exact s.kept_modTrv ..
  · unfold State.emitTrv
    simp only []
    split
    · exact (s.kept_emit _).trans (State.kept_count ..)
    · exact s.kept_emit _

theorem State.kept_discardTrv (s : State) (p : TPort) (peers : List (BitVec 15)) : s.PlacementKept (s.discardTrv p peers) := by
  have parked (os : List TrvOpen) (s : State) : s.PlacementKept (os.foldl (fun s o =>
      s.modCore o.core (fun k => { k with spm := k.spm.discardSlots 1 (s.parkSeqs p o) })) s) :=
    State.kept_modCores TrvOpen.core (fun s o k => { k with spm := k.spm.discardSlots 1 (s.parkSeqs p o) })
      (fun _ _ _ => rfl) (fun _ _ _ => rfl) os s
  unfold State.discardTrv
  simp only []
  exact (parked _ s).trans (State.kept_modTrv _ p _)

/-- The abort of a faulting traverse job (R286). -/
theorem State.kept_abortTraverse (s : State) (sends : Bool) (told : List (BitVec 15)) :
    s.PlacementKept (s.abortTraverse sends told) := by
  have dropped (ns : List Nat) (s : State) : s.PlacementKept (ns.foldl (fun s n =>
      s.modCore n (fun k => { k with inflight := k.inflight.filter (fun d => d.req != .traverse) })) s) :=
    State.kept_modCores id (fun _ _ k => { k with inflight := k.inflight.filter (fun d => d.req != .traverse) })
      (fun _ _ _ => rfl) (fun _ _ _ => rfl) ns s
  have aborted (s : State) (p : TPort) (epoch : BitVec 16) (dsts : List (BitVec 15)) :
      s.PlacementKept (s.sendAborts p epoch dsts) := State.PlacementKept.foldl (fun s _ => s.kept_sendTrv p _ _) dsts s
  unfold State.abortTraverse
  refine State.PlacementKept.trans ?_ (dropped _ _)
  refine State.PlacementKept.foldl (fun s p => ?_) _ s
  simp only []
  refine State.PlacementKept.trans ?_ (State.kept_discardTrv _ p _)
  split
  · exact (aborted s p _ _).trans (State.kept_modTrv _ p _)
  · exact .refl s

/-- The fault of a job, at this station and at its peers (R379). -/
theorem State.kept_faultTask (s : State) (t : Nat) (code : Word) : s.PlacementKept (s.faultTask t code) := by
  have told (s : State) (j : Job) : s.PlacementKept (s.tellPeers j true true) := by
    unfold State.tellPeers
    have noticed : s.PlacementKept
        (if true && j.lift && s.lift.isFormed then s.sendMsg .up (.notice true s.liftPos 0) else s) := by
      split
      · exact s.kept_emit _
      · exact .refl s
    simp only []
    split
    · exact noticed.trans (State.kept_abortTraverse ..)
    · exact noticed
  unfold State.faultTask
  split
  · split
    · exact s.kept_faultLocal ..
    · exact (s.kept_faultLocal ..).trans (told ..)
  · exact .refl s

theorem State.kept_discardReturns (s : State) (n : Nat) : s.PlacementKept (s.discardReturns n) := by
  unfold State.discardReturns
  simp only []
  split
  · exact .refl s
  · exact (s.kept_count ..).trans (State.kept_modCore _ _ _ (fun _ => rfl) (fun _ => rfl))

theorem State.Regated.core {s t : State} (h : s.Regated t) (n : Nat) : t.core n = s.core n := by
  have hcores : t.cores = s.cores := by rw [h.frame]
  rw [State.core, State.core, hcores]

theorem State.errKept_modPcore (s : State) (p : Nat) (f : Pcore → Pcore) : s.ErrKept (s.modPcore p f) :=
  State.errKept_of_pages rfl

theorem State.errKept_regate (s : State) : s.ErrKept s.regate := by
  have step (s : State) (p : Nat) (a b : Bool) (f g : Pcore → Pcore) : s.ErrKept
      (if a then s.modPcore p f else if b then (s.modPcore p g).count pPWR 0x118 1 else s) := by
    split
    · exact s.errKept_modPcore p f
    · split
      · exact (s.errKept_modPcore p g).trans (State.errKept_count ..)
      · exact .refl s
  unfold State.regate
  generalize List.range 68 = ps
  induction ps generalizing s with
  | nil => exact .refl s
  | cons p ps ih => exact (step s p _ _ _ _).trans (ih _)

/-- Gating and waking pcores (R411). -/
theorem State.kept_regate (s : State) : s.PlacementKept s.regate where
  frame := by rw [s.regated_regate.frame]
  errKept := s.errKept_regate
  pcore_state := s.regated_regate.pcore_state
  spm m := by rw [s.regated_regate.core]
  regs m := by rw [s.regated_regate.core]

section
variable {s t : State} (h : s.PlacementKept t)
include h

theorem State.PlacementKept.hostOf (n : Nat) : t.hostOf n = s.hostOf n := by rw [h.frame]; rfl
theorem State.PlacementKept.place : t.place = s.place := by rw [h.frame]
theorem State.PlacementKept.schedule : t.schedule = s.schedule := by rw [h.frame]
theorem State.PlacementKept.epoch : t.epoch = s.epoch := by rw [h.frame]
theorem State.PlacementKept.slices : t.slices = s.slices := by rw [h.frame]

theorem State.PlacementKept.reported {p b : Nat} (hr : s.reported p b = true) : t.reported p b = true :=
  h.errKept.kept p b hr

theorem State.PlacementKept.row (m r : Nat) : (t.core m).spm.row r = (s.core m).spm.row r := by rw [h.spm]; rfl
theorem State.PlacementKept.idleBank (m b : Nat) : (t.core m).spm.idleBank b = (s.core m).spm.idleBank b := by
  rw [h.spm]; rfl

end


/-! ## The scratchpad of a moved core (R143, R148) -/

theorem Spm.row_zeroBank (m : Spm) (b r : Nat) : (m.zeroBank b).row r = if r / 512 = b then 0 else m.row r := by
  have kept := SMap.get_filter_key m.rows (fun _ => (0 : Row)) (fun k => k / 512 != b) r
  by_cases h : r / 512 = b
  · simpa [h, Spm.row, Spm.zeroBank] using kept
  · simpa [h, Spm.row, Spm.zeroBank] using kept

/-- Whether a bank is idle depends on its owner and on the regions alone. -/
theorem Spm.idleBank_setBank (m : Spm) (b : Nat) (x : Bank) (h : x.owner = (m.bank b).owner) (c : Nat) :
    (m.setBank b x).idleBank c = m.idleBank c := by
  have owner : ((m.setBank b x).bank c).owner = (m.bank c).owner := by
    simp only [Spm.bank, Spm.setBank, SMap.get_set]
    split
    · next hc => rw [hc]; exact h
    · rfl
  rw [Spm.idleBank, owner]
  rfl

/-- `t` is `m` but for rows of idle banks, which may read as zeros, and for what does not tell whether a bank is idle. -/
structure Spm.ZeroesIdle (m t : Spm) : Prop where
  idle : ∀ b, t.idleBank b = m.idleBank b
  row : ∀ r, t.row r = m.row r ∨ m.idleBank (r / 512) = true ∧ t.row r = 0

theorem Spm.ZeroesIdle.refl (m : Spm) : m.ZeroesIdle m := ⟨fun _ => rfl, fun _ => .inl rfl⟩

theorem Spm.ZeroesIdle.trans {m t u : Spm} (h : m.ZeroesIdle t) (g : t.ZeroesIdle u) : m.ZeroesIdle u where
  idle b := (g.idle b).trans (h.idle b)
  row r := by
    obtain hu | ⟨hidle, hu⟩ := g.row r
    · rw [hu]; exact h.row r
    · exact .inr ⟨by rw [← h.idle]; exact hidle, hu⟩

theorem Spm.zeroesIdle_zeroBank (m : Spm) {b : Nat} (h : m.idleBank b = true) : m.ZeroesIdle (m.zeroBank b) where
  idle _ := rfl
  row r := by
    rw [Spm.row_zeroBank]
    split
    · next hr => exact .inr ⟨by rw [hr]; exact h, rfl⟩
    · exact .inl rfl

theorem Spm.zeroesIdle_setBank (m : Spm) (b : Nat) (x : Bank) (h : x.owner = (m.bank b).owner) : m.ZeroesIdle (m.setBank b x) :=
  ⟨m.idleBank_setBank b x h, fun _ => .inl rfl⟩

theorem Spm.ZeroesIdle.foldl {f : Spm → Nat → Spm} (hf : ∀ (m : Spm) b, m.ZeroesIdle (f m b)) (bs : List Nat) :
    ∀ m : Spm, m.ZeroesIdle (bs.foldl f m) := by
  induction bs with
  | nil => exact .refl
  | cons b bs ih => exact fun m => (hf m b).trans (ih _)

theorem Spm.zeroesIdle_repowerBank (auto : Bool) (m : Spm) (b : Nat) : m.ZeroesIdle (m.repowerBank auto b) := by
  unfold Spm.repowerBank
  simp only []
  split
  · exact .refl m
  · split
    · next hidle =>
      split
      · exact (m.zeroesIdle_zeroBank hidle).trans (Spm.zeroesIdle_setBank _ _ _ rfl)
      · exact .refl m
    · split
      · exact .refl m
      · exact m.zeroesIdle_setBank _ _ rfl

/-- A self-test of a bank ends where its rows leave the host (R148). -/
def Spm.endTest (m : Spm) (b : Nat) : Spm :=
  if (m.bank b).busy == some .testing then m.setBank b { m.bank b with busy := none } else m

/-- What a move does to one bank: a test of it ends, and an idle bank is not copied (R148). -/
def Spm.moveBank (m : Spm) (b : Nat) : Spm := if (m.endTest b).idleBank b then (m.endTest b).zeroBank b else m.endTest b

theorem Spm.moved_eq (auto : Bool) (m : Spm) : Spm.moved auto m = Spm.repower auto ((List.range 48).foldl Spm.moveBank m) := rfl

theorem Spm.zeroesIdle_endTest (m : Spm) (b : Nat) : m.ZeroesIdle (m.endTest b) := by
  unfold Spm.endTest
  split
  · exact m.zeroesIdle_setBank _ _ rfl
  · exact .refl m

theorem Spm.zeroesIdle_moveBank (m : Spm) (b : Nat) : m.ZeroesIdle (m.moveBank b) := by
  have ended := m.zeroesIdle_endTest b
  unfold Spm.moveBank
  split
  · next hidle => exact ended.trans (Spm.zeroesIdle_zeroBank _ hidle)
  · exact ended

theorem Spm.row_moveBank_idle (m : Spm) {b r : Nat} (hr : r / 512 = b) (h : m.idleBank b = true) : (m.moveBank b).row r = 0 := by
  rw [Spm.moveBank, (m.zeroesIdle_endTest b).idle, if_pos h, Spm.row_zeroBank, if_pos hr]

/-- A row that reads as zero does so when rows of idle banks have been zeroed. -/
theorem Spm.ZeroesIdle.row_zero {m t : Spm} (h : m.ZeroesIdle t) {r : Nat} (hr : m.row r = 0) : t.row r = 0 := by
  obtain ht | ⟨-, ht⟩ := h.row r
  · rw [ht, hr]
  · exact ht

/-- The rows of every idle bank that a move passes read as zeros. -/
theorem Spm.row_moveBanks_idle (bs : List Nat) :
    ∀ (m : Spm) {r : Nat}, r / 512 ∈ bs → m.idleBank (r / 512) = true → (bs.foldl Spm.moveBank m).row r = 0 := by
  induction bs with
  | nil => intro m r hr; exact absurd hr List.not_mem_nil
  | cons b bs ih =>
    intro m r hr hidle
    rw [List.foldl_cons]
    obtain hb | hr := List.mem_cons.1 hr
    · exact (Spm.ZeroesIdle.foldl Spm.zeroesIdle_moveBank bs _).row_zero (m.row_moveBank_idle hb (hb ▸ hidle))
    · exact ih _ hr (by rw [(m.zeroesIdle_moveBank b).idle]; exact hidle)

/-- The rows of the scratchpad on a new host: those of idle banks read as zeros, the others as before (R148). -/
theorem Spm.row_moved (auto : Bool) (m : Spm) {r : Nat} (hr : r < 24576) :
    (Spm.moved auto m).row r = if m.idleBank (r / 512) then 0 else m.row r := by
  have moves := Spm.ZeroesIdle.foldl Spm.zeroesIdle_moveBank (List.range 48) m
  have powers := Spm.ZeroesIdle.foldl (Spm.zeroesIdle_repowerBank auto) (List.range 48) ((List.range 48).foldl Spm.moveBank m)
  rw [Spm.moved_eq]
  split
  · next hidle => exact powers.row_zero (Spm.row_moveBanks_idle _ m (List.mem_range.2 (by omega)) hidle)
  · next hbusy =>
    obtain h | ⟨hidle, -⟩ := (moves.trans powers).row r
    · exact h
    · exact absurd hidle hbusy

/-! ## Fences (R382, R383) -/

/-- The state in which a fence is reported: the pcore fenced, and journalled where it is to be. -/
def State.fencing (s : State) (p : Nat) : State :=
  let x := s.pcore p
  let s := s.modPcore p (fun x => { x with state := .fenced, due := false, dueJournal := false })
  let s := if x.dueJournal then { s with toJournal := s.toJournal ++ [Repair.mk 2 [p, x.cause.toNat]] } else s
  s.count pFLT 0x120 1

/-- The state after the fence has been reported on the pcore's page. -/
def State.fenceReported (s : State) (p : Nat) : State :=
  (s.fencing p).raise (pPCR p) 0 (cause 0 0) (word (s.fencing p).epoch.toNat)

theorem State.markFenced_eq (s : State) (p core : Nat) :
    s.markFenced p core = (s.fenceReported p).raise pFLT 0 (fltInfo 0 p core) (s.pcore p).cause := rfl

theorem State.fencing_frame (s : State) (p : Nat) : s.fencing p = { s with
    pages := (s.fencing p).pages, pcores := (s.fencing p).pcores, toJournal := (s.fencing p).toJournal } := by
  unfold State.fencing
  simp only []
  split <;> rfl

theorem State.pcore_fencing (s : State) (p q : Nat) : (s.fencing p).pcore q =
    if q = p then { s.pcore p with state := .fenced, due := false, dueJournal := false } else s.pcore q := by
  rw [← State.pcore_modPcore s p q (fun x => { x with state := .fenced, due := false, dueJournal := false })]
  unfold State.fencing
  simp only []
  split <;> rfl

section
variable (s : State) {p : Nat} (hp : p < 68) (core : Nat)

theorem State.markFenced_frame : s.markFenced p core = { s with
    pages := (s.markFenced p core).pages, pcores := (s.markFenced p core).pcores, toJournal := (s.markFenced p core).toJournal,
    outbox := (s.markFenced p core).outbox, faultUnread := (s.markFenced p core).faultUnread,
    host := (s.markFenced p core).host } := by
  have reported : (s.fencing p).Raises (s.fenceReported p) := State.raises_raise ..
  have raises : (s.fencing p).Raises (s.markFenced p core) := by
    rw [s.markFenced_eq]
    exact reported.trans (State.raises_raise ..)
  rw [raises.frame, s.fencing_frame]

theorem State.core_markFenced (n : Nat) : (s.markFenced p core).core n = s.core n := by
  have hcores : (s.markFenced p core).cores = s.cores := by rw [s.markFenced_frame]
  rw [State.core, State.core, hcores]

include hp

/-- A fence changes the pcore that it fences, and no other. -/
theorem State.pcore_markFenced (q : Nat) : (s.markFenced p core).pcore q =
    if q = p then { s.pcore p with state := .fenced, due := false, dueJournal := false } else s.pcore q := by
  have concerns : (s.fencing p).pagePcore (pPCR p) = some p := by rw [State.pagePcore, pageBlk_pPCR hp]; rfl
  have global : (s.fenceReported p).pagePcore pFLT = none := rfl
  rw [s.markFenced_eq, State.pcore_raise _ _ _ _ _ (by simp [global]), State.fenceReported, State.pcore_raise, s.pcore_fencing]
  intro q hq
  obtain rfl := Option.some.inj (concerns.symm.trans hq)
  rw [s.pcore_fencing, if_pos rfl]

theorem State.pcore_markFenced_same : (s.markFenced p core).pcore p =
    { s.pcore p with state := .fenced, due := false, dueJournal := false } := by
  rw [s.pcore_markFenced hp, if_pos rfl]

theorem State.reported_markFenced :
    (s.markFenced p core).reported (pPCR p) 0 = true ∧ (s.markFenced p core).reported pFLT 0 = true := by
  have own : (s.fenceReported p).reported (pPCR p) 0 = true :=
    State.raised _ _ _ _ _ (by rw [pageBlk_pPCR hp]; rfl) (by decide)
  exact ⟨(State.errKept_raise ..).kept _ _ own, State.raised _ _ _ _ _ rfl (by decide)⟩

/-- A fence that is due leaves the choice of a spare as it was: the pcore could not be chosen before it either. -/
theorem State.pickSpare_markFenced (hdue : (s.pcore p).due = true) (n : Nat) :
    (s.markFenced p core).pickSpare n = s.pickSpare n := by
  have choices (q : Nat) : ((s.markFenced p core).pcore q).canHost = (s.pcore q).canHost := by
    rw [s.pcore_markFenced hp]
    split
    · next h => rw [h]; simp [Pcore.canHost, hdue]
    · rfl
  unfold State.pickSpare
  simp only [choices]
  rw [s.markFenced_frame]
  rfl

end

theorem State.scheduleClash_markFenced (s : State) (p core n : Nat) :
    (s.markFenced p core).scheduleClash n = s.scheduleClash n := by
  rw [s.markFenced_frame]; rfl


/-! ## Cores that leave their pcore (R16, R219, R385) -/

/-- A new placement of a core, under a schedule with the next epoch. -/
def State.rehost (s : State) (n : Nat) (host : Option Nat) : State :=
  { s with place := s.place.set placeDefault n host, schedule := some (s.epoch + 1, n) }

theorem State.hostOf_rehost (s : State) (n : Nat) (host : Option Nat) (m : Nat) :
    (s.rehost n host).hostOf m = if m = n then host else s.hostOf m := by
  simp [State.hostOf, State.rehost, SMap.get_set]

/-- What unhosting a core does after the new placement is reported: its job faults. -/
theorem State.kept_unhost (s : State) (n p : Nat) (code : Word) :
    (((s.discardReturns n).rehost n none).raise pFLT 1 (fltInfo 1 p n) code).PlacementKept (s.unhost n p code) := by
  unfold State.unhost
  simp only []
  split
  · exact State.kept_faultTask ..
  · exact .refl _

section
variable (s : State) (n p : Nat) (code : Word)

theorem State.hostOf_unhost : (s.unhost n p code).hostOf n = none := by
  rw [(s.kept_unhost n p code).hostOf, (State.kept_raise ..).hostOf, State.hostOf_rehost, if_pos rfl]

theorem State.schedule_unhost : (s.unhost n p code).schedule = some (s.epoch + 1, n) := by
  rw [(s.kept_unhost n p code).schedule, (State.kept_raise ..).schedule, ← (s.kept_discardReturns n).epoch]
  rfl

theorem State.reported_unhost : (s.unhost n p code).reported pFLT 1 = true :=
  (s.kept_unhost n p code).reported (State.raised _ _ _ _ _ rfl (by decide))

theorem State.pcore_state_unhost (q : Nat) : ((s.unhost n p code).pcore q).state = (s.pcore q).state := by
  rw [(s.kept_unhost n p code).pcore_state, (State.kept_raise ..).pcore_state, ← (s.kept_discardReturns n).pcore_state]
  rfl

end

/-- A core that is about to move: its transfers have returned, and its stuck partitions hold no weights (R67, R219). -/
def State.readied (s : State) (n : Nat) (stuck : List (Fin 16)) : State :=
  let s := s.discardReturns n
  let s := s.modCore n (fun k => { k with arr := { k.arr with parts := stuck.foldl (fun m p =>
    m.set partDefault p.val { k.arr.part p.val with weights := none }) k.arr.parts } })
  s.count (corePage n kSPM) 0x138 (512 * (s.core n).spm.copiedBanks)

theorem State.kept_readied (s : State) (n : Nat) (stuck : List (Fin 16)) : s.PlacementKept (s.readied n stuck) := by
  unfold State.readied
  refine ((s.kept_discardReturns n).trans (State.kept_modCore _ n _ ?_ ?_)).trans (State.kept_count ..)
  · exact fun _ => rfl
  · exact fun _ => rfl

/-- The core on its new host, with what the move copies (R148). -/
def State.arrived (s : State) (n new : Nat) : State :=
  ((s.modSpm n (Spm.moved (s.autoPwr n))).rehost n (some new)).modPcore new (fun x => { x with state := .hosting })

theorem State.arrived_frame (s : State) (n new : Nat) : s.arrived n new = { s with
    cores := (s.arrived n new).cores, pcores := (s.arrived n new).pcores, place := s.place.set placeDefault n (some new),
    schedule := some (s.epoch + 1, n) } := rfl

theorem State.hostOf_arrived (s : State) (n new m : Nat) :
    (s.arrived n new).hostOf m = if m = n then some new else s.hostOf m := State.hostOf_rehost ..

theorem State.pcore_state_arrived (s : State) (n new q : Nat) :
    ((s.arrived n new).pcore q).state = if q = new then .hosting else (s.pcore q).state := by
  rw [State.arrived, State.pcore_modPcore]
  split <;> rfl

/-- What a move does after the core's arrival: a job that cannot go on faults (R386). -/
theorem State.kept_moveCore (s : State) (n old new : Nat) (stuck : List (Fin 16)) :
    ((s.readied n stuck).arrived n new).PlacementKept (s.moveCore n old new stuck) := by
  unfold State.moveCore
  simp only []
  refine State.PlacementKept.trans ?_ ((State.kept_count _ pFLT 0x128 1).trans (State.kept_count _ (pPCR new) 0x108 1))
  split
  · split
    · exact State.kept_faultTask ..
    · exact .refl _
  · exact .refl _

section
variable (s : State) (n old new : Nat) (stuck : List (Fin 16))

theorem State.hostOf_moveCore (m : Nat) :
    (s.moveCore n old new stuck).hostOf m = if m = n then some new else s.hostOf m := by
  rw [(s.kept_moveCore n old new stuck).hostOf, State.hostOf_arrived, (s.kept_readied n stuck).hostOf]

theorem State.pcore_state_moveCore (q : Nat) :
    ((s.moveCore n old new stuck).pcore q).state = if q = new then .hosting else (s.pcore q).state := by
  rw [(s.kept_moveCore n old new stuck).pcore_state, State.pcore_state_arrived, (s.kept_readied n stuck).pcore_state]

theorem State.schedule_moveCore : (s.moveCore n old new stuck).schedule = some (s.epoch + 1, n) := by
  rw [(s.kept_moveCore n old new stuck).schedule, State.arrived_frame, ← (s.kept_readied n stuck).epoch]

theorem State.epoch_moveCore : (s.moveCore n old new stuck).epoch = s.epoch := by
  rw [(s.kept_moveCore n old new stuck).epoch, State.arrived_frame, ← (s.kept_readied n stuck).epoch]

theorem State.slices_moveCore : (s.moveCore n old new stuck).slices = s.slices := by
  rw [(s.kept_moveCore n old new stuck).slices, State.arrived_frame, ← (s.kept_readied n stuck).slices]

theorem State.core_arrived : (s.arrived n new).core n = { s.core n with spm := Spm.moved (s.autoPwr n) (s.core n).spm } :=
  State.core_modSpm_same ..

theorem State.regs_moveCore : ((s.moveCore n old new stuck).core n).seq.g = (s.core n).seq.g := by
  rw [(s.kept_moveCore n old new stuck).regs, State.core_arrived, ← (s.kept_readied n stuck).regs]

/-- The rows of the moved core: those of idle banks read as zeros (R148). -/
theorem State.row_moveCore {r : Nat} (hr : r < 24576) : ((s.moveCore n old new stuck).core n).spm.row r =
    if (s.core n).spm.idleBank (r / 512) then 0 else (s.core n).spm.row r := by
  rw [(s.kept_moveCore n old new stuck).row, State.core_arrived, Spm.row_moved _ _ hr, (s.kept_readied n stuck).idleBank,
    (s.kept_readied n stuck).row]

end

/-! ## CORE_MOVE -/

theorem State.nextLeaver_lt {s : State} {p : Nat} (h : s.nextLeaver = some p) : p < 68 :=
  List.mem_range.1 (List.mem_of_find?_eq_some h)

theorem State.pickSpare_canHost {s : State} {n q : Nat} (h : s.pickSpare n = some q) : (s.pcore q).canHost = true := by
  have chosen := List.find?_some h
  simp only [Bool.and_eq_true] at chosen
  exact chosen.1.1

theorem State.pickSpare_ne_due {s : State} {n p q : Nat} (h : s.pickSpare n = some q) (hdue : (s.pcore p).due = true) :
    p ≠ q := by
  rintro rfl
  have host := State.pickSpare_canHost h
  simp [Pcore.canHost, hdue] at host

section
variable {s : State} {p : Nat} (stuck : List (Fin 16)) (hready : s.phase = .ready) (hnone : s.schedule = none)
  (hleaver : s.nextLeaver = some p)
include hready hnone hleaver

theorem coreMove_noCore (h : s.hosted p = none) : exec (.coreMove stuck) s = .next (s.markFenced p 0).regate := by
  change execCoreMove stuck s = _
  simp [execCoreMove, hready, hnone, hleaver, h]

theorem coreMove_moves {n q : Nat} (h : s.hosted p = some n) (hdue : (s.pcore p).due = true) (hq : s.pickSpare n = some q)
    (hfree : s.scheduleClash n = false) :
    exec (.coreMove stuck) s = .next ((s.markFenced p n).moveCore n p q stuck).regate := by
  have hp := State.nextLeaver_lt hleaver
  change execCoreMove stuck s = _
  simp [execCoreMove, hready, hnone, hleaver, h, hdue, s.pickSpare_markFenced hp n hdue, hq, s.scheduleClash_markFenced, hfree]

theorem coreMove_clash {n q : Nat} (h : s.hosted p = some n) (hdue : (s.pcore p).due = true) (hq : s.pickSpare n = some q)
    (hclash : s.scheduleClash n = true) : exec (.coreMove stuck) s = .next ((s.markFenced p n).raise pSLS 0
      (cause 0 (q * 64 + (s.markFenced p n).physSlice n)) (word (s.markFenced p n).epoch.toNat)) := by
  have hp := State.nextLeaver_lt hleaver
  change execCoreMove stuck s = _
  simp [execCoreMove, hready, hnone, hleaver, h, hdue, s.pickSpare_markFenced hp n hdue, hq, s.scheduleClash_markFenced, hclash]

theorem coreMove_noSpare {n : Nat} (h : s.hosted p = some n) (hdue : (s.pcore p).due = true) (hq : s.pickSpare n = none) :
    exec (.coreMove stuck) s = .next ((s.markFenced p n).unhost n p (s.pcore p).cause).regate := by
  have hp := State.nextLeaver_lt hleaver
  change execCoreMove stuck s = _
  simp [execCoreMove, hready, hnone, hleaver, h, hdue, s.pickSpare_markFenced hp n hdue, hq]

theorem coreMove_routeLost {n : Nat} (h : s.hosted p = some n) (hdue : (s.pcore p).due = false) :
    exec (.coreMove stuck) s = .next (((s.unhost n p (s.faultCode pSLS 2)).modPcore p (fun x =>
      { x with state := if x.state == .hosting then .spare else x.state })).regate) := by
  change execCoreMove stuck s = _
  simp [execCoreMove, hready, hnone, hleaver, h, hdue]

end

theorem exec_scheduleEffect {s : State} {e : BitVec 16} {n : Nat} (hready : s.phase = .ready) (hsched : s.schedule = some (e, n)) :
    exec .scheduleEffect s = .next ((({ s with epoch := e, schedule := none }).staleCopies n).count pSLS 0x100 1) := by
  change execScheduleEffect s = _
  simp only [execScheduleEffect, hsched]
  exact if_pos (by rw [hready]; rfl)

/-! ## ROUTE_FAIL (R385) -/

/-- What a failed bridge reports of one core: a failed route where the core's slice crosses it. -/
def State.reportRoute (b : Nat × Nat) (s : State) (n : Nat) : State :=
  match s.hostOf n with
  | some p =>
    if (routeBridges (s.homeDie n) (pcoreDie p)).contains b then
      s.raise pSLS 2 (cause 2 (p * 64 + s.physSlice n)) (word s.epoch.toNat)
    else s
  | none => s

/-- The state with a bridge failed and journalled. -/
def State.withoutBridge (s : State) (b : Nat × Nat) : State :=
  { s with bridges := b :: s.bridges, toJournal := s.toJournal ++ [Repair.mk 7 [b.1, b.2]] }

theorem apart_of_adjacentDies : ∀ d e : Fin 4, adjacentDies d e = true → ¬ (d = e ∨ e.val = (d.val + 2) % 4) := by decide

theorem exec_routeFail {s : State} {d e : Fin 4} (hready : s.phase = .ready) (hd : adjacentDies d e = true)
    (hb : s.bridges.contains (min d.val e.val, max d.val e.val) = false) :
    exec (.routeFail d e) s = .next ((List.range s.presented).foldl (State.reportRoute (min d.val e.val, max d.val e.val))
      (s.withoutBridge (min d.val e.val, max d.val e.val))) := by
  have goes : ¬ (s.phase != .ready || s.bridges.contains (min d.val e.val, max d.val e.val)) = true := by
    rw [hready, hb]; decide
  exact (if_neg (apart_of_adjacentDies d e hd)).trans (if_neg goes)

theorem State.raises_reportRoute (b : Nat × Nat) (s : State) (n : Nat) : s.Raises (s.reportRoute b n) := by
  unfold State.reportRoute
  split
  · split
    · exact s.raises_raise ..
    · exact .refl s
  · exact .refl s

theorem State.errKept_reportRoute (b : Nat × Nat) (s : State) (n : Nat) : s.ErrKept (s.reportRoute b n) := by
  unfold State.reportRoute
  split
  · split
    · exact s.errKept_raise ..
    · exact .refl s
  · exact .refl s

theorem State.raises_reportRoutes (b : Nat × Nat) (ns : List Nat) :
    ∀ s : State, s.Raises (ns.foldl (State.reportRoute b) s) := by
  induction ns with
  | nil => exact .refl
  | cons n ns ih => exact fun s => (State.raises_reportRoute b s n).trans (ih _)

theorem State.errKept_reportRoutes (b : Nat × Nat) (ns : List Nat) :
    ∀ s : State, s.ErrKept (ns.foldl (State.reportRoute b) s) := by
  induction ns with
  | nil => exact .refl
  | cons n ns ih => exact fun s => (State.errKept_reportRoute b s n).trans (ih _)

/-- A core's slice crosses a bridge from the core's host. -/
def State.crosses (s : State) (b : Nat × Nat) (n : Nat) : Prop :=
  ∃ p, s.hostOf n = some p ∧ (routeBridges (s.homeDie n) (pcoreDie p)).contains b = true

theorem State.Raises.crosses {s t : State} (h : s.Raises t) {b : Nat × Nat} {n : Nat} (hc : s.crosses b n) : t.crosses b n := by
  rw [h.frame]; exact hc

theorem State.reported_reportRoute {s : State} {b : Nat × Nat} {n : Nat} (h : s.crosses b n) :
    (s.reportRoute b n).reported pSLS 2 = true := by
  obtain ⟨p, hp, hb⟩ := h
  simp only [State.reportRoute, hp, hb, if_true]
  exact State.raised _ _ _ _ _ rfl (by decide)

theorem State.reported_reportRoutes {b : Nat × Nat} {n : Nat} (ns : List Nat) :
    ∀ s : State, n ∈ ns → s.crosses b n → (ns.foldl (State.reportRoute b) s).reported pSLS 2 = true := by
  induction ns with
  | nil => exact fun s h => absurd h List.not_mem_nil
  | cons m ns ih =>
    intro s hn hc
    rw [List.foldl_cons]
    obtain rfl | hn := List.mem_cons.1 hn
    · exact (State.errKept_reportRoutes b ns _).kept _ _ (State.reported_reportRoute hc)
    · exact ih _ hn ((State.raises_reportRoute b s m).crosses hc)

/-- A route over a failed bridge is lost. -/
theorem State.routeLost_of_crosses {s : State} {b : Nat × Nat} {n : Nat} (h : s.crosses b n) (hb : b ∈ s.bridges) :
    s.routeLost n = true := by
  obtain ⟨p, hp, hc⟩ := h
  simp only [State.routeLost, hp, State.routeOk, Bool.not_eq_true', List.all_eq_false]
  exact ⟨b, List.contains_iff_mem.1 hc, by simpa using hb⟩

/-- Settles O18: a fence, a move and an unhosting each change the placement by one write, and what follows them (reports, the
fault of the job, the gates) keeps it. That a pcore left over a failed route becomes a spare is log entry 31. -/
theorem placement : Obligations.Placement := by
  intro s stuck hready
  refine ⟨fun p hnone hleaver => ?_, fun e n hsched => ?_, fun d e hd hb => ?_⟩
  · have hp := State.nextLeaver_lt hleaver
    have fenced (core : Nat) : ((s.markFenced p core).pcore p).state = .fenced := by rw [s.pcore_markFenced_same hp]
    have place (core : Nat) : (s.markFenced p core).place = s.place := by rw [s.markFenced_frame]
    have epoch (core : Nat) : (s.markFenced p core).epoch = s.epoch := by rw [s.markFenced_frame]
    have unscheduled (core : Nat) : (s.markFenced p core).schedule = none := by rw [s.markFenced_frame]; exact hnone
    refine ⟨fun h => ?_, fun n q h hdue hq hfree => ?_, fun n q h hdue hq hclash => ?_, fun n h hdue hq => ?_,
      fun n h hdue => ?_⟩
    · have gates := (s.markFenced p 0).kept_regate
      obtain ⟨own, part⟩ := s.reported_markFenced hp 0
      refine ⟨_, coreMove_noCore stuck hready hnone hleaver h, ?_, ?_, ?_, ?_, gates.reported own,
        gates.reported part, fun m => ?_⟩
      · rw [gates.pcore_state, fenced]
      · rw [(State.regated_regate _).pcore_due, s.pcore_markFenced_same hp]
      · rw [gates.place, place]
      · rw [gates.schedule, unscheduled]
      · rw [(State.regated_regate _).core, s.core_markFenced]
    · have gates := ((s.markFenced p n).moveCore n p q stuck).kept_regate
      refine ⟨_, coreMove_moves stuck hready hnone hleaver h hdue hq hfree, ?_, fun m hm => ?_, ?_, ?_, ?_, ?_, ?_,
        fun r hr => ?_, ?_⟩
      · rw [gates.hostOf, State.hostOf_moveCore, if_pos rfl]
      · rw [gates.hostOf, State.hostOf_moveCore, if_neg hm, State.hostOf, place]; rfl
      · rw [gates.pcore_state, State.pcore_state_moveCore, if_pos rfl]
      · rw [gates.pcore_state, State.pcore_state_moveCore, if_neg (State.pickSpare_ne_due hq hdue), fenced]
      · rw [gates.schedule, State.schedule_moveCore, epoch]
      · rw [gates.epoch, State.epoch_moveCore, epoch]
      · rw [gates.slices, State.slices_moveCore, s.markFenced_frame]
      · rw [gates.row, State.row_moveCore _ _ _ _ _ hr, s.core_markFenced]
      · rw [gates.regs, State.regs_moveCore, s.core_markFenced]
    · refine ⟨_, coreMove_clash stuck hready hnone hleaver h hdue hq hclash, ?_, ?_, ?_,
        State.raised _ _ _ _ _ rfl (by decide)⟩
      · rw [(State.kept_raise ..).place, place]
      · rw [(State.kept_raise ..).schedule, unscheduled]
      · rw [(State.kept_raise ..).pcore_state, fenced]
    · have gates := ((s.markFenced p n).unhost n p (s.pcore p).cause).kept_regate
      refine ⟨_, coreMove_noSpare stuck hready hnone hleaver h hdue hq, ?_, ?_, ?_, gates.reported (State.reported_unhost ..)⟩
      · rw [gates.hostOf, State.hostOf_unhost]
      · rw [gates.schedule, State.schedule_unhost, epoch]
      · rw [gates.pcore_state, State.pcore_state_unhost, fenced]
    · have gates := ((s.unhost n p (s.faultCode pSLS 2)).modPcore p (fun x =>
        { x with state := if x.state == .hosting then .spare else x.state })).kept_regate
      refine ⟨_, coreMove_routeLost stuck hready hnone hleaver h hdue, ?_, ?_, gates.reported (s.reported_unhost ..), ?_⟩
      · rw [gates.hostOf]; exact s.hostOf_unhost ..
      · rw [gates.schedule]; exact s.schedule_unhost ..
      · rw [gates.pcore_state, State.pcore_modPcore_same, s.pcore_state_unhost]
        simp only [beq_iff_eq]
  · exact ⟨_, exec_scheduleEffect hready hsched, rfl⟩
  · have reports := State.raises_reportRoutes (min d.val e.val, max d.val e.val) (List.range s.presented)
      (s.withoutBridge (min d.val e.val, max d.val e.val))
    refine ⟨_, exec_routeFail hready hd hb, ?_, ?_, ?_, fun n => ?_, fun n p hn hp hc => ?_⟩
    · rw [reports.frame]; rfl
    · rw [reports.frame]; rfl
    · rw [reports.frame]; rfl
    · rw [reports.core]; rfl
    · have crossed : (s.withoutBridge (min d.val e.val, max d.val e.val)).crosses (min d.val e.val, max d.val e.val) n :=
        ⟨p, hp, hc⟩
      refine ⟨State.reported_reportRoutes _ _ (List.mem_range.2 hn) crossed,
        State.routeLost_of_crosses (reports.crosses crossed) ?_⟩
      rw [reports.frame]
      exact List.mem_cons_self

end Sys2Proof.Machine
end

section
/-!
Proofs of chapter 01: what the link fields of a received frame leave (R243, R244), and from it the chair whose lap ends at
this station (R21, R250) and the chair of demand (R252).
-/
namespace Sys2Proof.Machine

/-! ## The link fields of a frame (R243, R244) -/

/-- From `s` to `t` only the link layers of the lift's ports changed, of the lift: what a port has received stands. -/
structure State.ReceivedKept (s t : State) : Prop where
  lift : t.lift = { s.lift with port := t.lift.port }
  rxChair : ∀ y, (t.liftPort y).rxChair = (s.liftPort y).rxChair
  rxDemand : ∀ y, (t.liftPort y).rxDemand = (s.liftPort y).rxDemand

theorem State.ReceivedKept.refl (s : State) : s.ReceivedKept s := ⟨rfl, fun _ => rfl, fun _ => rfl⟩

theorem State.ReceivedKept.trans {s t u : State} (h : s.ReceivedKept t) (g : t.ReceivedKept u) : s.ReceivedKept u where
  lift := by rw [g.lift, h.lift]
  rxChair y := (g.rxChair y).trans (h.rxChair y)
  rxDemand y := (g.rxDemand y).trans (h.rxDemand y)

theorem State.received_of_lift {s t : State} (h : t.lift = s.lift) : s.ReceivedKept t := by
  refine ⟨by rw [h], fun y => ?_, fun y => ?_⟩
  · rw [State.liftPort, State.liftPort, h]
  · rw [State.liftPort, State.liftPort, h]

theorem State.received_modLiftPort (s : State) (x : Side) (f : LiftPort → LiftPort) (hchair : ∀ p, (f p).rxChair = p.rxChair)
    (hdemand : ∀ p, (f p).rxDemand = p.rxDemand) : s.ReceivedKept (s.modLiftPort x f) where
  lift := rfl
  rxChair y := by
    rw [State.liftPort_modLiftPort]
    split
    · next h => rw [h]; exact hchair _
    · rfl
  rxDemand y := by
    rw [State.liftPort_modLiftPort]
    split
    · next h => rw [h]; exact hdemand _
    · rfl

theorem State.received_count (s : State) (p off k : Nat) : s.ReceivedKept (s.count p off k) := State.received_of_lift rfl

theorem State.received_raise (s : State) (p b : Nat) (i j : Word) : s.ReceivedKept (s.raise p b i j) :=
  State.received_of_lift (by rw [(s.raises_raise p b i j).frame])

theorem State.received_emitFrame (s : State) (x : Side) (fcs : Fcs) (h : List Byte) (seq : BitVec 16) (data : List Byte) :
    s.ReceivedKept (s.emitFrame x fcs h seq data) := by
  have sent (s : State) (o : Out) : s.ReceivedKept
      (((s.modLiftPort x (fun p => { p with nakDue := false })).emit o).count (pLFT x) 0x100 1) :=
    (s.received_modLiftPort x (fun p => { p with nakDue := false }) (fun _ => rfl) (fun _ => rfl)).trans
      (State.received_of_lift rfl)
  unfold State.emitFrame
  simp only []
  refine State.ReceivedKept.trans ?_ (sent _ _)
  split
  · exact State.received_of_lift rfl
  · exact .refl s

theorem State.received_resendFrames (s : State) (x : Side) : s.ReceivedKept (s.resendFrames x) := by
  have resent (fs : List SentFrame) : ∀ s : State,
      s.ReceivedKept (fs.foldl (fun s f => s.emitFrame x .good f.hdr f.seq f.data) s) := by
    induction fs with
    | nil => exact .refl
    | cons f fs ih => exact fun s => (s.received_emitFrame ..).trans (ih _)
  unfold State.resendFrames
  simp only []
  split
  · exact .refl s
  · refine ((resent _ s).trans (State.received_modLiftPort _ x _ ?_ ?_)).trans (State.received_count ..)
    · exact fun _ => rfl
    · exact fun _ => rfl

/-- The link fields of a frame leave what the ports have received (R243, R244). -/
theorem State.received_linkFields (s : State) (x : Side) (h : List Byte) : s.ReceivedKept (s.linkFields x h) := by
  unfold State.linkFields
  simp only []
  split
  · exact (s.received_raise ..).trans (State.received_of_lift rfl)
  · have acked (acks more dem : Nat) (credit : BitVec 16) (seen : BitVec 3) : s.ReceivedKept (s.modLiftPort x (fun p =>
        { p with replay := p.replay.drop acks, creditSeen := credit, sentUsed := p.sentUsed - more, demandSeen := seen,
                 demandUsed := p.demandUsed - dem })) :=
      s.received_modLiftPort x _ (fun _ => rfl) (fun _ => rfl)
    split
    · exact (acked ..).trans (State.received_resendFrames ..)
    · exact acked ..

/-! ## Receiving (R241) -/

/-- A frame that the receiver takes is acted on with its link fields applied. -/
theorem State.receive_taken {s : State} {x : Side} {f : LiftFrame} (h : s.takes x f .ok = true) {mine : List Byte → Bool}
    (hm : mine f.hdr = true) (chair : Bool) (cut act : State → State) :
    s.receive x f mine chair cut act = act (s.linkFields x f.hdr) := by
  simp only [State.takes, Bool.and_eq_true, beq_iff_eq, decide_eq_true_eq] at h
  obtain ⟨⟨⟨hready, hup⟩, hformed⟩, hok⟩ := h
  simp [State.receive, State.screen, hready, hup, hformed, hok, hm]

theorem exec_chairFrame {s : State} {x : Side} {f : LiftFrame} (h : s.takes x f .ok = true) (htype : leAt f.hdr 0 1 / 16 = 0)
    (hkind : leAt f.hdr 1 1 % 2 = 0) : exec (.chairFrame x f) s = .next ((s.linkFields x f.hdr).takeFrame x f) :=
  congrArg _ (State.receive_taken h (by simp [htype, hkind]) ..)

/-! ## A chair whose lap ends here (R21, R250) -/

theorem chairFrames_eq_one {rows : Nat} (h : rows ≤ 16) (h0 : 0 < rows) : chairFrames rows = 1 := by
  unfold chairFrames; omega

/-- A frame's kind is the low two bits of its second byte; gradient chairs are of kind 1. -/
theorem kind_ne_gradient {x : Side} {h : List Byte} (hkind : leAt h 1 1 % 2 = 0) : (chairHdrOf x h).kind.val ≠ 1 := by
  have hval : (chairHdrOf x h).kind.val = leAt h 1 1 % 4 := rfl
  omega

theorem State.retires_congr {s t : State} (h : t.reg pLFC 0x40 = s.reg pLFC 0x40) (c : ChairHdr) : t.retires c = s.retires c := by
  simp only [State.retires, State.liftLen, State.liftPos, h]

/-- Chairs that still have cores to land for stay. -/
theorem State.settleHeld_of_left {s : State} (h : ∀ c ∈ s.lift.held, c.left ≠ 0) : s.settleHeld = s := by
  have undone : s.lift.held.filter (fun h => h.left == 0 && !h.waiting) = [] := by
    rw [List.filter_eq_nil_iff]
    intro c hc
    rw [beq_eq_false_iff_ne.2 (h c hc)]
    exact Bool.false_ne_true
  have stay : s.lift.held.filter (fun h => !(h.left == 0 && !h.waiting)) = s.lift.held := by
    rw [List.filter_eq_self]
    intro c hc
    rw [beq_eq_false_iff_ne.2 (h c hc)]
    rfl
  unfold State.settleHeld
  simp only [undone, List.foldl_nil, State.modLift, stay]

/-- A chair held for the cores of its mask, with nothing left to forward. -/
def heldFrom (x : Side) (c : Chair) : Held :=
  { chair := c, side := some x, left := c.hdr.mask, waiting := false, stale := 0, bad := false, grad := none }

/-- A retired chair that every core of its mask can take is counted and held. -/
theorem State.chairArrived_retired {s : State} {x : Side} {c : Chair} (hret : s.retires c.hdr = true)
    (hpres : s.unpresented c.hdr.mask = none) (hreg : s.regionless c.hdr.mask = none) (hmask : c.hdr.mask ≠ 0)
    (hheld : s.lift.held = []) (thr : Bool) :
    s.chairArrived x c thr = (s.count pLFC 0x118 1).modLift (fun l => { l with held := [heldFrom x c] }) := by
  have held : ∀ h ∈ [heldFrom x c], h.left ≠ 0 := by
    intro h hh
    obtain rfl := List.mem_singleton.1 hh
    exact hmask
  rw [← State.settleHeld_of_left (s := (s.count pLFC 0x118 1).modLift (fun l => { l with held := [heldFrom x c] })) held]
  simp only [State.chairArrived, hpres, hreg, hret]
  simp [State.modLift, hheld, heldFrom]

/-- The port of a frame that is accepted. -/
def State.frameAccepted (s : State) (x : Side) : State :=
  (s.modLiftPort x (fun p => { p with rxSeq := p.rxSeq + 1, nakSent := false })).count (pLFT x) 0x108 1

/-- The entry of a frame is taken, with its rows, and the unfinished chair that it ends leaves its egress port. -/
def State.frameEntered (s : State) (x y : Side) (entry : Option (ChairHdr × List Row × Nat)) (ended : Nat) : State :=
  let s := s.modLiftPort x (fun p =>
    { p with rxUsed := p.rxUsed + 1 - ended, freed := p.freed + BitVec.ofNat 16 ended, rxChair := entry })
  if 0 < ended then s.modLiftPort y (fun p => { p with through := none, sentUsed := p.sentUsed - p.through.getD 0 }) else s

/-- A frame leaves cut-through. -/
def State.frameCut (s : State) (h : ChairHdr) (i : Nat) (last : Bool) (data : List Byte) : State :=
  let y := dirSide h.dir
  let s := s.sendFrame y (s.chairHead h i) data
  let s := s.modLiftPort y (fun p => { p with
    through := if last then none else some (chairFrames h.rows - 1 - i),
    sentUsed := if i = 0 then p.sentUsed + chairFrames h.rows else p.sentUsed })
  if i = 0 then s.modLift (fun l => setTurn l h.dir (turnOf l h.dir - 1)) else s

/-- The last frame completes its chair. -/
def State.chairComplete (s : State) (x : Side) (h : ChairHdr) (c : Chair) (thr : Bool) : State :=
  if h.kind.val = 1 then
    match s.lift.contribs.find? (fun g => g.x.origin == h.origin && g.core == h.core && g.x.seq == h.seq && g.x.dir == h.dir) with
    | some g => s.addGrad x c g
    | none => s.modLiftPort x (fun p => { p with rxGrad := p.rxGrad ++ [c] })
  else s.chairArrived x c thr

/-- What a frame does once it has entered: it is cut through where it can be, and may complete its chair. -/
def State.frameGoesOn (s : State) (x : Side) (h : ChairHdr) (i : Nat) (last : Bool) (data : List Byte) (c : Chair) : State :=
  let thr := h.kind.val != 1 && s.canThrough h i
  let s := if thr then s.frameCut h i last data else s
  if last then s.chairComplete x h c thr else s

/-- A frame that joins a chair enters its port and goes on. -/
theorem State.takeFrame_joins {s : State} {x : Side} {f : LiftFrame} {h0 : ChairHdr} {before : List Row} {ended : Nat}
    (hj : ((s.frameAccepted x).liftPort x).joins (chairHdrOf x f.hdr) (leAt f.hdr 0x1D 1) = some (h0, before, ended)) :
    let h := chairHdrOf x f.hdr
    let i := leAt f.hdr 0x1D 1
    let last := i + 1 == chairFrames h.rows
    let rows := before ++ bytesToRows (f.data.length / 512) f.data
    s.takeFrame x f = ((s.frameAccepted x).frameEntered x (dirSide h.dir)
      (if last then none else some (h0, rows, i + 1)) ended).frameGoesOn x h i last f.data { hdr := h0, rows := rows } := by
  have byEntry : s.takeFrame x f =
      match ((s.frameAccepted x).liftPort x).joins (chairHdrOf x f.hdr) (leAt f.hdr 0x1D 1) with
      | none => (s.frameAccepted x).modLiftPort x (fun p => { p with freed := p.freed + 1 })
      | some (h0, before, ended) =>
        let h := chairHdrOf x f.hdr
        let i := leAt f.hdr 0x1D 1
        let last := i + 1 == chairFrames h.rows
        let rows := before ++ bytesToRows (f.data.length / 512) f.data
        ((s.frameAccepted x).frameEntered x (dirSide h.dir) (if last then none else some (h0, rows, i + 1)) ended).frameGoesOn
          x h i last f.data { hdr := h0, rows := rows } := rfl
  rw [byEntry, hj]

section
variable (s : State) (x y : Side)

/-- A frame that begins a chair and enters its port changes the port and the count of frames on the port's page. -/
theorem State.frameEntered_begins : (s.frameAccepted x).frameEntered x y none 0 =
    ((s.modLiftPort x (fun p => { p with rxSeq := p.rxSeq + 1, nakSent := false })).count (pLFT x) 0x108 1).modLiftPort x (fun p =>
      { p with rxUsed := p.rxUsed + 1 - 0, freed := p.freed + BitVec.ofNat 16 0, rxChair := none }) := rfl

theorem State.retires_frameEntered (h : ChairHdr) : ((s.frameAccepted x).frameEntered x y none 0).retires h = s.retires h :=
  State.retires_congr (by rw [State.frameEntered_begins]; simp) h

theorem State.unpresented_frameEntered (m : Word64) :
    ((s.frameAccepted x).frameEntered x y none 0).unpresented m = s.unpresented m := by
  rw [State.frameEntered_begins]
  simp [State.unpresented]

theorem State.regionless_frameEntered (m : Word64) :
    ((s.frameAccepted x).frameEntered x y none 0).regionless m = s.regionless m := by
  rw [State.frameEntered_begins]
  simp [State.regionless]

theorem State.held_frameEntered : ((s.frameAccepted x).frameEntered x y none 0).lift.held = s.lift.held := rfl

theorem State.counter_frameEntered (o : Nat) :
    ((s.frameAccepted x).frameEntered x y none 0).counter pLFC o = s.counter pLFC o := by
  have apart : pLFC ≠ pLFT x := by cases x <;> decide
  rw [State.frameEntered_begins, State.modLiftPort_counter, State.counter_count, if_neg (fun h => apart h.1),
    State.modLiftPort_counter]

end

/-- A one-frame chair whose lap ends here arrives whole with its frame, and leaves by no port. -/
theorem State.takeFrame_retired {s : State} {x : Side} {f : LiftFrame} (hkind : leAt f.hdr 1 1 % 2 = 0)
    (hrows : (chairHdrOf x f.hdr).rows ≤ 16) (hidx : leAt f.hdr 0x1D 1 = 0) (hfirst : (s.liftPort x).rxChair = none)
    (hret : s.retires (chairHdrOf x f.hdr) = true) :
    s.takeFrame x f = ((s.frameAccepted x).frameEntered x (dirSide (chairHdrOf x f.hdr).dir) none 0).chairArrived x
      { hdr := chairHdrOf x f.hdr, rows := bytesToRows (f.data.length / 512) f.data } false := by
  have one : chairFrames (chairHdrOf x f.hdr).rows = 1 := chairFrames_eq_one hrows (Nat.succ_pos _)
  have first : ((s.frameAccepted x).liftPort x).rxChair = none := by
    simp [State.frameAccepted, State.liftPort_modLiftPort, hfirst]
  have joins : ((s.frameAccepted x).liftPort x).joins (chairHdrOf x f.hdr) (leAt f.hdr 0x1D 1) =
      some (chairHdrOf x f.hdr, [], 0) := by simp [LiftPort.joins, first, hidx]
  have stays (y : Side) : ((s.frameAccepted x).frameEntered x y none 0).canThrough (chairHdrOf x f.hdr) 0 = false := by
    simp [State.canThrough, State.retires_frameEntered, hret]
  rw [State.takeFrame_joins joins]
  simp [hidx, one, State.frameGoesOn, stays, State.chairComplete, kind_ne_gradient hkind]

/-! ## Chairs of demand (R252) -/

theorem Lift.lap_lap (l : Lift) (d : Nat) : (l.lap d).lap = d := by
  unfold Lift.lap
  cases h : l.laps.find? (fun a => a.lap == d) with
  | none => rfl
  | some a => simpa using List.find?_some h

/-- A lap after it is set. -/
theorem Lift.lap_setLap (l : Lift) (a : DemandLap) : (l.setLap a).lap a.lap = a := by
  unfold Lift.setLap Lift.lap
  split
  · next h =>
    have found : (l.laps.map (fun b => if b.lap == a.lap then a else b)).find? (fun b => b.lap == a.lap) = some a := by
      generalize l.laps = laps at h
      induction laps with
      | nil => simp at h
      | cons b laps ih =>
        by_cases hb : b.lap = a.lap
        · simp [hb]
        · rw [List.any_cons, beq_eq_false_iff_ne.2 hb, Bool.false_or] at h
          rw [List.map_cons, if_neg (by simpa using hb), List.find?_cons_of_neg (by simpa using hb), ih h]
    rw [found]; rfl
  · next h =>
    have absent : l.laps.find? (fun b => b.lap == a.lap) = none := by
      rw [List.find?_eq_none]
      exact fun b hb hba => h (List.any_eq_true.2 ⟨b, hb, hba⟩)
    simp [List.find?_append, absent]

theorem State.lap_modLiftPort (s : State) (x : Side) (f : LiftPort → LiftPort) (d : Nat) :
    (s.modLiftPort x f).lift.lap d = s.lift.lap d := rfl

/-- A mask taken into its lap. -/
def DemandLap.take (a : DemandLap) (bits : BitVec 256) : DemandLap := { a with bits := a.bits ||| bits, others := a.others + 1 }

/-- A demand chair whose lap ends here: its mask is in its lap, and its entry is free. -/
def State.demandRetired (s : State) (h : ChairHdr) (bits : BitVec 256) : State :=
  ((s.modLift (fun l => l.setLap ((l.lap h.seq.toNat).take bits))).modLiftPort .down (fun p =>
    { p with demandFreed := p.demandFreed + 1 })).count pLFC 0x118 1

theorem State.lap_demandRetired (s : State) (h : ChairHdr) (bits : BitVec 256) :
    (s.demandRetired h bits).lift.lap h.seq.toNat = (s.lift.lap h.seq.toNat).take bits := by
  have lapSet := s.lift.lap_setLap ((s.lift.lap h.seq.toNat).take bits)
  rw [show ((s.lift.lap h.seq.toNat).take bits).lap = h.seq.toNat from s.lift.lap_lap _] at lapSet
  exact lapSet

theorem State.rxDemand_demandRetired (s : State) (h : ChairHdr) (bits : BitVec 256) (y : Side) :
    ((s.demandRetired h bits).liftPort y).rxDemand = (s.liftPort y).rxDemand := by
  have lapSet : ((s.modLift (fun l => l.setLap ((l.lap h.seq.toNat).take bits))).liftPort y) = s.liftPort y := by
    have hport : (s.lift.setLap ((s.lift.lap h.seq.toNat).take bits)).port = s.lift.port := by
      unfold Lift.setLap; split <;> rfl
    simp only [State.liftPort, State.modLift, hport]
  have freed := State.received_modLiftPort (s.modLift (fun l => l.setLap ((l.lap h.seq.toNat).take bits))) .down
    (fun p => { p with demandFreed := p.demandFreed + 1 }) (fun _ => rfl) (fun _ => rfl)
  exact (freed.rxDemand y).trans (by rw [lapSet])

/-- A retired demand chair of a lap that this station has not sent in ends in its lap: the lap is not whole yet. -/
theorem State.takeDemand_retired {s : State} {h : ChairHdr} (hret : s.retires h = true)
    (hopen : (s.lift.lap h.seq.toNat).sent = false) (bits : BitVec 256) : s.takeDemand h bits = s.demandRetired h bits := by
  have retires : (s.modLift (fun l => l.setLap ((l.lap h.seq.toNat).take bits))).retires h = true := hret
  have unfinished : (s.demandRetired h bits).finishLap h.seq.toNat = s.demandRetired h bits := by
    have sent : ((s.demandRetired h bits).lift.lap h.seq.toNat).sent = false := by rw [s.lap_demandRetired]; exact hopen
    simp [State.finishLap, sent]
  rw [← unfinished]
  unfold State.takeDemand
  exact congrArg (State.finishLap · h.seq.toNat) (if_pos retires)

/-- A demand chair that is alone in its entries and whose lap may enter is taken into its lap. -/
theorem State.admitDemands_one {s : State} {h : ChairHdr} {bits : BitVec 256} (hd : (s.liftPort .down).rxDemand = [(h, bits)])
    (henter : h.seq.toNat < s.lift.demanded + 4) (hret : s.retires h = true) (hopen : (s.lift.lap h.seq.toNat).sent = false)
    (fuel : Nat) :
    State.admitDemands (fuel + 2) s = (s.modLiftPort .down (fun p => { p with rxDemand := [] })).demandRetired h bits := by
  have none_left :
      (((s.modLiftPort .down (fun p => { p with rxDemand := [] })).demandRetired h bits).liftPort .down).rxDemand = [] := by
    rw [State.rxDemand_demandRetired, State.liftPort_modLiftPort, if_pos rfl]
  have taken := State.takeDemand_retired (s := s.modLiftPort .down (fun p => { p with rxDemand := [] })) hret hopen bits
  rw [State.admitDemands, hd]
  simp only [henter, if_true, taken]
  rw [State.admitDemands, none_left]

/-- The state in which a demand chair waits in its port's entries. -/
def State.demandEntered (s : State) (x : Side) (f : LiftFrame) : State :=
  (s.frameAccepted x).modLiftPort x (fun p =>
    { p with rxDemand := p.rxDemand ++ [(chairHdrOf x f.hdr, BitVec.ofNat 256 (leNat f.data))] })

section
variable (s : State) (x : Side) (f : LiftFrame)

theorem State.retires_demandEntered (h : ChairHdr) : (s.demandEntered x f).retires h = s.retires h :=
  State.retires_congr (by simp [State.demandEntered, State.frameAccepted]) h

theorem State.demanded_demandEntered : (s.demandEntered x f).lift.demanded = s.lift.demanded := rfl

theorem State.lap_demandEntered (d : Nat) : (s.demandEntered x f).lift.lap d = s.lift.lap d := rfl

end

theorem exec_demandChairRx {s : State} {x : Side} {f : LiftFrame} (h : s.takes x f .ok = true) (htype : leAt f.hdr 0 1 / 16 = 0)
    (hkind : leAt f.hdr 1 1 % 4 = 3) :
    exec (.demandChairRx x f) s = .next (State.admitDemands 4 ((s.linkFields x f.hdr).demandEntered x f)) :=
  congrArg _ (State.receive_taken h (by simp [htype, hkind]) ..)

/-- Settles O28: the link fields leave what the ports have received; a one-frame chair then enters, arrives and stays held,
and a demand chair enters, is ORed into its lap and frees its entry. -/
theorem chairsArrive : Obligations.ChairsArrive := by
  intro s x f htakes
  have link := s.received_linkFields x f.hdr
  refine ⟨fun htype hkind hrows hidx hfirst hret hpres hreg hmask hheld => ?_,
    fun htype hkind hx hnone henter hret hopen => ?_⟩
  · have held : (s.linkFields x f.hdr).lift.held = [] := by rw [link.lift]; exact hheld
    rw [exec_chairFrame htakes htype hkind, State.takeFrame_retired hkind hrows hidx ((link.rxChair x).trans hfirst) hret,
      State.chairArrived_retired (by rw [State.retires_frameEntered]; exact hret)
        (by rw [State.unpresented_frameEntered]; exact hpres) (by rw [State.regionless_frameEntered]; exact hreg) hmask
        (by rw [State.held_frameEntered]; exact held)]
    refine ⟨_, rfl, rfl, ?_⟩
    rw [State.modLift_counter, State.counter_count, if_pos ⟨rfl, rfl⟩, State.counter_frameEntered]
    rfl
  · subst hx
    have alone : (((s.linkFields .down f.hdr).demandEntered .down f).liftPort .down).rxDemand =
        [(chairHdrOf .down f.hdr, BitVec.ofNat 256 (leNat f.data))] := by
      simp [State.demandEntered, State.frameAccepted, State.liftPort_modLiftPort, link.rxDemand, hnone]
    have demanded : (s.linkFields .down f.hdr).lift.demanded = s.lift.demanded := by rw [link.lift]
    rw [exec_demandChairRx htakes htype hkind, State.admitDemands_one alone
      (by rw [State.demanded_demandEntered, demanded]; exact henter) (by rw [State.retires_demandEntered]; exact hret)
      (by rw [State.lap_demandEntered]; exact hopen)]
    refine ⟨_, rfl, ?_, ?_, ?_⟩
    · rw [State.rxDemand_demandRetired, State.liftPort_modLiftPort, if_pos rfl]
    · rw [State.lap_demandRetired, State.lap_modLiftPort, State.lap_demandEntered]; rfl
    · rw [State.lap_demandRetired, State.lap_modLiftPort, State.lap_demandEntered]; rfl

end Sys2Proof.Machine
end

section
/-!
Proofs of chapter 03: what the fault of a job leaves of a core's engines (R379), what a completed command leaves (R138, R165,
R174), and the frames of the engines' operations. The proofs of the chapter's statements follow.
-/
namespace Sys2Proof.Machine

/-! ## Reports on a core's pages (R454, R456) -/

theorem pageBlk_corePage (n : CoreId) {k : Nat} (hk : k < 8) : (pageBlk (corePage n.val k)).isSome = true := by
  have hn := n.isLt
  have h0 : ¬ corePage n.val k < 16 := by unfold corePage; omega
  have h1 : ¬ corePage n.val k < 0x24 := by unfold corePage; omega
  have h2 : 0x100 ≤ corePage n.val k ∧ corePage n.val k < 0x500 ∧ corePage n.val k % 16 < 8 := by unfold corePage; omega
  rw [pageBlk, if_neg h0, if_neg h1, if_pos h2]
  rfl

theorem State.reported_raise (s : State) (n : CoreId) {k b : Nat} (i j : Word) (hk : k < 8) (hb : b < 32) :
    bit ((s.raise (corePage n.val k) b i j).page (corePage n.val k)).err b = true :=
  s.raised _ b i j (pageBlk_corePage n hk) hb

/-- The fault of a core's job keeps what `PlacementKept` names (R379). -/
theorem State.kept_faultCore (s : State) (n p b : Nat) : s.PlacementKept (s.faultCore n p b) := by
  unfold State.faultCore
  split
  · exact s.kept_faultTask ..
  · exact s.kept_modCore n Core.stopIssue (fun _ => rfl) (fun _ => rfl)

theorem State.kept_raiseFault (s : State) (n k b : Nat) (i j : Word) : s.PlacementKept (s.raiseFault n k b i j) :=
  (s.kept_raise ..).trans (State.kept_faultCore ..)

theorem State.reported_raiseFault (s : State) (n : CoreId) {k b : Nat} (i j : Word) (hk : k < 8) (hb : b < 32) :
    bit ((s.raiseFault n.val k b i j).page (corePage n.val k)).err b = true :=
  (State.kept_faultCore ..).errKept.kept _ _ (s.reported_raise n i j hk hb)

/-! ## What the fault of a job leaves of the engines (R379, R286) -/

/-- From `s` to `t` the engines of every core stand, and commands can only have left their queues. -/
structure State.EnginesKept (s t : State) : Prop where
  frame : ∀ m, t.core m = { s.core m with seq := (t.core m).seq, spm := (t.core m).spm, inflight := (t.core m).inflight }
  inflight : ∀ m, (t.core m).inflight.Sublist (s.core m).inflight

theorem State.enginesKept_of_core {s t : State} (h : ∀ m, t.core m = s.core m) : s.EnginesKept t :=
  ⟨fun m => by rw [h], fun m => by rw [h]⟩

theorem State.EnginesKept.refl (s : State) : s.EnginesKept s := State.enginesKept_of_core fun _ => rfl

theorem State.EnginesKept.trans {s t u : State} (h : s.EnginesKept t) (g : t.EnginesKept u) : s.EnginesKept u where
  frame m := by rw [g.frame, h.frame]
  inflight m := (g.inflight m).trans (h.inflight m)

theorem State.EnginesKept.foldl {α : Type} {f : State → α → State} (hf : ∀ (s : State) a, s.EnginesKept (f s a)) (l : List α) :
    ∀ s : State, s.EnginesKept (l.foldl f s) := by
  induction l with
  | nil => exact .refl
  | cons a l ih => exact fun s => (hf s a).trans (ih _)

theorem State.engines_modCore (s : State) (n : Nat) (f : Core → Core)
    (hf : ∀ k, f k = { k with seq := (f k).seq, spm := (f k).spm, inflight := (f k).inflight })
    (hin : ∀ k, (f k).inflight.Sublist k.inflight) : s.EnginesKept (s.modCore n f) where
  frame m := by
    rw [State.core_modCore]
    split
    · next h => rw [h]; exact hf _
    · rfl
  inflight m := by
    rw [State.core_modCore]
    split
    · next h => rw [h]; exact hin _
    · exact .refl _

theorem State.engines_stopIssue (s : State) (n : Nat) : s.EnginesKept (s.modCore n Core.stopIssue) :=
  s.engines_modCore n _ (fun _ => rfl) (fun _ => .refl _)

theorem State.engines_faultLocal (s : State) (t : Nat) (code : Word) : s.EnginesKept (s.faultLocal t code) := by
  unfold State.faultLocal
  split
  · exact .refl s
  · split
    · exact .refl s
    · refine State.EnginesKept.trans ?_ (State.EnginesKept.foldl (fun s n => s.engines_stopIssue n) _ _)
      split
      · exact .refl s
      · exact State.enginesKept_of_core fun m => State.modJob_core ..

theorem State.core_sendTrv (s : State) (p : TPort) (h : TrvHdr) (data : List Byte) (m : Nat) :
    (s.sendTrv p h data).core m = s.core m := by
  unfold State.sendTrv
  split
  · exact State.modTrv_core ..
  · unfold State.emitTrv
    simp only []
    split <;> rfl

theorem State.engines_discardTrv (s : State) (p : TPort) (peers : List (BitVec 15)) : s.EnginesKept (s.discardTrv p peers) := by
  unfold State.discardTrv
  simp only []
  refine State.EnginesKept.trans (State.EnginesKept.foldl (fun s o => ?_) _ s) (State.enginesKept_of_core fun m => State.modTrv_core ..)
  exact s.engines_modCore _ _ (fun _ => rfl) (fun _ => .refl _)

/-- The abort of a traverse job drops traverse commands from the cores' queues (R286). -/
theorem State.engines_abortTraverse (s : State) (sends : Bool) (told : List (BitVec 15)) :
    s.EnginesKept (s.abortTraverse sends told) := by
  have aborted (s : State) (p : TPort) (epoch : BitVec 16) (dsts : List (BitVec 15)) : s.EnginesKept (s.sendAborts p epoch dsts) :=
    State.EnginesKept.foldl (fun s _ => State.enginesKept_of_core fun _ => s.core_sendTrv ..) dsts s
  unfold State.abortTraverse
  refine State.EnginesKept.trans (State.EnginesKept.foldl (fun s p => ?_) _ s) (State.EnginesKept.foldl (fun s n => ?_) _ _)
  · simp only []
    refine State.EnginesKept.trans ?_ (State.engines_discardTrv _ p _)
    split
    · exact (aborted s p _ _).trans (State.enginesKept_of_core fun m => State.modTrv_core ..)
    · exact .refl s
  · exact s.engines_modCore n _ (fun _ => rfl) (fun _ => List.filter_sublist)

theorem State.engines_tellPeers (s : State) (j : Job) (lift traverse : Bool) : s.EnginesKept (s.tellPeers j lift traverse) := by
  have noticed : s.EnginesKept
      (if lift && j.lift && s.lift.isFormed then s.sendMsg .up (.notice true s.liftPos 0) else s) := by
    split
    · exact State.enginesKept_of_core fun _ => rfl
    · exact .refl s
  unfold State.tellPeers
  simp only []
  split
  · exact noticed.trans (State.engines_abortTraverse ..)
  · exact noticed

/-- The fault of a core's job leaves the engines of every core (R379). -/
theorem State.engines_faultCore (s : State) (n p b : Nat) : s.EnginesKept (s.faultCore n p b) := by
  unfold State.faultCore State.faultTask
  split
  · split
    · split
      · exact s.engines_faultLocal ..
      · exact (s.engines_faultLocal ..).trans (State.engines_tellPeers ..)
    · exact .refl s
  · exact s.engines_stopIssue n

theorem State.engines_raise (s : State) (p b : Nat) (i j : Word) : s.EnginesKept (s.raise p b i j) :=
  State.enginesKept_of_core (s.raises_raise p b i j).core

theorem State.engines_raiseFault (s : State) (n k b : Nat) (i j : Word) : s.EnginesKept (s.raiseFault n k b i j) :=
  (s.engines_raise ..).trans (State.engines_faultCore ..)

section
variable {s t : State} (h : s.EnginesKept t) (m : Nat)
include h

theorem State.EnginesKept.arr : (t.core m).arr = (s.core m).arr := by rw [h.frame]
theorem State.EnginesKept.sch : (t.core m).sch = (s.core m).sch := by rw [h.frame]

end

/-! ## Commands in flight (R160-R165) -/

/-- The command with this number after an update of it that keeps its number. -/
theorem Core.command_updateCmd (k : Core) (id : Nat) (f : EngCmd → EngCmd) (hf : ∀ d, (f d).id = d.id) :
    (k.updateCmd id f).command id = (k.command id).map f := by
  have hid (d : EngCmd) : (if d.id = id then f d else d).id = d.id := by split <;> simp [hf]
  simp only [Core.command, Core.updateCmd, List.find?_map, Function.comp_def, hid]
  cases h : k.inflight.find? (fun d => d.id == id) with
  | none => rfl
  | some d =>
    have hd := List.find?_some h
    simp [beq_iff_eq.1 hd]

theorem Core.command_eq_none {k : Core} {id : Nat} (h : ∀ d ∈ k.inflight, d.id ≠ id) : k.command id = none := by
  simpa [Core.command] using h

theorem Core.command_eq_none_of_sublist {k : Core} {id : Nat} {l : List EngCmd}
    (h : k.inflight.Sublist (l.filter (fun d => d.id != id))) : k.command id = none :=
  Core.command_eq_none fun d hd => by simpa using (List.mem_filter.1 (h.subset hd)).2

/-- Core `k'` is core `k` after signals were added and commands left their queues. -/
structure Core.Signalled (k k' : Core) : Prop where
  frame : k' = { k with spm := { k.spm with tokens := k'.spm.tokens }, inflight := k'.inflight }
  inflight : k'.inflight.Sublist k.inflight

theorem Core.Signalled.trans {k l m : Core} (h : k.Signalled l) (g : l.Signalled m) : k.Signalled m where
  frame := by rw [g.frame, h.frame]
  inflight := g.inflight.trans h.inflight

theorem Spm.signal_frame (m : Spm) (sg : Option (Byte × Byte)) : m.signal sg = { m with tokens := (m.signal sg).tokens } := by
  cases sg <;> rfl

theorem Core.signalled_drop (k : Core) (sg : Option (Byte × Byte)) (p : EngCmd → Bool) :
    k.Signalled { k with spm := k.spm.signal sg, inflight := k.inflight.filter p } where
  frame := by rw [Spm.signal_frame]
  inflight := List.filter_sublist

theorem Core.signalled_flushSignals (fuel : Nat) : ∀ (k : Core) (r : Requester), k.Signalled (Core.flushSignals fuel k r) := by
  induction fuel with
  | zero => exact fun k _ => ⟨rfl, .refl _⟩
  | succ fuel ih =>
    intro k r
    unfold Core.flushSignals
    split
    · exact ⟨rfl, .refl _⟩
    · split
      · exact (k.signalled_drop _ _).trans (ih ..)
      · exact ⟨rfl, .refl _⟩

theorem Core.signalled_without (k : Core) (c : EngCmd) : k.Signalled (k.without c) :=
  (k.signalled_drop c.sig (fun e => e.id != c.id)).trans (Core.signalled_flushSignals 17 _ c.req)

theorem Core.command_without (k : Core) (c : EngCmd) : (k.without c).command c.id = none :=
  Core.command_eq_none_of_sublist (Core.signalled_flushSignals 17 _ c.req).inflight

section
variable {k k' : Core} (h : k.Signalled k')
include h

theorem Core.Signalled.arr : k'.arr = k.arr := by rw [h.frame]
theorem Core.Signalled.sch : k'.sch = k.sch := by rw [h.frame]
theorem Core.Signalled.rows : k'.spm.rows = k.spm.rows := by rw [h.frame]

end

@[simp] theorem State.core_complete (s : State) (n : Nat) (c : EngCmd) : (s.complete n c).core n = (s.core n).without c :=
  State.core_modCore_same ..

theorem State.frame_complete (s : State) (n : Nat) (c : EngCmd) : s.CoreFrame (s.complete n c) n := s.frame_modCore ..

@[simp] theorem State.counter_complete (s : State) (n : Nat) (c : EngCmd) (p o : Nat) :
    (s.complete n c).counter p o = s.counter p o := rfl

/-! ## Accesses that are over (R140, R152) -/

@[simp] theorem State.core_countRows (s : State) (n r w m : Nat) : (s.countRows n r w).core m = s.core m := by
  unfold State.countRows
  split <;> split <;> rfl

theorem State.frame_countRows (s : State) (n r w : Nat) : s.CoreFrame (s.countRows n r w) n := by
  have reads : s.CoreFrame (if r = 0 then s else s.count (corePage n kSPM) 0x100 r) n := by
    split
    · exact .refl s n
    · exact s.frame_count n kSPM _ _ (by decide)
  unfold State.countRows
  simp only []
  split
  · exact reads
  · exact reads.trans (State.frame_count _ n kSPM _ _ (by decide))

theorem State.spendRace_of_nil (s : State) {c : EngCmd} (h : c.races = []) : s.spendRace c = s := by
  simp [State.spendRace, h]

theorem Core.raceHeld_of_nil (k : Core) (free : Nat) {c : EngCmd} (h : c.races = []) : k.raceHeld free c = false := by
  simp [Core.raceHeld, h]

/-- Without a racing write an operand reads its rows as they stand (R140). -/
theorem State.readFor_of_nil (s : State) (n : Nat) {c : EngCmd} (h : c.races = []) (o : Operand) :
    s.readFor n c o = (s.core n).spm.reads o := by
  have hrow : (s.core n).spm.readRow [] c.rivals s.free = (s.core n).spm.row := funext fun x => rfl
  simp only [State.readFor, Spm.readOperand, Spm.reads, h, hrow]

/-- A command whose accesses are over. -/
def EngCmd.done (c : EngCmd) : EngCmd := { c with stage := .performed }

section
variable (s : State) (n : Nat) {c : EngCmd} (h : c.races = []) (r w : Nat)
include h

theorem State.core_performed : (s.performed n c r w).core n = (s.core n).updateCmd c.id EngCmd.done := by
  rw [State.performed, State.spendRace_of_nil _ h, State.core_countRows]
  exact State.core_modCore_same ..

theorem State.frame_performed : s.CoreFrame (s.performed n c r w) n := by
  rw [State.performed, State.spendRace_of_nil _ h]
  exact (s.frame_markStage ..).trans (State.frame_countRows ..)

end

/-! ## The array and the schuss path after a write -/

/-- The array with partition `p` written. -/
def Arr.setPart (a : Arr) (p : Nat) (x : Part) : Arr := { a with parts := a.parts.set partDefault p x }

theorem Arr.part_setPart (a : Arr) (p q : Nat) (x : Part) : (a.setPart p x).part q = if q = p then x else a.part q :=
  SMap.get_set ..

@[simp] theorem Arr.part_setPart_same (a : Arr) (p : Nat) (x : Part) : (a.setPart p x).part p = x := SMap.get_set_same ..
@[simp] theorem Arr.acc_setPart (a : Arr) (p : Nat) (x : Part) : (a.setPart p x).acc = a.acc := rfl

theorem State.frame_modArr (s : State) (n : Nat) (f : Arr → Arr) : s.CoreFrame (s.modArr n f) n := s.frame_modCore ..
theorem State.frame_modPart (s : State) (n p : Nat) (f : Part → Part) : s.CoreFrame (s.modPart n p f) n := s.frame_modArr ..
theorem State.frame_modSch (s : State) (n : Nat) (f : Sch → Sch) : s.CoreFrame (s.modSch n f) n := s.frame_modCore ..

@[simp] theorem State.core_modArr_same (s : State) (n : Nat) (f : Arr → Arr) :
    (s.modArr n f).core n = { s.core n with arr := f (s.core n).arr } := State.core_modCore_same ..
@[simp] theorem State.core_modPart_same (s : State) (n p : Nat) (f : Part → Part) :
    (s.modPart n p f).core n = { s.core n with arr := (s.core n).arr.setPart p (f ((s.core n).arr.part p)) } :=
  State.core_modArr_same ..
@[simp] theorem State.core_modSch_same (s : State) (n : Nat) (f : Sch → Sch) :
    (s.modSch n f).core n = { s.core n with sch := f (s.core n).sch } := State.core_modCore_same ..

@[simp] theorem State.modPart_page (s : State) (n p : Nat) (f : Part → Part) (q : Nat) : (s.modPart n p f).page q = s.page q := rfl
@[simp] theorem State.modSch_page (s : State) (n : Nat) (f : Sch → Sch) (q : Nat) : (s.modSch n f).page q = s.page q := rfl

end Sys2Proof.Machine
end

section
/-!
Proofs of chapter 03: the watchdogs of the array, the schuss path, the row engine and the streams (R66, R81, R197, R223).
-/
namespace Sys2Proof.Machine

/-! ## Engines that stop (R65, R81) -/

/-- A partition that stops: its weights are invalid and its aborted passes never start again (R65). -/
theorem State.arr_stopPartition (s : State) (n p source b : Nat) : ((s.stopPartition n p source b).core n).arr =
    (s.core n).arr.setPart p { (s.core n).arr.part p with
      stopped := true, fault := word (source * 8192 + b * 256), weights := none, aborted := [] } := by
  simp [State.stopPartition]

theorem State.page_stopPartition (s : State) (n p source b q : Nat) : (s.stopPartition n p source b).page q = s.page q := rfl

theorem Core.foldl_dropCmd_arr (ids : List Nat) : ∀ k : Core, (ids.foldl Core.dropCmd k).arr = k.arr := by
  induction ids with
  | nil => exact fun _ => rfl
  | cons id ids ih => exact fun k => ih _

theorem Core.foldl_dropCmd_sch (ids : List Nat) : ∀ k : Core, (ids.foldl Core.dropCmd k).sch = k.sch := by
  induction ids with
  | nil => exact fun _ => rfl
  | cons id ids ih => exact fun k => ih _

theorem State.sch_stopSchuss (s : State) (n : Nat) : ((s.stopSchuss n).core n).sch =
    { (s.core n).sch with stopped := true, aborted := [] } := by
  simp [State.stopSchuss]

theorem State.page_stopSchuss (s : State) (n q : Nat) : (s.stopSchuss n).page q = s.page q := rfl

/-! ## ARRAY_HANG (R66) -/

/-- The state in which a hang of a partition has been reported and its passes have ended. -/
def State.arrayHung (s : State) (n p : Nat) : State :=
  let hit := ((s.core n).arr.part p).running.map (·.cmd)
  ((s.count (corePage n kARR) 0x130 hit.length).raise (corePage n kARR) 7 (arrInfo 1 0 7 p)
    ((s.core n).numberOf (hit.headD 0))).modPart n p (fun q => { q with running := [], weights := none })

theorem State.arr_arrayHung (s : State) (n p : Nat) : ((s.arrayHung n p).core n).arr =
    (s.core n).arr.setPart p { (s.core n).arr.part p with running := [], weights := none } := by
  rw [State.arrayHung, State.core_modPart_same, (State.raises_raise ..).core, State.count_core]

theorem State.reported_arrayHung (s : State) (n : CoreId) (p : Nat) :
    bit ((s.arrayHung n.val p).page (corePage n.val kARR)).err 7 = true := by
  rw [State.arrayHung, State.modPart_page]
  exact State.reported_raise _ n _ _ (by decide) (by decide)

/-- A hang of a partition is reported, and either its passes await replay or, with the job faulted, the partition stops. -/
theorem exec_arrayHang {s : State} {n : CoreId} {p : Fin 16} (hready : s.phase = .ready)
    (hon : bit (s.reg (corePage n.val kARR) 0x40) 0 = true) (hrun : ((s.core n.val).arr.part p.val).running ≠ []) :
    let u := s.arrayHung n.val p.val
    ∃ ids, exec (.arrayHang n p) s = .next (u.modPart n.val p.val (fun q => { q with aborted := ids ++ q.aborted })) ∨
      ∃ v, u.EnginesKept v ∧ u.ErrKept v ∧ exec (.arrayHang n p) s =
        .next ((v.modCore n.val (fun k => ids.foldl Core.dropCmd k)).stopPartition n.val p.val 0 7) := by
  intro u
  have hexec : exec (.arrayHang n p) s = execArrayHang n p s := rfl
  rw [hexec, execArrayHang, if_neg (by simp [hon, hready, hrun])]
  refine ⟨((s.core n.val).arr.part p.val).running.map (·.cmd), ?_⟩
  simp only []
  split
  · exact .inl rfl
  · refine .inr ?_
    split
    · exact ⟨_, State.engines_raiseFault .., (State.kept_raiseFault ..).errKept, rfl⟩
    · exact ⟨_, State.engines_faultCore .., (State.kept_faultCore ..).errKept, rfl⟩

theorem arrayHang_ends (s : State) (n : CoreId) (p : Fin 16) (hready : s.phase = .ready)
    (hon : bit (s.reg (corePage n.val kARR) 0x40) 0 = true) (hrun : ((s.core n.val).arr.part p.val).running ≠ []) :
    ∃ t, exec (.arrayHang n p) s = .next t ∧ ((t.core n.val).arr.part p.val).running = [] ∧
      ((t.core n.val).arr.part p.val).weights = none ∧ (t.core n.val).arr.acc = (s.core n.val).arr.acc ∧
      bit (t.page (corePage n.val kARR)).err 7 = true := by
  obtain ⟨ids, hexec | ⟨v, hv, herr, hexec⟩⟩ := exec_arrayHang hready hon hrun
  · refine ⟨_, hexec, ?_⟩
    simp [State.arr_arrayHung, State.reported_arrayHung]
  · refine ⟨_, hexec, ?_⟩
    rw [State.page_stopPartition, State.modCore_page, State.arr_stopPartition, State.core_modCore_same,
      Core.foldl_dropCmd_arr, hv.arr, State.arr_arrayHung]
    simp [herr.kept _ _ (s.reported_arrayHung n p.val)]

/-! ## SCHUSS_HANG (R81) -/

/-- The state in which a hang of the schuss path has been reported and its sweeps have ended. -/
def State.schussHung (s : State) (n : Nat) : State :=
  let hit := (s.core n).sch.running.map (·.cmd)
  ((s.count (corePage n kSCH) 0x128 hit.length).raise (corePage n kSCH) 5 (schInfo 1 0 5)
    ((s.core n).numberOf (hit.headD 0))).modSch n (fun v => { v with running := [] })

theorem State.sch_schussHung (s : State) (n : Nat) :
    ((s.schussHung n).core n).sch = { (s.core n).sch with running := [] } := by
  rw [State.schussHung, State.core_modSch_same, (State.raises_raise ..).core, State.count_core]

theorem State.reported_schussHung (s : State) (n : CoreId) :
    bit ((s.schussHung n.val).page (corePage n.val kSCH)).err 5 = true := by
  rw [State.schussHung, State.modSch_page]
  exact State.reported_raise _ n _ _ (by decide) (by decide)

/-- A hang of the schuss path is reported, and either its sweeps await replay or, with the job faulted, the path stops. -/
theorem exec_schussHang {s : State} {n : CoreId} (hready : s.phase = .ready)
    (hon : bit (s.reg (corePage n.val kSCH) 0x40) 0 = true) (hrun : (s.core n.val).sch.running ≠ []) :
    let u := s.schussHung n.val
    ∃ ids, exec (.schussHang n) s = .next (u.modSch n.val (fun v => { v with aborted := ids ++ v.aborted })) ∨
      ∃ v, u.EnginesKept v ∧ u.ErrKept v ∧ exec (.schussHang n) s =
        .next ((v.modCore n.val (fun k => ids.foldl Core.dropCmd k)).stopSchuss n.val) := by
  intro u
  have hexec : exec (.schussHang n) s = execSchussHang n s := rfl
  rw [hexec, execSchussHang, if_neg (by simp [hon, hready, hrun])]
  refine ⟨(s.core n.val).sch.running.map (·.cmd), ?_⟩
  simp only []
  split
  · exact .inl rfl
  · refine .inr ?_
    split
    · exact ⟨_, State.engines_raiseFault .., (State.kept_raiseFault ..).errKept, rfl⟩
    · exact ⟨_, State.engines_faultCore .., (State.kept_faultCore ..).errKept, rfl⟩

theorem schussHang_ends (s : State) (n : CoreId) (hready : s.phase = .ready)
    (hon : bit (s.reg (corePage n.val kSCH) 0x40) 0 = true) (hrun : (s.core n.val).sch.running ≠ []) :
    ∃ t, exec (.schussHang n) s = .next t ∧ (t.core n.val).sch.running = [] ∧
      (t.core n.val).sch.sums = (s.core n.val).sch.sums ∧ bit (t.page (corePage n.val kSCH)).err 5 = true := by
  obtain ⟨ids, hexec | ⟨v, hv, herr, hexec⟩⟩ := exec_schussHang hready hon hrun
  · refine ⟨_, hexec, ?_⟩
    simp [State.sch_schussHung, State.reported_schussHung]
  · refine ⟨_, hexec, ?_⟩
    rw [State.page_stopSchuss, State.modCore_page, State.sch_stopSchuss, State.core_modCore_same, Core.foldl_dropCmd_sch, hv.sch,
      State.sch_schussHung]
    exact ⟨rfl, rfl, herr.kept _ _ (s.reported_schussHung n)⟩

/-! ## ROW_HANG and STREAM_HANG (R197, R223) -/

theorem rowHang_ends (s : State) (n : CoreId) (hready : s.phase = .ready)
    (hon : bit (s.reg (corePage n.val kROW) 0x40) 0 = true)
    (hgo : ((s.core n.val).queueOf .row).head?.any (s.rowGoes n.val) = true) :
    ∃ t, exec (.rowHang n) s = .next t ∧ (t.core n.val).row.stopped = true ∧ (t.core n.val).queueOf .row = [] ∧
      bit (t.page (corePage n.val kROW)).err 4 = true := by
  have hexec : exec (.rowHang n) s = execRowHang n s := rfl
  rw [hexec, execRowHang, if_neg (by simp [hon, hready, hgo])]
  refine ⟨_, rfl, ?_⟩
  rw [State.rowFault, State.modCore_page, State.core_modCore_same]
  refine ⟨rfl, ?_, State.reported_raiseFault _ n _ _ (by decide) (by decide)⟩
  simp [Core.queueOf]

theorem streamHang_ends (s : State) (n : CoreId) (c : Fin 16) (d : EngCmd) (hready : s.phase = .ready)
    (hon : bit (s.reg (corePage n.val kSTR) 0x40) 0 = true) (hd : ((s.core n.val).queueOf (.ctx c)).head? = some d)
    (htags : d.tags ≠ 0) :
    ∃ t, exec (.streamHang n c) s = .next t ∧ (t.core n.val).command d.id = none ∧
      bit (t.page (corePage n.val kSTR)).err 7 = true := by
  have hexec : exec (.streamHang n c) s = execStreamHang n c s := rfl
  rw [hexec, execStreamHang, if_neg (by simp [hon, hready])]
  simp only [hd, if_neg htags]
  refine ⟨_, rfl, ?_⟩
  rw [State.dropCmd, State.modCore_page, State.core_modCore_same]
  exact ⟨Core.command_eq_none_of_sublist (.refl _), State.reported_raiseFault _ n _ _ (by decide) (by decide)⟩

/-- Settles O16: each watchdog reports its event, which no later fault of the job clears, and what the fault leaves of the
engine is ended by the command's last write. -/
theorem hangs : Obligations.Hangs := by
  intro s n hready k
  exact ⟨fun p => arrayHang_ends s n p hready, schussHang_ends s n hready, rowHang_ends s n hready,
    fun c d hon hd htags => streamHang_ends s n c d hready hon hd htags⟩

end Sys2Proof.Machine
end

section
/-!
Proofs of chapter 03: what DRAIN, FILL and VLOAD leave when they complete (R54, R73, R169).
-/
namespace Sys2Proof

/-! ## Runs of writes -/

/-- A run of writes leaves every other key. -/
theorem SMap.get_foldl_set_of_not_mem {α : Type} [DecidableEq α] (d : Nat → α) (es : List (Nat × α)) {j : Nat} :
    ∀ m : SMap α, j ∉ es.map Prod.fst → (es.foldl (fun m e => m.set d e.1 e.2) m).get d j = m.get d j := by
  induction es with
  | nil => exact fun _ _ => rfl
  | cons e es ih =>
    intro m hj
    rw [List.map_cons, List.mem_cons, not_or] at hj
    rw [List.foldl_cons, ih _ hj.2, SMap.get_set_other _ _ _ hj.1]

/-- After a run of writes of distinct keys each key reads as written. -/
theorem SMap.get_foldl_set_of_mem {α : Type} [DecidableEq α] (d : Nat → α) (es : List (Nat × α)) {e : Nat × α} :
    ∀ m : SMap α, (es.map Prod.fst).Nodup → e ∈ es → (es.foldl (fun m e => m.set d e.1 e.2) m).get d e.1 = e.2 := by
  induction es with
  | nil => exact fun _ _ he => absurd he List.not_mem_nil
  | cons a es ih =>
    intro m hnodup he
    rw [List.map_cons, List.nodup_cons] at hnodup
    rw [List.foldl_cons]
    obtain rfl | he := List.mem_cons.1 he
    · rw [SMap.get_foldl_set_of_not_mem d es _ hnodup.1, SMap.get_set_same]
    · exact ih _ hnodup.2 he

namespace Machine

/-! ## Commands that go on (R162, R165) -/

/-- What `mayGo` says. -/
theorem State.mayGo_iff (s : State) (n : Nat) (c : EngCmd) : s.mayGo n c = true ↔ s.engineRuns n = true ∧
    s.nextCmd n c.req = some c ∧ (s.core n).command c.id = some c ∧ (s.core n).ready c = true ∧ c.races = [] := by
  simp [State.mayGo, and_assoc]

theorem Core.ready_iff (k : Core) (c : EngCmd) : k.ready c = true ↔
    c.stage = .queued ∧ k.inTurn c = true ∧ k.spm.waitMet c.wait = true ∧ k.rowsFree c = true := by
  simp [Core.ready, and_assoc]

/-- A command that may go on does what its operation does. -/
theorem commandCompletion_eq {s : State} {n : CoreId} {c : EngCmd} (h : s.mayGo n.val c = true) :
    exec (.commandCompletion n c.req) s = .next (match ((performCmd n.val s c).core n.val).command c.id with
      | none => performCmd n.val s c
      | some d => if d.stage == .performed then (performCmd n.val s c).completed n.val d
                  else (performCmd n.val s c).countHeld n.val d) := by
  obtain ⟨hrun, hnext, -, hready, -⟩ := (s.mayGo_iff n.val c).1 h
  obtain ⟨hstage, -⟩ := (Core.ready_iff _ c).1 hready
  have hexec : exec (.commandCompletion n c.req) s = execCommandCompletion n c.req s := rfl
  rw [hexec, execCommandCompletion]
  have hqueued : (c.stage == .performed) = false := by rw [hstage]; rfl
  simp only [hrun, hnext, hqueued, Bool.not_true, Bool.false_eq_true, if_false]
  cases ((performCmd n.val s c).core n.val).command c.id with
  | none => rfl
  | some d => rfl

/-- A command whose accesses are over at once completes: its signal is added, and it leaves its queue. -/
theorem commandCompletion_performed {s u : State} {n : CoreId} {c : EngCmd} {r w : Nat} (h : s.mayGo n.val c = true)
    (hperf : performCmd n.val s c = u.performed n.val c r w) (hframe : s.CoreFrame u n.val)
    (hin : (u.core n.val).inflight = (s.core n.val).inflight)
    (hend : ∀ t : State, t.completed n.val c.done = t.complete n.val c.done) :
    ∃ t, exec (.commandCompletion n c.req) s = .next t ∧ s.CoreFrame t n.val ∧ (t.core n.val).command c.id = none ∧
      ((u.core n.val).updateCmd c.id EngCmd.done).Signalled (t.core n.val) := by
  obtain ⟨-, -, hc, -, hraces⟩ := (s.mayGo_iff n.val c).1 h
  have hdone : ((u.performed n.val c r w).core n.val).command c.id = some c.done := by
    rw [State.core_performed _ _ hraces, Core.command_updateCmd _ _ EngCmd.done (fun _ => rfl), Core.command, hin]
    exact congrArg (Option.map EngCmd.done) hc
  refine ⟨(u.performed n.val c r w).complete n.val c.done, ?_, ?_, ?_, ?_⟩
  · rw [commandCompletion_eq h, hperf]
    simp only [hdone]
    rw [hend]
    rfl
  · exact (hframe.trans (State.frame_performed _ _ hraces _ _)).trans (State.frame_complete ..)
  · rw [State.core_complete]; exact Core.command_without _ c.done
  · rw [State.core_complete, State.core_performed _ _ hraces]; exact Core.signalled_without ..

/-! ## Rows and entries -/

/-- What a write of rows leaves in the rows depends on the rows alone. -/
theorem Spm.rows_writeRows_congr (xs : List Nat) : ∀ (rs : List Row) (m m' : Spm), m.rows = m'.rows →
    (m.writeRows xs rs).rows = (m'.writeRows xs rs).rows := by
  induction xs with
  | nil => exact fun _ _ _ h => h
  | cons x xs ih =>
    intro rs m m' h
    cases rs with
    | nil => exact h
    | cons r rs => exact ih rs _ _ (congrArg (fun rows => SMap.set rows (fun _ => 0) x r) h)

/-- A plain destination is written row by row. -/
theorem State.core_writeFor (s : State) (n : Nat) (c : EngCmd) {o : Operand} (h : o.plain = true) (rows : List Row) :
    (s.writeFor n c o rows).core n = { s.core n with spm := ((s.core n).spm.keepOld c.id).writeRows o.rows rows } := by
  have hcirc : o.circ = none := by simpa [Operand.plain] using h
  simp [State.writeFor, hcirc]

theorem State.frame_writeFor (s : State) (n : Nat) (c : EngCmd) (o : Operand) (rows : List Row) :
    s.CoreFrame (s.writeFor n c o rows) n := s.frame_modSpm ..

/-- The keys of a drain's entries, file by file within a row and slot. -/
theorem DrainP.keys_entries (x : DrainP) : x.entries.map (·.2.2) = (List.range (16 * x.rows)).flatMap (fun v =>
    (List.range x.files).map (fun f => accKey (x.base + v / 16) (v % 16) (x.file0 + f))) := by
  simp [DrainP.entries, List.map_flatten, List.flatMap, Function.comp_def]

/-- Entries within the files of the accumulator are distinct (R52). -/
theorem DrainP.nodup_keys (x : DrainP) (h : x.inRange = true) : (x.entries.map (·.2.2)).Nodup := by
  have hfiles : x.file0 + x.files ≤ 256 := by
    simp only [DrainP.inRange, Bool.and_eq_true, decide_eq_true_eq] at h
    exact h.2
  rw [DrainP.keys_entries, List.nodup_flatMap]
  refine ⟨fun v _ => ?_, ?_⟩
  · refine List.nodup_range.map fun f g hfg => ?_
    simpa [accKey] using hfg
  · refine List.nodup_range.imp fun {v w} hvw => List.disjoint_left.2 fun key hv hw => ?_
    simp only [List.mem_map, List.mem_range] at hv hw
    obtain ⟨f, hf, hkey⟩ := hv
    obtain ⟨g, hg, rfl⟩ := hw
    simp only [accKey] at hkey
    omega

/-- The accumulator with words written in order. -/
def Arr.write (a : Arr) (es : List (Nat × Word)) : Arr :=
  { a with acc := es.foldl (fun m e => m.set wordZero e.1 e.2) a.acc }

/-- The words that a fill writes, by key: the elements of its rows in the order of its entries (R169). -/
def DrainP.fillWords (x : DrainP) (rows : List Row) : List (Nat × Word) :=
  x.entries.zipIdx.map (fun y => (y.1.2.2, word (rowElem (rows.getD (y.2 / 128) 0) 32 (y.2 % 128))))

theorem DrainP.keys_fillWords (x : DrainP) (rows : List Row) :
    (x.fillWords rows).map Prod.fst = x.entries.map (·.2.2) := by
  calc (x.fillWords rows).map Prod.fst = (x.entries.zipIdx.map Prod.fst).map (·.2.2) := by
        rw [DrainP.fillWords, List.map_map, List.map_map]; rfl
    _ = x.entries.map (·.2.2) := by rw [List.zipIdx_map_fst]

theorem DrainP.mem_fillWords (x : DrainP) (rows : List Row) {i : Nat} {y : Nat × Nat × Nat} (h : x.entries[i]? = some y) :
    (y.2.2, word (rowElem (rows.getD (i / 128) 0) 32 (i % 128))) ∈ x.fillWords rows :=
  List.mem_map.2 ⟨(y, i), List.mk_mem_zipIdx_iff_getElem?.2 h, rfl⟩

/-! ## DRAIN and FILL (R54, R169) -/

section
variable {s : State} {n : Nat} {c : EngCmd} {x : DrainP} (hready : (s.core n).ready c = true)
include hready

theorem performAcc_outOfRange (hop : c.op = .drain x ∨ c.op = .fill x) (hin : x.inRange = false) :
    performAcc n s c = s.accRange n c := by
  obtain ⟨hstage, hturn, hwait, -⟩ := (Core.ready_iff _ c).1 hready
  obtain hop | hop := hop <;> simp [performAcc, hop, hstage, hturn, hwait, hin]

section
variable (hin : x.inRange = true) (hahead : (s.core n).passAhead c = false)
include hin hahead

theorem performAcc_drain (hop : c.op = .drain x) (htracked : c.tracked = false) : performAcc n s c =
    (s.writeFor n c x.opnd (packRows x.fmt (((s.core n).drained x (s.draw n c)).map (·.2)))).performed n c 0
      x.opnd.rows.length := by
  obtain ⟨hstage, hturn, hwait, -⟩ := (Core.ready_iff _ c).1 hready
  simp [performAcc, hop, hstage, hturn, hwait, hin, hready, hahead, htracked, State.trackDrain]

theorem performAcc_fill (hop : c.op = .fill x) (hraces : c.races = []) : performAcc n s c =
    (s.modArr n (fun a => a.write (x.fillWords ((s.core n).spm.reads x.opnd)))).performed n c x.opnd.rows.length 0 := by
  obtain ⟨hstage, hturn, hwait, -⟩ := (Core.ready_iff _ c).1 hready
  simp [performAcc, hop, hstage, hturn, hwait, hin, hready, hahead, Core.raceHeld_of_nil _ _ hraces,
    State.readFor_of_nil _ _ hraces, DrainP.fillWords, Arr.write, List.foldl_map]

end
end

theorem State.engines_accRange (s : State) (n : Nat) (c : EngCmd) : s.EnginesKept (s.accRange n c) :=
  (s.engines_modCore n (fun k => { k with inflight := k.inflight.filter (fun d => d.id != c.id) }) (fun _ => rfl)
    (fun _ => List.filter_sublist)).trans (State.engines_raiseFault ..)

theorem State.command_accRange (s : State) (n : Nat) (c : EngCmd) : ((s.accRange n c).core n).command c.id = none := by
  refine Core.command_eq_none_of_sublist (l := (s.core n).inflight) ?_
  have h := (State.engines_raiseFault (s.modCore n (fun k => { k with inflight := k.inflight.filter (fun d => d.id != c.id) })) n
    kARR 1 (arrInfo 2 0 1 0) 0).inflight n
  rwa [State.core_modCore_same] at h

/-! ## VLOAD (R73, R82) -/

theorem Spm.failedSlots_plain (m : Spm) {os : List Operand} (h : ∀ o ∈ os, o.plain = true) : m.failedSlots os = [] := by
  simp only [Spm.failedSlots, List.flatten_eq_nil_iff, List.mem_map]
  rintro _ ⟨o, ho, rfl⟩
  have hcirc : o.circ = none := by simpa [Operand.plain] using h o ho
  rw [hcirc]

/-- The schuss path with a vector slot loaded. -/
def Sch.load (v : Sch) (slot : Nat) (x : VecSlot) : Sch := { v with vecs := v.vecs.set (fun _ => none) slot (some x) }

/-- A vector load from plain rows that no earlier sweep's vector holds back. -/
theorem performVload_plain {s : State} {n : Nat} {c : EngCmd} {slot fmt klen : Nat} {o : Operand}
    (hop : c.op = .vload slot fmt klen o) (hc : (s.core n).command c.id = some c) (hready : (s.core n).startReady c = true)
    (hplain : o.plain = true) (hraces : c.races = [])
    (hsweeps : (s.core n).inflight.any (fun d => decide (d.id < c.id) && d.sweepsSlot slot) = false) :
    performVload n s c =
      ((s.modSch n (fun v => v.load slot { fmt := fmt, klen := klen, rows := (s.core n).spm.reads o })).count (corePage n kSCH)
        0x110 ((s.core n).spm.reads o).length).performed n c o.rows.length 0 := by
  have hcirc : o.circ = none := by simpa [Operand.plain] using hplain
  have hbad := (s.core n).spm.failedSlots_plain (os := [o]) (by simpa using hplain)
  have hgather : s.gather n c [o] = s := by simp [State.gather, Spm.slotsOf, hcirc, State.takeSlots]
  have hall : (s.core n).gathered c [o] = true := by simp [Core.gathered, Spm.slotsOf, hcirc]
  have hrows : s.sources n c [o] c.got = [(s.core n).spm.reads o] := by
    simp [State.sources, hcirc, State.readFor_of_nil _ _ hraces]
  simp only [performVload, hop, hready, Core.raceHeld_of_nil _ _ hraces, hsweeps, hbad, hgather, hc, hall, hrows]
  rfl

/-! ## The results -/

section
variable {s : State} {n : CoreId} {c : EngCmd} (hgo : s.mayGo n.val c = true)
include hgo

theorem drain_result {x : DrainP} (htracked : c.tracked = false) (hreq : c.req = .accPort) (hop : c.op = .drain x)
    (hin : x.inRange = true) (hahead : (s.core n.val).passAhead c = false) (hplain : x.opnd.plain = true) :
    ∃ t, exec (.commandCompletion n .accPort) s = .next t ∧ s.CoreFrame t n.val ∧ (t.core n.val).command c.id = none ∧
      (t.core n.val).arr = (s.core n.val).arr ∧
      (t.core n.val).spm.rows = ((s.core n.val).spm.writeRows x.opnd.rows
        (packRows x.fmt (((s.core n.val).drained x (s.draw n.val c)).map (·.2)))).rows := by
  obtain ⟨-, -, -, hready, -⟩ := (s.mayGo_iff n.val c).1 hgo
  have hperf := performAcc_drain hready hin hahead hop htracked
  have hcore := State.core_writeFor s n.val c hplain (packRows x.fmt (((s.core n.val).drained x (s.draw n.val c)).map (·.2)))
  obtain ⟨t, hexec, hframe, hnone, hsig⟩ := commandCompletion_performed hgo (by rw [performCmd, hop]; exact hperf)
    (s.frame_writeFor ..) (by rw [hcore]) (fun t => by simp [State.completed, EngCmd.done, hop])
  refine ⟨t, hreq ▸ hexec, hframe, hnone, ?_, ?_⟩
  · rw [hsig.arr, hcore]; rfl
  · rw [hsig.rows, hcore]
    exact Spm.rows_writeRows_congr _ _ _ _ rfl

theorem fill_result {x : DrainP} (hreq : c.req = .accPort) (hop : c.op = .fill x)
    (hin : x.inRange = true) (hahead : (s.core n.val).passAhead c = false) :
    ∃ t, exec (.commandCompletion n .accPort) s = .next t ∧ s.CoreFrame t n.val ∧ (t.core n.val).command c.id = none ∧
      (t.core n.val).spm.rows = (s.core n.val).spm.rows ∧
      (t.core n.val).arr = (s.core n.val).arr.write (x.fillWords ((s.core n.val).spm.reads x.opnd)) := by
  obtain ⟨-, -, -, hready, hraces⟩ := (s.mayGo_iff n.val c).1 hgo
  have hperf := performAcc_fill hready hin hahead hop hraces
  obtain ⟨t, hexec, hframe, hnone, hsig⟩ := commandCompletion_performed hgo (by rw [performCmd, hop]; exact hperf)
    (s.frame_modArr ..) (by rw [State.core_modArr_same]) (fun t => by simp [State.completed, EngCmd.done, hop])
  refine ⟨t, hreq ▸ hexec, hframe, hnone, ?_, ?_⟩
  · rw [hsig.rows, State.core_modArr_same]; rfl
  · rw [hsig.arr, State.core_modArr_same]; rfl

theorem accRange_result {x : DrainP} (hreq : c.req = .accPort) (hop : c.op = .drain x ∨ c.op = .fill x)
    (hin : x.inRange = false) :
    ∃ t, exec (.commandCompletion n .accPort) s = .next t ∧ (t.core n.val).command c.id = none ∧
      (t.core n.val).arr = (s.core n.val).arr ∧ bit (t.page (corePage n.val kARR)).err 1 = true := by
  obtain ⟨-, -, -, hready, -⟩ := (s.mayGo_iff n.val c).1 hgo
  have hperf : performCmd n.val s c = s.accRange n.val c := by
    rw [← performAcc_outOfRange hready hop hin]
    obtain hop | hop := hop <;> rw [performCmd, hop]
  have hnone := s.command_accRange n.val c
  refine ⟨s.accRange n.val c, ?_, hnone, (s.engines_accRange n.val c).arr n.val, ?_⟩
  · rw [← hreq, commandCompletion_eq hgo, hperf]
    simp only [hnone]
  · exact State.reported_raiseFault _ n _ _ (by decide) (by decide)

theorem vload_result {slot fmt klen : Nat} {o : Operand} (hreq : c.req = .schuss) (hop : c.op = .vload slot fmt klen o)
    (hready : (s.core n.val).startReady c = true) (hplain : o.plain = true)
    (hsweeps : (s.core n.val).inflight.any (fun d => decide (d.id < c.id) && d.sweepsSlot slot) = false) :
    ∃ t, exec (.commandCompletion n .schuss) s = .next t ∧ s.CoreFrame t n.val ∧ (t.core n.val).command c.id = none ∧
      (t.core n.val).spm.rows = (s.core n.val).spm.rows ∧
      (t.core n.val).sch = (s.core n.val).sch.load slot { fmt := fmt, klen := klen, rows := (s.core n.val).spm.reads o } := by
  obtain ⟨-, -, hc, -, hraces⟩ := (s.mayGo_iff n.val c).1 hgo
  have hperf := performVload_plain hop hc hready hplain hraces hsweeps
  obtain ⟨t, hexec, hframe, hnone, hsig⟩ := commandCompletion_performed hgo (by rw [performCmd, hop]; exact hperf)
    ((s.frame_modSch ..).trans (State.frame_count _ _ kSCH _ _ (by decide)))
    (by rw [State.count_core, State.core_modSch_same]) (fun t => by simp [State.completed, EngCmd.done, hop])
  refine ⟨t, hreq ▸ hexec, hframe, hnone, ?_, ?_⟩
  · rw [hsig.rows, State.count_core, State.core_modSch_same]; rfl
  · rw [hsig.sch, State.count_core, State.core_modSch_same]; rfl

end

/-- Settles O13: each command that may go on performs one write of its destination and completes, and completing it changes
signals and the queue alone; the words of a fill stand under distinct keys, and so each is read back. -/
theorem accumulatorResults : Obligations.AccumulatorResults := by
  intro s n c hgo htracked k
  refine ⟨fun x hreq hop hin hahead hplain => drain_result hgo htracked hreq hop hin hahead hplain,
    fun x hreq hop hin => accRange_result hgo hreq hop hin, fun x hreq hop hin hahead _ => ?_,
    fun slot fmt klen o hreq hop hready hplain hsweeps => vload_result hgo hreq hop hready hplain hsweeps⟩
  obtain ⟨t, hexec, hframe, hnone, hrows, harr⟩ := fill_result hgo hreq hop hin hahead
  refine ⟨t, hexec, hframe, hnone, hrows, by rw [harr]; rfl, fun e he => ?_, fun i hi => ?_⟩
  · rw [harr]
    exact SMap.get_foldl_set_of_not_mem wordZero _ _ (by rwa [DrainP.keys_fillWords])
  · have hy := List.getElem?_eq_getElem hi
    refine ⟨_, by rw [List.getElem?_map, hy]; rfl, ?_⟩
    rw [harr]
    exact SMap.get_foldl_set_of_mem wordZero _ _ (by rw [DrainP.keys_fillWords]; exact x.nodup_keys hin)
      (x.mem_fillWords _ hy)

end Machine
end Sys2Proof
end

section
/-!
Proofs of chapter 03: passes and sweeps from their start to their boundary (R53, R61-R64, R75-R78).
-/
namespace Sys2Proof.Machine

/-! ## Circular sources that are released (R136, R64) -/

/-- From `s` to `t` only tokens of core `n`'s circular slots changed. -/
structure State.Releases (s t : State) (n : Nat) : Prop where
  frame : s.CoreFrame t n
  core : t.core n = { s.core n with spm := { (s.core n).spm with circs := (t.core n).spm.circs } }
  counter : ∀ p off, t.counter p off = s.counter p off

theorem State.Releases.refl (s : State) (n : Nat) : s.Releases s n := ⟨.refl s n, rfl, fun _ _ => rfl⟩

theorem State.Releases.trans {s t u : State} {n : Nat} (h : s.Releases t n) (g : t.Releases u n) : s.Releases u n where
  frame := h.frame.trans g.frame
  core := by rw [g.core, h.core]
  counter p off := (g.counter p off).trans (h.counter p off)

theorem State.releases_releaseFor (s : State) (n : Nat) (o : Operand) : s.Releases (s.releaseFor n o) n := by
  unfold State.releaseFor
  split
  · exact ⟨s.frame_modSpm .., by rw [State.core_modSpm_same]; rfl, fun _ _ => rfl⟩
  · exact .refl s n

theorem State.Releases.foldl {α : Type} {n : Nat} {f : State → α → State} (hf : ∀ (s : State) a, s.Releases (f s a) n)
    (l : List α) : ∀ s : State, s.Releases (l.foldl f s) n := by
  induction l with
  | nil => exact fun s => .refl s n
  | cons a l ih => exact fun s => (hf s a).trans (ih _)

/-- The weight sources of loads are released. -/
def State.releaseLoads (s : State) (n : Nat) (ls : List Load) : State :=
  ls.foldl (fun s l => match l.cmd.op with
    | .pass x => s.releaseFor n x.wts
    | _ => s) s

theorem State.releases_releaseLoads (s : State) (n : Nat) (ls : List Load) : s.Releases (s.releaseLoads n ls) n := by
  unfold State.releaseLoads
  refine State.Releases.foldl (fun s l => ?_) ls s
  split
  · exact s.releases_releaseFor ..
  · exact .refl s n

/-- The loads of a partition that a pass may still name (R64). -/
def Core.keptLoads (k : Core) (q : Part) : List Load :=
  (q.loads.map (fun l => { l with held := l.held && k.needsLoad l })).filter (fun l =>
    l.held || q.lastLoad == some l.cmd.id || k.keepsLoad l.cmd.id)

theorem State.settleLoads_eq (s : State) (n p : Nat) : s.settleLoads n p =
    (s.releaseLoads n (((s.core n).arr.part p).loads.filter (fun l => l.held && !(s.core n).needsLoad l))).modPart n p
      (fun q => { q with loads := (s.core n).keptLoads q }) := rfl

theorem State.frame_settleLoads (s : State) (n p : Nat) : s.CoreFrame (s.settleLoads n p) n := by
  rw [State.settleLoads_eq]
  exact (s.releases_releaseLoads ..).frame.trans (State.frame_modPart ..)

theorem State.counter_settleLoads (s : State) (n p q off : Nat) : (s.settleLoads n p).counter q off = s.counter q off := by
  rw [State.settleLoads_eq]
  exact (s.releases_releaseLoads ..).counter q off

theorem State.core_settleLoads (s : State) (n p : Nat) : ∃ circs loads, (s.settleLoads n p).core n = { s.core n with
    spm := { (s.core n).spm with circs := circs },
    arr := (s.core n).arr.setPart p { (s.core n).arr.part p with loads := loads } } := by
  rw [State.settleLoads_eq, State.core_modPart_same, (s.releases_releaseLoads ..).core]
  exact ⟨_, _, rfl⟩

/-- A command that begins with its number and is then counted is updated once. -/
theorem Core.inflight_begun_counted (k : Core) (c : EngCmd) (m : Word) :
    ((k.updateCmd c.id (fun d => { d with stage := .started, number := m })).updateCmd c.id
      (fun d => { d with counted := d.counted || !c.counted })).inflight =
    (k.updateCmd c.id (fun d => { d with stage := .started, number := m, counted := d.counted || !c.counted })).inflight := by
  simp only [Core.updateCmd, List.map_map]
  refine List.map_congr_left fun d _ => ?_
  by_cases hd : d.id = c.id <;> simp [hd]

/-! ## A pass begins and counts (R71, R72) -/

theorem State.frame_beginPass (s : State) (n : Nat) (c : EngCmd) (x : PassP) (replay : Bool) :
    s.CoreFrame (s.beginPass n c x replay) n := by
  unfold State.beginPass
  split
  · exact (s.frame_modCore ..).trans (State.frame_count _ n kARR _ _ (by decide))
  · exact (s.frame_modPart ..).trans (State.frame_modCore ..)

/-- A pass that begins takes its partition's next number. -/
theorem State.core_beginPass_first (s : State) (n : Nat) (c : EngCmd) (x : PassP) :
    let q := (s.core n).arr.part x.p.val
    (s.beginPass n c x false).core n = { (s.core n).updateCmd c.id (fun d => { d with stage := .started, number := q.seq + 1 }) with
      arr := (s.core n).arr.setPart x.p.val { q with seq := q.seq + 1 } } := by
  simp [State.beginPass, Core.updateCmd]

/-- A replay counts, and takes no number. -/
theorem State.core_beginPass_replay (s : State) (n : Nat) (c : EngCmd) (x : PassP) : (s.beginPass n c x true).core n =
    (s.core n).updateCmd c.id (fun d => { d with replays := d.replays + 1 }) := by
  simp [State.beginPass]

theorem State.counter_beginPass_replay (s : State) (n : Nat) (c : EngCmd) (x : PassP) :
    (s.beginPass n c x true).counter (corePage n kARR) 0x138 = s.counter (corePage n kARR) 0x138 + 1 := by
  simp [State.beginPass, State.counter_count]

theorem State.counter_countRows (s : State) (n r w : Nat) {p : Nat} (hp : p ≠ corePage n kSPM) (off : Nat) :
    (s.countRows n r w).counter p off = s.counter p off := by
  unfold State.countRows
  simp only []
  split <;> split <;> simp [State.counter_count, hp]

/-- Counting a pass without a feed marks the command as counted. -/
theorem State.core_countPass (s : State) (n : Nat) (c : EngCmd) (x : PassP) (t : Shape) (rows entered : Nat) :
    (s.countPass n c x t none rows entered).core n = (s.core n).updateCmd c.id (fun d => { d with counted := d.counted || !c.counted }) := by
  unfold State.countPass
  cases c.counted <;> simp [Core.updateCmd]

theorem State.frame_countPass (s : State) (n : Nat) (c : EngCmd) (x : PassP) (t : Shape) (rows entered : Nat) :
    s.CoreFrame (s.countPass n c x t none rows entered) n := by
  unfold State.countPass
  split
  · exact .refl s n
  · exact (((s.frame_modCore ..).trans (State.frame_countRows ..)).trans (State.frame_count _ n kARR _ _ (by decide))).trans
      (State.frame_count _ n kARR _ _ (by decide))

theorem State.counter_countPass (s : State) (n : Nat) (c : EngCmd) (x : PassP) (t : Shape) (rows entered : Nat) :
    (s.countPass n c x t none rows entered).counter (corePage n kARR) 0x138 = s.counter (corePage n kARR) 0x138 := by
  have hpage : corePage n kARR ≠ corePage n kSPM := by simp [corePage, kARR, kSPM]
  unfold State.countPass
  split
  · rfl
  · simp [State.counter_count, State.counter_countRows _ _ _ _ hpage]

/-! ## A pass in the array (R53, R72) -/

/-- A partition that a pass has entered with its weights and its working words. -/
def Part.enter (c : EngCmd) (x : PassP) (ws : Weights) (words : List (Nat × Word)) (q : Part) : Part :=
  { q with weights := some ws, aborted := q.aborted.filter (· != c.id),
           loads := if x.wsrc = 0 || q.loads.any (fun l => l.cmd.id == c.id) then q.loads
                    else q.loads ++ [{ cmd := c, held := true }],
           running := q.running ++ [{ cmd := c.id, working := words }] }

/-- A pass with no racing write and a plain activation enters the array once it has begun; then loads are settled and its
work counts. -/
theorem State.enterPass_eq (s : State) (n : Nat) (c : EngCmd) (x : PassP) (t : Shape) (g : Geom) (ws : Weights) (replay : Bool)
    (hraces : c.races = []) (hact : x.act.plain = true) : s.enterPass n c x t g ws none replay =
      (((s.beginPass n c x replay).modPart n x.p.val (Part.enter c x ws ((s.core n).passWords x t g ws
        ((s.core n).spm.reads x.act) ((x.pre.map (s.core n).spm.reads).getD []) ((s.core n).entering x)))).settleLoads n
        x.p.val).countPass n c x t none (x.act.rows.length + ((x.pre.map (s.core n).spm.reads).getD []).length +
          (x.mask.map (fun m => m.1.rows.length)).getD 0) ((s.core n).entering x).length := by
  have hcirc : x.act.circ = none := by simpa [Operand.plain] using hact
  have hrel (u : State) : (if x.replay then u else u.releaseFor n x.act) = u := by simp [State.releaseFor, hcirc]
  have hread : s.readFor n c = (s.core n).spm.reads := funext (s.readFor_of_nil n hraces)
  unfold State.enterPass
  simp only [hread, State.spendRace_of_nil _ hraces, hrel]
  rfl

/-- What `passGoes` says. -/
theorem Core.passGoes_iff (k : Core) (c : EngCmd) (x : PassP) (t : Shape) (g : Geom) : k.passGoes c x t g = true ↔
    x.wsrc = 2 ∧ c.races = [] ∧ x.act.plain = true ∧ x.wts.plain = true ∧ x.pre.all Operand.plain = true ∧
    k.inflight.any (fun d => decide (d.id < c.id) && d.isFill && shareEntry d.region c.region) = false ∧
    k.squareHeld c x g = false ∧ k.accOverlap x.p.val c = false ∧ k.thirdWrite x t g (k.entering x) = false := by
  simp only [Core.passGoes, Bool.and_eq_true, beq_iff_eq, List.isEmpty_iff, Bool.not_eq_true', and_assoc]

section
variable {s : State} {n : Nat} {c : EngCmd} {x : PassP} {t : Shape} {g : Geom} (hgo : (s.core n).passGoes c x t g = true)
include hgo

/-- A port-fed pass that nothing holds enters the array with the weights of its port. -/
theorem State.startPass_goes (replay : Bool) :
    s.startPass n c x t g replay = s.enterPass n c x t g ((s.core n).portWeights x t) none replay := by
  obtain ⟨hsrc, hraces, hact, hwts, hpre, hfill, hsquare, hover, hthird⟩ := (Core.passGoes_iff ..).1 hgo
  have hplain : ∀ o ∈ [x.act] ++ (if x.wsrc = 0 then [] else [x.wts]) ++ x.pre.toList, o.plain = true := by
    simp only [hsrc, List.mem_append, List.mem_singleton, Option.mem_toList]
    rintro o ((rfl | ho) | ho)
    · exact hact
    · rw [List.mem_singleton.1 ho]; exact hwts
    · rw [ho] at hpre; exact hpre
  have hbad := (s.core n).spm.failedSlots_plain hplain
  rw [hsrc] at hbad
  have hread : s.readFor n c = (s.core n).spm.reads := funext (s.readFor_of_nil n hraces)
  have hfull (o : Operand) (h : o.plain = true) : (s.core n).spm.fullFor o = true := by
    have hcirc : o.circ = none := by simpa [Operand.plain] using h
    rw [Spm.fullFor, hcirc]
  have hentering : x.entered (((x.mask.map (fun m => (s.core n).spm.reads m.1)).getD []).headD 0) = (s.core n).entering x := rfl
  have hweights : s.passWeights n c x t = some ((s.core n).portWeights x t, none) := by
    simp [State.passWeights, State.loadWeights, hsrc, hread, Core.portWeights]
  unfold State.startPass
  simp only [hbad, hread, hentering, Core.raceHeld_of_nil _ _ hraces, hfull _ hact, hfull _ hwts, hsrc, hsquare, hover, hfill, hthird,
    hweights]
  rfl

/-- A port-fed pass that starts or starts again: its partition takes its weights and its working words, the accumulator and
the rows stand, and no other core is touched. -/
theorem State.frame_startPass (replay : Bool) : s.CoreFrame (s.startPass n c x t g replay) n := by
  obtain ⟨-, hraces, hact, -⟩ := (Core.passGoes_iff ..).1 hgo
  rw [State.startPass_goes hgo, State.enterPass_eq _ _ _ _ _ _ _ _ hraces hact]
  exact (((s.frame_beginPass n c x replay).trans (State.frame_modPart ..)).trans (State.frame_settleLoads ..)).trans
    (State.frame_countPass ..)

theorem State.core_startPass (replay : Bool) :
    let b := (s.beginPass n c x replay).core n
    let k := (s.startPass n c x t g replay).core n
    k.arr.acc = b.arr.acc ∧ k.spm.rows = b.spm.rows ∧
    k.arr.part x.p.val = { (b.arr.part x.p.val).enter c x ((s.core n).portWeights x t) ((s.core n).portWords x t g) with
      loads := (k.arr.part x.p.val).loads } ∧
    k.inflight = (b.updateCmd c.id (fun d => { d with counted := d.counted || !c.counted })).inflight := by
  obtain ⟨-, hraces, hact, -⟩ := (Core.passGoes_iff ..).1 hgo
  rw [State.startPass_goes hgo, State.enterPass_eq _ _ _ _ _ _ _ _ hraces hact, State.core_countPass]
  obtain ⟨circs, loads, hloads⟩ := ((s.beginPass n c x replay).modPart n x.p.val (Part.enter c x ((s.core n).portWeights x t)
    ((s.core n).passWords x t g ((s.core n).portWeights x t) ((s.core n).spm.reads x.act)
      ((x.pre.map (s.core n).spm.reads).getD []) ((s.core n).entering x)))).core_settleLoads n x.p.val
  rw [hloads, State.core_modPart_same]
  refine ⟨rfl, rfl, ?_, rfl⟩
  simp only [Core.updateCmd, Arr.part_setPart_same]
  rfl

theorem State.counter_startPass_replay :
    (s.startPass n c x t g true).counter (corePage n kARR) 0x138 = s.counter (corePage n kARR) 0x138 + 1 := by
  obtain ⟨-, hraces, hact, -⟩ := (Core.passGoes_iff ..).1 hgo
  rw [State.startPass_goes hgo, State.enterPass_eq _ _ _ _ _ _ _ _ hraces hact, State.counter_countPass,
    State.counter_settleLoads]
  exact s.counter_beginPass_replay n c x

end

/-! ## PASS_START and PASS_REPLAY (R61, R64) -/

/-- The bit of a failing check of R61 is an event of the array's page. -/
theorem Part.startErr_lt {q : Part} {x : PassP} {b : Nat} (h : q.startErr x = some b) : b < 32 := by
  unfold Part.startErr at h
  split_ifs at h <;> simp only [Option.some.injEq] at h <;> omega

/-- A partition that stops drops its queued passes (R65). -/
theorem State.not_queuedPass_stopPartition (s : State) (n p source b : Nat) :
    ∀ d ∈ ((s.stopPartition n p source b).core n).inflight, d.queuedPass p = false := by
  intro d hd
  rw [State.stopPartition, State.core_modCore_same] at hd
  have hkept := (List.mem_filter.1 hd).2
  simp only [Bool.not_eq_true', Bool.or_eq_false_iff] at hkept
  exact hkept.1

/-- A pass whose check fails stops its partition (R61, R63). -/
theorem State.passFault_stops (s : State) (n : CoreId) (c : EngCmd) (x : PassP) (replay : Bool) {b : Nat} (hb : b < 32) :
    let t := s.passFault n.val c x replay b
    ((t.core n.val).arr.part x.p.val).stopped = true ∧ (t.core n.val).arr.acc = (s.core n.val).arr.acc ∧
      bit (t.page (corePage n.val kARR)).err b = true ∧ ∀ d ∈ (t.core n.val).inflight, d.queuedPass x.p.val = false := by
  have hacc : ((s.beginPass n.val c x replay).core n.val).arr.acc = (s.core n.val).arr.acc := by
    cases replay
    · rw [State.core_beginPass_first]; rfl
    · rw [State.core_beginPass_replay]; rfl
  intro t
  refine ⟨?_, ?_, ?_, ?_⟩
  · simp only [t, State.passFault, State.count_core, State.arr_stopPartition, Arr.part_setPart_same]
  · simp only [t, State.passFault, State.count_core, State.arr_stopPartition, Arr.acc_setPart, State.core_modCore_same, Core.dropCmd]
    rw [(State.engines_raiseFault ..).arr, hacc]
  · simp only [t, State.passFault, State.err_count, State.page_stopPartition, State.modCore_page]
    exact State.reported_raiseFault _ n _ _ (by decide) hb
  · simp only [t, State.passFault, State.count_core]
    exact fun d hd => State.not_queuedPass_stopPartition _ _ _ _ _ d hd

section
variable {s : State} {n : CoreId} {p : Fin 16} {c : EngCmd} {x : PassP} (hop : c.op = .pass x) (hp : x.p = p)

section
variable (hnext : (s.core n.val).inflight.find? (fun d => d.queuedPass p.val) = some c) (hstarts : s.engineStarts n.val = true)
  (hstopped : ((s.core n.val).arr.part p.val).stopped = false) (haborted : ((s.core n.val).arr.part p.val).aborted = [])
  (hready : (s.core n.val).startReady c = true)
include hop hnext hstarts hstopped haborted hready

theorem exec_passStart_fault {b : Nat} (herr : ((s.core n.val).arr.part p.val).startErr x = some b) :
    exec (.passStart n p) s = .next (s.passFault n.val c x false b) := by
  have hexec : exec (.passStart n p) s = execPassStart n p s := rfl
  rw [hexec, execPassStart]
  simp [hnext, hop, hstarts, hstopped, haborted, hready, herr]

theorem exec_passStart {t : Shape} {g : Geom} (herr : ((s.core n.val).arr.part p.val).startErr x = none)
    (hshape : x.shape = some (t, g)) : exec (.passStart n p) s = .next (s.startPass n.val c x t g false) := by
  have hexec : exec (.passStart n p) s = execPassStart n p s := rfl
  rw [hexec, execPassStart]
  simp [hnext, hop, hstarts, hstopped, haborted, hready, herr, hshape]

include hp

/-- A pass whose check fails stops its partition (R61). -/
theorem passStart_stops {b : Nat} (herr : ((s.core n.val).arr.part p.val).startErr x = some b) :
    ∃ t, exec (.passStart n p) s = .next t ∧ ((t.core n.val).arr.part p.val).stopped = true ∧
      (t.core n.val).arr.acc = (s.core n.val).arr.acc ∧ bit (t.page (corePage n.val kARR)).err b = true ∧
      ∀ d ∈ (t.core n.val).inflight, d.queuedPass p.val = false := by
  have hstops := s.passFault_stops n c x false (Part.startErr_lt herr)
  rw [hp] at hstops
  exact ⟨_, exec_passStart_fault hop hnext hstarts hstopped haborted hready herr, hstops⟩

/-- A port-fed pass that nothing holds starts with its partition's next number (R53, R72). -/
theorem passStart_enters {t : Shape} {g : Geom} (herr : ((s.core n.val).arr.part p.val).startErr x = none)
    (hshape : x.shape = some (t, g)) (hgo : (s.core n.val).passGoes c x t g = true) :
    ∃ u, exec (.passStart n p) s = .next u ∧ s.CoreFrame u n.val ∧ (u.core n.val).arr.acc = (s.core n.val).arr.acc ∧
      (u.core n.val).spm.rows = (s.core n.val).spm.rows ∧
      (u.core n.val).arr.part p.val = { (s.core n.val).arr.part p.val with
        weights := some ((s.core n.val).portWeights x t), seq := ((s.core n.val).arr.part p.val).seq + 1,
        loads := ((u.core n.val).arr.part p.val).loads,
        running := ((s.core n.val).arr.part p.val).running ++ [{ cmd := c.id, working := (s.core n.val).portWords x t g }] } ∧
      (u.core n.val).inflight = ((s.core n.val).updateCmd c.id (fun d => { d with
        stage := .started, number := ((s.core n.val).arr.part p.val).seq + 1, counted := d.counted || !c.counted })).inflight := by
  obtain ⟨hacc, hrows, hpart, hin⟩ := State.core_startPass hgo false
  rw [State.core_beginPass_first] at hacc hrows hpart hin
  rw [hp] at hpart hin
  refine ⟨_, exec_passStart hop hnext hstarts hstopped haborted hready herr hshape, State.frame_startPass hgo false, hacc, hrows,
    ?_, ?_⟩
  · rw [hpart]
    simp only [Arr.part_setPart_same, Part.enter, haborted, List.filter_nil]
  · rw [hin]
    exact Core.inflight_begun_counted (s.core n.val) c (((s.core n.val).arr.part p.val).seq + 1)

end

include hop in
theorem exec_passReplay {t : Shape} {g : Geom} (hc : (s.core n.val).command c.id = some c)
    (haborted : ((s.core n.val).arr.part p.val).aborted = [c.id]) (hstopped : ((s.core n.val).arr.part p.val).stopped = false)
    (hstarts : s.engineStarts n.val = true) (hshape : x.shape = some (t, g)) :
    exec (.passReplay n p) s = .next (s.startPass n.val c x t g true) := by
  have hexec : exec (.passReplay n p) s = execPassReplay n p s := rfl
  rw [hexec, execPassReplay]
  simp [hstarts, haborted, State.replayPass, hc, hop, hshape, hstopped]

include hop hp in
/-- The replay of an aborted pass starts it again from the same inputs, and counts (R64, R71). -/
theorem passReplay_enters {t : Shape} {g : Geom} (hc : (s.core n.val).command c.id = some c)
    (haborted : ((s.core n.val).arr.part p.val).aborted = [c.id]) (hstopped : ((s.core n.val).arr.part p.val).stopped = false)
    (hstarts : s.engineStarts n.val = true) (hshape : x.shape = some (t, g)) (hgo : (s.core n.val).passGoes c x t g = true) :
    ∃ u, exec (.passReplay n p) s = .next u ∧ s.CoreFrame u n.val ∧ (u.core n.val).arr.acc = (s.core n.val).arr.acc ∧
      (u.core n.val).arr.part p.val = { (s.core n.val).arr.part p.val with
        weights := some ((s.core n.val).portWeights x t), aborted := [], loads := ((u.core n.val).arr.part p.val).loads,
        running := ((s.core n.val).arr.part p.val).running ++ [{ cmd := c.id, working := (s.core n.val).portWords x t g }] } ∧
      u.counter (corePage n.val kARR) 0x138 = s.counter (corePage n.val kARR) 0x138 + 1 := by
  obtain ⟨hacc, -, hpart, -⟩ := State.core_startPass hgo true
  rw [State.core_beginPass_replay] at hacc hpart
  rw [hp] at hpart
  refine ⟨_, exec_passReplay hop hc haborted hstopped hstarts hshape, State.frame_startPass hgo true, hacc, ?_,
    State.counter_startPass_replay hgo⟩
  rw [hpart]
  simp [Core.updateCmd, Part.enter, haborted]

end

/-! ## PASS_BOUNDARY (R62) -/

theorem State.releases_ite (s : State) (n : Nat) (b : Bool) (o : Operand) : s.Releases (if b then s.releaseFor n o else s) n := by
  cases b
  · exact .refl s n
  · exact s.releases_releaseFor n o

/-- The state in which the working words of a pass have become committed, and its sources are released. -/
def State.passCommitted (s : State) (n : Nat) (c : EngCmd) (x : PassP) (r : Running) : State :=
  let u := (s.modArr n (fun a => a.write r.working)).modPart n x.p.val
    (fun q => { q with running := q.running.filter (fun y => y.cmd != c.id) })
  if x.replay then u.releaseFor n x.act else u

theorem State.commitPass_eq (s : State) (n : Nat) (c : EngCmd) (x : PassP) (r : Running) : s.commitPass n c x r =
    (((s.passCommitted n c x r).complete n c).settleLoads n x.p.val).count (corePage n kARR) 0x108 1 := rfl

theorem State.frame_passCommitted (s : State) (n : Nat) (c : EngCmd) (x : PassP) (r : Running) :
    s.CoreFrame (s.passCommitted n c x r) n :=
  ((s.frame_modArr ..).trans (State.frame_modPart ..)).trans (State.releases_ite ..).frame

theorem State.arr_passCommitted (s : State) (n : Nat) (c : EngCmd) (x : PassP) (r : Running) :
    let q := (s.core n).arr.part x.p.val
    ((s.passCommitted n c x r).core n).arr = ((s.core n).arr.write r.working).setPart x.p.val
      { q with running := q.running.filter (fun y => y.cmd != c.id) } := by
  unfold State.passCommitted
  simp only []
  rw [(State.releases_ite ..).core, State.core_modPart_same, State.core_modArr_same]
  rfl

theorem State.counter_passCommitted (s : State) (n : Nat) (c : EngCmd) (x : PassP) (r : Running) (p off : Nat) :
    (s.passCommitted n c x r).counter p off = s.counter p off := (State.releases_ite ..).counter p off

/-- The boundary of a pass commits its working words (R62). -/
theorem passBoundary_commits (s : State) (n : CoreId) (p : Fin 16) (c : EngCmd) (x : PassP) (r : Running) (hop : c.op = .pass x)
    (hp : x.p = p) (hc : (s.core n.val).command c.id = some c) (hr : ((s.core n.val).arr.part p.val).running.head? = some r)
    (hcmd : r.cmd = c.id) (hready : s.phase = .ready) (hdrains : (s.core n.val).inflight.any (fun d => decide (d.id < c.id) &&
      d.isDrain && d.stage != .performed && shareEntry d.region c.region) = false) :
    ∃ t, exec (.passBoundary n p) s = .next t ∧ s.CoreFrame t n.val ∧
      (t.core n.val).arr.acc = r.working.foldl (fun m e => m.set wordZero e.1 e.2) (s.core n.val).arr.acc ∧
      ((t.core n.val).arr.part p.val).running = ((s.core n.val).arr.part p.val).running.filter (fun y => y.cmd != c.id) ∧
      (t.core n.val).command c.id = none ∧
      t.counter (corePage n.val kARR) 0x108 = s.counter (corePage n.val kARR) 0x108 + 1 := by
  subst hp
  have hexec : exec (.passBoundary n x.p) s = .next (s.commitPass n.val c x r) := by
    have h : exec (.passBoundary n x.p) s = execPassBoundary n x.p s := rfl
    rw [h, execPassBoundary]
    simp only [hr, hcmd, hc, hop, hready, hdrains]
    rfl
  have hsig := ((s.passCommitted n.val c x r).core n.val).signalled_without c
  obtain ⟨circs, loads, hloads⟩ := ((s.passCommitted n.val c x r).complete n.val c).core_settleLoads n.val x.p.val
  have harr := s.arr_passCommitted n.val c x r
  rw [State.core_complete] at hloads
  refine ⟨_, hexec, ?_, ?_, ?_, ?_, ?_⟩
  · exact (((s.frame_passCommitted ..).trans (State.frame_complete ..)).trans (State.frame_settleLoads ..)).trans
      (State.frame_count _ n.val kARR _ _ (by decide))
  · rw [State.commitPass_eq, State.count_core, hloads, Arr.acc_setPart, hsig.arr, harr]; rfl
  · rw [State.commitPass_eq, State.count_core, hloads, Arr.part_setPart_same, hsig.arr, harr, Arr.part_setPart_same]
  · rw [State.commitPass_eq, State.count_core, hloads]
    exact Core.command_without _ c
  · rw [State.commitPass_eq, State.counter_count, if_pos ⟨rfl, rfl⟩, State.counter_settleLoads, State.counter_complete,
      State.counter_passCommitted]
    rfl

end Sys2Proof.Machine
end

section
/-!
Proofs of chapter 03: sweeps from their start to their boundary (R75-R78, R81), and with the passes the whole statement.
-/
namespace Sys2Proof.Machine

/-! ## A sweep begins and counts (R84, R86) -/

theorem State.frame_beginSweep (s : State) (n : Nat) (c : EngCmd) : s.CoreFrame (s.beginSweep n c false) n := by
  rw [State.beginSweep, if_neg (by decide)]
  exact s.frame_modCore ..

/-- A sweep that begins takes the path's next number. -/
theorem State.core_beginSweep (s : State) (n : Nat) (c : EngCmd) :
    let v := (s.core n).sch
    (s.beginSweep n c false).core n = { (s.core n).updateCmd c.id (fun d => { d with stage := .started, number := v.seq + 1 }) with
      sch := { v with seq := v.seq + 1 } } := by
  simp [State.beginSweep, Core.updateCmd]

/-- Counting a sweep without a feed marks the command as counted. -/
theorem State.core_countSweep (s : State) (n : Nat) (c : EngCmd) (x : SweepP) (tiles : List SweepTile) (pre : Nat) :
    (s.countSweep n c x tiles [] pre).core n = (s.core n).updateCmd c.id (fun d => { d with counted := d.counted || !c.counted }) := by
  unfold State.countSweep State.countFeeds
  cases c.counted <;> cases x.stream <;> simp [Core.updateCmd]

theorem State.frame_countSweep (s : State) (n : Nat) (c : EngCmd) (x : SweepP) (tiles : List SweepTile) (pre : Nat) :
    s.CoreFrame (s.countSweep n c x tiles [] pre) n := by
  have marked : s.CoreFrame ((s.modCore n (fun k => k.updateCmd c.id (fun d => { d with counted := true }))).countRows n pre 0) n :=
    (s.frame_modCore ..).trans (State.frame_countRows ..)
  unfold State.countSweep State.countFeeds
  simp only [List.foldl_nil, ite_self]
  split
  · exact .refl s n
  · split
    · exact (marked.trans (State.frame_count _ n kSTR _ _ (by decide))).trans (State.frame_count _ n kSCH _ _ (by decide))
    · exact marked.trans (State.frame_count _ n kSCH _ _ (by decide))

/-! ## A sweep in the path (R76, R77) -/

/-- The schuss path that a sweep has entered with its working words. -/
def Sch.enter (c : EngCmd) (words : List (Nat × Word)) (v : Sch) : Sch :=
  { v with running := v.running ++ [{ cmd := c.id, working := words }], aborted := v.aborted.filter (· != c.id) }

/-- A sweep with no racing write enters the path once it has begun; then its work counts. -/
theorem State.enterSweep_eq (s : State) (n : Nat) (c : EngCmd) (x : SweepP) (tiles : List SweepTile) (feeds : List (SweepTile × Feed))
    (replay : Bool) (hraces : c.races = []) : s.enterSweep n c x tiles feeds replay =
      ((s.beginSweep n c replay).modSch n (Sch.enter c ((s.core n).sch.sweepWords x tiles
        ((x.pre.map (s.core n).spm.reads).getD [])))).countSweep n c x tiles feeds
          ((x.pre.map (s.core n).spm.reads).getD []).length := by
  have hread : s.readFor n c = (s.core n).spm.reads := funext (s.readFor_of_nil n hraces)
  unfold State.enterSweep
  simp only [hread, State.spendRace_of_nil _ hraces]
  rfl

/-- What `sweepGoes` says. -/
theorem Core.sweepGoes_iff (k : Core) (c : EngCmd) (x : SweepP) : k.sweepGoes c x = true ↔
    x.stream = true ∧ c.races = [] ∧ x.rangeErr = none ∧ k.sliceHazard c.id = false ∧
    k.inflight.any (fun d => decide (d.id < c.id) && d.isSweep && d.stage == .started && shareSum d.sumRegion c.sumRegion) = false := by
  simp only [Core.sweepGoes, Bool.and_eq_true, List.isEmpty_iff, Option.isNone_iff_eq_none, Bool.not_eq_true', and_assoc]

/-- A stream-fed sweep that nothing holds enters the path with the tiles of its slice units. -/
theorem State.startSweep_goes {s : State} {n : Nat} {c : EngCmd} {x : SweepP} (hgo : (s.core n).sweepGoes c x = true)
    (replay : Bool) : s.startSweep n c x replay =
      s.enterSweep n c x (streamTiles x (s.units n) x.fileTiles (x.slice.toNat / 512)) [] replay := by
  obtain ⟨hstream, hraces, hrange, hhazard, hsums⟩ := (Core.sweepGoes_iff ..).1 hgo
  unfold State.startSweep
  simp only [hstream, hrange, hhazard, hsums, Core.raceHeld_of_nil _ _ hraces]
  rfl

/-! ## SWEEP_START (R75) -/

section
variable {s : State} {n : CoreId} {c : EngCmd} {x : SweepP} (hop : c.op = .sweep x)
  (hnext : (s.core n.val).inflight.find? (fun d => d.isSweep && d.stage == .queued) = some c)
  (hstarts : s.engineStarts n.val = true) (hstopped : (s.core n.val).sch.stopped = false)
  (haborted : (s.core n.val).sch.aborted = []) (hready : (s.core n.val).sweepReady c = true)
include hop hnext hstarts hstopped haborted hready

theorem exec_sweepStart_fault {b : Nat} (herr : (s.core n.val).sch.startErr x = some b) : exec (.sweepStart n) s =
    .next (s.sweepFault n.val c false kSCH b (schInfo 0 0 b) ((s.core n.val).sch.seq + 1)) := by
  have hexec : exec (.sweepStart n) s = execSweepStart n s := rfl
  rw [hexec, execSweepStart]
  simp [hnext, hop, hstarts, hstopped, haborted, hready, herr]

theorem exec_sweepStart (herr : (s.core n.val).sch.startErr x = none) :
    exec (.sweepStart n) s = .next (s.startSweep n.val c x false) := by
  have hexec : exec (.sweepStart n) s = execSweepStart n s := rfl
  rw [hexec, execSweepStart]
  simp [hnext, hop, hstarts, hstopped, haborted, hready, herr]

/-- A sweep whose check fails stops the path (R75, R81). -/
theorem sweepStart_stops {b : Nat} (herr : (s.core n.val).sch.startErr x = some b) : ∃ t, exec (.sweepStart n) s = .next t ∧
    (t.core n.val).sch = { (s.core n.val).sch with stopped := true, seq := (s.core n.val).sch.seq + 1 } ∧
    bit (t.page (corePage n.val kSCH)).err b = true := by
  have hb : b < 32 := by
    unfold Sch.startErr at herr
    simp only [] at herr
    split_ifs at herr <;> simp only [Option.some.injEq] at herr <;> omega
  refine ⟨_, exec_sweepStart_fault hop hnext hstarts hstopped haborted hready herr, ?_, ?_⟩
  · rw [State.sweepFault, State.count_core, State.sch_stopSchuss, State.core_modCore_same, Core.dropCmd]
    simp only [(State.engines_raiseFault ..).sch, State.core_beginSweep, ← haborted]
  · rw [State.sweepFault, State.err_count, State.page_stopSchuss, State.modCore_page]
    exact State.reported_raiseFault _ n _ _ (by decide) hb

/-- A stream-fed sweep that nothing holds starts and holds its working words (R76, R77). -/
theorem sweepStart_enters (herr : (s.core n.val).sch.startErr x = none) (hgo : (s.core n.val).sweepGoes c x = true) :
    ∃ t, exec (.sweepStart n) s = .next t ∧ s.CoreFrame t n.val ∧ (t.core n.val).spm.rows = (s.core n.val).spm.rows ∧
      (t.core n.val).sch = { (s.core n.val).sch with
        seq := (s.core n.val).sch.seq + 1,
        running := (s.core n.val).sch.running ++ [Running.mk c.id ((s.core n.val).sch.sweepWords x
          (streamTiles x (s.units n.val) x.fileTiles (x.slice.toNat / 512)) ((x.pre.map (s.core n.val).spm.reads).getD []))] } ∧
      (t.core n.val).inflight = ((s.core n.val).updateCmd c.id (fun d => { d with
        stage := .started, number := (s.core n.val).sch.seq + 1, counted := d.counted || !c.counted })).inflight := by
  obtain ⟨-, hraces, -⟩ := (Core.sweepGoes_iff ..).1 hgo
  have hexec := exec_sweepStart hop hnext hstarts hstopped haborted hready herr
  rw [State.startSweep_goes hgo, State.enterSweep_eq _ _ _ _ _ _ _ hraces] at hexec
  refine ⟨_, hexec, ?_, ?_, ?_, ?_⟩
  · exact ((s.frame_beginSweep ..).trans (State.frame_modSch ..)).trans (State.frame_countSweep ..)
  · rw [State.core_countSweep, State.core_modSch_same, State.core_beginSweep]; rfl
  · rw [State.core_countSweep, State.core_modSch_same, State.core_beginSweep]
    simp [Core.updateCmd, Sch.enter, haborted]
  · rw [State.core_countSweep, State.core_modSch_same, State.core_beginSweep]
    exact Core.inflight_begun_counted (s.core n.val) c ((s.core n.val).sch.seq + 1)

end

/-! ## SWEEP_BOUNDARY (R77) -/

/-- The state in which the working words of a sweep have become committed, and its slabs are released. -/
def State.sweepCommitted (s : State) (n : Nat) (c : EngCmd) (x : SweepP) (r : Running) : State :=
  let u := s.modSch n (fun v => { v with sums := r.working.foldl (fun m e => m.set wordZero e.1 e.2) v.sums,
                                         running := v.running.filter (fun y => y.cmd != c.id) })
  if x.replay then u.releaseFor n x.wts else u

theorem State.frame_sweepCommitted (s : State) (n : Nat) (c : EngCmd) (x : SweepP) (r : Running) :
    s.CoreFrame (s.sweepCommitted n c x r) n := (s.frame_modSch ..).trans (State.releases_ite ..).frame

theorem State.sch_sweepCommitted (s : State) (n : Nat) (c : EngCmd) (x : SweepP) (r : Running) :
    ((s.sweepCommitted n c x r).core n).sch = { (s.core n).sch with
      sums := r.working.foldl (fun m e => m.set wordZero e.1 e.2) (s.core n).sch.sums,
      running := (s.core n).sch.running.filter (fun y => y.cmd != c.id) } := by
  unfold State.sweepCommitted
  simp only []
  rw [(State.releases_ite ..).core, State.core_modSch_same]

theorem State.counter_sweepCommitted (s : State) (n : Nat) (c : EngCmd) (x : SweepP) (r : Running) (p off : Nat) :
    (s.sweepCommitted n c x r).counter p off = s.counter p off := (State.releases_ite ..).counter p off

/-- The boundary of a sweep commits its working words (R77). -/
theorem sweepBoundary_commits (s : State) (n : CoreId) (c : EngCmd) (x : SweepP) (r : Running) (hop : c.op = .sweep x)
    (hc : (s.core n.val).command c.id = some c) (hr : (s.core n.val).sch.running.head? = some r)
    (hcmd : r.cmd = c.id) (hready : s.phase = .ready) (hdrains : (s.core n.val).inflight.any (fun d => decide (d.id < c.id) &&
      d.isSdrain && d.stage != .performed && shareSum d.sumRegion c.sumRegion) = false) :
    ∃ t, exec (.sweepBoundary n) s = .next t ∧ s.CoreFrame t n.val ∧
      (t.core n.val).sch = { (s.core n.val).sch with
        sums := r.working.foldl (fun m e => m.set wordZero e.1 e.2) (s.core n.val).sch.sums,
        running := (s.core n.val).sch.running.filter (fun y => y.cmd != c.id) } ∧
      (t.core n.val).command c.id = none ∧
      t.counter (corePage n.val kSCH) 0x108 = s.counter (corePage n.val kSCH) 0x108 + 1 := by
  have hexec : exec (.sweepBoundary n) s =
      .next (((s.sweepCommitted n.val c x r).complete n.val c).count (corePage n.val kSCH) 0x108 1) := by
    have h : exec (.sweepBoundary n) s = execSweepBoundary n s := rfl
    rw [h, execSweepBoundary]
    simp only [hr, hcmd, hc, hop, hready, hdrains]
    rfl
  refine ⟨_, hexec, ?_, ?_, ?_, ?_⟩
  · exact ((s.frame_sweepCommitted ..).trans (State.frame_complete ..)).trans (State.frame_count _ n.val kSCH _ _ (by decide))
  · rw [State.count_core, State.core_complete, (Core.signalled_without _ c).sch, State.sch_sweepCommitted]
  · rw [State.count_core, State.core_complete]
    exact Core.command_without _ c
  · rw [State.counter_count, if_pos ⟨rfl, rfl⟩, State.counter_complete, State.counter_sweepCommitted]
    rfl

/-- Settles O14: a start is the beginning of the command, one entry of its words into the running list, and counting; a failing
check and a boundary are one write each after the report or before the completion; reports, releases and completions leave the
partitions and the path. -/
theorem passesAndSweeps : Obligations.PassesAndSweeps := by
  refine ⟨?_, ?_⟩
  · intro s n p c x k q hop hp hc
    exact ⟨fun hnext hstarts hstopped haborted hready =>
        ⟨fun b herr => passStart_stops hop hp hnext hstarts hstopped haborted hready herr,
         fun sh g herr hshape hgo => passStart_enters hop hp hnext hstarts hstopped haborted hready herr hshape hgo⟩,
      fun sh g haborted hstopped hstarts hshape hgo => passReplay_enters hop hp hc haborted hstopped hstarts hshape hgo,
      fun r hr hcmd hready hdrains => passBoundary_commits s n p c x r hop hp hc hr hcmd hready hdrains⟩
  · intro s n c x k v hop hc
    exact ⟨fun hnext hstarts hstopped haborted hready =>
        ⟨fun b herr => sweepStart_stops hop hnext hstarts hstopped haborted hready herr,
         fun herr hgo => sweepStart_enters hop hnext hstarts hstopped haborted hready herr hgo⟩,
      fun r hr hcmd hready hdrains => sweepBoundary_commits s n c x r hop hc hr hcmd hready hdrains⟩

end Sys2Proof.Machine
end

section
/-!
Proofs of chapter 03: what CLAIM, REGION and PART leave (R59, R65, R131-R133, R143).
-/
namespace Sys2Proof.Machine

/-! ## Commands whose wait holds issue (R165) -/

theorem Spm.orderAfter_frame (m : Spm) (wt : Option (Byte × Word)) (who : Option Requester) :
    m.orderAfter wt who = { m with window := (m.orderAfter wt who).window } := by
  cases wt <;> rfl

/-- The state in which a command whose wait is met takes effect. -/
def State.heldStart (s : State) (n : Nat) (w : BitVec 128) : State :=
  s.modSpm n (fun m => m.orderAfter (syncWait (s.core n).seq w) none)

theorem State.frame_heldStart (s : State) (n : Nat) (w : BitVec 128) : s.CoreFrame (s.heldStart n w) n := s.frame_modSpm ..

/-- When a command takes effect only the race window has changed. -/
theorem State.core_heldStart (s : State) (n : Nat) (w : BitVec 128) : ∃ win, (s.heldStart n w).core n =
    { s.core n with spm := { (s.core n).spm with window := win } } := by
  rw [State.heldStart, State.core_modSpm_same, Spm.orderAfter_frame]
  exact ⟨_, rfl⟩

/-- A command whose wait is met takes effect. -/
theorem State.heldCommand_met {s : State} {n op : Nat} {w : BitVec 128} (h : s.runs n op w = true)
    (hwait : (s.core n).spm.waitMet (syncWait (s.core n).seq w) = true) (bad : Core → BitVec 128 → Bool)
    (hbad : bad (s.core n) w = false) (act : BitVec 128 → State → State) :
    s.heldCommand n op bad act = act w (s.heldStart n w) := by
  have hat := h
  simp only [State.runs, Bool.and_eq_true] at hat
  have hop : isOp op w = true := by
    rw [isOp, ((s.atCommand_iff n op w).1 hat.1).2.2.1, beq_self_eq_true]
  rw [State.heldCommand, State.issue_on h _ _ _ _ hop hbad]
  simp only [hwait, if_true]
  rfl

/-- The scratchpad after a signal at issue: its ticket is taken and its count added (R138). -/
def Spm.signalled (m : Spm) (sg : Option (Byte × Byte)) : Spm := (m.ticket sg).2.signal sg

theorem Spm.signalled_frame (m : Spm) (sg : Option (Byte × Byte)) :
    m.signalled sg = { m with tickets := (m.signalled sg).tickets, tokens := (m.signalled sg).tokens } := by
  cases sg <;> rfl

theorem Spm.tokens_signalled_congr {m m' : Spm} (h : m.tokens = m'.tokens) (sg : Option (Byte × Byte)) :
    (m.signalled sg).tokens = (m'.signalled sg).tokens := by
  cases sg with
  | none => exact h
  | some x =>
    simp only [Spm.signalled, Spm.ticket, Spm.signal]
    rw [h]

/-- A core past a command that has taken effect at issue: it has signalled, and the sequencer moves on. -/
def Core.issued (sg : Option (Byte × Byte)) (k : Core) : Core := { k with spm := k.spm.signalled sg }.passed k.seq

theorem State.core_signalNow_advance (s : State) (n : Nat) (sg : Option (Byte × Byte)) :
    ((s.signalNow n sg).advance n).core n = (s.core n).issued sg := by
  rw [State.core_advance, if_pos rfl, State.signalNow, State.core_modSpm_same]
  rfl

theorem State.frame_signalNow_advance (s : State) (n : Nat) (sg : Option (Byte × Byte)) :
    s.CoreFrame ((s.signalNow n sg).advance n) n := (s.frame_signalNow n sg).trans (State.frame_advance ..)

/-! ## Power of the banks (R143) -/

theorem Spm.bank_setBank (m : Spm) (b c : Nat) (x : Bank) : (m.setBank b x).bank c = if c = b then x else m.bank c :=
  SMap.get_set ..

/-- From `m` to `t` banks were gated and woken: the rows of a bank that lost its power read as zeros, and no other row
changed. -/
structure Spm.Gates (m t : Spm) : Prop where
  frame : t = { m with rows := t.rows, banks := t.banks }
  owner : ∀ b, (t.bank b).owner = (m.bank b).owner
  row : ∀ r, t.row r = if (m.bank (r / 512)).powered = true ∧ (t.bank (r / 512)).powered = false then 0 else m.row r

theorem Spm.Gates.refl (m : Spm) : m.Gates m :=
  ⟨rfl, fun _ => rfl, fun _ => (if_neg (by simp)).symm⟩

/-- A bank that gets or keeps its power. -/
theorem Spm.gates_setBank_powered (m : Spm) (b : Nat) (x : Bank) (howner : x.owner = (m.bank b).owner) (hpower : x.powered = true) :
    m.Gates (m.setBank b x) where
  frame := rfl
  owner c := by
    rw [Spm.bank_setBank]
    split
    · next h => rw [h, howner]
    · rfl
  row r := by
    refine (if_neg ?_).symm
    rw [Spm.bank_setBank]
    split <;> simp [hpower]

/-- A bank that loses its power loses its rows. -/
theorem Spm.gates_zeroBank (m : Spm) (b : Nat) (hpower : (m.bank b).powered = true) :
    m.Gates ((m.zeroBank b).setBank b { m.bank b with powered := false }) where
  frame := rfl
  owner c := by
    rw [Spm.bank_setBank]
    split
    · next h => rw [h]
    · rfl
  row r := by
    have hrow : ((m.zeroBank b).setBank b { m.bank b with powered := false }).row r = (m.zeroBank b).row r := rfl
    have hbank (c : Nat) : (m.zeroBank b).bank c = m.bank c := rfl
    rw [hrow, Spm.row_zeroBank, Spm.bank_setBank, hbank]
    by_cases h : r / 512 = b
    · simp [h, hpower]
    · simp [h]

theorem Spm.gates_repowerBank (auto : Bool) (m : Spm) (b : Nat) : m.Gates (m.repowerBank auto b) := by
  unfold Spm.repowerBank
  simp only []
  split
  · exact .refl m
  · split
    · split
      · next h => exact m.gates_zeroBank b (Bool.and_eq_true_iff.1 h).2
      · exact .refl m
    · split
      · exact .refl m
      · exact m.gates_setBank_powered b _ rfl rfl

/-- Only the bank itself is gated or woken. -/
theorem Spm.bank_repowerBank_other (auto : Bool) (m : Spm) {b c : Nat} (h : c ≠ b) : (m.repowerBank auto b).bank c = m.bank c := by
  unfold Spm.repowerBank
  simp only []
  split
  · rfl
  · split
    · split
      · rw [Spm.bank_setBank, if_neg h]; rfl
      · rfl
    · split
      · rfl
      · rw [Spm.bank_setBank, if_neg h]

theorem Spm.bank_repowerBanks_other (auto : Bool) (bs : List Nat) {c : Nat} : ∀ m : Spm, c ∉ bs →
    (bs.foldl (Spm.repowerBank auto) m).bank c = m.bank c := by
  induction bs with
  | nil => exact fun _ _ => rfl
  | cons b bs ih =>
    intro m hc
    rw [List.mem_cons, not_or] at hc
    rw [List.foldl_cons, ih _ hc.2, Spm.bank_repowerBank_other auto m hc.1]

/-- Banks gated and woken one after the other, each once. -/
theorem Spm.gates_repowerBanks (auto : Bool) (bs : List Nat) : ∀ m : Spm, bs.Nodup →
    m.Gates (bs.foldl (Spm.repowerBank auto) m) := by
  induction bs with
  | nil => exact fun m _ => .refl m
  | cons b bs ih =>
    intro m hnodup
    obtain ⟨hb, hbs⟩ := List.nodup_cons.1 hnodup
    have first := m.gates_repowerBank auto b
    have rest := ih (m.repowerBank auto b) hbs
    rw [List.foldl_cons]
    refine ⟨by rw [rest.frame, first.frame], fun c => (rest.owner c).trans (first.owner c), fun r => ?_⟩
    rw [rest.row r, first.row r]
    have same (x : Bank) : ¬ (x.powered = true ∧ x.powered = false) := by simp
    by_cases hr : r / 512 = b
    · rw [hr, Spm.bank_repowerBanks_other auto bs _ hb, if_neg (same _)]
    · rw [Spm.bank_repowerBank_other auto m hr, if_neg (same (m.bank (r / 512)))]

theorem Spm.gates_repower (auto : Bool) (m : Spm) : m.Gates (Spm.repower auto m) :=
  m.gates_repowerBanks auto _ List.nodup_range

/-! ## CLAIM (R131, R132) -/

theorem Spm.circBank_iff (m : Spm) (b : Nat) : m.circBank b = true ↔ ∃ c, (m.bank b).owner = .circ c := by
  unfold Spm.circBank
  cases (m.bank b).owner <;> simp

/-- Core `k'` is core `k` after a claim of banks for a port: they have their new owner, and no bank lost or got power. -/
structure Core.Claims (p : Nat) (bs : List Nat) (k k' : Core) : Prop where
  frame : k' = { k with spm := { k.spm with banks := k'.spm.banks } }
  owner : ∀ b, (k'.spm.bank b).owner = if b ∈ bs then claimOwner p else (k.spm.bank b).owner
  powered : ∀ b, (k'.spm.bank b).powered = (k.spm.bank b).powered

theorem Core.claims_claimBank (p : Nat) (k : Core) (b : Nat) : Core.Claims p [b] k (Core.claimBank p k b) := by
  unfold Core.claimBank
  simp only []
  split
  · next h =>
    refine ⟨rfl, fun c => ?_, fun _ => rfl⟩
    by_cases hc : c = b
    · simpa [hc] using h
    · simp [hc]
  · refine ⟨rfl, fun c => ?_, fun c => ?_⟩
    · simp only [Spm.bank_setBank, List.mem_singleton]
      split <;> rfl
    · simp only [Spm.bank_setBank]
      split
      · next hc => rw [hc]
      · rfl

theorem Core.claims_claimBanks (p : Nat) (bs : List Nat) : ∀ k : Core, Core.Claims p bs k (bs.foldl (Core.claimBank p) k) := by
  induction bs with
  | nil => exact fun _ => ⟨rfl, fun _ => by simp, fun _ => rfl⟩
  | cons b bs ih =>
    intro k
    have first := k.claims_claimBank p b
    have rest := ih (Core.claimBank p k b)
    rw [List.foldl_cons]
    refine ⟨by rw [rest.frame, first.frame], fun c => ?_, fun c => (rest.powered c).trans (first.powered c)⟩
    rw [rest.owner, first.owner]
    by_cases hb : c = b <;> by_cases hbs : c ∈ bs <;> simp [hb, hbs]

@[simp] theorem Spm.bank_signalled (m : Spm) (sg : Option (Byte × Byte)) (b : Nat) : (m.signalled sg).bank b = m.bank b := by
  rw [Spm.signalled_frame]; rfl
@[simp] theorem Spm.row_signalled (m : Spm) (sg : Option (Byte × Byte)) (r : Nat) : (m.signalled sg).row r = m.row r := by
  rw [Spm.signalled_frame]; rfl
@[simp] theorem Spm.banks_signalled (m : Spm) (sg : Option (Byte × Byte)) : (m.signalled sg).banks = m.banks := by
  rw [Spm.signalled_frame]
@[simp] theorem Spm.regions_signalled (m : Spm) (sg : Option (Byte × Byte)) : (m.signalled sg).regions = m.regions := by
  rw [Spm.signalled_frame]
@[simp] theorem Spm.circs_signalled (m : Spm) (sg : Option (Byte × Byte)) : (m.signalled sg).circs = m.circs := by
  rw [Spm.signalled_frame]
@[simp] theorem Spm.claimSeq_signalled (m : Spm) (sg : Option (Byte × Byte)) : (m.signalled sg).claimSeq = m.claimSeq := by
  rw [Spm.signalled_frame]

@[simp] theorem Spm.region_signalled (m : Spm) (sg : Option (Byte × Byte)) (r : Nat) : (m.signalled sg).region r = m.region r := by
  rw [Spm.signalled_frame]; rfl

/-- Scratchpad `t` is `m` with the banks' owners `owner`, and only the rows of a bank that lost its power are lost (R143). -/
structure Spm.Reowns (owner : Nat → BankOwner) (m t : Spm) : Prop where
  circs : t.circs = m.circs
  tokens : t.tokens = m.tokens
  owner : ∀ b, (t.bank b).owner = owner b
  row : ∀ r, t.row r = if (m.bank (r / 512)).powered = true ∧ (t.bank (r / 512)).powered = false then 0 else m.row r

/-- A signal changes tickets and tokens only. -/
theorem Spm.Reowns.signalled {owner : Nat → BankOwner} {m t : Spm} (h : m.Reowns owner t) (sg : Option (Byte × Byte)) :
    let u := t.signalled sg
    u.circs = m.circs ∧ u.tokens = (m.signalled sg).tokens ∧ (∀ b, (u.bank b).owner = owner b) ∧
      ∀ r, u.row r = if (m.bank (r / 512)).powered = true ∧ (u.bank (r / 512)).powered = false then 0 else m.row r := by
  simp only [Spm.circs_signalled, Spm.bank_signalled, Spm.row_signalled]
  exact ⟨h.circs, Spm.tokens_signalled_congr h.tokens sg, h.owner, h.row⟩

/-- The count of changed owners leaves the core. -/
theorem State.count_claims (s : State) (n : CoreId) (j : Nat) :
    let t := if j = 0 then s else s.count (corePage n.val kSPM) 0x110 j
    t.core n.val = s.core n.val ∧ s.CoreFrame t n.val := by
  simp only []
  split
  · exact ⟨rfl, .refl s n.val⟩
  · exact ⟨rfl, s.frame_count n.val kSPM _ _ (by decide)⟩

/-- The scratchpad after a claim has changed its banks: the claim counts, and banks that it leaves idle are gated (R143). -/
def Spm.countClaim (auto : Bool) (m : Spm) : Spm := Spm.repower auto { m with claimSeq := m.claimSeq + 1 }

theorem Spm.reowns_countClaim (auto : Bool) (m : Spm) :
    m.Reowns (fun b => (m.bank b).owner) (m.countClaim auto) ∧
    (m.countClaim auto).claimSeq = m.claimSeq + 1 ∧ (m.countClaim auto).regions = m.regions := by
  have hgate := Spm.gates_repower auto { m with claimSeq := m.claimSeq + 1 }
  unfold Spm.countClaim
  exact ⟨⟨by rw [hgate.frame], by rw [hgate.frame], hgate.owner, hgate.row⟩, by rw [hgate.frame], by rw [hgate.frame]⟩

/-- A core whose claim has taken effect, with the race window `win`. -/
def Core.claimed (auto : Bool) (win : List WinEntry) (p : Nat) (bs : List Nat) (k : Core) : Core :=
  let k := bs.foldl (Core.claimBank p) { k with spm := { k.spm with window := win } }
  { k with spm := k.spm.countClaim auto }

/-- A claim counts, gives the banks their new owner and leaves the regions; of the core it changes the scratchpad only. -/
theorem Core.reowns_claimed (auto : Bool) (win : List WinEntry) (p : Nat) (bs : List Nat) (k : Core) :
    let k' := k.claimed auto win p bs
    k' = { k with spm := k'.spm } ∧
    k.spm.Reowns (fun b => if b ∈ bs then claimOwner p else (k.spm.bank b).owner) k'.spm ∧
    k'.spm.claimSeq = k.spm.claimSeq + 1 ∧ k'.spm.regions = k.spm.regions := by
  have hclaim := Core.claims_claimBanks p bs { k with spm := { k.spm with window := win } }
  unfold Core.claimed
  generalize bs.foldl (Core.claimBank p) { k with spm := { k.spm with window := win } } = k' at hclaim
  obtain ⟨⟨hcircs, htokens, howner, hrow⟩, hseq, hregions⟩ := k'.spm.reowns_countClaim auto
  dsimp only
  generalize k'.spm.countClaim auto = m at *
  have hrows (r : Nat) : k'.spm.row r = k.spm.row r := by rw [hclaim.frame]; rfl
  refine ⟨by rw [hclaim.frame], ⟨?_, ?_, fun b => ?_, fun r => ?_⟩, ?_, ?_⟩
  · exact hcircs.trans (congrArg (·.spm.circs) hclaim.frame)
  · exact htokens.trans (congrArg (·.spm.tokens) hclaim.frame)
  · rw [howner]
    exact hclaim.owner b
  · rw [← hrows]
    exact (hclaim.powered (r / 512)) ▸ hrow r
  · exact hseq.trans (congrArg (·.spm.claimSeq + 1) hclaim.frame)
  · exact hregions.trans (congrArg (·.spm.regions) hclaim.frame)

@[simp] theorem State.core_spmSource (s : State) (n b m : Nat) : (s.spmSource n b).core m = s.core m := rfl

/-- A scratchpad check that fails at issue reports its event and leaves the banks and the regions. -/
theorem State.spm_raiseFault_spmSource (s : State) (n : CoreId) (w : BitVec 128) {b : Nat} (hb : b < 32) (i j : Word) :
    let t := ((s.heldStart n.val w).spmSource n.val b).raiseFault n.val kSPM b i j
    (t.core n.val).spm.banks = (s.core n.val).spm.banks ∧ (t.core n.val).spm.regions = (s.core n.val).spm.regions ∧
      bit (t.page (corePage n.val kSPM)).err b = true := by
  obtain ⟨win, hstart⟩ := s.core_heldStart n.val w
  have hspm := (State.kept_raiseFault ((s.heldStart n.val w).spmSource n.val b) n.val kSPM b i j).spm n.val
  rw [State.core_spmSource, hstart] at hspm
  exact ⟨by rw [hspm], by rw [hspm], State.reported_raiseFault _ n i j (by decide) hb⟩

/-- The scratchpad after a region's entry is replaced, with the race window `win` (R133, R143). -/
def Spm.replaceRegion (m : Spm) (auto : Bool) (win : List WinEntry) (r : Nat) (x : Region) : Spm :=
  Spm.repower auto { m with window := win, regions := m.regions.set regionDefault r x }

/-- What a new entry leaves of the scratchpad. -/
theorem Spm.reowns_replaceRegion (m : Spm) (auto : Bool) (win : List WinEntry) (r : Nat) (x : Region) :
    m.Reowns (fun b => (m.bank b).owner) (m.replaceRegion auto win r x) ∧
    ∀ q, (m.replaceRegion auto win r x).region q = if q = r then x else m.region q := by
  have hgate := Spm.gates_repower auto { m with window := win, regions := m.regions.set regionDefault r x }
  unfold Spm.replaceRegion
  refine ⟨⟨by rw [hgate.frame], by rw [hgate.frame], hgate.owner, hgate.row⟩, fun q => ?_⟩
  rw [hgate.frame]
  exact SMap.get_set ..

/-! ## The geometry of the partitions (R59) -/

/-- Whether PART gives a partition squares that are no rectangle. -/
def badShape (w : BitVec 128) (p : Nat) : Bool := !(partSquares w p).isEmpty && (rectangle (partSquares w p)).isNone

theorem badShape_iff (w : BitVec 128) (p : Nat) :
    badShape w p = true ↔ partSquares w p ≠ [] ∧ rectangle (partSquares w p) = none := by
  simp [badShape]

/-- A partition after a PART command that gives it geometry `g`. -/
def Part.reshape (g : Option Geom) (x : Part) : Part :=
  if x.geom = g then x else { x with geom := g, fresh := true, lastLoad := none }

theorem Part.reshape_reshape (g : Option Geom) (x : Part) : (x.reshape g).reshape g = x.reshape g := by
  unfold Part.reshape
  split <;> simp_all

/-- The partitions after PART has given `p` its squares. -/
def Arr.reshape (w : BitVec 128) (a : Arr) (p : Nat) : Arr :=
  a.setPart p ((a.part p).reshape (rectangle (partSquares w p)))

/-- Partitions that get their squares one after the other. -/
theorem Arr.foldl_reshape (w : BitVec 128) (ps : List Nat) : ∀ a : Arr,
    (ps.foldl (Arr.reshape w) a).acc = a.acc ∧
    ∀ q, (ps.foldl (Arr.reshape w) a).part q =
      if q ∈ ps then (a.part q).reshape (rectangle (partSquares w q)) else a.part q := by
  induction ps with
  | nil => exact fun _ => ⟨rfl, fun _ => rfl⟩
  | cons p ps ih =>
    intro a
    obtain ⟨hacc, hpart⟩ := ih (Arr.reshape w a p)
    refine ⟨hacc, fun q => ?_⟩
    rw [List.foldl_cons, hpart, Arr.reshape, Arr.part_setPart]
    by_cases hq : q = p
    · subst hq
      simp [Part.reshape_reshape]
    · simp [hq]

theorem State.reshape_foldl (n : Nat) (w : BitVec 128) (ps : List Nat) : ∀ s : State,
    let t := ps.foldl (fun s p => s.modPart n p (Part.reshape (rectangle (partSquares w p)))) s
    s.CoreFrame t n ∧ t.core n = { s.core n with arr := ps.foldl (Arr.reshape w) (s.core n).arr } := by
  induction ps with
  | nil => exact fun s => ⟨.refl s n, rfl⟩
  | cons p ps ih =>
    intro s
    obtain ⟨hframe, hcore⟩ := ih (s.modPart n p (Part.reshape (rectangle (partSquares w p))))
    refine ⟨(s.frame_modPart ..).trans hframe, hcore.trans ?_⟩
    rw [State.core_modPart_same]
    rfl

section
variable {s : State} {n : CoreId} {w : BitVec 128}
  (hwait : (s.core n.val).spm.waitMet (syncWait (s.core n.val).seq w) = true)
include hwait

section
variable (hrun : s.runs n.val 0x28 w = true) (hport : cf w 0 19 16 ≤ 7)
include hrun hport

/-- A CLAIM of a bank that a circular region holds raises CLAIM_BAD (R132). -/
theorem claim_refused (hcirc : ∃ b ∈ claimBanks w, ∃ c, ((s.core n.val).spm.bank b).owner = .circ c) :
    ∃ t, exec (.claim n) s = .next t ∧ (t.core n.val).spm.banks = (s.core n.val).spm.banks ∧
      bit (t.page (corePage n.val kSPM)).err 3 = true := by
  obtain ⟨win, hstart⟩ := s.core_heldStart n.val w
  have hfind : ((claimBanks w).find? ((s.heldStart n.val w).core n.val).spm.circBank).isSome = true := by
    obtain ⟨b, hb, hc⟩ := hcirc
    rw [List.find?_isSome, hstart]
    exact ⟨b, hb, (Spm.circBank_iff _ b).2 hc⟩
  obtain ⟨b, hb⟩ := Option.isSome_iff_exists.1 hfind
  obtain ⟨hbanks, -, herr⟩ := s.spm_raiseFault_spmSource n w (b := 3) (by decide) (cause 3 (b * 1024 + 7 * 16)) (word (b * 512))
  refine ⟨_, ?_, hbanks, herr⟩
  have hexec : exec (.claim n) s = execClaim n s := rfl
  rw [hexec, execClaim, State.heldCommand_met hrun hwait _ (by simpa using hport)]
  simp only [hb]

/-- A CLAIM of no circular bank takes effect (R132). -/
theorem exec_claim (hcirc : ∀ b ∈ claimBanks w, ∀ c, ((s.core n.val).spm.bank b).owner ≠ .circ c) :
    ∃ m t, exec (.claim n) s = .next t ∧ s.CoreFrame t n.val ∧
      t.core n.val = { s.core n.val with spm := m }.issued (syncSignal w) ∧
      (s.core n.val).spm.Reowns (fun b => if b ∈ claimBanks w then claimOwner (cf w 0 19 16) else ((s.core n.val).spm.bank b).owner) m ∧
      m.claimSeq = (s.core n.val).spm.claimSeq + 1 ∧ m.regions = (s.core n.val).spm.regions := by
  obtain ⟨win, hstart⟩ := s.core_heldStart n.val w
  have hfind : (claimBanks w).find? ((s.heldStart n.val w).core n.val).spm.circBank = none := by
    rw [List.find?_eq_none, hstart]
    intro b hb hc
    obtain ⟨c, hc⟩ := (Spm.circBank_iff _ b).1 hc
    exact hcirc b hb c hc
  have hexec : exec (.claim n) s = execClaim n s := rfl
  rw [hexec, execClaim, State.heldCommand_met hrun hwait _ (by simpa using hport)]
  simp only [hfind]
  obtain ⟨hframe, hreowns, hseq, hregions⟩ :=
    (s.core n.val).reowns_claimed ((s.heldStart n.val w).autoPwr n.val) win (cf w 0 19 16) (claimBanks w)
  refine ⟨_, _, rfl, ?_, ?_, hreowns, hseq, hregions⟩
  · exact (((s.frame_heldStart ..).trans (State.frame_modCore ..)).trans (State.count_claims ..).2).trans (State.frame_signalNow_advance ..)
  · rw [State.core_signalNow_advance, (State.count_claims ..).1, State.core_modCore_same, hstart]
    exact congrArg (Core.issued (syncSignal w)) hframe

end

/-! ## REGION (R133) -/

section
variable (hrun : s.runs n.val 0x29 w = true)
include hrun

/-- A REGION outside R133's ranges raises REGION_BOUND. -/
theorem region_refused (hvalid : cf w 0 20 20 = 1) (hbound : 24575 < cf w 1 14 0 ∨ 24575 < cf w 2 14 0) :
    ∃ t, exec (.region n) s = .next t ∧ (t.core n.val).spm.regions = (s.core n.val).spm.regions ∧
      bit (t.page (corePage n.val kSPM)).err 0 = true := by
  obtain ⟨-, hregions, herr⟩ := s.spm_raiseFault_spmSource n w (b := 0) (by decide)
    (cause 0 (cf w 1 14 0 / 512 % 64 * 1024 + 7 * 16)) (word (cf w 1 14 0))
  refine ⟨_, ?_, hregions, herr⟩
  have hexec : exec (.region n) s = execRegion n s := rfl
  rw [hexec, execRegion, State.heldCommand_met hrun hwait noBad rfl]
  simp only [hvalid, beq_self_eq_true, Bool.true_and, Bool.or_eq_true, decide_eq_true_eq, hbound, if_true]

/-- A REGION in R133's ranges replaces its entry, and the banks that it leaves idle are gated (R143). -/
theorem exec_region (hbound : cf w 0 20 20 = 1 → cf w 1 14 0 ≤ 24575 ∧ cf w 2 14 0 ≤ 24575) :
    ∃ m t, exec (.region n) s = .next t ∧ s.CoreFrame t n.val ∧
      t.core n.val = { s.core n.val with spm := m }.issued (syncSignal w) ∧
      (s.core n.val).spm.Reowns (fun b => ((s.core n.val).spm.bank b).owner) m ∧
      ∀ r, m.region r = if r = cf w 0 19 16 then
        { base := cf w 1 14 0, count1 := cf w 2 14 0, valid := cf w 0 20 20 == 1 } else (s.core n.val).spm.region r := by
  obtain ⟨win, hstart⟩ := s.core_heldStart n.val w
  have hbad : (cf w 0 20 20 == 1 && (decide (24575 < cf w 1 14 0) || decide (24575 < cf w 2 14 0))) = false := by
    rw [Bool.eq_false_iff]
    intro h
    simp only [Bool.and_eq_true, beq_iff_eq, Bool.or_eq_true, decide_eq_true_eq] at h
    have := hbound h.1
    omega
  have hexec : exec (.region n) s = execRegion n s := rfl
  rw [hexec, execRegion, State.heldCommand_met hrun hwait noBad rfl]
  simp only [hbad, Bool.false_eq_true, if_false]
  obtain ⟨hreowns, hregion⟩ := (s.core n.val).spm.reowns_replaceRegion ((s.heldStart n.val w).autoPwr n.val) win (cf w 0 19 16)
    { base := cf w 1 14 0, count1 := cf w 2 14 0, valid := cf w 0 20 20 == 1 }
  refine ⟨_, _, rfl, ?_, ?_, hreowns, hregion⟩
  · exact ((s.frame_heldStart ..).trans (State.frame_modSpm ..)).trans (State.frame_signalNow_advance ..)
  · rw [State.core_signalNow_advance, State.core_modSpm_same, hstart]
    rfl

end

/-! ## PART (R59, R65) -/

section
variable (hrun : s.runs n.val 0x30 w = true)
include hrun

/-- A PART with a set that is no rectangle raises PART_SHAPE and stops the partition (R65). -/
theorem part_refused (hshape : ∃ p < 16, partSquares w p ≠ [] ∧ rectangle (partSquares w p) = none) :
    ∃ t, exec (.part n) s = .next t ∧
      (∀ p, ((t.core n.val).arr.part p).geom = ((s.core n.val).arr.part p).geom) ∧
      bit (t.page (corePage n.val kARR)).err 3 = true ∧
      ∃ p < 16, partSquares w p ≠ [] ∧ rectangle (partSquares w p) = none ∧ ((t.core n.val).arr.part p).stopped = true ∧
        ∀ d ∈ (t.core n.val).inflight, d.queuedPass p = false := by
  obtain ⟨win, hstart⟩ := s.core_heldStart n.val w
  have hfind : ((List.range 16).find? (badShape w)).isSome = true := by
    obtain ⟨p, hp, hbad⟩ := hshape
    rw [List.find?_isSome]
    exact ⟨p, List.mem_range.2 hp, (badShape_iff w p).2 hbad⟩
  obtain ⟨p, hp⟩ := Option.isSome_iff_exists.1 hfind
  obtain ⟨hne, hnone⟩ := (badShape_iff w p).1 (List.find?_some hp)
  have hexec : exec (.part n) s = execPart n s := rfl
  have hlt := List.mem_range.1 (List.mem_of_find?_eq_some hp)
  unfold badShape at hp
  rw [hexec, execPart, State.heldCommand_met hrun hwait noBad rfl]
  simp only [hp]
  refine ⟨_, rfl, fun q => ?_, ?_, p, hlt, hne, hnone, ?_, ?_⟩
  · rw [State.arr_stopPartition, (State.engines_raiseFault ..).arr, hstart, Arr.part_setPart]
    split
    · next h => rw [h]
    · rfl
  · rw [State.page_stopPartition]
    exact State.reported_raiseFault _ n _ _ (by decide) (by decide)
  · rw [State.arr_stopPartition, Arr.part_setPart_same]
  · exact State.not_queuedPass_stopPartition _ _ _ _ _

/-- A PART whose sets are rectangles gives the partitions their geometry (R59). -/
theorem exec_part (hshape : ∀ p < 16, partSquares w p ≠ [] → (rectangle (partSquares w p)).isSome) :
    ∃ win t, exec (.part n) s = .next t ∧ s.CoreFrame t n.val ∧
      t.core n.val = { s.core n.val with
        arr := (List.range 16).foldl (Arr.reshape w) (s.core n.val).arr,
        spm := { (s.core n.val).spm with window := win } }.issued (syncSignal w) := by
  obtain ⟨win, hstart⟩ := s.core_heldStart n.val w
  have hfind : (List.range 16).find? (badShape w) = none := by
    rw [List.find?_eq_none]
    intro p hp hbad
    obtain ⟨hne, hnone⟩ := (badShape_iff w p).1 hbad
    simpa [hnone] using hshape p (List.mem_range.1 hp) hne
  unfold badShape at hfind
  obtain ⟨hframe, hcore⟩ := State.reshape_foldl n.val w (List.range 16) (s.heldStart n.val w)
  have hexec : exec (.part n) s = execPart n s := rfl
  rw [hexec, execPart, State.heldCommand_met hrun hwait noBad rfl]
  simp only [hfind]
  refine ⟨win, _, rfl, ((s.frame_heldStart ..).trans hframe).trans (State.frame_signalNow_advance ..), ?_⟩
  unfold Part.reshape at hcore
  rw [State.core_signalNow_advance, hcore, hstart]

end
end

/-- Settles O9: an issue whose wait is met changes only the race window before it acts; a claim and a region gate what they
leave idle, and no bank but a gated one loses rows (R143). -/
theorem scratchpadOwnership : Obligations.ScratchpadOwnership := by
  intro s n w k q sg tokens gates hwait
  refine ⟨?_, claim_refused hwait, ?_, region_refused hwait, ?_, part_refused hwait⟩
  · intro hrun hport hcirc
    obtain ⟨m, t, hexec, hframe, hcore, hm, hclaimSeq, hregions⟩ := exec_claim hwait hrun hport hcirc
    have hspm : (t.core n.val).spm = m.signalled sg := by rw [hcore]; rfl
    obtain ⟨hcircs, htokens, howner, hrow⟩ := hm.signalled sg
    rw [← hspm] at hcircs htokens howner hrow
    refine ⟨t, hexec, hframe, ?_, fun b _ => howner b, ?_, hrow, ?_, hcircs, htokens⟩
    · rw [hspm, hcore]
      rfl
    · rw [hspm, Spm.claimSeq_signalled, hclaimSeq]
    · rw [hspm, Spm.regions_signalled, hregions]
  · intro hrun hbound
    obtain ⟨m, t, hexec, hframe, hcore, hm, hregion⟩ := exec_region hwait hrun hbound
    have hspm : (t.core n.val).spm = m.signalled sg := by rw [hcore]; rfl
    obtain ⟨hcircs, htokens, howner, hrow⟩ := hm.signalled sg
    rw [← hspm] at hcircs htokens howner hrow
    refine ⟨t, hexec, hframe, ?_, fun r => ?_, howner, hrow, hcircs, htokens⟩
    · rw [hspm, hcore]
      rfl
    · rw [hspm, Spm.region_signalled, hregion]
  · intro hrun hshape
    obtain ⟨win, t, hexec, hframe, hcore⟩ := exec_part hwait hrun hshape
    obtain ⟨hacc, hpart⟩ := Arr.foldl_reshape w (List.range 16) k.arr
    refine ⟨t, hexec, hframe, ?_, ?_, fun p hp => ?_, ?_, ?_⟩
    · rw [hcore]
      rfl
    · rw [hcore]
      exact hacc
    · rw [hcore]
      exact (hpart p).trans (if_pos (List.mem_range.2 hp))
    · rw [hcore]
      exact Spm.tokens_signalled_congr (m := { k.spm with window := win }) (m' := k.spm) rfl sg
    · rw [hcore]
      exact Spm.banks_signalled ..

end Sys2Proof.Machine
end

section
/-!
Proofs of chapter 06: what a STREAM with a plain operand leaves when it completes (R206, R209), and the end of a table load
(R116, R128).
-/
namespace Sys2Proof.Machine

/-! ## What a stream can change -/

/-- From `s` to `t` no other core than `n`, and of the rest only register pages, slices and free values have moved. -/
structure State.Streamed (s t : State) (n : Nat) : Prop where
  rest : t = { s with cores := t.cores, pages := t.pages, slices := t.slices, free := t.free }
  others : ∀ m, m ≠ n → t.core m = s.core m

theorem State.Streamed.refl (s : State) (n : Nat) : s.Streamed s n := ⟨rfl, fun _ _ => rfl⟩

theorem State.Streamed.trans {s t u : State} {n : Nat} (h : s.Streamed t n) (g : t.Streamed u n) : s.Streamed u n where
  rest := by rw [g.rest, h.rest]
  others m hm := (g.others m hm).trans (h.others m hm)

theorem State.streamed_modCore (s : State) (n : Nat) (f : Core → Core) : s.Streamed (s.modCore n f) n :=
  ⟨rfl, (s.frame_modCore n f).others⟩

theorem State.streamed_modStr (s : State) (n : Nat) (f : Str → Str) : s.Streamed (s.modStr n f) n :=
  s.streamed_modCore n (fun c => { c with str := f c.str })

theorem State.streamed_modSpm (s : State) (n : Nat) (f : Spm → Spm) : s.Streamed (s.modSpm n f) n :=
  s.streamed_modCore n (fun c => { c with spm := f c.spm })

theorem State.streamed_updateCmd (s : State) (n id : Nat) (f : EngCmd → EngCmd) :
    s.Streamed (s.modCore n (fun k => k.updateCmd id f)) n := s.streamed_modCore ..

theorem State.streamed_markStage (s : State) (n id : Nat) (st : Stage) : s.Streamed (s.markStage n id st) n :=
  s.streamed_updateCmd ..

theorem State.streamed_count (s : State) (n p off k : Nat) : s.Streamed (s.count p off k) n := ⟨rfl, fun _ _ => rfl⟩

theorem State.streamed_countFree (s : State) (n p off : Nat) : s.Streamed (s.countFree p off) n := ⟨rfl, fun _ _ => rfl⟩

theorem State.streamed_countRows (s : State) (n r w : Nat) : s.Streamed (s.countRows n r w) n := by
  unfold State.countRows
  simp only []
  split <;> split <;> exact ⟨rfl, fun _ _ => rfl⟩

@[simp] theorem State.slices_countRows (s : State) (n r w : Nat) : (s.countRows n r w).slices = s.slices := by
  unfold State.countRows
  simp only []
  split <;> split <;> rfl

section
variable (s : State) (n : Nat) {c : EngCmd} (h : c.races = []) (r w : Nat)
include h

theorem State.streamed_performed : s.Streamed (s.performed n c r w) n := by
  rw [State.performed, State.spendRace_of_nil _ h]
  exact (s.streamed_markStage ..).trans (State.streamed_countRows ..)

theorem State.slices_performed : (s.performed n c r w).slices = s.slices := by
  rw [State.performed, State.spendRace_of_nil _ h, State.slices_countRows, State.markStage_slices]

end

/-! ## Units written one by one (R203) -/

/-- Writing units changes the slices alone. -/
theorem State.setUnits_eq (n : Nat) (xs : List (Nat × Row)) : ∀ s : State, s.setUnits n xs =
    { s with slices := xs.foldl (fun m x => m.set sliceReset (s.physSlice n * sliceUnits + x.1) x.2) s.slices } := by
  induction xs with
  | nil => exact fun _ => rfl
  | cons x xs ih => exact fun s => ih (s.setUnit n x.1 x.2)

@[simp] theorem State.core_setUnits (s : State) (n : Nat) (xs : List (Nat × Row)) (m : Nat) :
    (s.setUnits n xs).core m = s.core m := by
  rw [State.setUnits_eq]; rfl

theorem State.streamed_setUnits (s : State) (n : Nat) (xs : List (Nat × Row)) : s.Streamed (s.setUnits n xs) n :=
  ⟨by rw [State.setUnits_eq], fun m _ => s.core_setUnits n xs m⟩

/-! ## Transfer tags (R212) -/

/-- A command that holds a tag for each of `k` transfers. -/
def EngCmd.tagged (k : Nat) (c : EngCmd) : EngCmd := { c with tags := k }

section
variable (s : State) (n id quota k : Nat)

theorem State.core_holdTags : (s.holdTags n id quota k).core n = (s.core n).updateCmd id (EngCmd.tagged (min quota k)) := by
  have h := s.core_modCore_same n (fun c => c.updateCmd id (EngCmd.tagged (min quota k)))
  unfold State.holdTags
  simp only []
  split <;> exact h

theorem State.streamed_holdTags : s.Streamed (s.holdTags n id quota k) n := by
  have h := s.streamed_modCore n (fun c => c.updateCmd id (EngCmd.tagged (min quota k)))
  unfold State.holdTags
  simp only []
  split
  · exact h.trans (State.streamed_countFree ..)
  · exact h

@[simp] theorem State.slices_holdTags : (s.holdTags n id quota k).slices = s.slices := by
  unfold State.holdTags
  simp only []
  split <;> rfl

end

/-! ## A STREAM that nothing holds (R206, R209, R211) -/

/-- What `streamGoes` says. -/
theorem State.streamGoes_iff (s : State) (n : Nat) (c : EngCmd) (x : StreamP) : s.streamGoes n c x = true ↔
    s.engineRuns n = true ∧ ((s.core n).queueOf c.req).head? = some c ∧ (s.core n).command c.id = some c ∧
    c.stage = .queued ∧ c.races = [] ∧ c.op = .stream x ∧ s.streamHeld n c x = none ∧ x.opnd.plain = true ∧
    s.streamErr n x = none ∧ c.got = [] := by
  simp [State.streamGoes, and_assoc]

/-- The state in which a STREAM has started: its preset is in force (R206). -/
def State.streamStart (s : State) (n : Nat) (x : StreamP) : State := s.modStr n (fun v => { v with preset := x.preset })

theorem State.core_streamStart (s : State) (n : Nat) (x : StreamP) : (s.streamStart n x).core n =
    { s.core n with str := { (s.core n).str with preset := x.preset } } := State.core_modCore_same ..

theorem State.command_streamStart (s : State) (n : Nat) (x : StreamP) (id : Nat) :
    ((s.streamStart n x).core n).command id = (s.core n).command id := by
  rw [State.core_streamStart]; rfl

theorem State.streamed_streamStart (s : State) (n : Nat) (x : StreamP) : s.Streamed (s.streamStart n x) n :=
  s.streamed_modStr n _

/-- The checks at the start do not depend on the preset in force. -/
theorem State.streamErr_streamStart (s : State) (n : Nat) (x : StreamP) :
    (s.streamStart n x).streamErr n x = s.streamErr n x := by
  unfold State.streamErr
  rw [State.core_streamStart]
  rfl

/-- A plain operand has no slots to take (R136). -/
theorem Spm.slotsOf_plain (m : Spm) {o : Operand} (h : o.plain = true) : m.slotsOf o = [] := by
  have hcirc : o.circ = none := by simpa [Operand.plain] using h
  rw [Spm.slotsOf, hcirc]

theorem State.gather_plain (s : State) (n : Nat) (c : EngCmd) {o : Operand} (h : o.plain = true) : s.gather n c [o] = s := by
  simp [State.gather, Spm.slotsOf_plain _ h, State.takeSlots]

theorem State.sources_plain (s : State) (n : Nat) {c : EngCmd} {o : Operand} (h : o.plain = true) (hraces : c.races = [])
    (got : List Row) : s.sources n c [o] got = [(s.core n).spm.reads o] := by
  have hcirc : o.circ = none := by simpa [Operand.plain] using h
  simp [State.sources, hcirc, State.readFor_of_nil _ _ hraces]

/-! ## Toward the slice (R209) -/

/-- A STREAM toward the slice has written its units, counted `k` of them, and holds their tags. -/
def State.streamWritten (s : State) (n : Nat) (c : EngCmd) (x : StreamP) (ws : List (Nat × Row)) (k : Nat) : State :=
  (((s.streamStart n x).setUnits n ws).count (corePage n kSTR) 0x110 k).holdTags n c.id ((s.core n).str.quotaOf x.ctx.val) k

section
variable (s : State) (n : Nat) (c : EngCmd) (x : StreamP) (ws : List (Nat × Row)) (k : Nat)

theorem State.core_streamWritten : (s.streamWritten n c x ws k).core n =
    ((s.streamStart n x).core n).updateCmd c.id (EngCmd.tagged (min ((s.core n).str.quotaOf x.ctx.val) k)) := by
  rw [State.streamWritten, State.core_holdTags, State.count_core, State.core_setUnits]

theorem State.streamed_streamWritten : s.Streamed (s.streamWritten n c x ws k) n :=
  (((s.streamed_streamStart n x).trans (State.streamed_setUnits ..)).trans (State.streamed_count ..)).trans
    (State.streamed_holdTags ..)

theorem State.slices_streamWritten : (s.streamWritten n c x ws k).slices = (s.setUnits n ws).slices := by
  rw [State.streamWritten, State.slices_holdTags, State.count_slices, State.setUnits_eq, State.setUnits_eq]
  rfl

end

/-- The rows of a STREAM toward the scratchpad have been read, and their tags are held (R212). -/
def State.streamRead (s : State) (n : Nat) (c : EngCmd) (x : StreamP) : State :=
  let u := s.streamStart n x
  let k := ((s.core n).streamUnits x).length
  (if c.tags = 0 then u.holdTags n c.id ((s.core n).str.quotaOf x.ctx.val) k else u).count (corePage n kSTR) 0x108 k

/-- With a plain operand every transfer toward the slice has its row at once. -/
theorem State.streamOut_plain (s : State) (n : Nat) {c : EngCmd} {x : StreamP} (us : List Nat) (hplain : x.opnd.plain = true)
    (hraces : c.races = []) (hgot : c.got = []) (hc : (s.core n).command c.id = some c) :
    let rows := (s.core n).spm.reads x.opnd
    s.streamOut n c x us = (((s.setUnits n (us.zip rows)).count (corePage n kSTR) 0x110 rows.length).holdTags n c.id
      ((s.core n).str.quotaOf x.ctx.val) rows.length).performed n c rows.length 0 := by
  intro rows
  have hcirc : x.opnd.circ.isSome = false := by simpa [Operand.plain] using hplain
  have hall : (s.core n).gathered c [x.opnd] = true := by simp [Core.gathered, Spm.slotsOf_plain _ hplain]
  simp [State.streamOut, State.gather_plain _ _ _ hplain, hc, hall, hcirc, hgot, State.sources_plain _ _ hplain hraces, rows]

section
variable {s : State} {n : Nat} {c : EngCmd} {x : StreamP} (hgo : s.streamGoes n c x = true)
include hgo

/-- A STREAM that nothing holds writes its units, or its rows, from the state in which it has started. -/
theorem performStream_goes : performStream true n s c =
    (let us := (s.core n).streamUnits x
     if x.out then
       if descZero ((s.core n).str.descriptor x.desc) then
         (s.streamWritten n c x (us.map (fun u => (u, (0 : Row)))) us.length).markStage n c.id .performed
       else (s.streamStart n x).streamOut n c x us
     else (s.streamRead n c x).deliverAll n c [(x.opnd, us.map ((s.streamRead n c x).unit n))]) := by
  obtain ⟨-, -, -, hstage, -, hop, hheld, -, herr, -⟩ := (s.streamGoes_iff n c x).1 hgo
  rw [← s.streamErr_streamStart n x, State.streamStart] at herr
  have hqueued : (c.stage == .started) = false := by rw [hstage]; rfl
  simp only [performStream, hop, hqueued, hheld, herr]
  rfl

theorem performStream_zero (hout : x.out = true) (hzero : descZero ((s.core n).str.descriptor x.desc) = true) :
    performStream true n s c =
      (s.streamWritten n c x (((s.core n).streamUnits x).map (fun u => (u, (0 : Row)))) ((s.core n).streamUnits x).length).markStage
        n c.id .performed := by
  rw [performStream_goes hgo, if_pos hout, if_pos hzero]

theorem performStream_out (hout : x.out = true) (hzero : descZero ((s.core n).str.descriptor x.desc) = false) :
    performStream true n s c =
      (s.streamWritten n c x (((s.core n).streamUnits x).zip ((s.core n).spm.reads x.opnd))
        ((s.core n).spm.reads x.opnd).length).performed n c ((s.core n).spm.reads x.opnd).length 0 := by
  obtain ⟨-, -, hc, -, hraces, -, -, hplain, -, hgot⟩ := (s.streamGoes_iff n c x).1 hgo
  have hmoves := (s.streamStart n x).streamOut_plain n ((s.core n).streamUnits x) hplain hraces hgot
    ((s.command_streamStart n x c.id).trans hc)
  rw [State.core_streamStart] at hmoves
  rw [performStream_goes hgo, if_pos hout, if_neg (by simp [hzero])]
  exact hmoves

end

/-! ## Toward the scratchpad (R209) -/

/-- A command with no item left to put has its accesses over. -/
theorem State.pushOut_nil (s : State) (n : Nat) {c d : EngCmd} (hc : (s.core n).command c.id = some d) :
    s.pushOut n { c with out := [] } = (s.modCore n (fun k => k.updateCmd c.id (fun d => { d with out := [] }))).markStage n c.id
      .performed := by
  have hcmd := Core.command_updateCmd (s.core n) c.id (fun d => { d with out := [] }) (fun _ => rfl)
  rw [hc] at hcmd
  simp only [State.pushOut, State.putItems, State.core_modCore_same, hcmd]
  rfl

/-- A command whose rows stand over a plain operand, its accesses over. -/
def State.delivered (s : State) (n : Nat) (c : EngCmd) (o : Operand) (rows : List Row) : State :=
  ((((s.modSpm n (fun m => (m.keepOld c.id).writeRows o.rows rows)).countRows n 0 rows.length).markStage n c.id .started).modCore
    n (fun k => k.updateCmd c.id (fun d => { d with out := [] }))).markStage n c.id .performed

/-- A command whose accesses are over, with no item left to put. -/
def EngCmd.finished (c : EngCmd) : EngCmd := { c with stage := .performed, out := [] }

/-- Two updates of a command are one. -/
theorem Core.updateCmd_updateCmd (k : Core) (id : Nat) (f g : EngCmd → EngCmd) (hf : ∀ d, (f d).id = d.id) :
    (k.updateCmd id f).updateCmd id g = k.updateCmd id (fun d => g (f d)) := by
  have once (d : EngCmd) : (if (if d.id = id then f d else d).id = id then g (if d.id = id then f d else d)
      else if d.id = id then f d else d) = if d.id = id then g (f d) else d := by
    by_cases hd : d.id = id <;> simp [hd, hf]
  simp only [Core.updateCmd, List.map_map, Function.comp_def, once]

section
variable (s : State) (n : Nat) {c d : EngCmd} (o : Operand) (rows : List Row)

theorem State.streamed_delivered : s.Streamed (s.delivered n c o rows) n :=
  ((((s.streamed_modSpm n _).trans (State.streamed_countRows ..)).trans (State.streamed_markStage ..)).trans
    (State.streamed_updateCmd ..)).trans (State.streamed_markStage ..)

theorem State.slices_delivered : (s.delivered n c o rows).slices = s.slices := by
  rw [State.delivered, State.markStage_slices, State.modCore_slices, State.markStage_slices, State.slices_countRows,
    State.modSpm_slices]

theorem State.core_delivered : (s.delivered n c o rows).core n =
    { s.core n with spm := ((s.core n).spm.keepOld c.id).writeRows o.rows rows }.updateCmd c.id EngCmd.finished := by
  simp only [State.delivered, State.markStage, State.core_modCore_same, State.core_countRows, State.core_modSpm_same,
    Core.updateCmd_updateCmd, implies_true]
  rfl

/-- Rows of a plain destination are written at once. -/
theorem State.deliverAll_plain (hplain : o.plain = true) (hc : (s.core n).command c.id = some d) :
    s.deliverAll n c [(o, rows)] = s.delivered n c o rows := by
  have hcirc : o.circ = none := by simpa [Operand.plain] using hplain
  have hcmd : ((((s.modSpm n (fun m => (m.keepOld c.id).writeRows o.rows rows)).countRows n 0 rows.length).markStage n c.id
      .started).core n).command c.id = some { d with stage := .started } := by
    rw [State.markStage, State.core_modCore_same, State.core_countRows, State.core_modSpm_same,
      Core.command_updateCmd _ c.id (fun d => { d with stage := .started }) (fun _ => rfl)]
    exact congrArg (Option.map _) hc
  rw [State.delivered, ← State.pushOut_nil _ n hcmd]
  simp [State.deliverAll, hcirc, Spm.itemsOf]

end

section
variable (s : State) (n : Nat) (c : EngCmd) (x : StreamP)

theorem State.streamed_streamRead : s.Streamed (s.streamRead n c x) n := by
  have start := s.streamed_streamStart n x
  unfold State.streamRead
  simp only []
  split
  · exact (start.trans (State.streamed_holdTags ..)).trans (State.streamed_count ..)
  · exact start.trans (State.streamed_count ..)

theorem State.slices_streamRead : (s.streamRead n c x).slices = s.slices := by
  unfold State.streamRead
  simp only []
  split
  · rw [State.count_slices, State.slices_holdTags]; rfl
  · rfl

theorem State.spm_streamRead : ((s.streamRead n c x).core n).spm = (s.core n).spm := by
  unfold State.streamRead
  simp only []
  split
  · rw [State.count_core, State.core_holdTags, State.core_streamStart]; rfl
  · rw [State.count_core, State.core_streamStart]

theorem State.command_streamRead {c : EngCmd} (hc : (s.core n).command c.id = some c) :
    ∃ k, ((s.streamRead n c x).core n).command c.id = some (c.tagged k) := by
  unfold State.streamRead
  simp only []
  split
  · refine ⟨min ((s.core n).str.quotaOf x.ctx.val) ((s.core n).streamUnits x).length, ?_⟩
    rw [State.count_core, State.core_holdTags, Core.command_updateCmd _ _ (EngCmd.tagged _) (fun _ => rfl),
      State.command_streamStart, hc]
    rfl
  · refine ⟨c.tags, ?_⟩
    rw [State.count_core, State.command_streamStart]
    exact hc

end

/-- Units read as long as the slices and the dies stand. -/
theorem State.Streamed.unit {s t : State} {n : Nat} (h : s.Streamed t n) (hslices : t.slices = s.slices) (m : Nat) :
    t.unit m = s.unit m := by
  have hdies : t.dies = s.dies := by rw [h.rest]
  funext u
  simp only [State.unit, State.physSlice, State.homeDie, hslices, hdies]

theorem performStream_in {s : State} {n : Nat} {c : EngCmd} {x : StreamP} (hgo : s.streamGoes n c x = true)
    (hout : x.out = false) : performStream true n s c =
      (s.streamRead n c x).delivered n c x.opnd (((s.core n).streamUnits x).map (s.unit n)) := by
  obtain ⟨-, -, hc, -, -, -, -, hplain, -, -⟩ := (s.streamGoes_iff n c x).1 hgo
  obtain ⟨k, hcmd⟩ := s.command_streamRead n x hc
  have hunit := (s.streamed_streamRead n c x).unit (s.slices_streamRead n c x) n
  rw [performStream_goes hgo, if_neg (by simp [hout]), ← State.deliverAll_plain _ _ _ _ hplain hcmd, ← hunit]

/-! ## STREAM_COMPLETE (R209) -/

section
variable {s : State} {n : CoreId} {c : EngCmd} {ctx : Fin 16} (hreq : c.req = .ctx ctx)
include hreq

theorem streamComplete_performed (hrun : s.engineRuns n.val = true) (hhead : ((s.core n.val).queueOf c.req).head? = some c)
    (hstage : c.stage = .performed) : exec (.streamComplete n ctx) s = .next (s.streamDone n.val c) := by
  have hexec : exec (.streamComplete n ctx) s = execStreamComplete n ctx s := rfl
  have hdone : (c.stage == .performed) = true := by rw [hstage]; rfl
  rw [hreq] at hhead
  rw [hexec, execStreamComplete]
  simp only [hrun, hhead, hdone, Bool.not_true, Bool.false_eq_true, if_false, if_true]

/-- A STREAM whose transfers are all performed in this step leaves its queue and counts. -/
theorem streamComplete_goes {x : StreamP} {u : State} {d : EngCmd} (hgo : s.streamGoes n.val c x = true)
    (hperf : performStream true n.val s c = u) (hd : (u.core n.val).command c.id = some d) (hstage : d.stage = .performed) :
    exec (.streamComplete n ctx) s = .next (u.streamDone n.val d) := by
  obtain ⟨hrun, hhead, -, hqueued, -⟩ := (s.streamGoes_iff n.val c x).1 hgo
  have hexec : exec (.streamComplete n ctx) s = execStreamComplete n ctx s := rfl
  have hdone : (d.stage == .performed) = true := by rw [hstage]; rfl
  have hwaits : (c.stage == .performed) = false := by rw [hqueued]; rfl
  rw [hreq] at hhead
  rw [hexec, execStreamComplete]
  simp only [hrun, hhead, hwaits, hperf, hd, hdone, Bool.not_true, Bool.false_eq_true, if_false, if_true]

end

theorem State.core_streamDone (s : State) (n : Nat) (d : EngCmd) : (s.streamDone n d).core n = (s.core n).without d := by
  unfold State.streamDone
  split
  · rw [State.count_core, State.core_complete]
  · exact s.core_complete n d

theorem State.frame_streamDone (s : State) (n : Nat) (d : EngCmd) : s.CoreFrame (s.streamDone n d) n := by
  unfold State.streamDone
  split
  · exact (s.frame_complete n d).trans (State.frame_count _ n kSTR _ _ (by decide))
  · exact s.frame_complete n d

theorem State.streamed_streamDone (s : State) (n : Nat) (d : EngCmd) : s.Streamed (s.streamDone n d) n := by
  unfold State.streamDone
  split
  · exact (s.streamed_modCore n _).trans (State.streamed_count ..)
  · exact s.streamed_modCore n _

theorem State.slices_streamDone (s : State) (n : Nat) (d : EngCmd) : (s.streamDone n d).slices = s.slices := by
  unfold State.streamDone
  split <;> rfl

/-- A STREAM whose transfers are all performed in this step leaves its queue, and nothing else of its rows or units moves. -/
theorem streamComplete_ends {s : State} {n : CoreId} {c : EngCmd} {ctx : Fin 16} {x : StreamP} {u : State} {d : EngCmd}
    (hreq : c.req = .ctx ctx) (hgo : s.streamGoes n.val c x = true) (hperf : performStream true n.val s c = u)
    (hmoves : s.Streamed u n.val) (hd : (u.core n.val).command c.id = some d) (hstage : d.stage = .performed) :
    ∃ t, exec (.streamComplete n ctx) s = .next t ∧ (t.core n.val).command c.id = none ∧
      (t.core n.val).spm.rows = (u.core n.val).spm.rows ∧ t.slices = u.slices ∧ s.Streamed t n.val := by
  have hid : d.id = c.id := by simpa using List.find?_some hd
  refine ⟨u.streamDone n.val d, streamComplete_goes hreq hgo hperf hd hstage, ?_, ?_, u.slices_streamDone n.val d,
    hmoves.trans (u.streamed_streamDone n.val d)⟩
  · rw [State.core_streamDone, ← hid]
    exact Core.command_without _ d
  · rw [State.core_streamDone]
    exact (Core.signalled_without _ d).rows

/-- Reading its rows toward the slice or writing zeros there, a STREAM leaves its core's rows and writes its units. -/
theorem streamComplete_out {s : State} {n : CoreId} {c : EngCmd} {ctx : Fin 16} {x : StreamP} {u : State}
    {ws : List (Nat × Row)} {k : Nat} (hreq : c.req = .ctx ctx) (hgo : s.streamGoes n.val c x = true)
    (hperf : performStream true n.val s c = u) (hmoves : (s.streamWritten n.val c x ws k).Streamed u n.val)
    (hslices : u.slices = (s.streamWritten n.val c x ws k).slices)
    (hcore : u.core n.val = ((s.streamWritten n.val c x ws k).core n.val).updateCmd c.id EngCmd.done) :
    ∃ t, exec (.streamComplete n ctx) s = .next t ∧ (t.core n.val).command c.id = none ∧
      (t.core n.val).spm.rows = (s.core n.val).spm.rows ∧ t.slices = (s.setUnits n.val ws).slices ∧ s.Streamed t n.val := by
  obtain ⟨-, -, hc, -⟩ := (s.streamGoes_iff n.val c x).1 hgo
  have hcmd : (u.core n.val).command c.id = some (c.tagged (min ((s.core n.val).str.quotaOf x.ctx.val) k)).done := by
    rw [hcore, State.core_streamWritten, Core.command_updateCmd _ _ EngCmd.done (fun _ => rfl),
      Core.command_updateCmd _ _ (EngCmd.tagged _) (fun _ => rfl), State.command_streamStart, hc]
    rfl
  obtain ⟨t, hexec, hnone, hrows, hunits, hstreamed⟩ := streamComplete_ends hreq hgo hperf
    ((s.streamed_streamWritten ..).trans hmoves) hcmd rfl
  refine ⟨t, hexec, hnone, hrows.trans ?_, (hunits.trans hslices).trans (s.slices_streamWritten ..), hstreamed⟩
  rw [hcore, State.core_streamWritten, State.core_streamStart]
  rfl

theorem streamComplete_in {s : State} {n : CoreId} {c : EngCmd} {ctx : Fin 16} {x : StreamP}
    (hreq : c.req = .ctx ctx) (hgo : s.streamGoes n.val c x = true) (hout : x.out = false) :
    ∃ t, exec (.streamComplete n ctx) s = .next t ∧ (t.core n.val).command c.id = none ∧
      (t.core n.val).spm.rows = ((s.core n.val).spm.writeRows x.opnd.rows
        (((s.core n.val).streamUnits x).map (s.unit n.val))).rows ∧
      t.slices = s.slices ∧ s.Streamed t n.val := by
  obtain ⟨-, -, hc, -⟩ := (s.streamGoes_iff n.val c x).1 hgo
  obtain ⟨k, hread⟩ := s.command_streamRead n.val x hc
  have hcore := (s.streamRead n.val c x).core_delivered n.val (c := c) x.opnd (((s.core n.val).streamUnits x).map (s.unit n.val))
  have hcmd := congrArg (fun k => k.command c.id) hcore
  simp only [Core.command_updateCmd _ _ EngCmd.finished (fun _ => rfl)] at hcmd
  obtain ⟨t, hexec, hnone, hrows, hunits, hstreamed⟩ := streamComplete_ends hreq hgo (performStream_in hgo hout)
    ((s.streamed_streamRead ..).trans (State.streamed_delivered ..)) (hcmd.trans (congrArg (Option.map _) hread)) rfl
  refine ⟨t, hexec, hnone, hrows.trans ?_, (hunits.trans (State.slices_delivered ..)).trans (s.slices_streamRead ..), hstreamed⟩
  rw [hcore, s.spm_streamRead]
  exact Spm.rows_writeRows_congr _ _ _ _ rfl

/-! ## TABLE_LOAD_DONE (R116, R128) -/

theorem tableLoadDone_ends {s : State} {n : CoreId} {slot : Fin 8} {c : EngCmd} {g : BitVec 4} {img : Row} {row : BitVec 15}
    (hloading : ((s.core n.val).exp.slot slot.val).loading = some (g, img, row))
    (hc : (s.core n.val).inflight.find? (fun d => d.stage == .started && d.loadsSlot == some slot.val) = some c) :
    ∃ t, exec (.tableLoadDone n slot) s = .next t ∧ s.CoreFrame t n.val ∧ (t.core n.val).command c.id = none ∧
      (t.core n.val).exp = (s.core n.val).exp.modSlot slot.val (fun x =>
        { x with valid := true, gen := g, image := img, loads := x.loads + 1, source := row, loading := none }) := by
  have hexec : exec (.tableLoadDone n slot) s = execTableLoadDone n slot s := rfl
  rw [hexec, execTableLoadDone]
  simp only [hloading, hc]
  refine ⟨_, rfl, ((s.frame_modCore ..).trans (State.frame_count _ _ kEXP _ _ (by decide))).trans (State.frame_complete ..),
    ?_, ?_⟩
  · rw [State.core_complete]
    exact Core.command_without _ c
  · rw [State.core_complete, (Core.signalled_without _ c).frame, State.count_core, State.modExp, State.core_modCore_same]

/-- Settles O15: a plain operand lets every transfer of a STREAM move in the step that completes it, so each direction is one
run of writes and then the end of the command; a table load ends by one write of its slot. -/
theorem streamsAndTables : Obligations.StreamsAndTables := by
  intro s n c k us only
  refine ⟨fun x ctx hreq hgo hout hzero => ?_, fun x ctx hreq hgo hout hzero => ?_, fun x ctx hreq hgo hout => ?_,
    fun ctx hreq hrun hhead hstage => ?_, fun slot g img row hloading hc => tableLoadDone_ends hloading hc⟩
  · obtain ⟨t, hexec, hnone, hrows, hslices, hstreamed⟩ := streamComplete_out hreq hgo (performStream_zero hgo hout hzero)
      (State.streamed_markStage ..) rfl (State.core_modCore_same ..)
    exact ⟨t, hexec, hnone, hrows, hslices, hstreamed.others, hstreamed.rest⟩
  · obtain ⟨-, -, -, -, hraces, -⟩ := (s.streamGoes_iff n.val c x).1 hgo
    obtain ⟨t, hexec, hnone, hrows, hslices, hstreamed⟩ := streamComplete_out hreq hgo (performStream_out hgo hout hzero)
      (State.streamed_performed _ _ hraces _ _) (State.slices_performed _ _ hraces _ _) (State.core_performed _ _ hraces _ _)
    exact ⟨t, hexec, hnone, hrows, hslices, hstreamed.others, hstreamed.rest⟩
  · obtain ⟨t, hexec, hnone, hrows, hslices, hstreamed⟩ := streamComplete_in hreq hgo hout
    refine ⟨t, hexec, hnone, hstreamed.others, ?_, hrows⟩
    rw [← hslices]
    exact hstreamed.rest
  · refine ⟨_, streamComplete_performed hreq hrun hhead hstage, s.frame_streamDone n.val c, s.core_streamDone n.val c,
      fun x hop => ?_⟩
    simp [State.streamDone, hop, State.counter_count]

end Sys2Proof.Machine
end

section
/-!
Proofs of chapter 06: uncorrectable errors of memories (R119, R148, R178, R197, R209, R223, R381, R391): what a job's fault
leaves of the tasks, and the fence that a report makes due.
-/
namespace Sys2Proof.Machine

/-! ## Tasks that stand (R349) -/

/-- From `s` to `t` every core keeps its task, and every task stands. -/
structure State.TasksKept (s t : State) : Prop where
  coreTask : ∀ m, (t.core m).task = (s.core m).task
  task : ∀ u, t.task u = s.task u

theorem State.TasksKept.refl (s : State) : s.TasksKept s := ⟨fun _ => rfl, fun _ => rfl⟩

theorem State.TasksKept.trans {s t u : State} (h : s.TasksKept t) (g : t.TasksKept u) : s.TasksKept u :=
  ⟨fun m => (g.coreTask m).trans (h.coreTask m), fun x => (g.task x).trans (h.task x)⟩

theorem State.TasksKept.foldl {α : Type} {f : State → α → State} (hf : ∀ (s : State) a, s.TasksKept (f s a)) (l : List α) :
    ∀ s : State, s.TasksKept (l.foldl f s) := by
  induction l with
  | nil => exact .refl
  | cons a l ih => exact fun s => (hf s a).trans (ih _)

theorem State.Raises.tasksKept {s t : State} (h : s.Raises t) : s.TasksKept t where
  coreTask m := by rw [h.core]
  task u := by obtain ⟨v, hv, ht, -⟩ := h; rw [ht, hv]; rfl

theorem State.tasks_raise (s : State) (p b : Nat) (i j : Word) : s.TasksKept (s.raise p b i j) :=
  (s.raises_raise p b i j).tasksKept

theorem State.tasks_count (s : State) (p off k : Nat) : s.TasksKept (s.count p off k) := ⟨fun _ => rfl, fun _ => rfl⟩

theorem State.tasks_modTrv (s : State) (p : TPort) (f : Traverse → Traverse) : s.TasksKept (s.modTrv p f) :=
  ⟨fun m => by rw [State.modTrv_core], fun u => State.modTrv_task ..⟩

theorem State.tasks_modCore (s : State) (n : Nat) (f : Core → Core) (hf : ∀ k, (f k).task = k.task) :
    s.TasksKept (s.modCore n f) where
  coreTask m := by
    rw [State.core_modCore]
    split
    · next h => rw [h]; exact hf _
    · rfl
  task _ := rfl

theorem State.tasks_sendTrv (s : State) (p : TPort) (h : TrvHdr) (data : List Byte) : s.TasksKept (s.sendTrv p h data) := by
  unfold State.sendTrv
  split
  · exact s.tasks_modTrv ..
  · unfold State.emitTrv
    simp only []
    split <;> exact ⟨fun _ => rfl, fun _ => rfl⟩

theorem State.tasks_discardTrv (s : State) (p : TPort) (peers : List (BitVec 15)) : s.TasksKept (s.discardTrv p peers) := by
  unfold State.discardTrv
  simp only []
  refine State.TasksKept.trans (State.TasksKept.foldl (fun s o => ?_) _ s) (State.tasks_modTrv _ p _)
  exact s.tasks_modCore _ _ fun _ => rfl

theorem State.tasks_abortTraverse (s : State) (sends : Bool) (told : List (BitVec 15)) :
    s.TasksKept (s.abortTraverse sends told) := by
  have aborted (s : State) (p : TPort) (epoch : BitVec 16) (dsts : List (BitVec 15)) : s.TasksKept (s.sendAborts p epoch dsts) :=
    State.TasksKept.foldl (fun s _ => s.tasks_sendTrv ..) dsts s
  unfold State.abortTraverse
  refine State.TasksKept.trans (State.TasksKept.foldl (fun s p => ?_) _ s) (State.TasksKept.foldl (fun s n => ?_) _ _)
  · simp only []
    refine State.TasksKept.trans ?_ (State.tasks_discardTrv _ p _)
    split
    · exact (aborted s p _ _).trans (State.tasks_modTrv ..)
    · exact .refl s
  · exact s.tasks_modCore n _ fun _ => rfl

/-- What the peers of a faulting job are told leaves the tasks (R258, R286). -/
theorem State.tasks_tellPeers (s : State) (j : Job) (lift traverse : Bool) : s.TasksKept (s.tellPeers j lift traverse) := by
  have noticed : s.TasksKept
      (if lift && j.lift && s.lift.isFormed then s.sendMsg .up (.notice true s.liftPos 0) else s) := by
    split
    · exact ⟨fun _ => rfl, fun _ => rfl⟩
    · exact .refl s
  unfold State.tellPeers
  simp only []
  split
  · exact noticed.trans (State.tasks_abortTraverse ..)
  · exact noticed

section
variable {s t : State} (h : s.TasksKept t)
include h

theorem State.TasksKept.jobOn {n : Nat} {x : Fin 64} {tk : Task} {j : Job} (hjob : s.jobOn n x tk j) : t.jobOn n x tk j := by
  unfold State.jobOn
  rw [h.coreTask, h.task]
  exact hjob

/-- A fault code depends on the tasks alone (R363). -/
theorem State.TasksKept.faultCode (p b : Nat) : t.faultCode p b = s.faultCode p b := by
  have hbase (m : Nat) : t.coreBase m = s.coreBase m := by
    simp only [State.coreBase, State.coreTask, h.coreTask, h.task]
  have hcore : t.pageCore p = s.pageCore p := by simp only [State.pageCore, hbase]
  simp only [State.faultCode, hcore]

end

/-! ## The fault of a job (R379) -/

/-- A job that has faulted: its first fault code is kept. -/
def Job.faulted (code : Word) (j : Job) : Job := if j.fault.isSome then j else { j with fault := some code }

theorem Job.isSome_faulted (code : Word) (j : Job) : (j.faulted code).fault.isSome = true := by
  unfold Job.faulted
  split
  · assumption
  · rfl

/-- A task whose job, if it runs one, has faulted. -/
def Task.faulted (code : Word) (x : Task) : Task := { x with job := x.job.map (Job.faulted code) }

theorem Task.faulted_of_none (code : Word) {x : Task} (h : x.job = none) : x.faulted code = x := by
  cases x
  simp_all [Task.faulted]

theorem Task.faulted_of_isSome (code : Word) {x : Task} {j : Job} (h : x.job = some j) (hj : j.fault.isSome = true) :
    x.faulted code = x := by
  cases x
  simp_all [Task.faulted, Job.faulted]

theorem State.task_modJob (s : State) (t u : Nat) (f : Job → Job) : (s.modJob t f).task u =
    if u = t then (s.task t).map (fun x => { x with job := x.job.map f }) else s.task u := by
  unfold State.modJob
  split
  · next x hx => rw [State.task_setTask, hx]; rfl
  · next hx =>
    split
    · next h => rw [h, hx]; rfl
    · rfl

/-- A task on which no job can fault any more stands. -/
theorem State.task_of_faulted {s : State} {t : Nat} {code : Word} (h : (s.task t).map (Task.faulted code) = s.task t) (u : Nat) :
    s.task u = if u = t then (s.task t).map (Task.faulted code) else s.task u := by
  split
  · next hu => rw [hu, h]
  · rfl

theorem State.task_faultLocal (s : State) (t u : Nat) (code : Word) : (s.faultLocal t code).task u =
    if u = t then (s.task t).map (Task.faulted code) else s.task u := by
  have stopped (ns : List Nat) (s : State) : (ns.foldl (fun s n => s.modCore n Core.stopIssue) s).task u = s.task u :=
    (State.TasksKept.foldl (fun s n => s.tasks_modCore n Core.stopIssue fun _ => rfl) ns s).task u
  cases hx : s.task t with
  | none =>
    simp only [State.faultLocal, hx]
    rw [← hx]
    exact State.task_of_faulted (by rw [hx]; rfl) u
  | some x =>
    cases hj : x.job with
    | none =>
      simp only [State.faultLocal, hx, hj]
      rw [← hx]
      exact State.task_of_faulted (by rw [hx, Option.map_some, x.faulted_of_none code hj]) u
    | some j =>
      simp only [State.faultLocal, hx, hj, stopped]
      rw [← hx]
      split
      · next hfault => exact State.task_of_faulted (by rw [hx, Option.map_some, Task.faulted_of_isSome code hj hfault]) u
      · next hfault => rw [State.task_modJob, hx]; simp [Task.faulted, Job.faulted, hj, hfault]

/-- The fault of the job on a task marks that task's job and leaves every other task. -/
theorem State.task_faultTask (s : State) (t u : Nat) (code : Word) : (s.faultTask t code).task u =
    if u = t then (s.task t).map (Task.faulted code) else s.task u := by
  cases hj : (s.task t).bind (·.job) with
  | none =>
    have hnone : (s.task t).map (Task.faulted code) = s.task t := by
      cases hx : s.task t with
      | none => rfl
      | some x => rw [Option.map_some, x.faulted_of_none code (by simpa [hx] using hj)]
    simp only [State.faultTask, hj]
    exact State.task_of_faulted hnone u
  | some j =>
    simp only [State.faultTask, hj]
    split
    · exact s.task_faultLocal ..
    · rw [(State.tasks_tellPeers ..).task, s.task_faultLocal]

section
variable {s : State} {n : CoreId} {x : Fin 64} {tk : Task} {j : Job} (hjob : s.jobOn n.val x tk j)
include hjob

/-- An event reported on a core's page faults the core's job with the event's code, its first. -/
theorem State.jobFaulted_raiseFault (k b : Nat) (i0 i1 : Word) :
    (s.raiseFault n.val k b i0 i1).jobFaulted x tk j (s.faultCode (corePage n.val k) b) := by
  have kept := s.tasks_raise (corePage n.val k) b i0 i1
  obtain ⟨hcore, htask, hj, hfault, -⟩ := kept.jobOn hjob
  unfold State.jobFaulted State.raiseFault State.faultCore
  rw [hcore]
  simp only []
  rw [State.task_faultTask, if_pos rfl, htask, kept.faultCode]
  simp [Task.faulted, Job.faulted, hj, hfault]

/-- The event and the fault that follows it. -/
theorem State.reported_and_faulted {k b : Nat} (hk : k < 8) (hb : b < 32) (i0 i1 : Word) :
    (s.raiseFault n.val k b i0 i1).reported (corePage n.val k) b = true ∧
      (s.raiseFault n.val k b i0 i1).jobFaulted x tk j (s.faultCode (corePage n.val k) b) :=
  ⟨s.reported_raiseFault n i0 i1 hk hb, State.jobFaulted_raiseFault hjob k b i0 i1⟩

end

/-! ## TABLE_ECC of the expander (R63, R119) -/

theorem State.tasks_modPart (s : State) (n p : Nat) (f : Part → Part) : s.TasksKept (s.modPart n p f) := by
  unfold State.modPart State.modArr
  exact s.tasks_modCore n (fun _ => _) fun _ => rfl

theorem State.tasks_modSch (s : State) (n : Nat) (f : Sch → Sch) : s.TasksKept (s.modSch n f) := by
  unfold State.modSch
  exact s.tasks_modCore n (fun _ => _) fun _ => rfl

theorem State.tasks_dropCmds (s : State) (n : Nat) (g : EngCmd → Bool) :
    s.TasksKept (s.modCore n (fun k => { k with inflight := k.inflight.filter g })) :=
  s.tasks_modCore n (fun k => { k with inflight := k.inflight.filter g }) fun _ => rfl

/-- Aborting the consumers of a table slot leaves the tasks. -/
theorem State.tasks_abortConsumers (s : State) (n slot : Nat) : s.TasksKept (s.abortConsumers n slot) := by
  unfold State.abortConsumers
  simp only []
  apply State.TasksKept.trans
  case g =>
    split
    · exact .refl _
    · exact ((State.tasks_modSch ..).trans (State.tasks_count ..)).trans (State.tasks_dropCmds ..)
  case h =>
    refine State.TasksKept.foldl (fun s p => ?_) _ s
    split
    · exact .refl s
    · exact ((s.tasks_modPart ..).trans (State.tasks_count ..)).trans (State.tasks_dropCmds ..)

/-! ## The fence that a report makes due (R148, R381) -/

/-- Where its FENCE bit is set, the last step of reporting an event marks the fence of the pcore that its page concerns. -/
theorem State.raise_fences (s : State) {p b q : Nat} (i j : Word) (hp : (pageBlk p).isSome = true)
    (hfence : bit (s.page p).fence b = true) (hq : s.pagePcore p = some q) :
    ∃ t c x, s.Notes t ∧ s.raise p b i j = t.fenceDue q c x := by
  obtain ⟨blk, hblk⟩ := Option.isSome_iff_exists.1 hp
  have logged (f : Page → Page) (c : Bool) (code : Word) (ctx id : Nat) :
      s.Notes ((if c then (s.modPage p f).postPageError p b else s.modPage p f).faultLog code ctx id) := by
    refine State.Notes.trans ?_ (State.notes_faultLog ..)
    split
    · exact (s.notes_modPage ..).trans (State.notes_postPageError ..)
    · exact s.notes_modPage ..
  have fenced (u : State) (code : Word) (y : Bool) (h : s.Notes u) : ∃ t c x, s.Notes t ∧
      (match u.pagePcore p with
        | some q => u.fenceDue q code y
        | none => u) = t.fenceDue q c x := ⟨u, code, y, h, by rw [h.pagePcore, hq]⟩
  unfold State.raise
  rw [hblk]
  simp only []
  rw [if_pos hfence]
  refine fenced _ _ _ ?_
  split
  · exact (logged ..).trans (State.notes_count ..)
  · exact logged ..

/-- An event whose FENCE bit is set makes a fence due on the pcore that its page concerns, if that is not fenced. -/
theorem State.due_raise (s : State) {p b q : Nat} (i j : Word) (hp : (pageBlk p).isSome = true)
    (hfence : bit (s.page p).fence b = true) (hq : s.pagePcore p = some q) (hstate : (s.pcore q).state ≠ .fenced) :
    ((s.raise p b i j).pcore q).due = true := by
  obtain ⟨t, c, x, ht, hraise⟩ := s.raise_fences i j hp hfence hq
  rw [hraise, State.pcore_fenceDue _ _ _ _ (by rw [ht.pcore]; exact hstate)]

/-- A core's pages are per-core pages of that core (R454). -/
theorem pageBlk_corePage_eq (n : CoreId) {k : Nat} (hk : k < 8) :
    ∃ b : Blk, pageBlk (corePage n.val k) = some (b, n.val) ∧ b.perCore = true := by
  have hn := n.isLt
  have h0 : ¬ corePage n.val k < 16 := by unfold corePage; omega
  have h1 : ¬ corePage n.val k < 0x24 := by unfold corePage; omega
  have h2 : 0x100 ≤ corePage n.val k ∧ corePage n.val k < 0x500 ∧ corePage n.val k % 16 < 8 := by unfold corePage; omega
  have hcore : (corePage n.val k - 0x100) / 16 = n.val := by unfold corePage; omega
  refine ⟨coreBlk (corePage n.val k % 16), ?_, ?_⟩
  · rw [pageBlk, if_neg h0, if_neg h1, if_pos h2, hcore]
  · unfold coreBlk
    split <;> rfl

/-- The pages of a core concern the pcore that hosts it (R381). -/
theorem State.pagePcore_corePage (s : State) (n : CoreId) {k : Nat} (hk : k < 8) :
    s.pagePcore (corePage n.val k) = s.hostOf n.val := by
  obtain ⟨b, hb, hcore⟩ := pageBlk_corePage_eq n hk
  simp only [State.pagePcore, hb, hcore, if_true]

/-! ## CTRL_ECC (R391) -/

/-- The job on a task, if it runs one, has faulted. -/
def State.TaskFaulted (s : State) (u : Nat) : Prop := ∀ tk j, s.task u = some tk → tk.job = some j → j.fault.isSome = true

theorem State.taskFaulted_faultTask (s : State) {t u : Nat} (code : Word) (h : u = t ∨ s.TaskFaulted u) :
    (s.faultTask t code).TaskFaulted u := by
  intro tk j htk hj
  rw [State.task_faultTask] at htk
  split at htk
  · obtain ⟨x, -, rfl⟩ := Option.map_eq_some_iff.1 htk
    obtain ⟨i, -, rfl⟩ := Option.map_eq_some_iff.1 hj
    exact i.isSome_faulted code
  · next hne => exact (h.resolve_left hne) tk j htk hj

/-- The fault of every job leaves none that has not faulted. -/
theorem State.taskFaulted_foldl (code : Word) {u : Nat} (ts : List Nat) : ∀ s : State, u ∈ ts ∨ s.TaskFaulted u →
    (ts.foldl (fun s t => s.faultTask t code) s).TaskFaulted u := by
  induction ts with
  | nil => exact fun s h => h.resolve_left List.not_mem_nil
  | cons t ts ih =>
    intro s h
    refine ih _ ?_
    obtain hu | h := h
    · obtain rfl | hu := List.mem_cons.1 hu
      · exact .inr (s.taskFaulted_faultTask code (.inl rfl))
      · exact .inl hu
    · exact .inr (s.taskFaulted_faultTask code (.inr h))

theorem State.kept_faultAll (s : State) (code : Word) : s.PlacementKept (s.faultAll code) :=
  State.PlacementKept.foldl (fun s t => s.kept_faultTask t code) _ s

/-- The event of a global page stays reported while every job faults and the part halts (R391). -/
theorem ctrlEcc_halts {s : State} (hready : s.phase = .ready) :
    ∃ t, exec .ctrlEcc s = .next t ∧ t.phase = .halted ∧ t.reported pFLT 4 = true ∧ t.reported pFLT 5 = true ∧
      ∀ y : Fin 64, t.TaskFaulted y.val := by
  have hexec : exec .ctrlEcc s = execCtrlEcc s := rfl
  let code := s.faultCode pFLT 4
  let u := (s.raise pFLT 4 (fltInfo 4 0 0) code).faultAll code
  have hctrl : u.reported pFLT 4 = true := (State.kept_faultAll ..).reported (s.raised pFLT 4 _ _ rfl (by decide))
  rw [hexec, execCtrlEcc, if_pos (by rw [hready]; rfl)]
  refine ⟨_, rfl, rfl, (u.errKept_raise pFLT 5 _ _).kept _ _ hctrl, u.raised pFLT 5 _ _ rfl (by decide),
    fun y tk j htk hj => ?_⟩
  have hfaulted : u.TaskFaulted y.val := State.taskFaulted_foldl code _ _ (.inl (List.mem_range.2 y.isLt))
  exact hfaulted tk j (((u.tasks_raise pFLT 5 _ _).task y.val).symm.trans htk) hj

/-! ## The errors of a core's memories -/

section
variable {s : State} {n : CoreId} {x : Fin 64} {tk : Task} {j : Job} {p : Nat} (hready : s.phase = .ready)
  (hhost : s.hostOf n.val = some p)

section
include hready hhost

theorem exec_tableEcc (slot : Fin 8) : ∃ i, exec (.tableEcc n slot) s =
    .next ((s.abortConsumers n.val slot.val).raiseFault n.val kEXP 4 i 0) := by
  have hexec : exec (.tableEcc n slot) s = execTableEcc n slot s := rfl
  rw [hexec, execTableEcc, if_neg (by simp [hready, hhost])]
  exact ⟨_, rfl⟩

theorem exec_dmemEcc : exec (.dmemEcc n) s = .next (s.seqFault n.val 10) := by
  have hexec : exec (.dmemEcc n) s = execDmemEcc n s := rfl
  rw [hexec, execDmemEcc, if_pos (by simp [hready, hhost])]

theorem exec_bookEcc : exec (.bookEcc n) s =
    .next (s.rowFault n.val (s.core n.val).rowNames.1 5 (s.core n.val).rowNames.2 0) := by
  have hexec : exec (.bookEcc n) s = execBookEcc n s := rfl
  rw [hexec, execBookEcc, if_pos (by simp [hready, hhost])]

theorem exec_spmTableEcc : exec (.spmTableEcc n) s = .next (s.raiseHardware n.val kSPM 8 (cause 8 0) 0) := by
  have hexec : exec (.spmTableEcc n) s = execSpmTableEcc n s := rfl
  rw [hexec, execSpmTableEcc, if_pos (by simp [hready, hhost])]

theorem exec_descEcc {d : Fin 1024} {c : EngCmd} {y : StreamP} (h : s.streamStarting n.val d.val = some (c, y)) :
    exec (.descEcc n d) s =
      .next ((s.raiseFault n.val kSTR 4 (strInfo 0 4 y.ctx.val) (word d.val)).dropCmd n.val c.id) := by
  have hexec : exec (.descEcc n d) s = execDescEcc n d s := rfl
  rw [hexec, execDescEcc, h]
  simp [hready, hhost]

/-- An error of the scratchpad's tables fences the host where the page's FENCE bit is set (R148, R381). -/
theorem spmTableEcc_fences (hfence : bit (s.page (corePage n.val kSPM)).fence 8 = true) (hstate : (s.pcore p).state ≠ .fenced) :
    ∃ t, exec (.spmTableEcc n) s = .next t ∧ t.reported (corePage n.val kSPM) 8 = true ∧ (t.pcore p).due = true ∧
      ∀ m, t.core m = s.core m := by
  refine ⟨_, exec_spmTableEcc hready hhost, ?_⟩
  rw [State.raiseHardware, if_pos hfence]
  exact ⟨s.reported_raise n _ _ (by decide) (by decide),
    s.due_raise _ _ (pageBlk_corePage n (by decide)) hfence ((s.pagePcore_corePage n (by decide)).trans hhost) hstate,
    (State.raises_raise ..).core⟩

end

variable (hjob : s.jobOn n.val x tk j)
include hjob

theorem seqFault_faults {b : Nat} (hb : b < 32) : (s.seqFault n.val b).reported (corePage n.val kSEQ) b = true ∧
    (s.seqFault n.val b).jobFaulted x tk j (s.faultCode (corePage n.val kSEQ) b) :=
  State.reported_and_faulted hjob (by decide) hb _ _

theorem progEcc_faults (hissue : s.canIssue n.val = true) :
    ∃ t, exec (.progEcc n) s = .next t ∧ t.reported (corePage n.val kSEQ) 9 = true ∧
      t.jobFaulted x tk j (s.faultCode (corePage n.val kSEQ) 9) := by
  have hexec : exec (.progEcc n) s = execProgEcc n s := rfl
  rw [hexec, execProgEcc, if_pos hissue]
  exact ⟨_, rfl, seqFault_faults hjob (by decide)⟩

include hready hhost

theorem tableEcc_faults (slot : Fin 8) : ∃ t, exec (.tableEcc n slot) s = .next t ∧
    t.reported (corePage n.val kEXP) 4 = true ∧ t.jobFaulted x tk j (s.faultCode (corePage n.val kEXP) 4) := by
  obtain ⟨i, hexec⟩ := exec_tableEcc hready hhost slot
  have kept := s.tasks_abortConsumers n.val slot.val
  rw [← kept.faultCode]
  exact ⟨_, hexec, State.reported_and_faulted (kept.jobOn hjob) (by decide) (by decide) _ _⟩

theorem bookEcc_faults : ∃ t, exec (.bookEcc n) s = .next t ∧ t.reported (corePage n.val kROW) 5 = true ∧
    t.jobFaulted x tk j (s.faultCode (corePage n.val kROW) 5) :=
  ⟨_, exec_bookEcc hready hhost, State.reported_and_faulted hjob (by decide) (by decide) _ _⟩

/-- An error of a descriptor drops the STREAM that starts with it, which has written no unit (R209, R223). -/
theorem descEcc_faults {d : Fin 1024} {c : EngCmd} {y : StreamP} (h : s.streamStarting n.val d.val = some (c, y)) :
    ∃ t, exec (.descEcc n d) s = .next t ∧ t.reported (corePage n.val kSTR) 4 = true ∧ (t.core n.val).command c.id = none ∧
      t.slices = s.slices ∧ t.jobFaulted x tk j (s.faultCode (corePage n.val kSTR) 4) := by
  obtain ⟨hreported, hfaulted⟩ := State.reported_and_faulted (k := kSTR) (b := 4) hjob (by decide) (by decide)
    (strInfo 0 4 y.ctx.val) (word d.val)
  refine ⟨_, exec_descEcc hready hhost h, hreported, ?_, (State.kept_raiseFault ..).slices, hfaulted⟩
  rw [State.dropCmd, State.core_modCore_same]
  exact Core.command_eq_none_of_sublist (.refl _)

theorem spmTableEcc_faults (hfence : bit (s.page (corePage n.val kSPM)).fence 8 = false) :
    ∃ t, exec (.spmTableEcc n) s = .next t ∧ t.reported (corePage n.val kSPM) 8 = true ∧
      t.jobFaulted x tk j (s.faultCode (corePage n.val kSPM) 8) := by
  refine ⟨_, exec_spmTableEcc hready hhost, ?_⟩
  rw [State.raiseHardware, if_neg (by simp [hfence])]
  exact State.reported_and_faulted hjob (by decide) (by decide) _ _

end

/-- Settles O17: a report sets its event, which nothing after it clears, and the fault that follows it marks the core's job
with the event's code; where the FENCE bit is set the last step of the report makes the fence due instead; the part halts once
every task has been marked. -/
theorem memoryErrors : Obligations.MemoryErrors := by
  intro s n slot d p x tk j hready hhost hjob
  refine ⟨?_, fun c y => descEcc_faults hready hhost hjob, progEcc_faults hjob, spmTableEcc_fences hready hhost,
    spmTableEcc_faults hready hhost hjob, ctrlEcc_halts hready⟩
  simp only [List.forall_mem_cons, List.not_mem_nil, false_imp_iff, implies_true, and_true]
  exact ⟨tableEcc_faults hready hhost hjob slot, ⟨_, exec_dmemEcc hready hhost, seqFault_faults hjob (by decide)⟩,
    bookEcc_faults hready hhost hjob⟩

end Sys2Proof.Machine
end

section
/-!
Proofs of chapter 07: what ROWLD, ROWST and the row operations leave when they complete (R169, R184, R186), and the circular
sources that a row operation releases as it completes (R136).
-/
namespace Sys2Proof.Machine

/-! ## Words of bytes (R6) -/

/-- A bit of the number that bytes spell stands in the byte that holds it. -/
theorem testBit_leNat (l : List Byte) (j : Nat) {i : Nat} (hi : i < 8) :
    (leNat l).testBit (8 * j + i) = (l.getD j 0).getLsbD i := by
  induction l generalizing j with
  | nil => simp [leNat]
  | cons b l ih =>
    rw [leNat, Nat.add_comm b.toNat, show (256 : Nat) = 2 ^ 8 by rfl, Nat.testBit_two_pow_mul_add _ b.isLt]
    cases j with
    | zero => rw [if_pos (by omega)]; simp [BitVec.getLsbD]
    | succ j => rw [if_neg (by omega), show 8 * (j + 1) + i - 8 = 8 * j + i by omega, ih]; rfl

/-- A byte of a row spelled by bytes. -/
theorem extractLsb'_ofNat_leNat (l : List Byte) {w j : Nat} (hj : 8 * j + 8 ≤ w) :
    (BitVec.ofNat w (leNat l)).extractLsb' (8 * j) 8 = l.getD j 0 := by
  refine BitVec.eq_of_getLsbD_eq fun i hi => ?_
  rw [BitVec.getLsbD_extractLsb', BitVec.getLsbD_ofNat, testBit_leNat l j hi]
  simp [hi, show 8 * j + i < w by omega]

/-! ## Data memory (R157) -/

/-- How far address `x` lies past `a` in data memory, whose addresses wrap. -/
def dmPast (a x : Nat) : Nat := (x % 65536 + 65536 - a % 65536) % 65536

/-- The writes of which a write of `n` bytes is made. -/
def dmEntries (a n v : Nat) : List (Nat × Byte) :=
  (List.range n).map (fun i => ((a + i) % 65536, BitVec.ofNat 8 (v >>> (8 * i))))

theorem dmWrite_eq (d : SMap Byte) (a n v : Nat) :
    dmWrite d a n v = (dmEntries a n v).foldl (fun d e => d.set (fun _ => 0) e.1 e.2) d := by
  rw [dmEntries, List.foldl_map]; rfl

theorem nodup_dmEntries (a v : Nat) {n : Nat} (hn : n ≤ 65536) : ((dmEntries a n v).map Prod.fst).Nodup := by
  rw [dmEntries, List.map_map]
  refine List.nodup_range.map_on fun i hi j hj hij => ?_
  rw [List.mem_range] at hi hj
  simp only [Function.comp] at hij
  omega

/-- A write of data memory leaves the bytes past it. -/
theorem dmByte_dmWrite_past (d : SMap Byte) {a n : Nat} (v : Nat) {x : Nat} (h : n ≤ dmPast a x) :
    dmByte (dmWrite d a n v) x = dmByte d x := by
  rw [dmByte, dmWrite_eq]
  refine SMap.get_foldl_set_of_not_mem _ _ _ fun hx => ?_
  simp only [dmEntries, List.map_map, List.mem_map, List.mem_range, Function.comp] at hx
  obtain ⟨i, hi, hx⟩ := hx
  unfold dmPast at h
  omega

/-- A byte written to data memory reads as written. -/
theorem dmByte_dmWrite (d : SMap Byte) {a n : Nat} (v : Nat) (hn : n ≤ 65536) {i : Nat} (hi : i < n) :
    dmByte (dmWrite d a n v) (a + i) = BitVec.ofNat 8 (v >>> (8 * i)) := by
  rw [dmByte, dmWrite_eq]
  exact SMap.get_foldl_set_of_mem _ _ (e := ((a + i) % 65536, BitVec.ofNat 8 (v >>> (8 * i)))) d (nodup_dmEntries a v hn)
    (List.mem_map.2 ⟨i, List.mem_range.2 hi, rfl⟩)

/-- The first row is written, then the rest after it (unfolded by hand: `rfl` alone would compute the row's 512 writes). -/
theorem rowsToMemory_cons (d : SMap Byte) (a : Nat) (r : Row) (rs : List Row) :
    rowsToMemory d a (r :: rs) = rowsToMemory (dmWrite d a 512 r.toNat) (a + 512) rs := by
  delta rowsToMemory; rfl

/-- Rows loaded into data memory leave the bytes past them. -/
theorem dmByte_rowsToMemory_past (rs : List Row) : ∀ (d : SMap Byte) {a x : Nat}, 512 * rs.length ≤ dmPast a x →
    dmByte (rowsToMemory d a rs) x = dmByte d x := by
  induction rs with
  | nil => exact fun _ _ _ _ => rfl
  | cons r rs ih =>
    intro d a x h
    rw [List.length_cons] at h
    have hrest : 512 * rs.length ≤ dmPast (a + 512) x := by unfold dmPast at h ⊢; omega
    rw [rowsToMemory_cons, ih _ hrest, dmByte_dmWrite_past d _ (by omega)]

/-- Rows loaded into data memory stand there one after another (R169). -/
theorem dmByte_rowsToMemory (rs : List Row) : ∀ (d : SMap Byte) (a : Nat), rs.length ≤ 128 → ∀ {i j : Nat},
    i < rs.length → j < 512 → dmByte (rowsToMemory d a rs) (a + 512 * i + j) = (rs.getD i 0).extractLsb' (8 * j) 8 := by
  induction rs with
  | nil => exact fun _ _ _ _ _ hi => absurd hi (Nat.not_lt_zero _)
  | cons r rs ih =>
    intro d a hlen i j hi hj
    rw [List.length_cons] at hlen hi
    rw [rowsToMemory_cons]
    cases i with
    | zero =>
      have hrest : 512 * rs.length ≤ dmPast (a + 512) (a + 512 * 0 + j) := by unfold dmPast; omega
      rw [dmByte_rowsToMemory_past rs _ hrest, Nat.mul_zero, Nat.add_zero, dmByte_dmWrite d _ (by omega) hj]
      rfl
    | succ i =>
      rw [show a + 512 * (i + 1) + j = a + 512 + 512 * i + j by omega, ih _ _ (by omega) (by omega) hj]
      rfl

/-- A row read from data memory holds its bytes (R169). -/
theorem extractLsb'_dmRead (d : SMap Byte) (a : Nat) {j : Nat} (hj : j < 512) :
    (BitVec.ofNat 4096 (dmRead d a 512)).extractLsb' (8 * j) 8 = dmByte d (a + j) := by
  rw [dmRead, extractLsb'_ofNat_leNat _ (by omega)]
  simp [List.getD_eq_getElem?_getD, hj]

/-! ## Rows written in order (R141) -/

theorem Spm.rows_writeRows (xs : List Nat) : ∀ (rs : List Row) (m : Spm),
    (m.writeRows xs rs).rows = (xs.zip rs).foldl (fun t e => t.set (fun _ => 0) e.1 e.2) m.rows := by
  induction xs with
  | nil => exact fun _ _ => rfl
  | cons x xs ih =>
    intro rs m
    cases rs with
    | nil => rfl
    | cons r rs => exact ih rs _

/-- A write of rows leaves every other row. -/
theorem Spm.row_writeRows_of_not_mem (m : Spm) {xs : List Nat} (rs : List Row) {r : Nat} (h : r ∉ xs) :
    (m.writeRows xs rs).row r = m.row r := by
  rw [Spm.row, Spm.rows_writeRows]
  exact SMap.get_foldl_set_of_not_mem _ _ _ fun hr => h ((List.mem_map.1 hr).elim fun e he => he.2 ▸ (List.of_mem_zip he.1).1)

/-- After a write of distinct rows each reads as written. -/
theorem Spm.row_writeRows (m : Spm) {xs : List Nat} {rs : List Row} (hlen : xs.length = rs.length) (hnodup : xs.Nodup) {i : Nat}
    (hi : i < xs.length) : (m.writeRows xs rs).row (xs.getD i 0) = rs.getD i 0 := by
  have hmem : (xs.getD i 0, rs.getD i 0) ∈ xs.zip rs := by
    rw [List.getD_eq_getElem _ _ hi, List.getD_eq_getElem _ _ (hlen ▸ hi), ← List.getElem_zip (h := by simp; omega)]
    exact List.getElem_mem _
  rw [Spm.row, Spm.rows_writeRows]
  exact SMap.get_foldl_set_of_mem _ _ m.rows (by rwa [List.map_fst_zip hlen.le]) hmem

/-! ## Data memory moved by rows (R169) -/

/-- The rows that data memory holds from address `a` on. -/
def memoryRows (d : SMap Byte) (a k : Nat) : List Row :=
  (List.range k).map (fun i => BitVec.ofNat 4096 (dmRead d (a + 512 * i) 512))

theorem extractLsb'_memoryRows (d : SMap Byte) (a : Nat) {k i j : Nat} (hi : i < k) (hj : j < 512) :
    ((memoryRows d a k).getD i 0).extractLsb' (8 * j) 8 = dmByte d (a + 512 * i + j) := by
  have hrow : (memoryRows d a k).getD i 0 = BitVec.ofNat 4096 (dmRead d (a + 512 * i) 512) := by
    simp [memoryRows, List.getD_eq_getElem?_getD, hi]
  rw [hrow, extractLsb'_dmRead _ _ hj]

/-- What an operand reads without a transposition: its rows as they stand (R141). -/
theorem Spm.reads_of_trans_none (m : Spm) {o : Operand} (h : o.trans = none) : m.reads o = o.rows.map m.row := by
  rw [Spm.reads, deliver, h]

section
variable {s : State} {n : Nat} {c : EngCmd} {o : Operand} {a : Nat} (hready : (s.core n).ready c = true) (hraces : c.races = [])
include hready hraces

theorem performRowPath_rowld (hop : c.op = .rowld o a) : performRowPath n s c =
    (s.modSeq n (fun q => { q with dmem := rowsToMemory q.dmem a ((s.core n).spm.reads o) })).performed n c o.rows.length 0 := by
  simp [performRowPath, hop, hready, Core.raceHeld_of_nil _ _ hraces, State.readFor_of_nil _ _ hraces]

theorem performRowPath_rowst (hop : c.op = .rowst o a) : performRowPath n s c =
    (s.writeFor n c o (memoryRows (s.core n).seq.dmem a o.rows.length)).performed n c 0 o.rows.length := by
  simp [performRowPath, hop, hready, Core.raceHeld_of_nil _ _ hraces, memoryRows]

end

theorem Core.Signalled.seq {k k' : Core} (h : k.Signalled k') : k'.seq = k.seq := by rw [h.frame]
theorem Core.Signalled.row {k k' : Core} (h : k.Signalled k') : k'.row = k.row := by rw [h.frame]

section
variable {s : State} {n : CoreId} {c : EngCmd} {o : Operand} {a : Nat} (hgo : s.mayGo n.val c = true) (hreq : c.req = .rowPath)
include hgo hreq

theorem rowld_result (hop : c.op = .rowld o a) :
    ∃ t, exec (.commandCompletion n .rowPath) s = .next t ∧ s.CoreFrame t n.val ∧ (t.core n.val).command c.id = none ∧
      (t.core n.val).spm.rows = (s.core n.val).spm.rows ∧ (t.core n.val).seq = { (s.core n.val).seq with
        dmem := rowsToMemory (s.core n.val).seq.dmem a ((s.core n.val).spm.reads o) } := by
  obtain ⟨-, -, -, hready, hraces⟩ := (s.mayGo_iff n.val c).1 hgo
  obtain ⟨t, hexec, hframe, hnone, hsig⟩ := commandCompletion_performed hgo
    (by rw [performCmd, hop]; exact performRowPath_rowld hready hraces hop) (s.frame_modSeq ..) (by rw [State.core_modSeq_same])
    (fun t => by simp [State.completed, EngCmd.done, hop])
  refine ⟨t, hreq ▸ hexec, hframe, hnone, ?_, ?_⟩
  · rw [hsig.rows, State.core_modSeq_same]; rfl
  · rw [hsig.seq, State.core_modSeq_same]; rfl

theorem rowst_result (hop : c.op = .rowst o a) (hplain : o.plain = true) :
    ∃ t, exec (.commandCompletion n .rowPath) s = .next t ∧ s.CoreFrame t n.val ∧ (t.core n.val).command c.id = none ∧
      (t.core n.val).seq = (s.core n.val).seq ∧ (t.core n.val).spm.rows =
        ((s.core n.val).spm.writeRows o.rows (memoryRows (s.core n.val).seq.dmem a o.rows.length)).rows := by
  obtain ⟨-, -, -, hready, hraces⟩ := (s.mayGo_iff n.val c).1 hgo
  have hcore := s.core_writeFor n.val c hplain (memoryRows (s.core n.val).seq.dmem a o.rows.length)
  obtain ⟨t, hexec, hframe, hnone, hsig⟩ := commandCompletion_performed hgo
    (by rw [performCmd, hop]; exact performRowPath_rowst hready hraces hop) (s.frame_writeFor ..) (by rw [hcore])
    (fun t => by simp [State.completed, EngCmd.done, hop])
  refine ⟨t, hreq ▸ hexec, hframe, hnone, ?_, ?_⟩
  · rw [hsig.seq, hcore]; rfl
  · rw [hsig.rows, hcore]
    exact Spm.rows_writeRows_congr _ _ _ _ rfl

end

/-! ## Commands that end (R136, R165, R201) -/

/-- A command whose accesses are over completes. -/
theorem commandCompletion_over {s : State} {n : CoreId} {c : EngCmd} (hrun : s.engineRuns n.val = true)
    (hnext : s.nextCmd n.val c.req = some c) (hstage : c.stage = .performed) :
    exec (.commandCompletion n c.req) s = .next (s.completed n.val c) := by
  have hexec : exec (.commandCompletion n c.req) s = execCommandCompletion n c.req s := rfl
  have hover : (c.stage == .performed) = true := by rw [hstage]; rfl
  rw [hexec, execCommandCompletion]
  simp only [hrun, hnext, hover, Bool.not_true, Bool.false_eq_true, if_false, if_true]

/-- A command that may go on and whose accesses are then over completes. -/
theorem commandCompletion_goes {s u : State} {n : CoreId} {c d : EngCmd} (h : s.mayGo n.val c = true)
    (hperf : performCmd n.val s c = u) (hd : (u.core n.val).command c.id = some d) (hstage : d.stage = .performed) :
    exec (.commandCompletion n c.req) s = .next (u.completed n.val d) := by
  have hover : (d.stage == .performed) = true := by rw [hstage]; rfl
  rw [commandCompletion_eq h, hperf]
  simp only [hd, hover, if_true]

theorem State.releaseAll_plain (s : State) (n : Nat) {os : List Operand} (h : ∀ o ∈ os, o.plain = true) :
    s.releaseAll n os = s := by
  unfold State.releaseAll
  induction os with
  | nil => rfl
  | cons o os ih =>
    have hcirc : o.circ = none := by simpa [Operand.plain] using h o List.mem_cons_self
    rw [List.foldl_cons, State.releaseFor, hcirc]
    exact ih fun o ho => h o (List.mem_cons_of_mem _ ho)

/-- A row operation on plain sources leaves its queue and counts. -/
theorem State.completed_rowop (s : State) (n : Nat) {d : EngCmd} {x : RowopP} (hop : d.op = .rowop x)
    (hplain : ∀ o ∈ x.sources, o.plain = true) : s.completed n d = (s.complete n d).count (corePage n kROW) 0x108 1 := by
  simp only [State.completed, hop, State.releaseAll_plain _ _ hplain]

/-- A row operation on plain sources whose accesses are over in this step: its signal is added, and it leaves its queue. -/
theorem commandCompletion_rowop {s u : State} {n : CoreId} {c d : EngCmd} {x : RowopP} (hgo : s.mayGo n.val c = true)
    (hperf : performCmd n.val s c = u) (hframe : s.CoreFrame u n.val) (hd : (u.core n.val).command c.id = some d)
    (hstage : d.stage = .performed) (hop : d.op = .rowop x) (hplain : ∀ o ∈ x.sources, o.plain = true) :
    ∃ t, exec (.commandCompletion n c.req) s = .next t ∧ s.CoreFrame t n.val ∧ (t.core n.val).command c.id = none ∧
      (u.core n.val).Signalled (t.core n.val) := by
  have hid : d.id = c.id := by simpa using List.find?_some hd
  refine ⟨_, commandCompletion_goes hgo hperf hd hstage, ?_⟩
  rw [State.completed_rowop _ _ hop hplain, State.count_core, State.core_complete, ← hid]
  exact ⟨(hframe.trans (State.frame_complete ..)).trans (State.frame_count _ _ kROW _ _ (by decide)),
    Core.command_without _ d, Core.signalled_without _ d⟩

/-! ## Row operations (R184, R186) -/

theorem RowopP.startErr_lt {x : RowopP} {b : Nat} (h : x.startErr = some b) : b < 3 := by
  unfold RowopP.startErr at h
  split_ifs at h <;> simp only [Option.some.injEq] at h <;> omega

/-- The counts of a row operation that runs: rows read, lanes evaluated (R152, R201). -/
def State.rowopCounted (s : State) (n : Nat) (x : RowopP) (as bs : List Row) : State :=
  ((s.countRows n (sourceRows x.sources) 0).count (corePage n kROW) 0x100 (as.length + bs.length)).count (corePage n kROW) 0x118
    (tableUses x.code * laneCount x.sfmt * as.length)

theorem State.core_rowopCounted (s : State) (n : Nat) (x : RowopP) (as bs : List Row) (m : Nat) :
    (s.rowopCounted n x as bs).core m = s.core m := by
  rw [State.rowopCounted, State.count_core, State.count_core, State.core_countRows]

theorem State.frame_rowopCounted (s : State) (n : Nat) (x : RowopP) (as bs : List Row) :
    s.CoreFrame (s.rowopCounted n x as bs) n :=
  ((s.frame_countRows ..).trans (State.frame_count _ n kROW _ _ (by decide))).trans (State.frame_count _ n kROW _ _ (by decide))

@[simp] theorem State.task_countRows (s : State) (n r w t : Nat) : (s.countRows n r w).task t = s.task t := by
  unfold State.countRows
  split <;> split <;> rfl

/-- Counting leaves the job of a core, and so its generator values. -/
theorem State.draw_rowopCounted (s : State) (n : Nat) (x : RowopP) (as bs : List Row) (c : EngCmd) :
    (s.rowopCounted n x as bs).draw n c = s.draw n c := by
  have htask (t : Nat) : (s.rowopCounted n x as bs).task t = s.task t := by
    rw [State.rowopCounted, State.count_task, State.count_task, State.task_countRows]
  simp only [State.draw, State.coreJob, State.coreTask, State.core_rowopCounted, htask]

theorem State.frame_delivered (s : State) (n : Nat) (c : EngCmd) (o : Operand) (rows : List Row) :
    s.CoreFrame (s.delivered n c o rows) n :=
  ((((s.frame_modSpm n _).trans (State.frame_countRows ..)).trans (State.frame_markStage ..)).trans
    (State.frame_modCore ..)).trans (State.frame_markStage ..)

section
variable (s : State) (n routine b code item : Nat)

theorem State.core_rowFault : (s.rowFault n routine b code item).core n =
    let k := (s.raiseFault n kROW b (rowInfo routine b code) (word item)).core n
    { k with row := { k.row with stopped := true }, inflight := k.inflight.filter (fun d => d.req != .row) } :=
  State.core_modCore_same ..

/-- A fault of the row engine leaves every row (R197). -/
theorem State.rows_rowFault : ((s.rowFault n routine b code item).core n).spm.rows = (s.core n).spm.rows := by
  rw [State.core_rowFault, (State.kept_raiseFault s n kROW b (rowInfo routine b code) (word item)).spm n]

/-- A fault of the row engine empties its queue (R197). -/
theorem State.queueOf_row_rowFault : ((s.rowFault n routine b code item).core n).queueOf .row = [] := by
  rw [State.core_rowFault, Core.queueOf, List.filter_filter]
  exact List.filter_eq_nil_iff.2 fun d _ => by simp

end

/-- What a command that ends or waits leaves of its core: its commands only leave, its rows and its row engine stand, and
pages only count. -/
structure State.Settles (s t : State) (n : Nat) : Prop where
  frame : s.CoreFrame t n
  row : (t.core n).row = (s.core n).row
  rows : (t.core n).spm.rows = (s.core n).spm.rows
  inflight : (t.core n).inflight.Sublist (s.core n).inflight

theorem State.Settles.refl (s : State) (n : Nat) : s.Settles s n := ⟨.refl s n, rfl, rfl, .refl _⟩

theorem State.Settles.trans {s t u : State} {n : Nat} (h : s.Settles t n) (g : t.Settles u n) : s.Settles u n where
  frame := h.frame.trans g.frame
  row := g.row.trans h.row
  rows := g.rows.trans h.rows
  inflight := g.inflight.trans h.inflight

theorem State.Settles.err {s t : State} {n : Nat} (h : s.Settles t n) (p : Nat) : (t.page p).err = (s.page p).err := by
  rw [h.frame.counters]

theorem State.settles_count (s : State) (n : Nat) {k : Nat} (hk : k < 16) (off m : Nat) :
    s.Settles (s.count (corePage n k) off m) n := ⟨s.frame_count n k _ _ hk, rfl, rfl, .refl _⟩

theorem State.settles_complete (s : State) (n : Nat) (c : EngCmd) : s.Settles (s.complete n c) n := by
  have hsig := Core.signalled_without (s.core n) c
  rw [← State.core_complete] at hsig
  exact ⟨s.frame_complete n c, hsig.row, hsig.rows, hsig.inflight⟩

theorem State.settles_releaseAll (s : State) (n : Nat) (os : List Operand) : s.Settles (s.releaseAll n os) n := by
  have h : s.Releases (s.releaseAll n os) n := State.Releases.foldl (fun s o => s.releases_releaseFor n o) os s
  exact ⟨h.frame, by rw [h.core], by rw [h.core], by rw [h.core]⟩

theorem State.settles_completed (s : State) (n : Nat) (c : EngCmd) : s.Settles (s.completed n c) n := by
  unfold State.completed
  split
  · exact ((s.settles_releaseAll n _).trans (State.settles_complete ..)).trans (State.settles_count _ n (by decide) _ _)
  · exact ((s.settles_releaseAll n _).trans (State.settles_complete ..)).trans (State.settles_count _ n (by decide) _ _)
  · exact s.settles_complete n c

theorem State.settles_countHeld (s : State) (n : Nat) (c : EngCmd) : s.Settles (s.countHeld n c) n := by
  have counted (off : Nat) : s.Settles (s.count (corePage n kSPM) off 1) n := s.settles_count n (by decide) off 1
  have waits : s.Settles s n := .refl s n
  unfold State.countHeld
  simp only []
  split
  · split
    · exact (counted _).trans (State.settles_count _ n (by decide) _ _)
    · exact counted _
  · split
    · split
      · split
        · exact counted _
        · exact waits
      · exact waits
    · split
      · exact waits
      · split
        · exact counted _
        · split
          · exact counted _
          · split
            · split
              · exact waits
              · exact counted _
            · split
              · exact waits
              · exact counted _
            · exact waits

/-- Whatever a command does, it then only settles. -/
theorem commandCompletion_settles {s : State} {n : CoreId} {c : EngCmd} (hgo : s.mayGo n.val c = true) :
    ∃ t, exec (.commandCompletion n c.req) s = .next t ∧ (performCmd n.val s c).Settles t n.val := by
  rw [commandCompletion_eq hgo]
  refine ⟨_, rfl, ?_⟩
  split
  · exact .refl _ _
  · split
    · exact State.settles_completed ..
    · exact State.settles_countHeld ..

section
variable {s : State} {n : Nat} {c : EngCmd} {x : RowopP} (hop : c.op = .rowop x) (hready : (s.core n).ready c = true)
  (hraces : c.races = [])
include hop hready hraces

theorem performRowop_fault {b : Nat} (hbad : x.startErr = some b) : performRowop n s c = s.rowFault n 0 b x.code 0 := by
  obtain ⟨hstage, -⟩ := (Core.ready_iff _ c).1 hready
  simp [performRowop, hop, hstage, hready, Core.raceHeld_of_nil _ _ hraces, hbad]

section
variable (hok : x.startErr = none) (hplain : ∀ o ∈ x.sources, o.plain = true)
include hok hplain

/-- A row operation on plain sources counts its rows, then loads its hold or writes its result. -/
theorem performRowop_plain :
    let as := (s.core n).spm.reads x.srcA
    let bs := (x.srcB.map (s.core n).spm.reads).getD []
    performRowop n s c = if x.code = 0x38 then
        ((s.rowopCounted n x as bs).modRow n (fun r => { r.setHold x.hold (as.headD 0) with
          valid := r.valid ||| (1#16 <<< x.hold) })).markStage n c.id .performed
      else (s.rowopCounted n x as bs).deliverAll n c [(x.dst, x.result (s.draw n c) as bs ((s.core n).row.hold x.hold))] := by
  obtain ⟨hstage, -⟩ := (Core.ready_iff _ c).1 hready
  have hfull : x.sources.all (s.core n).spm.fullFor = true := List.all_eq_true.2 fun o ho => by
    have hcirc : o.circ = none := by simpa [Operand.plain] using hplain o ho
    rw [Spm.fullFor, hcirc]
  have hread : s.readFor n c = (s.core n).spm.reads := funext (s.readFor_of_nil n hraces)
  have hstarted : (c.stage == .started) = false := by rw [hstage]; rfl
  simp only [performRowop, hop, hstarted, hready, Core.raceHeld_of_nil _ _ hraces, hok, Spm.failedSlots_plain _ hplain, hfull,
    hread, State.spendRace_of_nil _ hraces, ← State.draw_rowopCounted s n x ((s.core n).spm.reads x.srcA)
      ((x.srcB.map (s.core n).spm.reads).getD []) c]
  rfl

end
end

theorem performCmd_rowop (s : State) (n : Nat) {c : EngCmd} {x : RowopP} (hop : c.op = .rowop x) :
    performCmd n s c = performRowop n s c := by rw [performCmd, hop]

theorem RowopP.sources_plain {x : RowopP} (ha : x.srcA.plain = true) (hb : x.srcB.all Operand.plain = true) :
    ∀ o ∈ x.sources, o.plain = true := by
  intro o ho
  obtain rfl | ho := List.mem_cons.1 ho
  · exact ha
  · exact (Option.all_eq_true ..).1 hb o (Option.mem_toList.1 ho)

section
variable {s : State} {n : CoreId} {c : EngCmd} {x : RowopP} (hgo : s.mayGo n.val c = true) (hreq : c.req = .row)
  (hop : c.op = .rowop x)
include hgo hreq hop

theorem rowop_fault {b : Nat} (hbad : x.startErr = some b) :
    ∃ t, exec (.commandCompletion n .row) s = .next t ∧ (t.core n.val).row.stopped = true ∧ (t.core n.val).queueOf .row = [] ∧
      bit (t.page (corePage n.val kROW)).err b = true ∧ (t.core n.val).spm.rows = (s.core n.val).spm.rows := by
  obtain ⟨-, -, -, hready, hraces⟩ := (s.mayGo_iff n.val c).1 hgo
  obtain ⟨t, hexec, hsettles⟩ := commandCompletion_settles hgo
  rw [performCmd_rowop s n.val hop, performRowop_fault hop hready hraces hbad] at hsettles
  refine ⟨t, hreq ▸ hexec, ?_, ?_, ?_, ?_⟩
  · rw [hsettles.row, State.core_rowFault]
  · have hqueue := hsettles.inflight.filter (fun d => d.req == .row)
    exact List.sublist_nil.1 ((s.queueOf_row_rowFault n.val 0 b x.code 0) ▸ hqueue)
  · rw [hsettles.err]
    exact State.reported_raiseFault _ n _ _ (by decide) (Nat.lt_trans (RowopP.startErr_lt hbad) (by decide))
  · rw [hsettles.rows, State.rows_rowFault]

section
variable (hok : x.startErr = none) (hplain : ∀ o ∈ x.sources, o.plain = true)
include hok hplain

theorem rowop_hold (hcode : x.code = 0x38) : ∃ t, exec (.commandCompletion n .row) s = .next t ∧ s.CoreFrame t n.val ∧
    (t.core n.val).command c.id = none ∧ (t.core n.val).spm.rows = (s.core n.val).spm.rows ∧
    (t.core n.val).row = { (s.core n.val).row.setHold x.hold (((s.core n.val).spm.reads x.srcA).headD 0) with
      valid := (s.core n.val).row.valid ||| (1#16 <<< x.hold) } := by
  obtain ⟨-, -, hc, hready, hraces⟩ := (s.mayGo_iff n.val c).1 hgo
  have hperf := (performCmd_rowop s n.val hop).trans ((performRowop_plain hop hready hraces hok hplain).trans (if_pos hcode))
  obtain ⟨t, hexec, hframe, hnone, hsig⟩ := commandCompletion_rowop hgo hperf
    (((s.frame_rowopCounted ..).trans (State.frame_modCore ..)).trans (State.frame_markStage ..)) (d := c.done)
    (by
      rw [State.markStage, State.core_modCore_same, State.modRow, State.core_modCore_same, State.core_rowopCounted]
      exact (Core.command_updateCmd _ _ EngCmd.done (fun _ => rfl)).trans (congrArg (Option.map EngCmd.done) hc))
    rfl hop hplain
  refine ⟨t, hreq ▸ hexec, hframe, hnone, ?_, ?_⟩
  · rw [hsig.rows, State.markStage, State.core_modCore_same, State.modRow, State.core_modCore_same, State.core_rowopCounted]
    rfl
  · rw [hsig.row, State.markStage, State.core_modCore_same, State.modRow, State.core_modCore_same, State.core_rowopCounted]
    rfl

theorem rowop_writes (hdst : x.dst.plain = true) (hcode : x.code ≠ 0x38) :
    ∃ t, exec (.commandCompletion n .row) s = .next t ∧ s.CoreFrame t n.val ∧
      (t.core n.val).command c.id = none ∧ (t.core n.val).row = (s.core n.val).row ∧
      (t.core n.val).spm.rows = ((s.core n.val).spm.writeRows x.dst.rows (x.result (s.draw n.val c) ((s.core n.val).spm.reads x.srcA)
        ((x.srcB.map (s.core n.val).spm.reads).getD []) ((s.core n.val).row.hold x.hold))).rows := by
  obtain ⟨-, -, hc, hready, hraces⟩ := (s.mayGo_iff n.val c).1 hgo
  have hcounted := s.core_rowopCounted n.val x ((s.core n.val).spm.reads x.srcA) ((x.srcB.map (s.core n.val).spm.reads).getD []) n.val
  have hperf := (performCmd_rowop s n.val hop).trans ((performRowop_plain hop hready hraces hok hplain).trans (if_neg hcode))
  rw [State.deliverAll_plain _ _ _ _ hdst (by rw [hcounted]; exact hc)] at hperf
  have hcore := (s.rowopCounted n.val x ((s.core n.val).spm.reads x.srcA)
    ((x.srcB.map (s.core n.val).spm.reads).getD [])).core_delivered n.val (c := c) x.dst (x.result (s.draw n.val c)
      ((s.core n.val).spm.reads x.srcA) ((x.srcB.map (s.core n.val).spm.reads).getD []) ((s.core n.val).row.hold x.hold))
  rw [hcounted] at hcore
  obtain ⟨t, hexec, hframe, hnone, hsig⟩ := commandCompletion_rowop hgo hperf
    ((s.frame_rowopCounted ..).trans (State.frame_delivered ..)) (d := c.finished)
    (by
      rw [hcore]
      exact (Core.command_updateCmd _ _ EngCmd.finished (fun _ => rfl)).trans (congrArg (Option.map EngCmd.finished) hc))
    rfl hop hplain
  refine ⟨t, hreq ▸ hexec, hframe, hnone, ?_, ?_⟩
  · rw [hsig.row, hcore]; rfl
  · rw [hsig.rows, hcore]
    exact Spm.rows_writeRows_congr _ _ _ _ rfl

end
end

/-- Settles O12: ROWLD and ROWST move rows byte by byte, and a ROWOP faults, loads its hold or writes its result. -/
theorem rowResults : Obligations.RowResults := by
  unfold Obligations.RowResults
  refine ⟨fun s n c o a hgo hreq hplain htrans hlen => ⟨fun hop => ?_, fun hop => ?_⟩, fun s n c x hgo hreq hop =>
    ⟨fun b hbad => rowop_fault hgo hreq hop hbad, fun hok ha hb hdst =>
      ⟨rowop_hold hgo hreq hop hok (RowopP.sources_plain ha hb),
        rowop_writes hgo hreq hop hok (RowopP.sources_plain ha hb) hdst⟩⟩⟩
  · obtain ⟨t, hexec, hframe, hnone, hrows, hseq⟩ := rowld_result hgo hreq hop
    have hreads := (s.core n.val).spm.reads_of_trans_none htrans
    have hread (i : Nat) (hi : i < o.rows.length) :
        ((s.core n.val).spm.reads o).getD i 0 = (s.core n.val).spm.row (o.rows.getD i 0) := by
      simp [hreads, List.getD_eq_getElem?_getD, hi]
    have hcount : ((s.core n.val).spm.reads o).length = o.rows.length := by rw [hreads, List.length_map]
    refine ⟨t, hexec, hframe, hnone, hrows, fun i hi j hj => ?_, fun x hx => ?_, by rw [hseq]⟩
    · rw [hseq, ← hread i hi]
      exact dmByte_rowsToMemory _ _ a (hcount ▸ hlen) (hcount ▸ hi) hj
    · rw [hseq]
      exact dmByte_rowsToMemory_past _ _ (hcount ▸ hx)
  · obtain ⟨t, hexec, hframe, hnone, hseq, hrows⟩ := rowst_result hgo hreq hop hplain
    have hrow (r : Nat) : (t.core n.val).spm.row r =
        ((s.core n.val).spm.writeRows o.rows (memoryRows (s.core n.val).seq.dmem a o.rows.length)).row r := by
      rw [Spm.row, hrows]; rfl
    refine ⟨t, hexec, hframe, hnone, hseq, fun r hr => ?_, fun hnodup i hi j hj => ?_⟩
    · rw [hrow, Spm.row_writeRows_of_not_mem _ _ hr]
    · rw [hrow, Spm.row_writeRows _ (by simp [memoryRows]) hnodup hi, extractLsb'_memoryRows _ _ hi hj]

/-! ## A row operation with a circular source (R136) -/

/-- A circular region of two slots whose first slot holds its item. -/
def releaseCirc : Circ :=
  { circDefault 1 with cfg := { valid := true, slotLog2 := 0, banks := 1, base := 0, slots := 2 },
                       slots := [(0, { full := true, expected := 0, failed := false })] }

/-- A copy of the item in that slot, its accesses over. -/
def releaseCmd : EngCmd where
  id := 0
  req := .row
  op := .rowop { (default : RowopP) with
    code := 0, rows := 1, sfmt := 7, dfmt := 7, srcA := { rows := [0], trans := none, circ := some (1, [0]) },
    dst := { rows := [512], trans := none, circ := none } }
  opcode := 0x48
  pc := 0
  bank := false
  wait := none
  sig := none
  port := 4
  reads := []
  writes := []
  dmR := []
  dmW := []
  stage := .performed
  races := []
  rivals := []
  replays := 0
  number := 0
  counted := false
  round := 0
  tile := 0
  layer := 0
  tracked := false
  got := []
  taken := 0
  out := []
  tags := 0
  fail := none

/-- Core 0 with that command alone in its queues. -/
def releaseState : State :=
  { State.reset with phase := .ready, cores := [(0, { Core.reset with spm := { Spm.reset with circs := [(1, releaseCirc)] },
                                                                      inflight := [releaseCmd] })] }

/-- Refutes O11: a row operation with a circular source frees the source's slot as it completes (R136), so more of its core
changes than its queue and its signal. -/
theorem not_commandsEnd : ¬ Obligations.CommandsEnd := by
  intro h
  have hrun : releaseState.engineRuns 0 = true := by decide +kernel
  have hnext : releaseState.nextCmd 0 .row = some releaseCmd := by decide +kernel
  obtain ⟨t, hexec, -, hcore, -⟩ := h releaseState 0 releaseCmd hrun hnext rfl
  obtain rfl : t = releaseState.completed 0 releaseCmd :=
    Host.Outcome.next.inj (hexec.symm.trans (commandCompletion_over (n := 0) (c := releaseCmd) hrun hnext rfl))
  have hfreed : ((((releaseState.completed 0 releaseCmd).core 0).spm.circ 1).slot 0).full = false := by decide +kernel
  have hheld : ((((releaseState.core 0).without releaseCmd).spm.circ 1).slot 0).full = true := by decide +kernel
  have hslot := congrArg (fun k => ((k.spm.circ 1).slot 0).full) hcore
  exact Bool.noConfusion (hfreed.symm.trans (hslot.trans hheld))

end Sys2Proof.Machine
end

section
/-!
Proofs of chapter 07: banks of the scratchpad that change owners, wake, are zeroed and are tested (R132, R143-R147).
-/
namespace Sys2Proof.Machine

/-! ## Banks that are zeroed (R143, R147) -/

@[simp] theorem Spm.bank_zeroBank (m : Spm) (b c : Nat) : (m.zeroBank b).bank c = m.bank c := rfl

/-- A bank whose rows are zeroed, and that nothing holds afterwards. -/
def Spm.freeBank (m : Spm) (b : Nat) : Spm := (m.zeroBank b).setBank b { m.bank b with busy := none }

theorem Spm.row_freeBank (m : Spm) (b r : Nat) : (m.freeBank b).row r = if r / 512 = b then 0 else m.row r := m.row_zeroBank b r

theorem Spm.bank_freeBank (m : Spm) (b c : Nat) :
    (m.freeBank b).bank c = if c = b then { m.bank c with busy := none } else m.bank c := by
  rw [Spm.freeBank, Spm.bank_setBank, Spm.bank_zeroBank]
  split
  · next h => rw [h]
  · rfl

theorem Spm.frame_freeBank (m : Spm) (b : Nat) :
    m.freeBank b = { m with rows := (m.freeBank b).rows, banks := (m.freeBank b).banks } := rfl

section
variable (bs : List Nat)

theorem Spm.frame_freeBanks : ∀ m : Spm, bs.foldl Spm.freeBank m =
    { m with rows := (bs.foldl Spm.freeBank m).rows, banks := (bs.foldl Spm.freeBank m).banks } := by
  induction bs with
  | nil => exact fun _ => rfl
  | cons b bs ih => exact fun m => by rw [List.foldl_cons, ih, m.frame_freeBank]

theorem Spm.row_freeBanks (r : Nat) : ∀ m : Spm, (bs.foldl Spm.freeBank m).row r = if r / 512 ∈ bs then 0 else m.row r := by
  induction bs with
  | nil => exact fun _ => rfl
  | cons b bs ih =>
    intro m
    rw [List.foldl_cons, ih, Spm.row_freeBank]
    by_cases hr : r / 512 = b <;> simp only [hr, List.mem_cons, true_or, false_or, if_true, if_false, ite_self]

theorem Spm.bank_freeBanks (c : Nat) : ∀ m : Spm, (bs.foldl Spm.freeBank m).bank c =
    if c ∈ bs then { m.bank c with busy := none } else m.bank c := by
  induction bs with
  | nil => exact fun _ => rfl
  | cons b bs ih =>
    intro m
    rw [List.foldl_cons, ih, Spm.bank_freeBank]
    by_cases hc : c = b <;> simp [hc]

end

/-- Gating and waking hold no bank but those that wake. -/
theorem Spm.busy_repowerBank (auto : Bool) (m : Spm) (b c : Nat) :
    ((m.repowerBank auto b).bank c).busy = (m.bank c).busy ∨ ((m.repowerBank auto b).bank c).busy = some .waking := by
  by_cases hc : c = b
  · subst hc
    unfold Spm.repowerBank
    simp only []
    split
    · exact .inl rfl
    · split
      · split
        · rw [Spm.bank_setBank, if_pos rfl]; exact .inl rfl
        · exact .inl rfl
      · split
        · exact .inl rfl
        · rw [Spm.bank_setBank, if_pos rfl]; exact .inr rfl
  · rw [Spm.bank_repowerBank_other auto m hc]
    exact .inl rfl

theorem Spm.busy_repower (auto : Bool) (m : Spm) (c : Nat) :
    ((Spm.repower auto m).bank c).busy = (m.bank c).busy ∨ ((Spm.repower auto m).bank c).busy = some .waking := by
  unfold Spm.repower
  generalize List.range 48 = bs
  induction bs generalizing m with
  | nil => exact .inl rfl
  | cons b bs ih =>
    obtain h | h := ih (m.repowerBank auto b)
    · rw [List.foldl_cons, h]; exact m.busy_repowerBank auto b c
    · exact .inr h

/-- An operation that is over, or never held the bank, does not hold it when banks are gated and woken. -/
theorem Spm.busy_repower_ne (auto : Bool) (m : Spm) {c : Nat} {x : Busy} (hx : x ≠ .waking) (h : (m.bank c).busy ≠ some x) :
    ((Spm.repower auto m).bank c).busy ≠ some x := by
  obtain hbusy | hbusy := m.busy_repower auto c
  · rw [hbusy]; exact h
  · rw [hbusy]; exact fun h => hx (Option.some.inj h).symm

/-! ## The commands of a hosted core's banks -/

section
variable {s : State} {n : CoreId} {b : Fin 48}

/-- The new owner takes its bank (R132). -/
theorem claimTakeover_takes (htake : ((s.core n.val).spm.bank b.val).takeover.isSome = true)
    (hidle : ((s.core n.val).spm.bank b.val).busy = none)
    (hothers : ∀ d ∈ (s.core n.val).inflight, d.stage ≠ .performed → ∀ a ∈ d.reads ++ d.writes, accRow a / 512 = b.val →
      BankOwner.port (Fin.ofNat 8 (accPort a)) = ((s.core n.val).spm.bank b.val).owner) :
    exec (.claimTakeover n b) s =
      .next (s.modSpm n.val (fun m => m.setBank b.val { (s.core n.val).spm.bank b.val with takeover := none })) := by
  have hexec : exec (.claimTakeover n b) s = execClaimTakeover n b s := rfl
  have hnone : (s.core n.val).inflight.any (fun d => d.stage != .performed && (d.reads ++ d.writes).any (fun a =>
      accRow a / 512 == b.val && BankOwner.port (Fin.ofNat 8 (accPort a)) != ((s.core n.val).spm.bank b.val).owner)) = false := by
    simp only [List.any_eq_false, Bool.and_eq_true, bne_iff_ne, ne_eq, List.any_eq_true, beq_iff_eq, not_and, not_exists,
      not_not]
    exact fun d hd hstage a ha hrow => hothers d hd hstage a ha hrow
  rw [hexec, execClaimTakeover]
  simp only [htake, hidle, hnone]
  rfl

/-- A woken bank reads as zeros and is free (R143). -/
theorem bankWakeDone_frees (hbusy : ((s.core n.val).spm.bank b.val).busy = some .waking) :
    exec (.bankWakeDone n b) s = .next ((s.modSpm n.val (fun m => (m.zeroBank b.val).setBank b.val
      { (s.core n.val).spm.bank b.val with busy := none })).count (corePage n.val kSPM) 0x138 512) := by
  have hexec : exec (.bankWakeDone n b) s = execBankWakeDone n b s := rfl
  rw [hexec, execBankWakeDone]
  simp only [hbusy]
  rfl

/-- The banks that a kill zeroes. -/
def Spm.zeroing (m : Spm) : List Nat := (List.range 48).filter (fun b => (m.bank b).busy == some .zeroing)

theorem Spm.mem_zeroing (m : Spm) (c : Nat) : c ∈ m.zeroing ↔ c < 48 ∧ (m.bank c).busy = some .zeroing := by
  simp [Spm.zeroing]

/-- The zeroing of a kill ends in every bank at once (R147). -/
theorem spmZeroDone_zeroes (hbusy : ∃ c < 48, ((s.core n.val).spm.bank c).busy = some .zeroing) :
    exec (.spmZeroDone n) s = .next ((s.modSpm n.val (fun m => Spm.repower (s.autoPwr n.val)
      ((s.core n.val).spm.zeroing.foldl Spm.freeBank m))).count (corePage n.val kSPM) 0x138
        (512 * (s.core n.val).spm.zeroing.length)) := by
  have hexec : exec (.spmZeroDone n) s = execSpmZeroDone n s := rfl
  obtain ⟨c, hc⟩ := hbusy
  have hsome : (s.core n.val).spm.zeroing.isEmpty = false :=
    List.isEmpty_eq_false_iff.2 (List.ne_nil_of_mem (((s.core n.val).spm.mem_zeroing c).2 hc))
  rw [hexec, execSpmZeroDone]
  exact if_neg (ne_true_of_eq_false hsome)

/-- A requested test holds an idle bank (R145). -/
theorem spmBistStart_tests {p : Nat} (hp : p < 68) (hready : s.phase = .ready) (htest : s.bankTest p b.val = true)
    (hhost : s.hosted p = some n.val) (hidle : (s.core n.val).spm.idleBank b.val = true)
    (hbusy : ((s.core n.val).spm.bank b.val).busy = none) (hon : bit (s.reg (corePage n.val kSPM) 0x40) 1 = true) :
    exec (.spmBistStart p b) s = .next (s.modSpm n.val (fun m =>
      m.setBank b.val { (s.core n.val).spm.bank b.val with busy := some .testing, powered := true })) := by
  have hexec : exec (.spmBistStart p b) s = execSpmBistStart p b s := rfl
  rw [hexec, execSpmBistStart, if_neg (by omega)]
  simp only [htest, hready, hhost, hidle, hbusy, hon]
  rfl

/-- Every bank of a killed task's core reads as zeros and keeps its owner. -/
theorem spmZeroDone_result (hbusy : ∃ c < 48, ((s.core n.val).spm.bank c).busy = some .zeroing) :
    ∃ t, exec (.spmZeroDone n) s = .next t ∧ s.CoreFrame t n.val ∧
      t.core n.val = { s.core n.val with spm := { (s.core n.val).spm with
        rows := (t.core n.val).spm.rows, banks := (t.core n.val).spm.banks } } ∧
      (∀ r < 24576, (t.core n.val).spm.row r = if ((s.core n.val).spm.bank (r / 512)).busy = some .zeroing ∨
        (((s.core n.val).spm.bank (r / 512)).powered = true ∧ ((t.core n.val).spm.bank (r / 512)).powered = false) then 0
        else (s.core n.val).spm.row r) ∧
      ∀ c < 48, ((t.core n.val).spm.bank c).owner = ((s.core n.val).spm.bank c).owner ∧
        ((t.core n.val).spm.bank c).busy ≠ some .zeroing := by
  have hgates := Spm.gates_repower (s.autoPwr n.val) ((s.core n.val).spm.zeroing.foldl Spm.freeBank (s.core n.val).spm)
  have hbank (c : Nat) := Spm.bank_freeBanks (s.core n.val).spm.zeroing c (s.core n.val).spm
  have hpowered (c : Nat) : (((s.core n.val).spm.zeroing.foldl Spm.freeBank (s.core n.val).spm).bank c).powered =
      ((s.core n.val).spm.bank c).powered := by
    rw [hbank]
    split <;> rfl
  refine ⟨_, spmZeroDone_zeroes hbusy, (s.frame_modSpm ..).trans (State.frame_count _ _ kSPM _ _ (by decide)), ?_, ?_, ?_⟩
  · rw [State.count_core, State.core_modSpm_same, hgates.frame, Spm.frame_freeBanks]
  · intro r hr
    have hb : r / 512 < 48 := by omega
    rw [State.count_core, State.core_modSpm_same, hgates.row, Spm.row_freeBanks, hpowered]
    simp only [Spm.mem_zeroing, hb, true_and]
    by_cases hz : ((s.core n.val).spm.bank (r / 512)).busy = some .zeroing <;>
      simp only [hz, true_or, false_or, if_true, if_false, ite_self]
  · intro c hc
    simp only [State.count_core, State.core_modSpm_same]
    refine ⟨?_, Spm.busy_repower_ne _ _ (by decide) ?_⟩
    · rw [hgates.owner, hbank]
      split <;> rfl
    · rw [hbank]
      split
      · simp
      · next h => exact fun hz => h (((s.core n.val).spm.mem_zeroing c).2 ⟨hc, hz⟩)

end

/-! ## Spares and tests that stand (R144, R356) -/

/-- From `s` to `t` every pcore keeps its spares, and the requests of tests stand. -/
structure State.SparesKept (s t : State) : Prop where
  spares : ∀ p, (t.pcore p).spares = (s.pcore p).spares
  tests : t.host.tests = s.host.tests

theorem State.SparesKept.refl (s : State) : s.SparesKept s := ⟨fun _ => rfl, rfl⟩

theorem State.SparesKept.trans {s t u : State} (h : s.SparesKept t) (g : t.SparesKept u) : s.SparesKept u :=
  ⟨fun p => (g.spares p).trans (h.spares p), g.tests.trans h.tests⟩

theorem State.SparesKept.foldl {α : Type} {f : State → α → State} (hf : ∀ (s : State) a, s.SparesKept (f s a)) (l : List α) :
    ∀ s : State, s.SparesKept (l.foldl f s) := by
  induction l with
  | nil => exact .refl
  | cons a l ih => exact fun s => (hf s a).trans (ih _)

theorem State.SparesKept.bankTest {s t : State} (h : s.SparesKept t) (p b : Nat) : t.bankTest p b = s.bankTest p b := by
  rw [State.bankTest, State.bankTest, h.tests]

theorem State.spares_count (s : State) (p off k : Nat) : s.SparesKept (s.count p off k) := ⟨fun _ => rfl, rfl⟩
theorem State.spares_modCore (s : State) (n : Nat) (f : Core → Core) : s.SparesKept (s.modCore n f) := ⟨fun _ => rfl, rfl⟩

theorem State.spares_raise (s : State) (p b : Nat) (i j : Word) : s.SparesKept (s.raise p b i j) := by
  obtain ⟨t, ht, hu, hpcore⟩ := s.raises_raise p b i j
  refine ⟨fun q => by rw [hpcore], ?_⟩
  rw [hu, ht]

theorem State.spares_modPcore (s : State) (p : Nat) (f : Pcore → Pcore) (hf : ∀ x, (f x).spares = x.spares) :
    s.SparesKept (s.modPcore p f) where
  spares q := by
    rw [State.pcore_modPcore]
    split
    · next h => rw [h]; exact hf _
    · rfl
  tests := rfl

theorem State.spares_modJob (s : State) (t : Nat) (f : Job → Job) : s.SparesKept (s.modJob t f) := by
  unfold State.modJob
  split
  · exact ⟨fun _ => rfl, rfl⟩
  · exact .refl s

theorem State.spares_modTrv (s : State) (p : TPort) (f : Traverse → Traverse) : s.SparesKept (s.modTrv p f) := by
  cases p
  · exact ⟨fun _ => rfl, rfl⟩
  · exact ⟨fun _ => rfl, rfl⟩

theorem State.spares_faultLocal (s : State) (t : Nat) (code : Word) : s.SparesKept (s.faultLocal t code) := by
  unfold State.faultLocal
  split
  · exact .refl s
  · split
    · exact .refl s
    · refine State.SparesKept.trans ?_ (State.SparesKept.foldl (fun s n => s.spares_modCore n Core.stopIssue) _ _)
      split
      · exact .refl s
      · exact s.spares_modJob ..

theorem State.spares_sendTrv (s : State) (p : TPort) (h : TrvHdr) (data : List Byte) : s.SparesKept (s.sendTrv p h data) := by
  unfold State.sendTrv
  split
  · exact s.spares_modTrv ..
  · unfold State.emitTrv
    simp only []
    split <;> exact ⟨fun _ => rfl, rfl⟩

theorem State.spares_discardTrv (s : State) (p : TPort) (peers : List (BitVec 15)) : s.SparesKept (s.discardTrv p peers) := by
  unfold State.discardTrv
  simp only []
  exact State.SparesKept.trans (State.SparesKept.foldl (fun s o => s.spares_modCore ..) _ s) (State.spares_modTrv _ p _)

theorem State.spares_abortTraverse (s : State) (sends : Bool) (told : List (BitVec 15)) :
    s.SparesKept (s.abortTraverse sends told) := by
  have aborted (s : State) (p : TPort) (epoch : BitVec 16) (dsts : List (BitVec 15)) : s.SparesKept (s.sendAborts p epoch dsts) :=
    State.SparesKept.foldl (fun s _ => s.spares_sendTrv ..) dsts s
  unfold State.abortTraverse
  refine State.SparesKept.trans (State.SparesKept.foldl (fun s p => ?_) _ s)
    (State.SparesKept.foldl (fun s n => s.spares_modCore ..) _ _)
  simp only []
  refine State.SparesKept.trans ?_ (State.spares_discardTrv _ p _)
  split
  · exact (aborted s p _ _).trans (State.spares_modTrv ..)
  · exact .refl s

theorem State.spares_tellPeers (s : State) (j : Job) (lift traverse : Bool) : s.SparesKept (s.tellPeers j lift traverse) := by
  have noticed : s.SparesKept
      (if lift && j.lift && s.lift.isFormed then s.sendMsg .up (.notice true s.liftPos 0) else s) := by
    split
    · exact ⟨fun _ => rfl, rfl⟩
    · exact .refl s
  unfold State.tellPeers
  simp only []
  split
  · exact noticed.trans (State.spares_abortTraverse ..)
  · exact noticed

theorem State.spares_faultCore (s : State) (n p b : Nat) : s.SparesKept (s.faultCore n p b) := by
  unfold State.faultCore State.faultTask
  split
  · split
    · split
      · exact s.spares_faultLocal ..
      · exact (s.spares_faultLocal ..).trans (State.spares_tellPeers ..)
    · exact .refl s
  · exact s.spares_modCore n Core.stopIssue

theorem State.spares_raiseHardware (s : State) (n k b : Nat) (i j : Word) : s.SparesKept (s.raiseHardware n k b i j) := by
  unfold State.raiseHardware
  split
  · exact s.spares_raise ..
  · exact (s.spares_raise ..).trans (State.spares_faultCore ..)

theorem State.PlacementKept.bank {s t : State} (h : s.PlacementKept t) (m b : Nat) :
    (t.core m).spm.bank b = (s.core m).spm.bank b := by rw [h.spm]; rfl

/-! ## Hardware events (R381) -/

theorem State.kept_raiseHardware (s : State) (n k b : Nat) (i j : Word) : s.PlacementKept (s.raiseHardware n k b i j) := by
  unfold State.raiseHardware
  split
  · exact s.kept_raise ..
  · exact s.kept_raiseFault ..

theorem State.reported_raiseHardware (s : State) (n : CoreId) {k b : Nat} (i j : Word) (hk : k < 8) (hb : b < 32) :
    bit ((s.raiseHardware n.val k b i j).page (corePage n.val k)).err b = true := by
  unfold State.raiseHardware
  split
  · exact s.reported_raise n i j hk hb
  · exact s.reported_raiseFault n i j hk hb

/-! ## The end of a bank's test (R144-R146, R398) -/

/-- What the last bank of a test changes: the test of its pcore, and counts. -/
theorem State.testOver_kept (s : State) (p : Nat) (failed : Bool) :
    s.SparesKept (s.testOver p failed) ∧ (∀ m, (s.testOver p failed).core m = s.core m) ∧
      (s.testOver p failed).toJournal = s.toJournal ∧ s.ErrKept (s.testOver p failed) := by
  unfold State.testOver
  simp only []
  split
  · exact ⟨s.spares_modPcore p _ fun _ => rfl, fun _ => rfl, rfl, s.errKept_modPcore ..⟩
  · have err := s.errKept_count (pPCR p) 0x110 1
    have spares := s.spares_count (pPCR p) 0x110 1
    split
    · exact ⟨(spares.trans (State.spares_count ..)).trans (State.spares_modPcore _ p _ fun _ => rfl), fun _ => rfl, rfl,
        (err.trans (State.errKept_count ..)).trans (State.errKept_modPcore ..)⟩
    · exact ⟨spares.trans (State.spares_modPcore _ p _ fun _ => rfl), fun _ => rfl, rfl, err.trans (State.errKept_modPcore ..)⟩

/-- Rows of a bank of a pcore are remapped to spares. -/
def State.addSpares (s : State) (p b : Nat) (added : List (Nat × Nat)) : State :=
  s.modPcore p (fun x => { x with spares := x.spares.set (fun _ => []) b ((s.pcore p).spares.get (fun _ => []) b ++ added) })

theorem State.spares_addSpares (s : State) (p b : Nat) (added : List (Nat × Nat)) :
    ((s.addSpares p b added).pcore p).spares.get (fun _ => []) b = (s.pcore p).spares.get (fun _ => []) b ++ added := by
  rw [State.addSpares, State.pcore_modPcore_same, SMap.get_set_same]

/-- The failing rows of a tested bank are remapped and to be journalled, and the request is answered. -/
def State.remapped (s : State) (p b : Nat) (added : List (Nat × Nat)) : State :=
  { (s.addSpares p b added).modHost (fun h => { h with tests := h.tests.filter (fun t => t != (1, p * 64 + b)) }) with
    toJournal := s.toJournal ++ added.map (fun (e : Nat × Nat) => Repair.mk 1 [p, b, e.2, e.1]) }

theorem State.spares_remapped (s : State) (p b : Nat) (added : List (Nat × Nat)) :
    ((s.remapped p b added).pcore p).spares.get (fun _ => []) b = (s.pcore p).spares.get (fun _ => []) b ++ added :=
  s.spares_addSpares p b added

theorem State.bankTest_remapped (s : State) (p b : Nat) (added : List (Nat × Nat)) : (s.remapped p b added).bankTest p b = false := by
  simp [State.bankTest, State.remapped, State.modHost]

section
variable {s : State} {p : Nat} {b : Fin 48} (failing : List (Fin 512)) (hp : p < 68) (hready : s.phase = .ready)
  (htest : s.bankTest p b.val = true)

/-- The entries that the end of a test adds to its bank's spares. -/
def State.remaps (s : State) (p : Nat) (b : Fin 48) (failing : List (Fin 512)) : List (Nat × Nat) :=
  remapRows ((s.pcore p).spares.get (fun _ => []) b.val) (failing.map (·.val))

/-- A tested bank of a hosted pcore: its rows are remapped, and it reads as zeros and is free. -/
def State.zeroTested (s : State) (p n : Nat) (b : Fin 48) (failing : List (Fin 512)) : State :=
  (s.remapped p b.val (s.remaps p b failing)).modSpm n (fun m => Spm.repower
    ((s.remapped p b.val (s.remaps p b failing)).autoPwr n) ((m.zeroBank b.val).setBank b.val
      { (s.core n).spm.bank b.val with busy := none }))

/-- What is counted of the test, and the remapped rows are reported (R145, R152). -/
def State.countTested (s : State) (n : Nat) (b : Fin 48) (failing : List (Fin 512)) (k : Nat) : State :=
  let t := s.count (corePage n kSPM) 0x140 528
  let t := if k = 0 then t else t.count (corePage n kSPM) 0x148 k
  if k = 0 then t
  else t.raise (corePage n kSPM) 6 (cause 6 (b.val * 1024 + 11 * 16)) (word (b.val * 512 + (failing.headD 0).val))

/-- A row without a spare is reported (R146). -/
def State.reportTested (s : State) (n : Nat) (b : Fin 48) (failing : List (Fin 512)) (k : Nat) : State :=
  if k < failing.length then (s.countTested n b failing k).raiseHardware n kSPM 7 (cause 7 (b.val * 1024 + 11 * 16))
    (word (b.val * 512 + (failing.headD 0).val))
  else s.countTested n b failing k

theorem State.countTested_kept (s : State) (n : Nat) (b : Fin 48) (failing : List (Fin 512)) (k : Nat) :
    s.SparesKept (s.countTested n b failing k) ∧ s.PlacementKept (s.countTested n b failing k) := by
  have spares := s.spares_count (corePage n kSPM) 0x140 528
  have kept := s.kept_count (corePage n kSPM) 0x140 528
  unfold State.countTested
  simp only []
  split
  · exact ⟨spares, kept⟩
  · exact ⟨(spares.trans (State.spares_count ..)).trans (State.spares_raise ..),
      (kept.trans (State.kept_count ..)).trans (State.kept_raise ..)⟩

theorem State.reportTested_kept (s : State) (n : Nat) (b : Fin 48) (failing : List (Fin 512)) (k : Nat) :
    s.SparesKept (s.reportTested n b failing k) ∧ s.PlacementKept (s.reportTested n b failing k) := by
  obtain ⟨spares, kept⟩ := s.countTested_kept n b failing k
  unfold State.reportTested
  split
  · exact ⟨spares.trans (State.spares_raiseHardware ..), kept.trans (State.kept_raiseHardware ..)⟩
  · exact ⟨spares, kept⟩

theorem State.reportTested_short (s : State) (n : CoreId) (b : Fin 48) {failing : List (Fin 512)} {k : Nat}
    (h : k < failing.length) : bit ((s.reportTested n.val b failing k).page (corePage n.val kSPM)).err 7 = true := by
  rw [State.reportTested, if_pos h]
  exact State.reported_raiseHardware _ n _ _ (by decide) (by decide)

/-- A bank that a test leaves free: it and the banks that are gated read as zeros. -/
theorem State.core_zeroTested (s : State) (p n : Nat) (b : Fin 48) (failing : List (Fin 512)) :
    let t := s.zeroTested p n b failing
    (∀ r, (t.core n).spm.row r = if r / 512 = b.val ∨ (((s.core n).spm.bank (r / 512)).powered = true ∧
      ((t.core n).spm.bank (r / 512)).powered = false) then 0 else (s.core n).spm.row r) ∧
    ((t.core n).spm.bank b.val).busy ≠ some .testing := by
  have hcore : (s.zeroTested p n b failing).core n = { s.core n with
      spm := Spm.repower ((s.remapped p b.val (s.remaps p b failing)).autoPwr n) ((s.core n).spm.freeBank b.val) } :=
    State.core_modSpm_same ..
  have hgates := Spm.gates_repower ((s.remapped p b.val (s.remaps p b failing)).autoPwr n) ((s.core n).spm.freeBank b.val)
  have hbank (c : Nat) := (s.core n).spm.bank_freeBank b.val c
  have hpowered (c : Nat) : (((s.core n).spm.freeBank b.val).bank c).powered = ((s.core n).spm.bank c).powered := by
    rw [hbank]
    split <;> rfl
  simp only [hcore]
  refine ⟨fun r => ?_, Spm.busy_repower_ne _ _ (by decide) ?_⟩
  · rw [hgates.row, Spm.row_freeBank, hpowered]
    by_cases hr : r / 512 = b.val <;> simp only [hr, true_or, false_or, if_true, if_false, ite_self]
  · rw [hbank, if_pos rfl]
    simp

/-- What a pcore is once a row of it has no spare: no spare any longer (R145). -/
def PcState.dropped (x : PcState) : PcState := if x == .spare || x == .released then .ineligible else x

theorem PcState.dropped_ne_spare (x : PcState) : x.dropped ≠ .spare := by cases x <;> decide

/-- A pcore leaves the spares. -/
def State.ineligible (s : State) (p : Nat) : State :=
  s.modPcore p (fun x => { x with state := x.state.dropped, before := x.before.dropped })

/-- A pcore without a spare for a row: journalled, no longer eligible, and reported (R145). -/
def State.dropSpare (s : State) (p : Nat) : State :=
  (State.ineligible { s with toJournal := s.toJournal ++ [Repair.mk 3 [p, (s.faultCode (pPCR p) 2).toNat]] } p).raise (pPCR p) 2
    (cause 2 0) (word s.epoch.toNat)

theorem State.spares_ineligible (s : State) (p : Nat) : s.SparesKept (s.ineligible p) := s.spares_modPcore p _ fun _ => rfl

theorem State.dropSpare_kept (s : State) {p : Nat} (hp : p < 68) :
    s.SparesKept (s.dropSpare p) ∧ (∀ m, (s.dropSpare p).core m = s.core m) ∧
      bit ((s.dropSpare p).page (pPCR p)).err 2 = true ∧ ((s.dropSpare p).pcore p).state ≠ .spare := by
  refine ⟨?_, fun m => ?_, ?_, ?_⟩
  · have hgone := (State.spares_ineligible { s with
      toJournal := s.toJournal ++ [Repair.mk 3 [p, (s.faultCode (pPCR p) 2).toNat]] } p).trans
      (State.spares_raise _ (pPCR p) 2 (cause 2 0) (word s.epoch.toNat))
    exact ⟨hgone.spares, hgone.tests⟩
  · rw [State.dropSpare, (State.raises_raise ..).core]
    rfl
  · exact State.raised _ _ _ _ _ (by rw [pageBlk_pPCR hp]; rfl) (by decide)
  · rw [State.dropSpare, (State.raises_raise ..).pcore_state, State.ineligible, State.pcore_modPcore_same]
    exact PcState.dropped_ne_spare _

include hp hready htest

theorem spmBistDone_hosted {n : Nat} (hhost : s.hosted p = some n) (hbusy : ((s.core n).spm.bank b.val).busy = some .testing) :
    exec (.spmBistDone p b failing) s =
      .next (((s.zeroTested p n b failing).reportTested n b failing (s.remaps p b failing).length).testOver p
        (decide ((s.remaps p b failing).length < failing.length))) := by
  have hexec : exec (.spmBistDone p b failing) s = execSpmBistDone p b failing s := rfl
  rw [hexec, execSpmBistDone, if_neg (by omega)]
  simp only [htest, hready, hhost, hbusy]
  simp only [State.reportTested, State.countTested, State.zeroTested, State.remapped, State.addSpares, State.remaps, decide_eq_true_eq]
  rfl

/-- A bank of a hosted pcore: it reads as zeros, its test is answered, and its failing rows are remapped or reported. -/
theorem spmBistDone_hosted_result {n : CoreId} (hhost : s.hosted p = some n.val)
    (hbusy : ((s.core n.val).spm.bank b.val).busy = some .testing) :
    ∃ t, exec (.spmBistDone p b failing) s = .next t ∧
      (t.pcore p).spares.get (fun _ => []) b.val = (s.pcore p).spares.get (fun _ => []) b.val ++ s.remaps p b failing ∧
      (∀ r, (t.core n.val).spm.row r = if r / 512 = b.val ∨ (((s.core n.val).spm.bank (r / 512)).powered = true ∧
        ((t.core n.val).spm.bank (r / 512)).powered = false) then 0 else (s.core n.val).spm.row r) ∧
      ((t.core n.val).spm.bank b.val).busy ≠ some .testing ∧ t.bankTest p b.val = false ∧
      t.toJournal = s.toJournal ++ (s.remaps p b failing).map (fun e => Repair.mk 1 [p, b.val, e.2, e.1]) ∧
      ((s.remaps p b failing).length < failing.length → bit (t.page (corePage n.val kSPM)).err 7 = true) := by
  obtain ⟨hreport, hkept⟩ := (s.zeroTested p n.val b failing).reportTested_kept n.val b failing (s.remaps p b failing).length
  obtain ⟨hover, hcore, hjournal, herr⟩ :=
    ((s.zeroTested p n.val b failing).reportTested n.val b failing (s.remaps p b failing).length).testOver_kept p
      (decide ((s.remaps p b failing).length < failing.length))
  obtain ⟨hrow, hfree⟩ := s.core_zeroTested p n.val b failing
  have hspares : (s.remapped p b.val (s.remaps p b failing)).SparesKept (s.zeroTested p n.val b failing) :=
    ⟨fun _ => rfl, rfl⟩
  have hall := (hspares.trans hreport).trans hover
  refine ⟨_, spmBistDone_hosted failing hp hready htest hhost hbusy, ?_, fun r => ?_, ?_, ?_, ?_, fun hshort => ?_⟩
  · rw [hall.spares, State.spares_remapped]
  · rw [hcore, hkept.row, hkept.bank, hrow]
  · rw [hcore, hkept.bank]
    exact hfree
  · rw [hall.bankTest, State.bankTest_remapped]
  · rw [hjournal, hkept.frame]
    rfl
  · exact herr.kept _ _ (State.reportTested_short _ n b hshort)

theorem spmBistDone_unhosted (hhost : s.hosted p = none) (hstate : (s.pcore p).state = .testing) (hkind : (s.pcore p).testKind = 1) :
    exec (.spmBistDone p b failing) s =
      let short := decide ((s.remaps p b failing).length < failing.length)
      let t := (s.remapped p b.val (s.remaps p b failing)).testOver p short
      if short then .next (t.dropSpare p) else .next t := by
  have hexec : exec (.spmBistDone p b failing) s = execSpmBistDone p b failing s := rfl
  rw [hexec, execSpmBistDone, if_neg (by omega)]
  simp only [htest, hready, hhost, hstate, hkind]
  rfl

/-- A bank of a pcore that hosts nothing: its failing rows are remapped, and a row without a spare ends its pcore's
eligibility. -/
theorem spmBistDone_unhosted_result (hhost : s.hosted p = none) (hstate : (s.pcore p).state = .testing)
    (hkind : (s.pcore p).testKind = 1) :
    ∃ t, exec (.spmBistDone p b failing) s = .next t ∧
      (t.pcore p).spares.get (fun _ => []) b.val = (s.pcore p).spares.get (fun _ => []) b.val ++ s.remaps p b failing ∧
      t.bankTest p b.val = false ∧ (∀ m, t.core m = s.core m) ∧
      ((s.remaps p b failing).length < failing.length →
        bit (t.page (pPCR p)).err 2 = true ∧ (t.pcore p).state ≠ .spare) := by
  obtain ⟨hover, hcore, -⟩ := (s.remapped p b.val (s.remaps p b failing)).testOver_kept p
    (decide ((s.remaps p b failing).length < failing.length))
  rw [spmBistDone_unhosted failing hp hready htest hhost hstate hkind]
  simp only []
  by_cases hshort : (s.remaps p b failing).length < failing.length
  · rw [if_pos (decide_eq_true hshort)]
    obtain ⟨hdrop, hdropped, herr, hspare⟩ := State.dropSpare_kept ((s.remapped p b.val (s.remaps p b failing)).testOver p
      (decide ((s.remaps p b failing).length < failing.length))) hp
    exact ⟨_, rfl, by rw [hdrop.spares, hover.spares, State.spares_remapped],
      by rw [hdrop.bankTest, hover.bankTest, State.bankTest_remapped], fun m => (hdropped m).trans (hcore m),
      fun _ => ⟨herr, hspare⟩⟩
  · rw [if_neg (by simpa using hshort)]
    exact ⟨_, rfl, by rw [hover.spares, State.spares_remapped], by rw [hover.bankTest, State.bankTest_remapped], hcore,
      fun h => absurd h hshort⟩

end

/-- Settles O10: banks are gated and woken without losing a row that they hold, and what a test of a bank reports keeps the
spares that it has just taken. -/
theorem scratchpadBanks : Obligations.ScratchpadBanks := by
  unfold Obligations.ScratchpadBanks
  refine ⟨fun s n b => ⟨fun htake hidle hothers => ?_, fun hbusy => ?_, spmZeroDone_result, ?_⟩,
    fun s p b failing hp hready htest => ⟨fun n hn hhost hbusy => ?_, spmBistDone_unhosted_result failing hp hready htest⟩⟩
  · exact ⟨_, claimTakeover_takes htake hidle hothers, s.frame_modSpm .., State.core_modSpm_same ..⟩
  · refine ⟨_, bankWakeDone_frees hbusy, (s.frame_modSpm ..).trans (State.frame_count _ _ kSPM _ _ (by decide)), ?_, fun r => ?_⟩
    · rw [State.count_core, State.core_modSpm_same]
      rfl
    · rw [State.count_core, State.core_modSpm_same]
      exact (s.core n.val).spm.row_zeroBank b.val r
  · intro p hp hready htest hhost hidle hbusy hon
    exact ⟨_, spmBistStart_tests hp hready htest hhost hidle hbusy hon, s.frame_modSpm .., State.core_modSpm_same ..⟩
  · obtain ⟨t, hexec, hspares, hrow, hfree, hanswered, hjournal, herr⟩ :=
      spmBistDone_hosted_result (n := ⟨n, hn⟩) failing hp hready htest hhost hbusy
    exact ⟨t, hexec, hspares, hrow, hfree, hanswered, fun _ => hjournal, herr⟩

end Sys2Proof.Machine
end

section
/-!
Proofs of chapter 07: commands of a queue as they start and go on (R354), and the commands TASK_CREATE, TASK_KILL and PROG_LOAD
(R147, R175, R349, R357, R361).
-/
namespace Sys2Proof.Machine

/-! ## Commands of a queue (R354, R355, R357) -/

section
variable (s : State) (q : BitVec 20) (x : Queue) (f : Fetched)

@[simp] theorem State.core_begun (m : Nat) : (s.begun q x f).core m = s.core m := by
  unfold State.begun State.startEntry
  simp only []
  split <;> rfl

@[simp] theorem State.task_begun (u : Nat) : (s.begun q x f).task u = s.task u := by
  unfold State.begun State.startEntry
  simp only []
  split <;> rfl

@[simp] theorem State.presented_begun : (s.begun q x f).presented = s.presented := by
  unfold State.begun State.startEntry
  simp only []
  split <;> rfl

theorem State.queue_begun : (s.begun q x f).queue q.toNat =
    some { x with fetched := x.fetched.drop 1, started := x.started ++ [f.begun] } := by
  have hqueue := (s.queue_setQueue q.toNat q.toNat
    (some { x with fetched := x.fetched.drop 1, started := x.started ++ [f.begun] })).trans (if_pos rfl)
  unfold State.begun State.startEntry
  simp only []
  split <;> exact hqueue

@[simp] theorem State.queueCtx_begun : (s.begun q x f).queueCtx q.toNat = x.ctx.toNat := by
  rw [State.queueCtx, State.queue_begun]

end

section
variable {s : State} {q : BitVec 20} {op : Nat} {x : Queue} (onward : State → Nat → Started → Option State)
  (start : State → Nat → Started → State)

/-- The front entry starts. -/
theorem State.queueRow_front {f : Fetched} (h : s.front q op x f) :
    s.queueRow q op onward start = start (s.begun q x f) q.toNat f.begun := by
  obtain ⟨hphase, hqueue, hhead, hop, hstart, hnone⟩ := h
  have hstarted : x.started.filter (fun c => opOf c.entry == op) = [] :=
    List.filter_eq_nil_iff.2 fun c hc => by simpa using hnone c hc
  unfold State.queueRow
  simp only [hqueue, hphase, hstarted, hhead, hop, hstart, List.findSome?_nil, beq_self_eq_true, Bool.and_self]
  rfl

/-- The command under way goes on. -/
theorem State.queueRow_underWay {c : Started} {t : State} (h : s.underWay q op x c) (hgo : onward s q.toNat c = some t) :
    s.queueRow q op onward start = t := by
  obtain ⟨hphase, hqueue, hstarted⟩ := h
  unfold State.queueRow
  simp only [hqueue, hphase, hstarted, List.findSome?_cons, hgo]
  rfl

end

/-- An entry whose fields pass every check goes on. -/
theorem State.withFields_ok (s : State) (q : Nat) {c : Started} {own : List (Nat × Bool)} (k : State → State)
    (h : reservedBad c.entry = none) (hown : ∀ y ∈ own, y.2 = false) : s.withFields q c own k = k s := by
  have hgood : own.filter (·.2) = [] := List.filter_eq_nil_iff.2 fun y hy => by simp [hown y hy]
  have hbad : firstBad c.entry own = none := by simp [firstBad, h, hgood]
  rw [State.withFields, hbad]

section
variable {s : State} {q : Nat} {c : Started} {tk : Task} (k : State → Task → State)

theorem State.onTask_owner (htask : s.task (leAt c.entry 8 1) = some tk) (hctx : tk.ctx.toNat = s.queueCtx q) :
    s.onTask q c k = k s tk := by
  rw [State.onTask, htask]
  exact if_pos hctx

theorem State.onTask_other (htask : s.task (leAt c.entry 8 1) = some tk) (hctx : tk.ctx.toNat ≠ s.queueCtx q) :
    s.onTask q c k = s.finish q c stOWNER 0 := by
  rw [State.onTask, htask]
  exact if_neg hctx

theorem State.onTask_none (htask : s.task (leAt c.entry 8 1) = none) : s.onTask q c k = s.finish q c stNOTFOUND 0 := by
  rw [State.onTask, htask]

end

/-- The end of a command touches its queue and what a notice touches. -/
theorem State.finish_notes (s : State) (q : Nat) (c : Started) (status detail : Nat) :
    s.finish q c status detail = s ∨ ∃ x, (s.setQueue q x).Notes (s.finish q c status detail) ∧
      (s.setQueue q x).ErrKept (s.finish q c status detail) := by
  unfold State.finish
  split
  · exact .inl rfl
  · next y _ =>
    refine .inr ⟨some { y with started := y.started.erase c }, ?_⟩
    unfold State.answer
    split
    · exact ⟨.refl _, .refl _⟩
    · split
      · exact ⟨State.notes_post .., State.errKept_post ..⟩
      · exact ⟨.refl _, .refl _⟩

theorem State.core_finish (s : State) (q : Nat) (c : Started) (status detail m : Nat) :
    (s.finish q c status detail).core m = s.core m := by
  obtain h | ⟨x, h, -⟩ := s.finish_notes q c status detail
  · rw [h]
  · rw [h.raises.core, State.setQueue_core]

theorem State.reported_finish (s : State) (q : Nat) (c : Started) (status detail : Nat) {p b : Nat} (hr : s.reported p b = true) :
    (s.finish q c status detail).reported p b = true := by
  obtain h | ⟨x, -, h⟩ := s.finish_notes q c status detail
  · rw [h]; exact hr
  · exact h.kept p b hr

/-! ## Tasks (R349) -/

theorem Task.nodup_coreList (x : Task) : x.coreList.Nodup :=
  List.nodup_range.map fun _ _ h => Nat.add_left_cancel h

/-- A change made to each core of a list. -/
theorem State.core_foldl {g : State → Nat → State} {f : Core → Core}
    (hg : ∀ (s : State) n m, (g s n).core m = if m = n then f (s.core n) else s.core m) {ns : List Nat} (m : Nat) :
    ns.Nodup → ∀ s : State, (ns.foldl g s).core m = if m ∈ ns then f (s.core m) else s.core m := by
  induction ns with
  | nil => exact fun _ _ => rfl
  | cons n ns ih =>
    intro hnodup s
    obtain ⟨hn, hns⟩ := List.nodup_cons.1 hnodup
    rw [List.foldl_cons, ih hns, hg]
    by_cases hm : m = n
    · subst hm
      simp [hn]
    · simp [hm]

theorem State.task_foldl {g : State → Nat → State} (hg : ∀ (s : State) n u, (g s n).task u = s.task u) (ns : List Nat)
    (u : Nat) : ∀ s : State, (ns.foldl g s).task u = s.task u := by
  induction ns with
  | nil => exact fun _ => rfl
  | cons n ns ih => exact fun s => (ih _).trans (hg s n u)

theorem State.Regated.task {s t : State} (h : s.Regated t) (u : Nat) : t.task u = s.task u := by rw [h.frame]; rfl

/-! ## TASK_CREATE (R349, R411) -/

/-- A core that a task reserves: its slice begins to wake. -/
def Core.reserve (t : Nat) (k : Core) : Core :=
  { k with task := some (Fin.ofNat 64 t), str := { k.str with waking := k.str.waking || k.str.asleep } }

/-- A core is reserved for a task. -/
def State.reserve (t : Nat) (s : State) (n : Nat) : State :=
  (s.modCore n (fun k => { k with task := some (Fin.ofNat 64 t) })).wakeSlice n

theorem State.core_reserve (t : Nat) (s : State) (n m : Nat) :
    (s.reserve t n).core m = if m = n then (s.core n).reserve t else s.core m := by
  rw [State.reserve, State.wakeSlice, State.modStr, State.core_modCore, State.core_modCore_same]
  split
  · rfl
  · next h => rw [State.core_modCore, if_neg h]

/-- The state once task `t` has been created. -/
def State.created (s : State) (t : Nat) (tk : Task) : State :=
  (tk.coreList.foldl (State.reserve t) (s.setTask t (some tk))).regate

theorem State.core_created (s : State) (t : Nat) (tk : Task) (m : Nat) :
    (s.created t tk).core m = if m ∈ tk.coreList then (s.core m).reserve t else s.core m := by
  rw [State.created, (State.regated_regate _).core, State.core_foldl (State.core_reserve t) m tk.nodup_coreList, State.setTask_core]

theorem State.task_created (s : State) (t : Nat) (tk : Task) (u : Nat) :
    (s.created t tk).task u = if u = t then some tk else s.task u := by
  rw [State.created, (State.regated_regate _).task, State.task_foldl (g := State.reserve t) (fun _ _ _ => rfl), State.task_setTask]

section
variable {s : State} {q : BitVec 20} {x : Queue}

section
variable {f : Fetched} (hgood : reservedBad f.entry = none) (hfront : s.front q 0x18 x f) (htid : leAt f.entry 8 1 < 64)
  (hnone : s.task (leAt f.entry 8 1) = none) (hbase : leAt f.entry 9 1 ∈ [0, 16, 32]) (hcores : leAt f.entry 0xA 1 ∈ [32, 48, 64])
  (hroom : leAt f.entry 9 1 + leAt f.entry 0xA 1 ≤ s.presented)

/-- The task that an entry asks for. -/
def Queue.newTask (x : Queue) (e : List Byte) : Task := { ctx := x.ctx, base := leAt e 9 1, cores := leAt e 0xA 1, job := none }

include hgood hfront htid hnone hbase hcores hroom

theorem taskCreate_starts : exec (.taskCreate q) s = .next (
    if (x.newTask f.entry).coreList.any (fun n => (s.core n).task.isSome) then (s.begun q x f).finish q.toNat f.begun stBUSY 4
    else (s.begun q x f).created (leAt f.entry 8 1) (x.newTask f.entry)) := by
  have hexec : exec (.taskCreate q) s = execTaskCreate q s := rfl
  have hfields : ∀ y ∈ [(8, decide (64 ≤ leAt f.entry 8 1) || ((s.begun q x f).task (leAt f.entry 8 1)).isSome),
      (9, !([0, 16, 32].contains (leAt f.entry 9 1))), (0xA, !([32, 48, 64].contains (leAt f.entry 0xA 1)) ||
        decide ((s.begun q x f).presented < leAt f.entry 9 1 + leAt f.entry 0xA 1))], y.2 = false := by
    have hb := List.contains_iff_mem.2 hbase
    have hc := List.contains_iff_mem.2 hcores
    simp only [List.forall_mem_cons, List.not_mem_nil, false_imp_iff, implies_true, and_true, State.task_begun, hnone,
      State.presented_begun, hb, hc, Option.isSome_none, Bool.or_false, Bool.not_true, Bool.false_or, decide_eq_false_iff_not,
      not_le, not_lt, true_and]
    exact ⟨htid, hroom⟩
  rw [hexec, execTaskCreate, State.queueRow_front _ _ hfront]
  refine congrArg Host.Outcome.next ((State.withFields_ok _ _ _ hgood hfields).trans ?_)
  simp only [State.queueCtx_begun, BitVec.ofNat_toNat, BitVec.setWidth_eq, State.core_begun]
  rfl

theorem taskCreate_busy (hbusy : ∃ n ∈ (x.newTask f.entry).coreList, (s.core n).task ≠ none) :
    exec (.taskCreate q) s = .next ((s.begun q x f).finish q.toNat f.begun 6 4) := by
  obtain ⟨n, hn, htask⟩ := hbusy
  rw [taskCreate_starts hgood hfront htid hnone hbase hcores hroom,
    if_pos (List.any_eq_true.2 ⟨n, hn, Option.isSome_iff_ne_none.2 htask⟩)]
  rfl

theorem taskCreate_creates (hfree : ∀ n ∈ (x.newTask f.entry).coreList, (s.core n).task = none) :
    ∃ t, exec (.taskCreate q) s = .next t ∧ t.task (leAt f.entry 8 1) = some (x.newTask f.entry) ∧
      (∀ y, y ≠ leAt f.entry 8 1 → t.task y = s.task y) ∧
      (∀ n ∈ (x.newTask f.entry).coreList, (t.core n).task.map (·.val) = some (leAt f.entry 8 1)) ∧
      ∀ n, n ∉ (x.newTask f.entry).coreList → t.core n = s.core n := by
  have hall : ((x.newTask f.entry).coreList.any fun n => (s.core n).task.isSome) = false :=
    List.any_eq_false.2 fun n hn => by simp [hfree n hn]
  refine ⟨_, taskCreate_starts hgood hfront htid hnone hbase hcores hroom, ?_⟩
  rw [if_neg (ne_true_of_eq_false hall)]
  refine ⟨?_, fun y hy => ?_, fun n hn => ?_, fun n hn => ?_⟩
  · rw [State.task_created, if_pos rfl]
  · rw [State.task_created, if_neg hy, State.task_begun]
  · rw [State.core_created, if_pos hn]
    exact congrArg some (Nat.mod_eq_of_lt htid)
  · rw [State.core_created, if_neg hn, State.core_begun]

end

/-- A created task is reported once the hosts of its cores have woken (R411). -/
theorem taskCreate_ends {c : Started} {tk : Task} (hunder : s.underWay q 0x18 x c) (htask : s.task (leAt c.entry 8 1) = some tk)
    (hawake : ∀ n ∈ tk.coreList, ∀ p, s.hostOf n = some p → (s.pcore p).waking = false) :
    exec (.taskCreate q) s = .next (s.finish q.toNat c 0 0) := by
  have hexec : exec (.taskCreate q) s = execTaskCreate q s := rfl
  rw [hexec, execTaskCreate]
  refine congrArg Host.Outcome.next (State.queueRow_underWay _ _ hunder ?_)
  simp only [htask]
  refine if_neg fun hany => ?_
  obtain ⟨n, hn, hwaking⟩ := List.any_eq_true.1 hany
  split at hwaking
  · next p hp => exact absurd hwaking (by simp [hawake n hn p hp])
  · exact absurd hwaking (by simp)

/-! ## TASK_KILL (R147, R348) -/

theorem State.tasks_modLift (s : State) (f : Lift → Lift) : s.TasksKept (s.modLift f) := ⟨fun _ => rfl, fun _ => rfl⟩

theorem State.tasks_dropLift (s : State) (linksStay : Bool) : s.TasksKept (s.dropLift linksStay) := by
  have dropped (s : State) : s.TasksKept ((List.range 64).foldl (fun s n =>
      s.modCore n (fun k => { k with inflight := k.inflight.filter (fun d => d.req != .lift) })) s) := by
    refine State.TasksKept.foldl (fun s n => ?_) _ s
    exact s.tasks_modCore n _ fun _ => rfl
  unfold State.dropLift
  exact State.TasksKept.trans (State.TasksKept.trans (s.tasks_modLift _) ((State.tasks_modLift _ _).trans
    (State.tasks_modLift _ _))) (dropped _)

theorem State.tasks_endTraverse (s : State) : s.TasksKept s.endTraverse := by
  unfold State.endTraverse
  refine State.TasksKept.foldl (fun s p => ?_) _ s
  exact State.TasksKept.trans (t := s.setReg (pTRV p) 0x80 0) ⟨fun _ => rfl, fun _ => rfl⟩ (State.tasks_modTrv _ p _)

/-- A job that ends leaves its task, and every core its task. -/
theorem State.endJob_tasks {s : State} {t : Nat} {tk : Task} {j : Job} (htask : s.task t = some tk) (hjob : tk.job = some j)
    (outcome : Nat) :
    ∃ u, s.TasksKept u ∧ (u.setTask t (some { tk with job := none })).TasksKept (s.endJob t outcome) := by
  unfold State.endJob
  simp only [htask, hjob]
  refine ⟨_, ?_, (State.notes_post ..).raises.tasksKept⟩
  have counted : s.TasksKept (((s.hashed (s.workBytes tk j).length).modHost (fun h => { h with
      records := ({ job := j.id, body := s.provBody tk j outcome, sig := none } :: h.records).take 64 })).count pDEV
      (0x108 + 8 * outcome) 1) := ⟨fun _ => rfl, fun _ => rfl⟩
  have stopped := counted.trans (State.TasksKept.foldl (fun s n => s.tasks_modCore n Core.leaveJob fun _ => rfl) tk.coreList _)
  split
  · split
    · exact (stopped.trans (State.tasks_modLift ..)).trans (State.tasks_endTraverse _)
    · exact stopped.trans (State.tasks_endTraverse _)
  · split
    · exact stopped.trans (State.tasks_modLift ..)
    · exact stopped

/-- The job on a task ends killed; the cores are not yet cleared. -/
def State.killJob (s : State) (t : Nat) (x : Task) : State :=
  match x.job with
  | none => s
  | some j =>
    let s := if j.fault.isNone then s.tellPeers j true true else s
    let s := if j.lift then s.dropLift true else s
    s.endJob t 2

/-- A core that its task's kill has cleared. -/
def Core.cleared (k : Core) : Core := { k.killed with task := k.task }

theorem State.killTask_eq {s : State} {t : Nat} {tk : Task} (htask : s.task t = some tk) :
    s.killTask t = tk.coreList.foldl (fun s n => s.modCore n Core.cleared) (s.killJob t tk) := by
  rw [State.killTask, htask]
  rfl

theorem State.killJob_tasks {s : State} {t : Nat} {tk : Task} (htask : s.task t = some tk) :
    (∀ m, ((s.killJob t tk).core m).task = (s.core m).task) ∧ (s.killJob t tk).task t = some { tk with job := none } := by
  unfold State.killJob
  split
  · next hnone =>
    refine ⟨fun _ => rfl, htask.trans ?_⟩
    cases tk
    exact congrArg some (by simpa using hnone)
  · next j hjob =>
    have told : s.TasksKept (if j.fault.isNone then s.tellPeers j true true else s) := by
      split
      · exact s.tasks_tellPeers ..
      · exact .refl s
    have dropped (s : State) : s.TasksKept (if j.lift then s.dropLift true else s) := by
      split
      · exact s.tasks_dropLift true
      · exact .refl s
    have kept := told.trans (dropped _)
    obtain ⟨u, hu, hend⟩ := State.endJob_tasks ((kept.task t).trans htask) hjob 2
    exact ⟨fun m => (hend.coreTask m).trans ((hu.coreTask m).trans (kept.coreTask m)),
      (hend.task t).trans (by rw [State.task_setTask, if_pos rfl])⟩

/-- A killed task: its job is over, and its cores' sequencers and queues are as at reset (R147, R348). -/
theorem State.killTask_result {s : State} {t : Nat} {tk : Task} (htask : s.task t = some tk) :
    (s.killTask t).task t = some { tk with job := none } ∧ ∀ n ∈ tk.coreList, ((s.killTask t).core n).seq = Seq.reset ∧
      ((s.killTask t).core n).inflight = [] ∧ ((s.killTask t).core n).task = (s.core n).task := by
  obtain ⟨hcores, hjob⟩ := State.killJob_tasks htask
  rw [State.killTask_eq htask]
  refine ⟨?_, fun n hn => ?_⟩
  · rw [State.task_foldl (g := fun s n => s.modCore n Core.cleared) (fun _ _ _ => rfl), hjob]
  · rw [State.core_foldl (g := fun s n => s.modCore n Core.cleared) (fun s n m => State.core_modCore ..) n tk.nodup_coreList,
      if_pos hn]
    exact ⟨rfl, rfl, hcores n⟩

section
variable {f : Fetched} (hgood : reservedBad f.entry = none) (hfront : s.front q 0x19 x f) (htid : leAt f.entry 8 1 < 64)
include hgood hfront htid

theorem taskKill_starts : exec (.taskKill q) s =
    .next ((s.begun q x f).onTask q.toNat f.begun (fun s _ => s.killTask (leAt f.entry 8 1))) := by
  have hexec : exec (.taskKill q) s = execTaskKill q s := rfl
  rw [hexec, execTaskKill, State.queueRow_front _ _ hfront]
  exact congrArg Host.Outcome.next (State.withFields_ok _ _ _ hgood 
    (List.forall_mem_singleton.2 (decide_eq_false (Nat.not_le.2 htid))))

theorem taskKill_kills {tk : Task} (htask : s.task (leAt f.entry 8 1) = some tk) (hctx : tk.ctx = x.ctx) :
    ∃ t, exec (.taskKill q) s = .next t ∧ t.task (leAt f.entry 8 1) = some { tk with job := none } ∧
      ∀ n ∈ tk.coreList, (t.core n).seq = Seq.reset ∧ (t.core n).inflight = [] ∧ (t.core n).task = (s.core n).task := by
  have hbegun : (s.begun q x f).task (leAt f.entry 8 1) = some tk := by rw [State.task_begun, htask]
  refine ⟨_, taskKill_starts hgood hfront htid, ?_⟩
  rw [State.onTask_owner (tk := tk) _ hbegun (by rw [State.queueCtx_begun, hctx])]
  obtain ⟨hjob, hcores⟩ := State.killTask_result hbegun
  exact ⟨hjob, fun n hn => by simpa only [State.core_begun] using hcores n hn⟩

theorem taskKill_other {tk : Task} (htask : s.task (leAt f.entry 8 1) = some tk) (hctx : tk.ctx ≠ x.ctx) :
    exec (.taskKill q) s = .next ((s.begun q x f).finish q.toNat f.begun 5 0) := by
  rw [taskKill_starts hgood hfront htid, State.onTask_other (tk := tk) _ ((State.task_begun ..).trans htask)]
  · rfl
  · rw [State.queueCtx_begun]
    exact fun h => hctx (BitVec.eq_of_toNat_eq h)

theorem taskKill_none (htask : s.task (leAt f.entry 8 1) = none) :
    exec (.taskKill q) s = .next ((s.begun q x f).finish q.toNat f.begun 10 0) := by
  rw [taskKill_starts hgood hfront htid, State.onTask_none _ ((State.task_begun ..).trans htask)]
  rfl

end

/-- A killed task goes once its scratchpad is zeroed (R147). -/
theorem taskKill_ends {c : Started} {tk : Task} (hunder : s.underWay q 0x19 x c) (htask : s.task (leAt c.entry 8 1) = some tk)
    (hzeroed : ∀ n ∈ tk.coreList, (s.core n).zeroing = false) :
    exec (.taskKill q) s = .next ((s.freeTask (leAt c.entry 8 1)).finish q.toNat c 0 0) := by
  have hexec : exec (.taskKill q) s = execTaskKill q s := rfl
  have hnone : tk.coreList.any (fun n => (s.core n).zeroing) = false :=
    List.any_eq_false.2 fun n hn => ne_true_of_eq_false (hzeroed n hn)
  rw [hexec, execTaskKill]
  refine congrArg Host.Outcome.next (State.queueRow_underWay _ _ hunder ?_)
  simp only [htask]
  exact if_neg (ne_true_of_eq_false hnone)

/-! ## PROG_LOAD (R175, R361) -/

theorem Seq.bankOf_setBankOf (z : Seq) (i : Nat) (b : ProgBank) : (z.setBankOf i b).bankOf i = b := by
  unfold Seq.bankOf Seq.setBankOf
  split <;> rfl

theorem Seq.g_setBankOf (z : Seq) (i : Nat) (b : ProgBank) : (z.setBankOf i b).g = z.g := by
  unfold Seq.setBankOf
  split <;> rfl

/-- A change of a core is what it makes of that core. -/
theorem State.modCore_congr {s : State} {n : Nat} {f g : Core → Core} (h : f (s.core n) = g (s.core n)) :
    s.modCore n f = s.modCore n g := by
  simp only [State.modCore, h]

section
variable {f : Fetched} {image : Option (List Byte)} {tk : Task} (hgood : reservedBad f.entry = none)
  (hfront : s.front q 0x20 x f) (htid : leAt f.entry 8 1 < 64) (htask : s.task (leAt f.entry 8 1) = some tk)
  (hctx : tk.ctx = x.ctx) (hcore : leAt f.entry 9 1 < tk.cores) (hbank : leAt f.entry 0xA 1 < 2)
  (haligned : leAt f.entry 0x10 8 % 512 = 0)
include hgood hfront htid htask hctx hcore hbank haligned

theorem progLoad_starts : exec (.progLoad q image) s = .next (
    let n := tk.base + leAt f.entry 9 1
    let bank := leAt f.entry 0xA 1
    let u := s.begun q x f
    if ((u.core n).seq.bankOf bank).state == .executing then
      (u.raise (corePage n kSEQ) 8 (cause 8 bank) 0).finish q.toNat f.begun stBUSY 1
    else u.modSeq n (fun z => z.setBankOf bank { z.bankOf bank with state := .loading })) := by
  have hexec : exec (.progLoad q image) s = execProgLoad q image s := rfl
  have hbegun : (s.begun q x f).task (leAt f.entry 8 1) = some tk := (State.task_begun ..).trans htask
  have hfields : ∀ y ∈ [(8, decide (64 ≤ leAt f.entry 8 1)), (9, decide ((match (s.begun q x f).task (leAt f.entry 8 1) with
      | some t => t.cores
      | none => 64) ≤ leAt f.entry 9 1)), (0xA, decide (1 < leAt f.entry 0xA 1)), (0x10, leAt f.entry 0x10 8 % 512 != 0)],
      y.2 = false := by
    rw [hbegun]
    simp only [List.forall_mem_cons, List.not_mem_nil, false_imp_iff, implies_true, and_true, decide_eq_false_iff_not, not_le,
      not_lt, bne_eq_false_iff_eq]
    exact ⟨htid, hcore, by omega, haligned⟩
  rw [hexec, execProgLoad, State.queueRow_front _ _ hfront]
  refine congrArg Host.Outcome.next ((State.withFields_ok _ _ _ hgood hfields).trans ?_)
  exact State.onTask_owner (tk := tk) _ hbegun (by rw [State.queueCtx_begun, hctx])

theorem progLoad_loads (hidle : ((s.core (tk.base + leAt f.entry 9 1)).seq.bankOf (leAt f.entry 0xA 1)).state ≠ .executing) :
    exec (.progLoad q image) s = .next ((s.begun q x f).modSeq (tk.base + leAt f.entry 9 1) (fun z =>
      z.setBankOf (leAt f.entry 0xA 1)
        { (s.core (tk.base + leAt f.entry 9 1)).seq.bankOf (leAt f.entry 0xA 1) with state := .loading })) := by
  rw [progLoad_starts hgood hfront htid htask hctx hcore hbank haligned]
  refine congrArg Host.Outcome.next ((if_neg ?_).trans (State.modCore_congr ?_))
  · rw [State.core_begun]
    simpa using hidle
  · rw [State.core_begun]

theorem progLoad_executing (hrun : ((s.core (tk.base + leAt f.entry 9 1)).seq.bankOf (leAt f.entry 0xA 1)).state = .executing)
    (hn : tk.base + leAt f.entry 9 1 < 64) :
    ∃ t, exec (.progLoad q image) s = .next t ∧ t.reported (corePage (tk.base + leAt f.entry 9 1) kSEQ) 8 = true ∧
      ∀ m, t.core m = s.core m := by
  refine ⟨_, progLoad_starts hgood hfront htid htask hctx hcore hbank haligned, ?_⟩
  simp only []
  rw [if_pos (by rw [State.core_begun, hrun]; rfl)]
  refine ⟨State.reported_finish _ _ _ _ _ ?_, fun m => ?_⟩
  · exact State.reported_raise _ ⟨_, hn⟩ _ _ (by decide) (by decide)
  · rw [State.core_finish, (State.raises_raise ..).core, State.core_begun]

end

section
variable {c : Started} {tk : Task} {b : List Byte} (hunder : s.underWay q 0x20 x c)
  (htask : s.task (leAt c.entry 8 1) = some tk) (hlen : b.length = leAt c.entry 0x18 4)
include hunder htask hlen

/-- The image of a load under way has arrived. -/
theorem progLoad_arrives : exec (.progLoad q (some b)) s =
    .next (s.loadProgram q.toNat c (tk.base + leAt c.entry 9 1) (leAt c.entry 0xA 1) tk b) := by
  have hexec : exec (.progLoad q (some b)) s = execProgLoad q (some b) s := rfl
  rw [hexec, execProgLoad]
  refine congrArg Host.Outcome.next (State.queueRow_underWay _ _ hunder ?_)
  simp only [htask]
  exact if_pos hlen

theorem progLoad_badCrc (hcrc : leAt b (b.length - 4) 4 ≠ crc32c (b.take (b.length - 4))) :
    exec (.progLoad q (some b)) s = .next ((s.modSeq (tk.base + leAt c.entry 9 1) (fun z =>
      z.setBankOf (leAt c.entry 0xA 1) ProgBank.reset)).finish q.toNat c 12 0) := by
  have hbad : (leAt b (b.length - 4) 4 == crc32c (b.take (b.length - 4))) = false := beq_eq_false_iff_ne.2 hcrc
  rw [progLoad_arrives hunder htask hlen, State.loadProgram]
  simp only [hbad, Bool.not_false, Bool.or_true, if_true]
  rfl

theorem progLoad_fills (hfour : 4 ≤ b.length)
    (hcrc : leAt b (b.length - 4) 4 = crc32c (b.take (b.length - 4))) (hheader : headerOk b (leAt c.entry 9 1) = true)
    (hjob : tk.job = none) :
    exec (.progLoad q (some b)) s = .next ((s.modCore (tk.base + leAt c.entry 9 1) (fun k =>
      k.loadImage (leAt c.entry 0xA 1) b true)).finish q.toNat c 0 0) := by
  have hgood : (leAt b (b.length - 4) 4 == crc32c (b.take (b.length - 4))) = true := beq_iff_eq.2 hcrc
  have hlong : decide (b.length < 4) = false := decide_eq_false (by omega)
  rw [progLoad_arrives hunder htask hlen, State.loadProgram]
  simp only [hgood, hlong, hheader, hjob]
  rfl

end
end

/-- A bank that an image fills. -/
theorem Core.bankOf_loadImage (k : Core) (bank : Nat) (b : List Byte) : (k.loadImage bank b true).seq.bankOf bank =
    { state := .valid, cmds := tableOf unloaded ((items 16 (imageSection b 0)).map (BitVec.ofNat 128)),
      header := some (headerOf b), image := b } := k.seq.bankOf_setBankOf bank _

theorem Core.g_loadImage (k : Core) (bank : Nat) (b : List Byte) : (k.loadImage bank b true).seq.g = k.seq.g :=
  k.seq.g_setBankOf bank _

/-- Settles O41: a command of a queue starts at its front or goes on under way, and each of the three then does the one thing
that its row says. -/
theorem taskCommands : Obligations.TaskCommands := by
  unfold Obligations.TaskCommands
  intro s q x f e s1 tid
  refine ⟨fun hgood hfront htid hnone hbase hcores hroom => ⟨taskCreate_creates hgood hfront htid hnone hbase hcores hroom,
      taskCreate_busy hgood hfront htid hnone hbase hcores hroom⟩, fun c tk => taskCreate_ends,
    fun hgood hfront htid => ⟨fun tk => taskKill_kills hgood hfront htid, fun tk => taskKill_other hgood hfront htid,
      taskKill_none hgood hfront htid⟩, fun c tk => taskKill_ends,
    fun image tk hgood hfront htid htask hctx hcore hbank haligned =>
      ⟨progLoad_loads hgood hfront htid htask hctx hcore hbank haligned,
        progLoad_executing hgood hfront htid htask hctx hcore hbank haligned⟩,
    fun c tk b hunder htask hlen hfour => ⟨fun hcrc hheader hjob => ?_, progLoad_badCrc hunder htask hlen⟩⟩
  refine ⟨_, progLoad_fills hunder htask hlen hfour hcrc hheader hjob, rfl, ?_⟩
  simp only [State.core_finish, State.core_modCore_same, Core.bankOf_loadImage, Core.g_loadImage, true_and]
  exact fun m hm => by rw [State.core_modCore, if_neg hm]

end Sys2Proof.Machine
end

section
/-!
Proofs of chapter 08: the commands that the sequencer itself carries out (R157, R163, R165, R168, R172-R176), and what it holds
at reset.
-/
namespace Sys2Proof.Machine

/-! ## Commands that take effect at issue (R168, R172) -/

theorem State.isOp_of_runs {s : State} {n op : Nat} {w : BitVec 128} (h : s.runs n op w = true) : isOp op w = true := by
  rw [State.runs, Bool.and_eq_true] at h
  obtain ⟨-, -, hop, -⟩ := (s.atCommand_iff n op w).1 h.1
  rw [isOp, hop, beq_self_eq_true]

/-- A command that changes the sequencer's registers takes effect, and the program counter passes it. -/
theorem seqCommand_passes {s : State} {n op : Nat} {w : BitVec 128} {c : Instr} {bad : Core → BitVec 128 → Bool}
    {f : BitVec 128 → Seq → Seq} (hexec : exec c s = .next (s.seqCommand n op bad f)) (h : s.runs n op w = true)
    (hbad : bad (s.core n) w = false) (hpc : (f w (s.core n).seq).pc = (s.core n).seq.pc)
    (hloops : (f w (s.core n).seq).loops = (s.core n).seq.loops) :
    ∃ t, exec c s = .next t ∧ s.CoreFrame t n ∧ t.core n = (s.core n).passed (f w (s.core n).seq) := by
  rw [State.seqCommand, State.issue_on h _ _ _ _ (State.isOp_of_runs h) hbad] at hexec
  exact ⟨_, hexec, (s.frame_modSeq ..).trans (State.frame_advance ..), s.core_advance_modSeq n (f w) hpc hloops⟩

/-- The immediate of LI is words 2 and 1 of the command. -/
theorem ofNat_words (w : BitVec 128) : BitVec.ofNat 64 (cf w 1 31 0 + cf w 2 31 0 * 2 ^ 32) = cw w 2 ++ cw w 1 := by
  have word_lt (k : Nat) : cf w k 31 0 < 2 ^ 32 := Nat.mod_lt _ (by decide)
  refine BitVec.eq_of_toNat_eq ?_
  rw [BitVec.toNat_append, cw, cw, BitVec.toNat_ofNat, BitVec.toNat_ofNat, BitVec.toNat_ofNat, Nat.mod_eq_of_lt (word_lt 1),
    Nat.mod_eq_of_lt (word_lt 2), ← Nat.shiftLeft_add_eq_or_of_lt (word_lt 1), Nat.shiftLeft_eq]
  have := word_lt 1
  have := word_lt 2
  omega

/-- A predicate register after a write of its predicate `p`. -/
theorem getLsbD_setPred (x : Byte) (v : Bool) (p : Nat) {i : Nat} (hi : i < 8) :
    (if v then x ||| (1#8 <<< p) else x &&& ~~~(1#8 <<< p)).getLsbD i = if i = p then v else x.getLsbD i := by
  have hbit : (1#8 <<< p).getLsbD i = decide (i = p) := by
    rw [BitVec.getLsbD_shiftLeft, BitVec.getLsbD_one]
    by_cases hp : i = p
    · subst hp; simp [hi]
    · rw [decide_eq_false hp, Bool.and_eq_false_iff]
      simp only [Bool.not_eq_false', Bool.and_eq_false_iff, decide_eq_true_eq, decide_eq_false_iff_not]
      omega
  cases v
  · rw [if_neg Bool.false_ne_true, BitVec.getLsbD_and, BitVec.getLsbD_not, hbit]
    by_cases hp : i = p <;> simp [hp, hi]
  · rw [if_pos rfl, BitVec.getLsbD_or, hbit]
    by_cases hp : i = p <;> simp [hp]

theorem Seq.reg_setReg (q : Seq) {i j : Nat} (v : Word64) (hi : i < 32) (hj : j < 32) :
    (q.setReg i v).reg j = if j = 0 then 0 else if j = i then v else q.reg j := by
  unfold Seq.reg Seq.setReg
  rw [Nat.mod_eq_of_lt hi, Nat.mod_eq_of_lt hj]
  by_cases hj0 : j = 0
  · simp [hj0]
  · by_cases hi0 : i = 0
    · simp [hi0, hj0]
    · simp [hi0, hj0, SMap.get_set]

theorem Seq.setReg_frame (q : Seq) (i : Nat) (v : Word64) : q.setReg i v = { q with g := (q.setReg i v).g } := by
  unfold Seq.setReg
  split <;> rfl

section
variable {s : State} {n : CoreId} {w : BitVec 128}

theorem li_result (h : s.runs n.val 0x08 w = true) : ∃ t, exec (.li n) s = .next t ∧ s.CoreFrame t n.val ∧
    t.core n.val = (s.core n.val).passed ((s.core n.val).seq.setReg (cf w 0 20 16) (cw w 2 ++ cw w 1)) := by
  have hexec : exec (.li n) s = .next (s.seqCommand n.val 0x08 noBad _) := rfl
  rw [← ofNat_words]
  exact seqCommand_passes hexec h rfl (Seq.setReg_pc ..) (Seq.setReg_loops ..)

theorem alu_result (h : s.runs n.val 0x09 w = true) (hop : cf w 2 3 0 ≤ 12) : ∃ t, exec (.alu n) s = .next t ∧
    s.CoreFrame t n.val ∧ t.core n.val = (s.core n.val).passed ((s.core n.val).seq.setReg (cf w 0 20 16)
      (aluOp (cf w 2 3 0) ((s.core n.val).seq.reg (cf w 0 25 21)) (secondOperand w (s.core n.val).seq))) := by
  have hexec : exec (.alu n) s = .next (s.seqCommand n.val 0x09 _ _) := rfl
  exact seqCommand_passes hexec h (decide_eq_false (by omega)) (Seq.setReg_pc ..) (Seq.setReg_loops ..)

/-- What CMP writes to a predicate that it names (R168). -/
def Seq.compared (q : Seq) (w : BitVec 128) (i : Nat) : Bool :=
  let t := cmpTest (cf w 2 3 0) (q.reg (cf w 0 25 21)) (secondOperand w q)
  match cf w 2 5 4 with
  | 0 => t
  | 1 => q.preds.getLsbD i && t
  | _ => q.preds.getLsbD i || t

theorem cmp_result (h : s.runs n.val 0x0A w = true) (hcond : cf w 2 3 0 ≤ 7) (hcombine : cf w 2 5 4 ≠ 3)
    (hpred : cf w 0 18 16 ≠ 0) : ∃ t, exec (.cmp n) s = .next t ∧ s.CoreFrame t n.val ∧
      t.core n.val = (s.core n.val).passed { (s.core n.val).seq with preds := (t.core n.val).seq.preds } ∧
      ∀ i < 8, (t.core n.val).seq.preds.getLsbD i =
        if i = cf w 0 18 16 then (s.core n.val).seq.compared w i else (s.core n.val).seq.preds.getLsbD i := by
  have hexec : exec (.cmp n) s = .next (s.seqCommand n.val 0x0A _ _) := rfl
  obtain ⟨t, hexec, hframe, hcore⟩ := seqCommand_passes hexec h (by simp [hcond, hcombine, hpred]) rfl rfl
  refine ⟨t, hexec, hframe, ?_, fun i hi => ?_⟩
  · rw [hcore]; rfl
  · rw [hcore]
    refine (getLsbD_setPred _ _ _ hi).trans ?_
    split
    · next hi => rw [hi]; rfl
    · rfl

theorem mova_result (h : s.runs n.val 0x0B w = true) : ∃ t, exec (.mova n) s = .next t ∧ s.CoreFrame t n.val ∧
    t.core n.val = (s.core n.val).passed (match cf w 0 27 26 with
      | 0 => (s.core n.val).seq.setAreg (cf w 0 19 16) (lo32 ((s.core n.val).seq.reg (cf w 0 25 21)))
      | 1 => (s.core n.val).seq.setReg (cf w 0 25 21) (((s.core n.val).seq.areg (cf w 0 19 16)).setWidth 64)
      | 2 => (s.core n.val).seq.setAreg (cf w 0 19 16) ((s.core n.val).seq.areg (cf w 0 19 16) + cw w 1)
      | _ => (s.core n.val).seq.setAreg (cf w 0 19 16) (cw w 1)) := by
  have hexec : exec (.mova n) s = .next (s.seqCommand n.val 0x0B noBad _) := rfl
  refine seqCommand_passes hexec h rfl ?_ ?_
  · split
    · rfl
    · exact Seq.setReg_pc ..
    all_goals rfl
  · split
    · rfl
    · exact Seq.setReg_loops ..
    all_goals rfl

theorem setlc_result (h : s.runs n.val 0x0C w = true) : ∃ t, exec (.setlc n) s = .next t ∧ s.CoreFrame t n.val ∧
    t.core n.val = (s.core n.val).passed { (s.core n.val).seq with lc := (t.core n.val).seq.lc } ∧
    ∀ i, (t.core n.val).seq.lctr i = if i = cf w 0 17 16 then
        (if cf w 0 31 31 = 1 then cw w 1 else lo32 ((s.core n.val).seq.reg (cf w 0 25 21)))
      else (s.core n.val).seq.lctr i := by
  have hexec : exec (.setlc n) s = .next (s.seqCommand n.val 0x0C noBad _) := rfl
  obtain ⟨t, hexec, hframe, hcore⟩ := seqCommand_passes hexec h rfl rfl rfl
  refine ⟨t, hexec, hframe, ?_, fun i => ?_⟩
  · rw [hcore]; rfl
  · rw [hcore]; exact SMap.get_set ..

theorem lidx_result (h : s.runs n.val 0x0D w = true) : ∃ t, exec (.lidx n) s = .next t ∧ s.CoreFrame t n.val ∧
    t.core n.val = (s.core n.val).passed ((s.core n.val).seq.setReg (cf w 0 20 16)
      (match (s.core n.val).seq.loops.find? (fun f => f.lc.val == cf w 0 22 21) with
        | some f => f.index.setWidth 64
        | none => 0)) := by
  have hexec : exec (.lidx n) s = .next (s.seqCommand n.val 0x0D noBad _) := rfl
  obtain ⟨t, hexec, hframe, hcore⟩ := seqCommand_passes hexec h rfl (Seq.setReg_pc ..) (Seq.setReg_loops ..)
  refine ⟨t, hexec, hframe, hcore.trans ?_⟩
  cases (s.core n.val).seq.loops.find? (fun f => f.lc.val == cf w 0 22 21) <;> rfl

theorem switchBank_result (h : s.runs n.val 0x02 w = true) : ∃ t, exec (.switchBank n) s = .next t ∧ s.CoreFrame t n.val ∧
    t.core n.val = (s.core n.val).passed { (s.core n.val).seq with armed := true } := by
  have hexec : exec (.switchBank n) s = .next (s.seqCommand n.val 0x02 noBad _) := rfl
  exact seqCommand_passes hexec h rfl rfl rfl

theorem setrng_result (h : s.runs n.val 0x11 w = true) : ∃ t, exec (.setrng n) s = .next t ∧ s.CoreFrame t n.val ∧
    let round := BitVec.ofNat 24 (cf w 1 31 16 + cf w 2 23 16 * 65536)
    t.core n.val = { s.core n.val with trk := (s.core n.val).trk.raiseWatermark round }.passed
      { (s.core n.val).seq with round := round, tile := BitVec.ofNat 16 (cf w 1 15 0),
                                layer := BitVec.ofNat 16 (cf w 2 15 0) } := by
  have hexec : exec (.setrng n) s = execSetrng n s := rfl
  rw [execSetrng, State.issue_on h _ _ _ _ (State.isOp_of_runs h) rfl] at hexec
  refine ⟨_, hexec, (s.frame_modCore ..).trans (State.frame_advance ..), ?_⟩
  simp only [State.core_advance, State.core_modCore_same, if_true, Core.passed]

end

/-- Settles O2: each command is one write of the sequencer's registers that leaves the program counter and the loops, and a
register reads as written but for g0. -/
theorem sequencerResults : Obligations.SequencerResults := by
  unfold Obligations.SequencerResults
  refine ⟨fun s n w => ⟨li_result, alu_result, cmp_result, mova_result, setlc_result, lidx_result,
    switchBank_result, setrng_result⟩,
    fun q i j v hi hj => ⟨q.reg_setReg v hi hj, q.setReg_frame i v⟩⟩

end Sys2Proof.Machine
end

section
/-!
Proofs of chapter 08: data memory, and the commands that control issue (R138, R163, R165, R168, R172, R173, R176).
-/
namespace Sys2Proof.Machine

/-! ## LD and ST (R163, R168) -/

@[simp] theorem State.core_ldStall (s : State) (n r m : Nat) : (s.ldStall n r).core m = s.core m := by
  unfold State.ldStall
  simp only []
  split <;> rfl

theorem State.frame_ldStall (s : State) (n r : Nat) : s.CoreFrame (s.ldStall n r) n := by
  unfold State.ldStall
  simp only []
  split
  · exact s.frame_count n kSEQ _ _ (by decide)
  · exact .refl ..

theorem extractLsb'_dmRead_word (d : SMap Byte) (a : Nat) {i : Nat} (hi : i < 8) :
    (BitVec.ofNat 64 (dmRead d a 8)).extractLsb' (8 * i) 8 = dmByte d (a + i) := by
  rw [dmRead, extractLsb'_ofNat_leNat _ (by omega)]
  simp [List.getD_eq_getElem?_getD, hi]

/-- What lies below or past a write that does not wrap lies past it on the ring of addresses. -/
theorem le_dmPast {a n x : Nat} (ha : a + n ≤ 65536) (hx : x < 65536) (hout : x < a ∨ a + n ≤ x) : n ≤ dmPast a x := by
  unfold dmPast
  omega

theorem ldstAddr_lt (w : BitVec 128) (q : Seq) : ldstAddr w q < 65536 := Nat.mod_lt _ (by decide)

section
variable {s : State} {n : CoreId} {w : BitVec 128}

theorem ld_result (h : s.runs n.val 0x0E w = true) (halign : ldstAddr w (s.core n.val).seq % 8 = 0)
    (hfree : (s.core n.val).inflight.any (fun d => d.dmW.any (dmMeet (ldstAddr w (s.core n.val).seq, 8))) = false) :
    ∃ t v, exec (.ld n) s = .next t ∧ s.CoreFrame t n.val ∧
      t.core n.val = (s.core n.val).passed ((s.core n.val).seq.setReg (cf w 0 20 16) v) ∧
      ∀ i < 8, v.extractLsb' (8 * i) 8 = dmByte (s.core n.val).seq.dmem (ldstAddr w (s.core n.val).seq + i) := by
  have hexec : exec (.ld n) s = execLd n s := rfl
  rw [execLd, State.issue_on h _ _ _ _ (State.isOp_of_runs h) rfl] at hexec
  simp only [halign, ne_eq, not_true_eq_false, if_false, hfree, Bool.false_eq_true] at hexec
  let v := BitVec.ofNat 64 (dmRead (s.core n.val).seq.dmem (ldstAddr w (s.core n.val).seq) 8)
  refine ⟨_, v, hexec, ((s.frame_modSeq ..).trans (State.frame_advance ..)).trans (State.frame_ldStall ..), ?_,
    fun i hi => ?_⟩
  · rw [State.core_ldStall]
    exact s.core_advance_modSeq n.val (fun q => q.setReg (cf w 0 20 16)
      (BitVec.ofNat 64 (dmRead q.dmem (ldstAddr w (s.core n.val).seq) 8))) (Seq.setReg_pc ..) (Seq.setReg_loops ..)
  · exact extractLsb'_dmRead_word _ _ hi

theorem st_result (h : s.runs n.val 0x0F w = true) (halign : ldstAddr w (s.core n.val).seq % 8 = 0)
    (hfree : (s.core n.val).inflight.any (fun d => d.dmW.any (dmMeet (ldstAddr w (s.core n.val).seq, 8)) ||
      d.dmR.any (dmMeet (ldstAddr w (s.core n.val).seq, 8))) = false) :
    ∃ t, exec (.st n) s = .next t ∧ s.CoreFrame t n.val ∧
      t.core n.val = (s.core n.val).passed { (s.core n.val).seq with dmem := (t.core n.val).seq.dmem } ∧
      (t.core n.val).seq.dmem = dmWrite (s.core n.val).seq.dmem (ldstAddr w (s.core n.val).seq) 8
        ((s.core n.val).seq.reg (cf w 0 20 16)).toNat := by
  have hexec : exec (.st n) s = execSt n s := rfl
  rw [execSt, State.issue_on h _ _ _ _ (State.isOp_of_runs h) rfl] at hexec
  simp only [halign, ne_eq, not_true_eq_false, if_false, hfree, Bool.false_eq_true] at hexec
  have hcore := s.core_advance_modSeq n.val (fun q => { q with
    dmem := dmWrite q.dmem (ldstAddr w (s.core n.val).seq) 8 (q.reg (cf w 0 20 16)).toNat }) rfl rfl
  refine ⟨_, hexec, (s.frame_modSeq ..).trans (State.frame_advance ..), ?_, ?_⟩
  · rw [hcore]; rfl
  · rw [hcore]; rfl

end

/-- Settles O3: an aligned access lies below the end of data memory, so that its addresses do not wrap. -/
theorem dataMemory : Obligations.DataMemory := by
  unfold Obligations.DataMemory
  intro s n w k q a
  refine ⟨ld_result, fun h halign hfree => ?_⟩
  have hend : a + 8 ≤ 65536 := by
    have := ldstAddr_lt w q
    omega
  obtain ⟨t, hexec, hframe, hcore, hdmem⟩ := st_result h halign hfree
  refine ⟨t, hexec, hframe, hcore, fun i hi => ?_, fun x hx hout => ?_⟩
  · rw [hdmem, dmByte_dmWrite _ _ (by decide) hi]
    refine BitVec.eq_of_getLsbD_eq fun j hj => ?_
    rw [BitVec.getLsbD_ofNat, BitVec.getLsbD_extractLsb', Nat.testBit_shiftRight, BitVec.getLsbD]
  · rw [hdmem]
    exact dmByte_dmWrite_past _ _ (le_dmPast hend hx hout)

/-! ## NOP and FENCE (R165, R168) -/

section
variable {s : State} {n : CoreId} {w : BitVec 128}

theorem nop_result (h : s.runs n.val 0x00 w = true)
    (hwait : (s.core n.val).spm.waitMet (syncWait (s.core n.val).seq w) = true) :
    ∃ t, exec (.nop n) s = .next t ∧ s.CoreFrame t n.val ∧ t.core n.val = { s.core n.val with
      spm := ((s.core n.val).spm.orderAfter (syncWait (s.core n.val).seq w) none).signalled (syncSignal w) }.passed
        (s.core n.val).seq := by
  have hexec : exec (.nop n) s = execNop n s := rfl
  rw [execNop, State.issue_on h _ _ _ _ (State.isOp_of_runs h) rfl] at hexec
  simp only [hwait, if_true] at hexec
  refine ⟨_, hexec, (s.frame_modSpm ..).trans (State.frame_signalNow_advance ..), ?_⟩
  rw [State.core_signalNow_advance, State.core_modSpm_same]
  rfl

/-- The scratchpad past a FENCE: no later read races with a write that it covers (R140). -/
def Spm.fenced (m : Spm) (w : BitVec 128) (wt : Option (Byte × Word)) : Spm :=
  { m with window := (m.orderAfter wt none).window.map (fun e => if fenceCovers w e.req then { e with rows := [] } else e) }

theorem fence_result (h : s.runs n.val 0x03 w = true)
    (hwait : (s.core n.val).spm.waitMet (syncWait (s.core n.val).seq w) = true)
    (hnone : (s.core n.val).inflight.any (fun d => fenceCovers w d.req) = false) :
    ∃ t, exec (.fence n) s = .next t ∧ s.CoreFrame t n.val ∧ t.core n.val = { s.core n.val with
      spm := ((s.core n.val).spm.fenced w (syncWait (s.core n.val).seq w)).signalled (syncSignal w) }.passed
        (s.core n.val).seq := by
  have hexec : exec (.fence n) s = execFence n s := rfl
  rw [execFence, State.issue_on h _ _ _ _ (State.isOp_of_runs h) rfl] at hexec
  simp only [hwait, hnone, Bool.not_true, Bool.false_eq_true, if_false] at hexec
  refine ⟨_, hexec, (s.frame_modSpm ..).trans (State.frame_signalNow_advance ..), ?_⟩
  rw [State.core_signalNow_advance, State.core_modSpm_same, Spm.fenced, Spm.orderAfter_frame]
  rfl

theorem Spm.mem_window_fenced {m : Spm} {w : BitVec 128} {wt : Option (Byte × Word)} {x : WinEntry}
    (hx : x ∈ (m.fenced w wt).window) (hcovers : fenceCovers w x.req = true) : x.rows = [] := by
  obtain ⟨e, -, rfl⟩ := List.mem_map.1 hx
  by_cases he : fenceCovers w e.req = true
  · rw [if_pos he]
  · rw [if_neg he] at hcovers
    exact absurd hcovers he

/-! ## LOOP (R172, R173) -/

theorem State.core_advanceFrom (s : State) (n at_ : Nat) : (s.advanceFrom n at_).core n =
    { s.core n with seq := { (s.core n).seq with loops := (resolveEnd at_ (s.core n).seq.loops).1,
                                                 pc := (resolveEnd at_ (s.core n).seq.loops).2.1 } } := by
  unfold State.advanceFrom
  simp only []
  split <;> simp only [State.count_core, State.core_noteIssue, State.core_modCore_same]

/-- What LOOP pushes on the loop stack (R172). -/
def Seq.newLoop (q : Seq) (w : BitVec 128) : LoopFrame :=
  { lc := Fin.ofNat 4 (cf w 0 17 16), endPc := cf w 1 12 0, count := q.lctr (cf w 0 17 16), index := 0, start := q.pc + 1 }

/-- The loop stack and the program counter past a LOOP (R172). -/
def Seq.looped (q : Seq) (w : BitVec 128) : Seq :=
  if q.lctr (cf w 0 17 16) = 0 then
    { q with loops := (resolveEnd (cf w 1 12 0) q.loops).1, pc := (resolveEnd (cf w 1 12 0) q.loops).2.1 }
  else { q with loops := q.newLoop w :: q.loops, pc := q.pc + 1 }

theorem loop_enters (h : s.runs n.val 0x10 w = true) (hend : (s.core n.val).seq.pc < cf w 1 12 0)
    (hinside : (s.core n.val).seq.loops.any (fun f => decide (f.endPc < cf w 1 12 0)) = false)
    (hdepth : (s.core n.val).seq.loops.length < 4)
    (hfresh : (s.core n.val).seq.loops.any (fun f => f.lc.val == cf w 0 17 16) = false) :
    ∃ t, exec (.loop n) s = .next t ∧ s.CoreFrame t n.val ∧
      t.core n.val = { s.core n.val with seq := (s.core n.val).seq.looped w } := by
  have hexec : exec (.loop n) s = execLoop n s := rfl
  rw [execLoop, State.issue_on h _ _ _ _ (State.isOp_of_runs h) rfl] at hexec
  simp only [hinside, hfresh, Bool.or_false, Bool.false_eq_true, if_false, decide_eq_true_eq, Nat.not_le.2 hend,
    Nat.not_le.2 hdepth] at hexec
  unfold Seq.looped
  split at hexec
  · next hzero =>
    rw [if_pos hzero]
    exact ⟨_, hexec, s.frame_advanceFrom .., s.core_advanceFrom ..⟩
  · next hcount =>
    rw [if_neg hcount]
    refine ⟨_, hexec, (((s.frame_noteIssue _).trans (State.frame_modSeq ..)).trans (State.frame_count _ _ kSEQ _ _ (by decide))).trans
      (State.frame_count _ _ kSEQ _ _ (by decide)), ?_⟩
    simp only [State.count_core, State.core_modSeq_same, State.core_noteIssue]
    rfl

/-! ## END (R176) -/

/-- An END counts as an issued command. -/
def State.endCounted (s : State) (n : Nat) : State := (s.noteIssue n).count (corePage n kSEQ) 0x100 1

theorem State.frame_endCounted (s : State) (n : Nat) : s.CoreFrame (s.endCounted n) n :=
  (s.frame_noteIssue n).trans (State.frame_count _ _ kSEQ _ _ (by decide))

theorem exec_endProg (h : s.runs n.val 0x01 w = true) : exec (.endProg n) s = .next (endCommand s n.val) := by
  have hexec : exec (.endProg n) s = execEndProg n s := rfl
  rw [hexec, execEndProg, State.issue_on h _ _ _ _ (State.isOp_of_runs h) rfl]

theorem endProg_drains (h : s.runs n.val 0x01 w = true) (harmed : (s.core n.val).seq.armed = false) :
    ∃ t, exec (.endProg n) s = .next t ∧ s.CoreFrame t n.val ∧
      t.core n.val = { s.core n.val with seq := { (s.core n.val).seq with loops := [], run := .draining } } := by
  refine ⟨_, exec_endProg h, ?_⟩
  simp only [endCommand, harmed, Bool.not_false, if_true]
  refine ⟨(s.frame_endCounted n.val).trans (State.frame_modSeq ..), ?_⟩
  rw [State.core_modSeq_same]
  simp only [State.count_core, State.core_noteIssue, harmed]

/-- The sequencer past an END that switches banks (R176). -/
def Seq.switched (q : Seq) : Seq :=
  { q with bank0 := { q.bank0 with state := if q.bank then .executing else .valid },
           bank1 := { q.bank1 with state := if q.bank then .valid else .executing },
           loops := [], armed := false, bank := !q.bank, pc := 0 }

theorem endProg_switches (h : s.runs n.val 0x01 w = true) (harmed : (s.core n.val).seq.armed = true)
    (hvalid : ((s.core n.val).seq.progBank (!(s.core n.val).seq.bank)).state = .valid) :
    ∃ t, exec (.endProg n) s = .next t ∧ s.CoreFrame t n.val ∧
      t.core n.val = { s.core n.val with seq := (s.core n.val).seq.switched } := by
  refine ⟨_, exec_endProg h, ?_⟩
  simp only [endCommand, harmed, Bool.not_true, Bool.false_eq_true, if_false, hvalid]
  refine ⟨(s.frame_endCounted n.val).trans (State.frame_modSeq ..), ?_⟩
  rw [State.core_modSeq_same]
  simp only [State.count_core, State.core_noteIssue]
  unfold Seq.switched
  cases (s.core n.val).seq.bank <;> rfl

end

/-- Settles O4: NOP and FENCE order later reads and signal, LOOP pushes its frame or passes its body, and END drains or switches
banks. -/
theorem sequencerControl : Obligations.SequencerControl := by
  unfold Obligations.SequencerControl
  intro s n w k q wt sg e
  refine ⟨nop_result, fun h hwait hnone => ?_, fun h hend hinside hdepth hfresh => ?_, endProg_drains,
    fun h harmed hvalid => ?_⟩
  · obtain ⟨t, hexec, hframe, hcore⟩ := fence_result h hwait hnone
    refine ⟨t, hexec, hframe, by rw [hcore]; rfl, by rw [hcore]; rfl, ?_, fun x hx hcovers => ?_⟩
    · rw [hcore]
      exact Spm.tokens_signalled_congr (m := k.spm.fenced w wt) (m' := k.spm) rfl sg
    · rw [hcore] at hx
      have hwindow := congrArg Spm.window (Spm.signalled_frame (k.spm.fenced w wt) sg)
      exact Spm.mem_window_fenced (hwindow ▸ hx) hcovers
  · obtain ⟨t, hexec, hframe, hcore⟩ := loop_enters h hend hinside hdepth hfresh
    unfold Seq.looped at hcore
    exact ⟨t, hexec, hframe, fun hzero => by rw [hcore, if_pos hzero], fun hcount => by rw [hcore, if_neg hcount]; rfl⟩
  · obtain ⟨t, hexec, hframe, hcore⟩ := endProg_switches h harmed hvalid
    refine ⟨t, hexec, hframe, ?_⟩
    rw [hcore]
    cases hbank : q.bank <;> simp [Seq.switched, Seq.progBank, hbank, k, q]

end Sys2Proof.Machine
end

section
/-!
Proofs of chapter 08: commands that R167 and R173 stop at issue, the fault that follows (R180, R379), and what the sequencer holds
at reset.
-/
namespace Sys2Proof.Machine

/-! ## Sequencers through the fault of a job (R379, R286) -/

/-- From `s` to `t` every sequencer stands. -/
structure State.SeqsKept (s t : State) : Prop where
  seq : ∀ m, (t.core m).seq = (s.core m).seq

theorem State.SeqsKept.refl (s : State) : s.SeqsKept s := ⟨fun _ => rfl⟩

theorem State.SeqsKept.trans {s t u : State} (h : s.SeqsKept t) (g : t.SeqsKept u) : s.SeqsKept u :=
  ⟨fun m => (g.seq m).trans (h.seq m)⟩

theorem State.SeqsKept.foldl {α : Type} {f : State → α → State} (hf : ∀ (s : State) a, s.SeqsKept (f s a)) (l : List α) :
    ∀ s : State, s.SeqsKept (l.foldl f s) := by
  induction l with
  | nil => exact .refl
  | cons a l ih => exact fun s => (hf s a).trans (ih _)

theorem State.seqs_modCore (s : State) (n : Nat) (f : Core → Core) (hf : ∀ k, (f k).seq = k.seq) : s.SeqsKept (s.modCore n f) where
  seq m := by
    rw [State.core_modCore]
    split
    · next h => rw [h]; exact hf _
    · rfl

theorem State.seqs_modTrv (s : State) (p : TPort) (f : Traverse → Traverse) : s.SeqsKept (s.modTrv p f) :=
  ⟨fun m => by rw [State.modTrv_core]⟩

theorem State.seqs_discardTrv (s : State) (p : TPort) (peers : List (BitVec 15)) : s.SeqsKept (s.discardTrv p peers) := by
  unfold State.discardTrv
  refine State.SeqsKept.trans (State.SeqsKept.foldl (fun s o => ?_) _ s) (State.seqs_modTrv _ p _)
  exact s.seqs_modCore _ _ fun _ => rfl

/-- The abort of a traverse job drops commands and slots, and leaves the sequencers (R286). -/
theorem State.seqs_abortTraverse (s : State) (sends : Bool) (told : List (BitVec 15)) : s.SeqsKept (s.abortTraverse sends told) := by
  have aborted (s : State) (p : TPort) (epoch : BitVec 16) (dsts : List (BitVec 15)) : s.SeqsKept (s.sendAborts p epoch dsts) :=
    State.SeqsKept.foldl (fun s _ => ⟨fun m => by rw [State.core_sendTrv]⟩) dsts s
  unfold State.abortTraverse
  refine State.SeqsKept.trans (State.SeqsKept.foldl (fun s p => ?_) _ s) (State.SeqsKept.foldl (fun s n => ?_) _ _)
  · refine State.SeqsKept.trans ?_ (State.seqs_discardTrv _ p _)
    split
    · exact (aborted s p _ _).trans (State.seqs_modTrv ..)
    · exact .refl s
  · exact s.seqs_modCore n _ fun _ => rfl

theorem State.seqs_tellPeers (s : State) (j : Job) (lift traverse : Bool) : s.SeqsKept (s.tellPeers j lift traverse) := by
  have noticed : s.SeqsKept
      (if lift && j.lift && s.lift.isFormed then s.sendMsg .up (.notice true s.liftPos 0) else s) := by
    split
    · exact ⟨fun _ => rfl⟩
    · exact .refl s
  unfold State.tellPeers
  simp only []
  split
  · exact noticed.trans (State.seqs_abortTraverse ..)
  · exact noticed

/-- Where a job faults, the cores of its task stop issuing and no other core is touched (R379). -/
theorem State.core_faultLocal {s : State} {t : Nat} {x : Task} {j : Job} (htask : s.task t = some x) (hjob : x.job = some j)
    (code : Word) (m : Nat) :
    (s.faultLocal t code).core m = if m ∈ x.coreList then (s.core m).stopIssue else s.core m := by
  unfold State.faultLocal
  simp only [htask, hjob]
  rw [State.core_foldl (g := fun s n => s.modCore n Core.stopIssue) (fun s n m => State.core_modCore ..) m x.nodup_coreList]
  split <;> split <;> simp only [State.modJob_core]

theorem State.seq_faultTask {s : State} {t : Nat} {x : Task} {j : Job} (htask : s.task t = some x) (hjob : x.job = some j)
    (code : Word) (m : Nat) :
    ((s.faultTask t code).core m).seq = if m ∈ x.coreList then (s.core m).stopIssue.seq else (s.core m).seq := by
  have stopped : ((s.faultLocal t code).core m).seq = if m ∈ x.coreList then (s.core m).stopIssue.seq else (s.core m).seq := by
    rw [State.core_faultLocal htask hjob]
    split <;> rfl
  have hbind : (s.task t).bind (·.job) = some j := by rw [htask]; exact hjob
  simp only [State.faultTask, hbind]
  split
  · exact stopped
  · exact ((State.seqs_tellPeers ..).seq m).trans stopped

/-- A fault leaves a sequencer as it is, or stops it. -/
theorem State.seq_faultCore (s : State) (n p b m : Nat) : ((s.faultCore n p b).core m).seq = (s.core m).seq ∨
    ((s.faultCore n p b).core m).seq = (s.core m).stopIssue.seq := by
  unfold State.faultCore
  split
  · next t _ =>
    cases hjob : (s.task t.val).bind (·.job) with
    | none => exact .inl (by simp only [State.faultTask, hjob])
    | some j =>
      obtain ⟨x, htask, hj⟩ := Option.bind_eq_some_iff.1 hjob
      rw [State.seq_faultTask htask hj]
      split
      · exact .inr rfl
      · exact .inl rfl
  · rw [State.core_modCore]
    split
    · next h => rw [h]; exact .inr rfl
    · exact .inl rfl

/-- The event of a command at issue leaves the program counter and the loop stack (R180, R182). -/
theorem State.seq_seqFault (s : State) (n b : Nat) : ((s.seqFault n b).core n).seq.loops = (s.core n).seq.loops ∧
    ((s.seqFault n b).core n).seq.pc = (s.core n).seq.pc := by
  have raised (i j : Word) := (s.raises_raise (corePage n kSEQ) b i j).core n
  unfold State.seqFault State.raiseFault
  obtain h | h := State.seq_faultCore (s.raise (corePage n kSEQ) b _ _) n (corePage n kSEQ) b n
  all_goals rw [h, raised]; exact ⟨rfl, rfl⟩

/-- A running sequencer whose command raises an event stops where it is, and its job has faulted (R180). -/
theorem seqFault_stops {s : State} {n : CoreId} {x : Fin 64} {tk : Task} {j : Job} (hjob : s.jobOn n.val x tk j)
    (hissue : s.canIssue n.val = true) {b : Nat} (hb : b < 32) :
    ((s.seqFault n.val b).core n.val).seq = { (s.core n.val).seq with run := .stopped } ∧
      (s.seqFault n.val b).task x.val = some { tk with job := some { j with fault := some (s.faultCode (corePage n.val kSEQ) b) } } := by
  refine ⟨?_, (seqFault_faults hjob hb).2⟩
  have hrun : (s.core n.val).seq.run = .running := by
    rw [State.canIssue, Bool.and_eq_true, beq_iff_eq] at hissue
    exact hissue.2
  have raised (i i' : Word) := s.raises_raise (corePage n.val kSEQ) b i i'
  unfold State.seqFault State.raiseFault
  simp only []
  generalize hu : s.raise _ _ _ _ = u
  have hraise : s.Raises u := hu ▸ raised ..
  obtain ⟨hcore, htask, hj, -, hmem⟩ := hraise.tasksKept.jobOn hjob
  rw [State.faultCore, hcore]
  refine (State.seq_faultTask htask hj _ _).trans ?_
  rw [if_pos hmem, hraise.core, Core.stopIssue, hrun]
  rfl

/-! ## Unknown opcodes and reserved bits (R167) -/

section
variable {s : State} {n : Nat} (hissue : s.canIssue n = true) (isRow : BitVec 128 → Bool) (bad : Core → BitVec 128 → Bool)
  (off on : BitVec 128 → State → State)
include hissue

theorem State.issue_unknown (hop : cmdMask (opcodeOf (s.core n).seq.fetch) = none) : s.issue n isRow bad off on = s.seqFault n 0 := by
  simp only [State.issue, hissue, hop, Option.isNone_none, if_true]

theorem State.issue_reserved (hrow : isRow (s.core n).seq.fetch = true) (hbits : badBits (s.core n).seq.fetch = true) :
    s.issue n isRow bad off on = s.seqFault n 1 := by
  have hop : (cmdMask (opcodeOf (s.core n).seq.fetch)).isNone = false := by
    unfold badBits at hbits
    split at hbits
    · exact absurd hbits Bool.false_ne_true
    · next h => rw [h]; rfl
  simp only [State.issue, hissue, hop, hrow, hbits, Bool.true_or, Bool.false_eq_true, if_true, if_false]

end

/-- Every row at a program counter passes the checks of R167 first. -/
theorem commandRows_issue (s : State) (n : CoreId) : ∀ r ∈ commandRows n, ∃ bad off on,
    exec r.2 s = .next (s.issue n.val (isOp r.1) bad off on) := by
  unfold commandRows
  repeat refine List.forall_mem_cons.2 ⟨⟨_, _, _, rfl⟩, ?_⟩
  exact List.forall_mem_nil _

/-- An engine row at issue: past the checks of R167 its command is captured. -/
def EngineRow.AtIssue (r : EngineRow) (s : State) (n : Nat) : Prop := ∃ off onCollision, exec r.row s =
  .next (s.issue n r.isRow r.bad off (fun w s => s.engineOnGated n w (r.cap w (s.core n)) (r.gate w) onCollision (r.begin w)))

theorem arrayRows_atIssue (s : State) (n : CoreId) : ∀ r ∈ arrayRows n, r.AtIssue s n.val := by
  unfold arrayRows
  repeat refine List.forall_mem_cons.2 ⟨⟨_, _, rfl⟩, ?_⟩
  exact List.forall_mem_nil _

theorem linkRows_atIssue (s : State) (n : CoreId) : ∀ r ∈ linkRows n, r.AtIssue s n.val := by
  unfold linkRows
  repeat refine List.forall_mem_cons.2 ⟨⟨_, _, rfl⟩, ?_⟩
  exact List.forall_mem_nil _

theorem rowRows_atIssue (s : State) (n : CoreId) : ∀ r ∈ rowRows n, r.AtIssue s n.val := by
  have rowop : ∀ r ∈ rowopRows n, exec r.2 s = .next (s.rowop n.val r.1) := by
    unfold rowopRows
    repeat refine List.forall_mem_cons.2 ⟨rfl, ?_⟩
    exact List.forall_mem_nil _
  refine List.forall_mem_append.2 ⟨List.forall_mem_map.2 fun r hr => ?_, List.forall_mem_map.2 ?_⟩
  · exact ⟨fun w s => s.engineOff n.val w .row, id, rowop r hr⟩
  · repeat refine List.forall_mem_cons.2 ⟨⟨fun w s => s.engineOff n.val w .row, id, rfl⟩, ?_⟩
    exact List.forall_mem_nil _

/-- Settles O8: the checks of R167 come before anything else that a row does, and the first that fails raises its SEQ event, which
stops the sequencer and faults the job. -/
theorem issueChecks : Obligations.IssueChecks := by
  unfold Obligations.IssueChecks
  intro s n x tk j hissue hjob w
  refine ⟨fun hop c hc => ?_, fun hbits c hc => ?_⟩
  · have hexec : ∃ isRow bad off on, exec c s = .next (s.issue n.val isRow bad off on) := by
      obtain hc | hc := List.mem_append.1 hc
      · obtain ⟨r, hr, rfl⟩ := List.mem_map.1 hc
        exact ⟨_, commandRows_issue s n r hr⟩
      · obtain ⟨r, hr, rfl⟩ := List.mem_map.1 hc
        obtain ⟨off, onCollision, hexec⟩ := rowRows_atIssue s n r hr
        exact ⟨_, _, _, _, hexec⟩
    obtain ⟨isRow, bad, off, on, hexec⟩ := hexec
    rw [State.issue_unknown hissue isRow bad off on hop] at hexec
    exact ⟨_, hexec, seqFault_stops hjob hissue (by decide)⟩
  · obtain ⟨bad, off, on, hexec⟩ := commandRows_issue s n _ hc
    exact ⟨_, hexec.trans (congrArg _ (State.issue_reserved hissue _ bad off on (beq_self_eq_true _) hbits)),
      seqFault_stops hjob hissue (by decide)⟩

/-! ## The checks of LOOP (R173) -/

/-- The counters of the loops that stay active are among those that were (R172). -/
theorem resolveEnd_counters (e : Nat) : ∀ l : List LoopFrame, ((resolveEnd e l).1.map (·.lc)).Sublist (l.map (·.lc))
  | [] => .refl _
  | f :: l => by
    unfold resolveEnd
    split
    · split
      · exact .refl _
      · exact (resolveEnd_counters e l).cons _
    · exact .refl _

theorem Seq.looped_counters (q : Seq) (w : BitVec 128) (hdepth : q.loops.length < 4) (hfresh : ∀ f ∈ q.loops, f.lc.val ≠ cf w 0 17 16) :
    (q.looped w).loops.length ≤ 4 ∧ ((q.loops.map (·.lc)).Nodup → ((q.looped w).loops.map (·.lc)).Nodup) := by
  unfold Seq.looped
  split
  · have hsub := resolveEnd_counters (cf w 1 12 0) q.loops
    have hlen := hsub.length_le
    rw [List.length_map, List.length_map] at hlen
    exact ⟨by simp only []; omega, hsub.nodup⟩
  · refine ⟨by simp only [List.length_cons]; omega, fun hnodup => ?_⟩
    refine List.nodup_cons.2 ⟨fun hmem => ?_, hnodup⟩
    obtain ⟨f, hf, hlc⟩ := List.mem_map.1 hmem
    have hcounter : cf w 0 17 16 < 4 := Nat.mod_lt _ (by decide)
    refine hfresh f hf ?_
    rw [hlc]
    exact Nat.mod_eq_of_lt hcounter

/-- The event that the checks of a LOOP raise (R173). -/
def Seq.loopErr (q : Seq) (w : BitVec 128) : Option Nat :=
  if decide (cf w 1 12 0 ≤ q.pc) || q.loops.any (fun f => decide (f.endPc < cf w 1 12 0)) then some 2
  else if 4 ≤ q.loops.length then some 3
  else if q.loops.any (fun f => f.lc.val == cf w 0 17 16) then some 4
  else none

theorem loop_refused {s : State} {n : CoreId} {w : BitVec 128} (h : s.runs n.val 0x10 w = true) {b : Nat}
    (herr : (s.core n.val).seq.loopErr w = some b) : exec (.loop n) s = .next (s.seqFault n.val b) := by
  have hexec : exec (.loop n) s = execLoop n s := rfl
  rw [hexec, execLoop, State.issue_on h _ _ _ _ (State.isOp_of_runs h) rfl]
  unfold Seq.loopErr at herr
  simp only []
  split at herr
  · next hshape => rw [if_pos hshape, Option.some.inj herr]
  · next hshape =>
    rw [if_neg hshape]
    split at herr
    · next hdepth => rw [if_pos hdepth, Option.some.inj herr]
    · next hdepth =>
      rw [if_neg hdepth]
      split at herr
      · next hreuse => rw [if_pos hreuse, Option.some.inj herr]
      · exact absurd herr (by simp)

/-- Settles O60: the first check that fails raises its event and leaves the loop stack; a loop that is entered is a fifth frame at
most and has a counter of its own. -/
theorem loopChecks : Obligations.LoopChecks := by
  unfold Obligations.LoopChecks
  intro s n w h q e shape depth reuse
  have refused {b : Nat} (hb : b < 32) (herr : q.loopErr w = some b) (hwhy : (b = 2 ∧ shape) ∨ (b = 3 ∧ depth) ∨ (b = 4 ∧ reuse)) :
      ∃ t b, exec (.loop n) s = .next t ∧ t.reported (corePage n.val kSEQ) b = true ∧
        ((b = 2 ∧ shape) ∨ (b = 3 ∧ depth) ∨ (b = 4 ∧ reuse)) ∧ (t.core n.val).seq.loops = q.loops ∧
        (t.core n.val).seq.pc = q.pc ∧
        ∀ x tk j, s.jobOn n.val x tk j → t.jobFaulted x tk j (s.faultCode (corePage n.val kSEQ) b) := by
    obtain ⟨hloops, hpc⟩ := s.seq_seqFault n.val b
    exact ⟨_, b, loop_refused h herr, s.reported_raiseFault n _ _ (by decide) hb, hwhy, hloops, hpc,
      fun x tk j hjob => (seqFault_faults hjob hb).2⟩
  have hshape : (decide (e ≤ q.pc) || q.loops.any (fun f => decide (f.endPc < e))) = true ↔ shape := by
    simp [shape]
  have hreuse : q.loops.any (fun f => f.lc.val == cf w 0 17 16) = true ↔ reuse := by
    simp [reuse]
  refine ⟨fun hwhy => ?_, fun hgood => ?_⟩
  · by_cases hs : shape
    · exact refused (b := 2) (by decide) (by rw [Seq.loopErr, if_pos (hshape.2 hs)]) (.inl ⟨rfl, hs⟩)
    · by_cases hd : depth
      · exact refused (b := 3) (by decide) (by rw [Seq.loopErr, if_neg (mt hshape.1 hs), if_pos hd]) (.inr (.inl ⟨rfl, hd⟩))
      · have hr : reuse := (hwhy.resolve_left hs).resolve_left hd
        exact refused (b := 4) (by decide) (by rw [Seq.loopErr, if_neg (mt hshape.1 hs), if_neg hd, if_pos (hreuse.2 hr)])
          (.inr (.inr ⟨rfl, hr⟩))
  · have hs : (decide (e ≤ q.pc) || q.loops.any (fun f => decide (f.endPc < e))) = false :=
      Bool.eq_false_iff.2 (mt hshape.1 fun hs => hgood (.inl hs))
    have hr : q.loops.any (fun f => f.lc.val == cf w 0 17 16) = false := Bool.eq_false_iff.2 (mt hreuse.1 fun hr => hgood (.inr (.inr hr)))
    have hd : q.loops.length < 4 := Nat.lt_of_not_le fun hd => hgood (.inr (.inl hd))
    obtain ⟨hend, hinside⟩ := Bool.or_eq_false_iff.1 hs
    obtain ⟨t, hexec, -, hcore⟩ := loop_enters h (Nat.lt_of_not_le (of_decide_eq_false hend)) hinside hd hr
    refine ⟨t, hexec, ?_⟩
    rw [hcore]
    exact q.looped_counters w hd fun f hf hlc => hgood (.inr (.inr ⟨f, hf, hlc⟩))

/-! ## Reset (R157, R174, R320, R393, R456) -/

/-- Settles O55: every table of the state after reset is empty, so each read gives the table's reset content. -/
theorem resetValues : Obligations.ResetValues := by
  unfold Obligations.ResetValues
  refine ⟨?_, fun _ => rfl, fun _ => rfl, rfl, fun _ => ⟨?_, rfl⟩, rfl⟩
  · decide
  · exact (by decide : (1#8).getLsbD 0 = true)

end Sys2Proof.Machine
end

section
/-!
Proofs of chapter 08: engine commands that enter their queues, and what stands there (R140, R160, R161, R164, R167, R172).
-/
namespace Sys2Proof.Machine

theorem engineRows_atIssue (s : State) (n : CoreId) {r : EngineRow} (hr : r ∈ arrayRows n ++ linkRows n ++ rowRows n) :
    r.AtIssue s n.val := by
  obtain hr | hr := List.mem_append.1 hr
  · obtain hr | hr := List.mem_append.1 hr
    · exact arrayRows_atIssue s n r hr
    · exact linkRows_atIssue s n r hr
  · exact rowRows_atIssue s n r hr

theorem State.enterable_iff (s : State) (n : Nat) (w : BitVec 128) (r : EngineRow) : s.enterable n w r = true ↔
    s.runs n (opcodeOf w) w = true ∧ r.isRow w = true ∧ r.bad (s.core n) w = false ∧ r.gate w s = none ∧
      s.enters n w (r.cap w (s.core n)) = true := by
  simp only [State.enterable, Bool.and_eq_true, Bool.not_eq_true', Option.isNone_iff_eq_none, and_assoc]

/-- Settles O5: every engine row is the same issue of what it captures, and a capture that passes the last checks enters its
queue. -/
theorem engineCommandsEnter : Obligations.EngineCommandsEnter := by
  unfold Obligations.EngineCommandsEnter
  intro s n w r hr h
  obtain ⟨hruns, hrow, hgood, hgate, henters⟩ := (s.enterable_iff n.val w r).1 h
  obtain ⟨off, onCollision, hexec⟩ := engineRows_atIssue s n hr
  obtain ⟨c, hc, hbegin⟩ := s.engineOnGated_enters n.val w (r.cap w (s.core n.val)) (r.gate w) onCollision (r.begin w) hgate henters
  rw [State.issue_on hruns _ _ _ _ hrow hgood, hbegin] at hexec
  exact ⟨c, hc, hexec⟩

/-- A capture's ticket and its writes change the tickets and the ports' windows alone (R138, R140). -/
theorem Capture.queuedSpm_frame (x : Capture) (id : Nat) (w : BitVec 128) : x.queuedSpm id w =
    { x.spm with tickets := (x.queuedSpm id w).tickets, window := (x.queuedSpm id w).window } := by
  unfold Capture.queuedSpm
  cases syncSignal w <;> rfl

/-- A command that races with no write enters its queue without a count (R140, R330). -/
theorem State.frame_enqueue (s : State) (n : Nat) (w : BitVec 128) (x : Capture) (rivals : List Nat) :
    s.CoreFrame (s.enqueue n w x [] rivals) n := by
  unfold State.enqueue
  simp only [List.isEmpty_nil, if_true]
  exact (s.frame_modCore ..).trans (State.frame_advance ..)

/-- Settles O6: the command is the capture's, after it in program order, and the scratchpad's tables are the capture's own. -/
theorem enteredCommand : Obligations.EnteredCommand := by
  unfold Obligations.EnteredCommand
  intro s n w x k t e
  have hcore := s.core_enqueue n.val w (k.ordered w x) (raceRows (k.ordered w x).spm x.ops) (raceRivals (k.ordered w x).spm x.ops)
  have hspm : (t.core n.val).spm = (k.ordered w x).queuedSpm k.nextId w := congrArg Core.spm hcore
  have hframe : (k.ordered w x).spm = { x.spm with window := (k.ordered w x).spm.window } :=
    x.spm.orderAfter_frame (syncWait k.seq w) (some (racer x.req))
  rw [hspm, Capture.queuedSpm_frame, hframe]
  refine ⟨hcore.trans ?_, rfl, rfl, rfl, rfl, fun hraces => ?_⟩
  · rw [Capture.queuedSpm_frame, hframe]
    rfl
  · have := s.frame_enqueue n.val w (k.ordered w x) (raceRivals (k.ordered w x).spm x.ops)
    exact (hraces ▸ this :)

end Sys2Proof.Machine
end

section
/-!
Proofs of chapter 08: the end of a job (R176, R330, R379).
-/
namespace Sys2Proof.Machine

/-! ## What the end of a job leaves (R330, R379) -/

/-- The provenance record of a job that ends stands first, and the part counts the outcome. -/
def State.recordJob (s : State) (x : Task) (j : Job) (outcome : Nat) : State :=
  ((s.hashed (s.workBytes x j).length).modHost (fun h => { h with
    records := ({ job := j.id, body := s.provBody x j outcome, sig := none } :: h.records).take 64 })).count pDEV
      (0x108 + 8 * outcome) 1

/-- The lift and the traverse drop what a job that has ended left there. -/
def State.dropJobLinks (s : State) (j : Job) (outcome : Nat) : State :=
  let s := if j.lift && outcome != 0 then s.modLift (fun l => { l with laps := [], held := l.held.filter (fun h => !h.bad) }) else s
  if j.traverse then s.endTraverse else s

/-- The state of a job's end but for its notice. -/
def State.jobOver (s : State) (t : Nat) (x : Task) (j : Job) (outcome : Nat) : State :=
  ((x.coreList.foldl (fun s n => s.modCore n Core.leaveJob) (s.recordJob x j outcome)).dropJobLinks j outcome).setTask t
    (some { x with job := none })

theorem State.endJob_eq {s : State} {t : Nat} {x : Task} {j : Job} (htask : s.task t = some x) (hjob : x.job = some j)
    (outcome : Nat) : ∃ r m, s.endJob t outcome = (s.jobOver t x j outcome).post r m := by
  unfold State.endJob
  simp only [htask, hjob]
  exact ⟨_, _, rfl⟩

theorem State.core_endTraverse (s : State) (m : Nat) : s.endTraverse.core m = s.core m := by
  simp only [State.endTraverse, List.foldl_cons, List.foldl_nil, State.modTrv_core]
  rfl

theorem State.host_endTraverse (s : State) : s.endTraverse.host = s.host := rfl

theorem State.counter_endTraverse (s : State) (p o : Nat) : s.endTraverse.counter p o = s.counter p o := by
  simp only [State.endTraverse, List.foldl_cons, List.foldl_nil, State.modTrv_counter, State.counter_setReg]

section
variable (s : State) (j : Job) (outcome : Nat)

theorem State.core_dropJobLinks (m : Nat) : (s.dropJobLinks j outcome).core m = s.core m := by
  unfold State.dropJobLinks
  split <;> split <;> simp only [State.core_endTraverse, State.modLift_core]

theorem State.host_dropJobLinks : (s.dropJobLinks j outcome).host = s.host := by
  unfold State.dropJobLinks
  split <;> split <;> simp only [State.host_endTraverse, State.modLift_host]

theorem State.counter_dropJobLinks (p o : Nat) : (s.dropJobLinks j outcome).counter p o = s.counter p o := by
  unfold State.dropJobLinks
  split <;> split <;> simp only [State.counter_endTraverse, State.modLift_counter]

end

theorem State.host_leaveJobs (ns : List Nat) : ∀ s : State, (ns.foldl (fun s n => s.modCore n Core.leaveJob) s).host = s.host := by
  induction ns with
  | nil => exact fun _ => rfl
  | cons n ns ih => exact fun s => ih _

theorem State.counter_leaveJobs (p o : Nat) (ns : List Nat) :
    ∀ s : State, (ns.foldl (fun s n => s.modCore n Core.leaveJob) s).counter p o = s.counter p o := by
  induction ns with
  | nil => exact fun _ => rfl
  | cons n ns ih => exact fun s => ih _

section
variable (s : State) (t : Nat) (x : Task) (j : Job) (outcome : Nat)

theorem State.task_jobOver : (s.jobOver t x j outcome).task t = some { x with job := none } := by
  rw [State.jobOver, State.task_setTask, if_pos rfl]

theorem State.records_jobOver : (s.jobOver t x j outcome).host.records =
    ({ job := j.id, body := s.provBody x j outcome, sig := none } :: s.host.records).take 64 := by
  have hhost := (State.host_dropJobLinks _ j outcome).trans (State.host_leaveJobs x.coreList (s.recordJob x j outcome))
  exact congrArg HostSide.records hhost

theorem State.core_jobOver (m : Nat) :
    (s.jobOver t x j outcome).core m = if m ∈ x.coreList then (s.core m).leaveJob else s.core m := by
  refine (State.core_dropJobLinks _ j outcome m).trans ?_
  rw [State.core_foldl (g := fun s n => s.modCore n Core.leaveJob) (fun s n m => State.core_modCore ..) m x.nodup_coreList]
  rfl

theorem State.counter_jobOver : (s.jobOver t x j outcome).counter pDEV (0x108 + 8 * outcome) =
    s.counter pDEV (0x108 + 8 * outcome) + 1 := by
  refine (State.counter_dropJobLinks ..).trans ?_
  rw [State.counter_leaveJobs, State.recordJob, State.counter_count, if_pos ⟨rfl, rfl⟩]
  refine congrArg (· + 1) ?_
  exact (State.counter_count ..).trans (if_neg (fun h => absurd h.1 (by decide)))

end

/-- A notice leaves the counters of every page but NTC and FLT. -/
theorem State.counter_post (s : State) (r : Nat) (m : Notice) {p : Nat} (h : p ≠ pNTC) (h' : p ≠ pFLT) (o : Nat) :
    (s.post r m).counter p o = s.counter p o := by
  have hpage := s.page_post r m h h'
  exact State.counter_eq _ _ _ _ (by rw [hpage]) (by rw [hpage]) (by rw [hpage]) (s.notes_post r m).raises.time

/-- A job that ends leaves its task and its cores, and its record is written (R176, R330). -/
theorem State.endJob_result {s : State} {t : Nat} {x : Task} {j : Job} (htask : s.task t = some x) (hjob : x.job = some j)
    (outcome : Nat) : (s.endJob t outcome).task t = some { x with job := none } ∧
      (s.endJob t outcome).host.records = ({ job := j.id, body := s.provBody x j outcome, sig := none } :: s.host.records).take 64 ∧
      (∀ n ∈ x.coreList, (s.endJob t outcome).core n = (s.core n).leaveJob) ∧
      (∀ n, n ∉ x.coreList → (s.endJob t outcome).core n = s.core n) ∧
      (s.endJob t outcome).counter pDEV (0x108 + 8 * outcome) = s.counter pDEV (0x108 + 8 * outcome) + 1 := by
  obtain ⟨r, m, hend⟩ := State.endJob_eq htask hjob outcome
  have hnotes := (s.jobOver t x j outcome).notes_post r m
  have hcore (n : Nat) := (hnotes.raises.core n).trans (s.core_jobOver t x j outcome n)
  have hrecords : ((s.jobOver t x j outcome).post r m).host.records = (s.jobOver t x j outcome).host.records := by
    rw [hnotes]
  rw [hend]
  refine ⟨(hnotes.raises.tasksKept.task t).trans (s.task_jobOver ..), hrecords.trans (s.records_jobOver ..),
    fun n hn => (hcore n).trans (if_pos hn), fun n hn => (hcore n).trans (if_neg hn), ?_⟩
  rw [State.counter_post _ _ _ (by decide) (by decide), State.counter_jobOver]

/-! ## JOB_COMPLETE and JOB_FAULT_END (R65, R176, R379) -/

section
variable {s : State} {x : Fin 64} {tk : Task} {j : Job} (hready : s.phase = .ready) (htask : s.task x.val = some tk)
  (hjob : tk.job = some j)
include hready htask hjob

theorem jobComplete_ends (hfault : j.fault = none)
    (hcores : ∀ n ∈ tk.coreList, (s.core n).seq.run = .draining ∧ (s.core n).inflight = []) (htracks : s.tracksDone tk j = true) :
    exec (.jobComplete x) s = .next (s.endJob x.val 0) := by
  have hexec : exec (.jobComplete x) s = execJobComplete x s := rfl
  have hdone : tk.coreList.all (fun n => (s.core n).seq.run == .draining && (s.core n).inflight.isEmpty) = true :=
    List.all_eq_true.2 fun n hn => by simp [hcores n hn]
  rw [hexec, execJobComplete]
  simp only [htask, hjob]
  exact if_pos (by simp [hready, hfault, hdone, htracks])

/-- Without merged partials no record of the job waits to close (R328). -/
theorem jobFaultEnd_ends (hfault : j.fault.isSome = true) (hmerged : j.merged = [])
    (hcores : ∀ n ∈ tk.coreList, (∀ c ∈ (s.core n).inflight, (s.core n).stuck c = true) ∧
      ((s.hostOf n).isNone = true ∨ (s.core n).atBoundary = true))
    (htracks : ∀ n ∈ tk.coreList, (s.core n).trk.openKeys = [] ∧ (s.core n).trk.ring = [] ∧
      ∀ y ∈ (s.core n).trk.closing, y.pending ≠ 0) :
    exec (.jobFaultEnd x) s = .next (s.endJob x.val 1) := by
  have hexec : exec (.jobFaultEnd x) s = execJobFaultEnd x s := rfl
  have hidle : tk.coreList.all (fun n => (s.core n).inflight.all (s.core n).stuck &&
      ((s.hostOf n).isNone || (s.core n).atBoundary)) = true := List.all_eq_true.2 fun n hn => by
    obtain ⟨hstuck, hplace⟩ := hcores n hn
    rw [Bool.and_eq_true, List.all_eq_true, Bool.or_eq_true]
    exact ⟨hstuck, hplace⟩
  have hclosed : tk.coreList.all (fun n => (s.core n).trk.openKeys.isEmpty && (s.core n).trk.ring.isEmpty &&
      (s.core n).trk.closing.all (fun y => y.pending != 0)) = true := List.all_eq_true.2 fun n hn => by
    obtain ⟨hopen, hring, hclosing⟩ := htracks n hn
    rw [hopen, hring, List.isEmpty_nil, Bool.and_self, Bool.true_and, List.all_eq_true]
    exact fun y hy => bne_iff_ne.2 (hclosing y hy)
  rw [hexec, execJobFaultEnd]
  simp only [htask, hjob]
  exact if_pos (by simp only [hready, hfault, hidle, hclosed, hmerged, leastKey, beq_self_eq_true, Bool.and_self])

end

/-- Settles O20: with its cores ended and its records closed the job ends, and its end does the same in both outcomes. The model
lets commands that can go no further stand in flight at the end of a faulted job (log entry 40). -/
theorem jobsEnd : Obligations.JobsEnd := by
  unfold Obligations.JobsEnd
  intro s x tk j hready htask hjob
  exact ⟨fun hfault hcores htracks => ⟨_, jobComplete_ends hready htask hjob hfault hcores htracks, State.endJob_result htask hjob 0⟩,
    fun hfault hmerged hcores htracks =>
      ⟨_, jobFaultEnd_ends hready htask hjob hfault hmerged hcores htracks, State.endJob_result htask hjob 1⟩⟩

end Sys2Proof.Machine
end

section
/-!
Proofs of chapter 08: a LAUNCH onto a core whose scratchpad holds rows (R143, R158, R359).
-/
namespace Sys2Proof.Machine

/-- A one-core program without tables. -/
def launchedHeader : ProgHeader :=
  { cores := 1, buildRepro := false, tracks := false, lift := false, traverse := false, core := 0, bookVersion := 0,
    tokenBase := 0, extentAddr := 0, demandCores := 0, regions := [], circs := [], quotas := [] }

/-- Core 0 with that program in bank 0, and row 0 written in a scratchpad bank that the job before left claimed. -/
def launchedCore : Core :=
  { Core.reset with
    task := some 0
    seq := { Seq.reset with bank0 := { ProgBank.reset with state := .valid, header := some launchedHeader } }
    spm := { Spm.reset with rows := [(0, 1)], banks := [(0, { bankDefault 0 with owner := .port 1 })] } }

def launchedTask : Task := { ctx := 0, base := 0, cores := 1, job := none }

/-- JOB_LAUNCH of task 0 from bank 0, without a bundle and without inputs (R359). -/
def launchFetched : Fetched := { entry := [0x21, 0, 0, 0, 0, 0, 0, 0, 0, 0, 0xFF] ++ List.replicate 53 0, after := 1, writes := 0 }

def launchQueue : Queue := { queueReset with head := 1, tail := 1, fetched := [launchFetched] }

/-- The part with that command at the front of queue 0; AUTO_PWR is 1, its reset value. -/
def launchState : State :=
  ({ State.reset with phase := .ready, cores := [(0, launchedCore)] }.setTask 0 (some launchedTask)).setQueue 0 (some launchQueue)

theorem launchState_front : launchState.front 0 0x21 launchQueue launchFetched :=
  ⟨rfl, by decide +kernel, rfl, by decide +kernel, by decide +kernel, fun c hc => absurd hc (List.not_mem_nil)⟩

/-- What row 0 of core 0 holds after a step. -/
def firstRow : Host.Outcome State Fault Refusal → Row
  | .next t => (t.core 0).spm.row 0
  | _ => 1

/-- The launch clears the claim, so the bank is idle, is gated, and loses its rows (R143). -/
theorem launch_gates_idleBank : firstRow (exec (.jobLaunch 0 none) launchState) = 0 := by decide +kernel

/-- Refutes O42: the rows of a launched core do not stay as they were. A launch clears claims, and with AUTO_PWR at its reset
value a bank that no region covers is then gated and loses its contents (R143). -/
theorem not_jobCommands : ¬ Obligations.JobCommands := by
  unfold Obligations.JobCommands
  intro h
  obtain ⟨hstart, -, -⟩ := h launchState 0 launchQueue launchFetched launchedTask none
  obtain ⟨hlaunch, -⟩ := hstart (by decide +kernel) (by decide +kernel) (by decide +kernel) (by decide +kernel) rfl
  obtain ⟨-, -, haccepted⟩ := hlaunch [] launchState_front (by decide +kernel) (by decide +kernel) (by decide +kernel)
  obtain ⟨t, hexec, -, -, hcores⟩ := haccepted launchedHeader (by decide +kernel) (by decide +kernel) (by decide +kernel)
    (by decide +kernel) (by decide +kernel) (by decide +kernel)
  obtain ⟨-, -, -, -, -, -, hrows, -⟩ := hcores 0 (by decide +kernel)
  have hrow : (t.core 0).spm.row 0 = (launchState.core 0).spm.row 0 := by rw [Spm.row, Spm.row, hrows]
  have hkept : (launchState.core 0).spm.row 0 = 1 := by decide +kernel
  have hlost : (t.core 0).spm.row 0 = 0 := by
    have := launch_gates_idleBank
    rwa [hexec] at this
  exact absurd (hlost.symm.trans (hrow.trans hkept)) (by decide +kernel)

end Sys2Proof.Machine
end

section
/-!
Every step keeps the tables of the state canonical: the slices, pages, cores and pcores are written only through `SMap.set`.
One lemma per operation of the model, `State.Canonical.<operation>`, named after it, in the order of the model's files.
-/
namespace Sys2Proof.Machine

variable {s t : State}

/-! ## The four tables and their writes -/

/-- Fields other than the four tables do not matter. -/
theorem State.Canonical.rest (h : s.Canonical) :
    ∀ {time refOk holdover phase porN perstN strap0 strap1 trip tap chain presented dies place epoch schedule retired
      bridges chans hashQ hot host lift trvA trvB bundles loadOrder saves saveNo diesPw capMiss flash toJournal config fw
      runsB liftClk trvClk spdmUp faultUnread free outbox pending},
    State.Canonical ⟨time, refOk, holdover, phase, porN, perstN, strap0, strap1, trip, tap, chain, s.pages, s.cores,
      s.slices, presented, dies, place, epoch, schedule, s.pcores, retired, bridges, chans, hashQ, hot, host, lift, trvA,
      trvB, bundles, loadOrder, saves, saveNo, diesPw, capMiss, flash, toJournal, config, fw, runsB, liftClk, trvClk,
      spdmUp, faultUnread, free, outbox, pending⟩ := h

theorem State.Canonical.setUnit (h : s.Canonical) {n u : Nat} {r : Row} : (s.setUnit n u r).Canonical := by
  obtain ⟨hslices, hpages, hcores, hpcores⟩ := h
  exact ⟨SMap.wf_set _ _ _ _ hslices, hpages, hcores, hpcores⟩

theorem State.Canonical.setPage (h : s.Canonical) {p : Nat} {x : Page} : (s.setPage p x).Canonical := by
  obtain ⟨hslices, hpages, hcores, hpcores⟩ := h
  exact ⟨hslices, SMap.wf_set _ _ _ _ hpages, hcores, hpcores⟩

theorem State.Canonical.setCore (h : s.Canonical) {n : Nat} {c : Core} : (s.setCore n c).Canonical := by
  obtain ⟨hslices, hpages, hcores, hpcores⟩ := h
  exact ⟨hslices, hpages, SMap.wf_set _ _ _ _ hcores, hpcores⟩

theorem State.Canonical.modPcore (h : s.Canonical) {p : Nat} {f : Pcore → Pcore} : (s.modPcore p f).Canonical := by
  obtain ⟨hslices, hpages, hcores, hpcores⟩ := h
  exact ⟨hslices, hpages, hcores, SMap.wf_set _ _ _ _ hpcores⟩

/-- A choice between two states, both canonical. -/
theorem State.Canonical.ite {c : Prop} [Decidable c] (hs : s.Canonical) (ht : t.Canonical) : (if c then s else t).Canonical := by
  split
  · exact hs
  · exact ht

/-- A state written once for each item of a list. -/
theorem State.Canonical.foldl {α : Type} {xs : List α} {f : State → α → State} (h : s.Canonical)
    (hf : ∀ {t x}, t.Canonical → (f t x).Canonical) : (xs.foldl f s).Canonical := by
  induction xs generalizing s with
  | nil => exact h
  | cons x xs ih => exact ih (hf h)

/-- The state that a check gives, where it gives one, is canonical. -/
def Gives : Option State → Prop
  | some t => t.Canonical
  | none => True

theorem Gives.some {o : Option State} (h : Gives o) (ho : o = some t) : t.Canonical := by
  rw [ho] at h
  exact h

theorem Gives.ite {c : Prop} [Decidable c] {a b : Option State} (ha : Gives a) (hb : Gives b) : Gives (if c then a else b) := by
  split
  · exact ha
  · exact hb

theorem Gives.map {α : Type} {o : Option α} {f : α → State} (hf : ∀ {x}, (f x).Canonical) : Gives (o.map f) := by
  cases o with
  | none => trivial
  | some x => exact hf

theorem Gives.getD {o : Option State} (ho : Gives o) (h : s.Canonical) : (o.getD s).Canonical := by
  cases o with
  | none => exact h
  | some t => exact ho

theorem Gives.findSome {α : Type} {xs : List α} {f : α → Option State} (hf : ∀ {x}, Gives (f x)) :
    Gives (xs.findSome? f) := by
  cases ho : xs.findSome? f with
  | none => trivial
  | some t =>
    obtain ⟨x, -, hx⟩ := List.exists_of_findSome?_eq_some ho
    exact hf.some hx

/-- The state that an outcome gives, where it gives one, is canonical. -/
def Lands : Host.Outcome State Fault Refusal → Prop
  | .next t => t.Canonical
  | .fault _ | .refused _ => True

theorem Lands.ite {c : Prop} [Decidable c] {a b : Host.Outcome State Fault Refusal} (ha : Lands a) (hb : Lands b) :
    Lands (if c then a else b) := by
  split
  · exact ha
  · exact hb

end Sys2Proof.Machine
end

section
/-!
The four tables stay canonical: reports, faults, issue, the sequencer, the array and the schuss path.
`extract_lets` names the states that an operation passes through `s1`, `s2`, …
-/
namespace Sys2Proof.Machine

variable {s t : State}

/-! ## Ops -/

theorem State.Canonical.modCore (h : s.Canonical) {n : Nat} {f : Core → Core} : (s.modCore n f).Canonical := h.setCore
theorem State.Canonical.modPage (h : s.Canonical) {p : Nat} {f : Page → Page} : (s.modPage p f).Canonical := h.setPage
theorem State.Canonical.setReg (h : s.Canonical) {p off : Nat} {v : Word} : (s.setReg p off v).Canonical := h.modPage
theorem State.Canonical.count (h : s.Canonical) {p off k : Nat} : (s.count p off k).Canonical := h.modPage
theorem State.Canonical.modHost (h : s.Canonical) {f : HostSide → HostSide} : (s.modHost f).Canonical := h.rest
theorem State.Canonical.setContext (h : s.Canonical) {c : Nat} {x : Context} : (s.setContext c x).Canonical := h.modHost
theorem State.Canonical.setTask (h : s.Canonical) {t : Nat} {x : Option Task} : (s.setTask t x).Canonical := h.modHost

theorem State.Canonical.modJob (h : s.Canonical) {t : Nat} {f : Job → Job} : (s.modJob t f).Canonical := by
  unfold State.modJob
  split
  · exact h.setTask
  · exact h

theorem State.Canonical.setQueue (h : s.Canonical) {q : Nat} {x : Option Queue} : (s.setQueue q x).Canonical := h.modHost
theorem State.Canonical.setRing (h : s.Canonical) {r : Nat} {x : Option Ring} : (s.setRing r x).Canonical := h.modHost
theorem State.Canonical.setBundle (h : s.Canonical) {b : Nat} {x : Bundle} : (s.setBundle b x).Canonical := h.rest
theorem State.Canonical.modBundle (h : s.Canonical) {b : Nat} {f : Bundle → Bundle} : (s.modBundle b f).Canonical := h.setBundle

theorem State.Canonical.setTrv (h : s.Canonical) {p : TPort} {t : Traverse} : (s.setTrv p t).Canonical := by
  unfold State.setTrv
  split
  · exact h.rest
  · exact h.rest

theorem State.Canonical.modTrv (h : s.Canonical) {p : TPort} {f : Traverse → Traverse} : (s.modTrv p f).Canonical := h.setTrv
theorem State.Canonical.modLift (h : s.Canonical) {f : Lift → Lift} : (s.modLift f).Canonical := h.rest

theorem State.Canonical.modLiftPort (h : s.Canonical) {x : Side} {f : LiftPort → LiftPort} :
    (s.modLiftPort x f).Canonical := h.modLift

theorem State.Canonical.modChan (h : s.Canonical) {stack ch : Nat} {f : Chan → Chan} : (s.modChan stack ch f).Canonical :=
    h.rest

theorem State.Canonical.modDie (h : s.Canonical) {d : Nat} {f : Die → Die} : (s.modDie d f).Canonical := h.rest
theorem State.Canonical.emit (h : s.Canonical) {o : Out} : (s.emit o).Canonical := h.rest
theorem State.Canonical.countFree (h : s.Canonical) {p off : Nat} : (s.countFree p off).Canonical := h.modPage.rest
theorem State.Canonical.takeFree (h : s.Canonical) {k : Nat} : (s.takeFree k).Canonical := h.rest
theorem State.Canonical.sendVector (h : s.Canonical) {v : Nat} : (s.sendVector v).Canonical := h.modHost.ite h.count.emit

theorem State.Canonical.ringWrite (h : s.Canonical) {r : Nat} {n : Notice} : (s.ringWrite r n).Canonical := by
  unfold State.ringWrite
  split
  · exact h
  · exact h.emit.count.setRing.sendVector.ite h.emit.count.setRing

theorem State.Canonical.drainRing (h : s.Canonical) {fuel r : Nat} : (State.drainRing fuel s r).Canonical := by
  induction fuel generalizing s with
  | zero => exact h
  | succ fuel ih =>
    unfold State.drainRing
    split
    · exact h.rest
    · split
      · exact h
      · split
        · exact ih h.setRing.ringWrite
        · split
          · exact h
          · exact ih h.rest.ringWrite

theorem State.Canonical.logEntry (h : s.Canonical) {code : Word} {ctx id : Nat} : (s.logEntry code ctx id).Canonical := by
  unfold State.logEntry
  exact h.setReg.setReg.setReg.setReg.setReg.rest.modPage.ite h.setReg.setReg.setReg.setReg.setReg.rest

theorem State.Canonical.putNotice (h : s.Canonical) {r : Nat} {n : Notice} : (s.putNotice r n).Canonical := by
  unfold State.putNotice
  extract_lets -merge +onlyGivenNames s1
  have h1 : s1.Canonical := h.drainRing
  split
  · exact h1
  · exact h1.ringWrite.ite (h1.modHost.count.setReg.ite h1.setRing.count.modPage.logEntry)

theorem State.Canonical.tellNew (h : s.Canonical) {before : Word} {p bitNo : Nat} : (s.tellNew before p bitNo).Canonical :=
  h.putNotice.ite h

theorem State.Canonical.post (h : s.Canonical) {r : Nat} {n : Notice} : (s.post r n).Canonical :=
  h.putNotice.tellNew.tellNew.tellNew

theorem State.Canonical.faultLog (h : s.Canonical) {code : Word} {ctx id : Nat} : (s.faultLog code ctx id).Canonical :=
  h.logEntry.post.ite h.logEntry

theorem State.Canonical.postPageError (h : s.Canonical) {p bitNo : Nat} : (s.postPageError p bitNo).Canonical := by
  unfold State.postPageError
  extract_lets -merge +onlyGivenNames _ c _
  clear_value c
  split
  · exact h.post.ite h.post.post
  · exact h.post

theorem State.Canonical.fenceDue (h : s.Canonical) {p : Nat} {cause : Word} {journal : Bool} :
    (s.fenceDue p cause journal).Canonical := h.ite h.modPcore

theorem State.Canonical.raise (h : s.Canonical) {p bitNo : Nat} {info0 info1 : Word} :
    (s.raise p bitNo info0 info1).Canonical := by
  unfold State.raise
  split
  · exact h
  · extract_lets -merge +onlyGivenNames _ _ _ _ _ _ s1 s2
    have h1 : s1.Canonical := (h.modPage.postPageError.ite h.modPage).faultLog
    have h2 : s2.Canonical := by
      unfold s2
      split
      · exact h1.count
      · exact h1
    split
    · split
      · exact h2.fenceDue
      · exact h2
    · exact h2

theorem State.Canonical.faultLocal (h : s.Canonical) {t : Nat} {code : Word} : (s.faultLocal t code).Canonical := by
  unfold State.faultLocal
  split
  · exact h
  · split
    · exact h
    · exact (h.ite h.modJob).foldl fun hx => hx.modCore

theorem State.Canonical.sendMsg (h : s.Canonical) {x : Side} {m : LiftMsg} : (s.sendMsg x m).Canonical := h.emit

theorem State.Canonical.emitTrv (hs : s.Canonical) {p : TPort} {h : TrvHdr} {data : List Byte} :
    (s.emitTrv p h data).Canonical := hs.emit.count.ite hs.emit

theorem State.Canonical.sendTrv (hs : s.Canonical) {p : TPort} {h : TrvHdr} {data : List Byte} :
    (s.sendTrv p h data).Canonical := hs.modTrv.ite hs.emitTrv

theorem State.Canonical.sendAborts (h : s.Canonical) {p : TPort} {epoch : BitVec 16} {dsts : List (BitVec 15)} :
    (s.sendAborts p epoch dsts).Canonical := h.foldl fun hx => hx.sendTrv

theorem State.Canonical.discardTrv (h : s.Canonical) {p : TPort} {peers : List (BitVec 15)} :
    (s.discardTrv p peers).Canonical := (h.foldl fun hx => hx.modCore).modTrv

theorem State.Canonical.endTraverse (h : s.Canonical) : s.endTraverse.Canonical := h.foldl fun hx => hx.setReg.modTrv

theorem State.Canonical.abortTraverse (h : s.Canonical) {sends : Bool} {told : List (BitVec 15)} :
    (s.abortTraverse sends told).Canonical := by
  unfold State.abortTraverse
  exact (h.foldl fun hx => (hx.sendAborts.modTrv.ite hx).discardTrv).foldl fun hx => hx.modCore

theorem State.Canonical.tellPeers (h : s.Canonical) {j : Job} {lift traverse : Bool} :
    (s.tellPeers j lift traverse).Canonical := (h.sendMsg.ite h).abortTraverse.ite (h.sendMsg.ite h)

theorem State.Canonical.faultTask (h : s.Canonical) {t : Nat} {code : Word} : (s.faultTask t code).Canonical := by
  unfold State.faultTask
  split
  · exact h.faultLocal.ite h.faultLocal.tellPeers
  · exact h

theorem State.Canonical.faultCore (h : s.Canonical) {n p bitNo : Nat} : (s.faultCore n p bitNo).Canonical := by
  unfold State.faultCore
  split
  · exact h.faultTask
  · exact h.modCore

theorem State.Canonical.raiseFault (h : s.Canonical) {n k bitNo : Nat} {info0 info1 : Word} :
    (s.raiseFault n k bitNo info0 info1).Canonical := h.raise.faultCore

theorem State.Canonical.raiseHardware (h : s.Canonical) {n k bitNo : Nat} {info0 info1 : Word} :
    (s.raiseHardware n k bitNo info0 info1).Canonical := h.raise.ite h.raiseFault

/-! ## Issue -/

theorem State.Canonical.seqFault (h : s.Canonical) {n bitNo : Nat} : (s.seqFault n bitNo).Canonical := h.raiseFault
theorem State.Canonical.spmSource (h : s.Canonical) {n bitNo : Nat} : (s.spmSource n bitNo).Canonical := h.modPage

theorem State.Canonical.spmFault (h : s.Canonical) {n bitNo : Nat} {role : Role} {row : Nat} :
    (s.spmFault n bitNo role row).Canonical := h.spmSource.raiseFault

theorem State.Canonical.noteIssue (h : s.Canonical) {n : Nat} : (s.noteIssue n).Canonical := by
  unfold State.noteIssue
  split
  · exact h.modJob
  · exact h

theorem State.Canonical.advanceFrom (h : s.Canonical) {n at_ : Nat} : (s.advanceFrom n at_).Canonical :=
  h.modCore.noteIssue.count.ite h.modCore.noteIssue.count.count

theorem State.Canonical.advance (h : s.Canonical) {n : Nat} : (s.advance n).Canonical := h.advanceFrom
theorem State.Canonical.modSeq (h : s.Canonical) {n : Nat} {f : Seq → Seq} : (s.modSeq n f).Canonical := h.modCore
theorem State.Canonical.modSpm (h : s.Canonical) {n : Nat} {f : Spm → Spm} : (s.modSpm n f).Canonical := h.modCore

theorem State.Canonical.issue (h : s.Canonical) {n : Nat} {isRow : BitVec 128 → Bool} {bad : Core → BitVec 128 → Bool}
    {off on : BitVec 128 → State → State} (hoff : ∀ {x t}, t.Canonical → (off x t).Canonical)
    (hon : ∀ {x t}, t.Canonical → (on x t).Canonical) :
    (s.issue n isRow bad off on).Canonical := (h.seqFault.ite ((h.seqFault.ite ((hon h).ite (hoff h))).ite h)).ite h

theorem State.Canonical.passOff (h : s.Canonical) {n : Nat} : (s.passOff n).Canonical := h.count.advance

theorem State.Canonical.seqCommand (h : s.Canonical) {n op : Nat} {bad : Core → BitVec 128 → Bool}
    {f : BitVec 128 → Seq → Seq} :
    (s.seqCommand n op bad f).Canonical := h.issue (fun hx => hx.passOff) (fun hx => hx.modSeq.advance)

theorem State.Canonical.signalNow (h : s.Canonical) {n : Nat} {sg : Option (Byte × Byte)} : (s.signalNow n sg).Canonical :=
  h.modSpm

theorem State.Canonical.heldCommand (h : s.Canonical) {n op : Nat} {bad : Core → BitVec 128 → Bool}
    {act : BitVec 128 → State → State} (hact : ∀ {x t}, t.Canonical → (act x t).Canonical) :
    (s.heldCommand n op bad act).Canonical := h.issue (fun hx => hx.signalNow.passOff) (fun hx => (hact hx.modSpm).ite hx.count)

theorem State.Canonical.vary (h : s.Canonical) {n : Nat} : (s.vary n).Canonical := by
  unfold State.vary
  split
  · exact h.modJob
  · exact h

theorem State.Canonical.enqueue (h : s.Canonical) {n : Nat} {w : BitVec 128} {x : Capture} {races rivals : List Nat} :
    (s.enqueue n w x races rivals).Canonical := (h.modCore.ite h.modCore.count.vary).advance

theorem State.Canonical.engineOff (h : s.Canonical) {n : Nat} {w : BitVec 128} {req : Requester} :
    (s.engineOff n w req).Canonical := h.passOff.ite (h.signalNow.passOff.ite (h.count.ite h.modCore.passOff))

theorem State.Canonical.engineOnGated (h : s.Canonical) {n : Nat} {w : BitVec 128} {x : Capture}
    {gate : State → Option State} {onCollision : State → State} {perform : State → EngCmd → State}
    (hgate : ∀ {t}, t.Canonical → Gives (gate t)) (honCollision : ∀ {t}, t.Canonical → (onCollision t).Canonical)
    (hperform : ∀ {t x}, t.Canonical → (perform t x).Canonical) :
    (s.engineOnGated n w x gate onCollision perform).Canonical := by
  unfold State.engineOnGated
  split
  · exact h.seqFault
  · extract_lets -merge +onlyGivenNames _ _ _
    split
    · exact (honCollision h.spmFault).ite h.spmFault
    · split
      · next r hr => exact (hgate h).some hr
      · split
        · exact h.count
        · split
          · exact h.count
          · extract_lets -merge +onlyGivenNames _ _
            split
            · exact hperform h.enqueue
            · exact h.enqueue

theorem State.Canonical.engineOn (h : s.Canonical) {n : Nat} {w : BitVec 128} {x : Capture} {onCollision : State → State}
    {perform : State → EngCmd → State} (honCollision : ∀ {t}, t.Canonical → (onCollision t).Canonical)
    (hperform : ∀ {t x}, t.Canonical → (perform t x).Canonical) :
    (s.engineOn n w x onCollision perform).Canonical := h.engineOnGated (fun _ => trivial) honCollision hperform

theorem State.Canonical.engineCommand (h : s.Canonical) {n : Nat} {isRow : BitVec 128 → Bool}
    {bad : Core → BitVec 128 → Bool} {req : BitVec 128 → Requester} {cap : BitVec 128 → Core → Capture}
    {onCollision : State → State} {perform : State → EngCmd → State}
    (honCollision : ∀ {t}, t.Canonical → (onCollision t).Canonical)
    (hperform : ∀ {t x}, t.Canonical → (perform t x).Canonical) :
    (s.engineCommand n isRow bad req cap onCollision perform).Canonical :=
  h.issue (fun hx => hx.engineOff) (fun hx => hx.engineOn honCollision hperform)

theorem State.Canonical.spendRace (h : s.Canonical) {c : EngCmd} : (s.spendRace c).Canonical := h.ite h.takeFree

theorem State.Canonical.countRows (h : s.Canonical) {n reads writes : Nat} : (s.countRows n reads writes).Canonical :=
  (h.ite h.count).ite (h.ite h.count).count

theorem State.Canonical.markStage (h : s.Canonical) {n id : Nat} {st : Stage} : (s.markStage n id st).Canonical := h.modCore
theorem State.Canonical.complete (h : s.Canonical) {n : Nat} {c : EngCmd} : (s.complete n c).Canonical := h.modCore

theorem State.Canonical.countWait (h : s.Canonical) {n : Nat} {c : EngCmd} : (s.countWait n c).Canonical :=
  h.count.ite (h.count.ite h.count)

theorem State.Canonical.performed (h : s.Canonical) {n : Nat} {c : EngCmd} {reads writes : Nat} :
    (s.performed n c reads writes).Canonical := h.markStage.countRows.spendRace

theorem State.Canonical.writeFor (h : s.Canonical) {n : Nat} {c : EngCmd} {o : Operand} {rows : List Row} :
    (s.writeFor n c o rows).Canonical := h.modSpm

theorem State.Canonical.releaseFor (h : s.Canonical) {n : Nat} {o : Operand} : (s.releaseFor n o).Canonical := by
  unfold State.releaseFor
  split
  · exact h.modSpm
  · exact h

theorem State.Canonical.headerFault (h : s.Canonical) {n id : Nat} {xs : List (Fin 4 × Word)} :
    (s.headerFault n id xs).Canonical := h.modCore.faultCore

theorem State.Canonical.takeSlots (h : s.Canonical) {n id : Nat} {xs : List (Fin 4 × Word × List Nat)} :
    (s.takeSlots n id xs).Canonical := by
  induction xs generalizing s with
  | nil => exact h
  | cons x xs ih =>
    unfold State.takeSlots
    exact (ih h.modCore).ite (h.headerFault.ite h)

theorem State.Canonical.gather (h : s.Canonical) {n : Nat} {c : EngCmd} {srcs : List Operand} :
    (s.gather n c srcs).Canonical := h.takeSlots

theorem State.Canonical.releaseAll (h : s.Canonical) {n : Nat} {srcs : List Operand} : (s.releaseAll n srcs).Canonical :=
  h.foldl fun hx => hx.releaseFor

theorem State.Canonical.putItems (h : s.Canonical) {n id : Nat} {xs : List SlotItem} : (s.putItems n id xs).Canonical := by
  induction xs generalizing s with
  | nil => exact h.modCore
  | cons x xs ih =>
    unfold State.putItems
    exact (ih h.modSpm.countRows).ite h.modCore

theorem State.Canonical.pushOut (h : s.Canonical) {n : Nat} {c : EngCmd} : (s.pushOut n c).Canonical := by
  unfold State.pushOut
  extract_lets -merge +onlyGivenNames _
  split
  · exact h.putItems.markStage.ite h.putItems
  · exact h.putItems

theorem State.Canonical.deliverAll (h : s.Canonical) {n : Nat} {c : EngCmd} {writes : List (Operand × List Row)} :
    (s.deliverAll n c writes).Canonical := h.modSpm.countRows.markStage.pushOut

/-! ## Expander -/

theorem State.Canonical.countFeed (h : s.Canonical) {n : Nat} {f : Feed} {t : Shape} {skips : Bool} :
    (s.countFeed n f t skips).Canonical := h.count.count.count.count.count.countRows

theorem State.Canonical.modExp (h : s.Canonical) {n : Nat} {f : Exp → Exp} : (s.modExp n f).Canonical := h.modCore

theorem State.Canonical.performTload (h : s.Canonical) {n : Nat} {c : EngCmd} : (performTload n s c).Canonical := by
  unfold Machine.performTload
  extract_lets -merge +onlyGivenNames _
  split
  · split
    · exact h
    · split
      · exact h.count
      · split
        · exact h.count
        · extract_lets -merge +onlyGivenNames _ s1
          have h1 : s1.Canonical := h.countRows.releaseFor.spendRace
          exact h1.markStage.modExp.ite h1.modCore.raiseFault
  · exact h

theorem State.Canonical.execTableLoadDone (h : s.Canonical) {n : CoreId} {slot : Fin 8} :
    Lands (execTableLoadDone n slot s) := by
  unfold Machine.execTableLoadDone
  extract_lets -merge +onlyGivenNames _
  split
  · exact h.modExp.count.complete
  · exact h

/-! ## Sequencer -/

theorem State.Canonical.execNop (h : s.Canonical) {n : CoreId} : Lands (execNop n s) := by
  unfold Machine.execNop
  exact h.issue (fun hx => hx.signalNow.passOff) (fun hx => hx.modSpm.signalNow.advance.ite hx.count.count)

theorem State.Canonical.endCommand (h : s.Canonical) {n : Nat} : (endCommand s n).Canonical := by
  unfold Machine.endCommand
  extract_lets -merge +onlyGivenNames _ _ s1
  have h1 : s1.Canonical := h.noteIssue.count
  split
  · exact h1.modSeq
  · split
    · exact h.count
    · exact h1.modSeq
    · exact h1.modSeq.seqFault
    · exact h1.modSeq.seqFault

theorem State.Canonical.execFence (h : s.Canonical) {n : CoreId} : Lands (execFence n s) := by
  unfold Machine.execFence
  refine h.issue (fun hx => hx.signalNow.passOff) (fun hx => ?_)
  exact hx.count.count.ite (hx.count.ite hx.modSpm.signalNow.advance)

theorem State.Canonical.ldStall (h : s.Canonical) {n r : Nat} : (s.ldStall n r).Canonical := h.count.ite h

theorem State.Canonical.execLd (h : s.Canonical) {n : CoreId} : Lands (execLd n s) := by
  unfold Machine.execLd
  exact h.issue (fun hx => hx.passOff) (fun hx => hx.seqFault.ite (hx.count.ite hx.modSeq.advance.ldStall))

theorem State.Canonical.execSt (h : s.Canonical) {n : CoreId} : Lands (execSt n s) := by
  unfold Machine.execSt
  exact h.issue (fun hx => hx.passOff) (fun hx => hx.seqFault.ite (hx.count.ite hx.modSeq.advance))

theorem State.Canonical.execLoop (h : s.Canonical) {n : CoreId} : Lands (execLoop n s) := by
  unfold Machine.execLoop
  refine h.issue (fun hx => hx.count.advanceFrom) (fun hx => ?_)
  extract_lets -merge +onlyGivenNames _ _ _
  split
  · exact hx.seqFault
  · exact hx.seqFault.ite (hx.seqFault.ite (hx.advanceFrom.ite hx.noteIssue.modSeq.count.count))

theorem State.Canonical.execSetrng (h : s.Canonical) {n : CoreId} : Lands (execSetrng n s) :=
  h.issue (fun hx => hx.passOff) (fun hx => hx.modCore.advance)

/-! ## Tracks -/

theorem State.Canonical.trackGate (h : s.Canonical) {n opcode : Nat} : Gives (State.trackGate n opcode s) := by
  unfold State.trackGate
  exact Gives.ite (Gives.map h.raiseFault) trivial

theorem State.Canonical.trackIssued (h : s.Canonical) {n : Nat} {c : EngCmd} : (State.trackIssued n s c).Canonical :=
  h.modCore.ite h

theorem State.Canonical.trackDrain (h : s.Canonical) {n : Nat} {c : EngCmd} {fmt : Nat} {xs : List (Word64 × Nat)} :
    (s.trackDrain n c fmt xs).Canonical := h.modCore.count.count.ite h

/-! ## Array -/

theorem State.Canonical.modArr (h : s.Canonical) {n : Nat} {f : Arr → Arr} : (s.modArr n f).Canonical := h.modCore
theorem State.Canonical.modPart (h : s.Canonical) {n p : Nat} {f : Part → Part} : (s.modPart n p f).Canonical := h.modArr

theorem State.Canonical.stopPartition (h : s.Canonical) {n p source bitNo : Nat} :
    (s.stopPartition n p source bitNo).Canonical := h.modPart.modCore

theorem State.Canonical.execPart (h : s.Canonical) {n : CoreId} : Lands (execPart n s) := by
  unfold Machine.execPart
  refine h.heldCommand (fun hx => ?_)
  split
  · exact hx.raiseFault.stopPartition
  · exact (hx.foldl fun hy => hy.modPart).signalNow.advance

theorem State.Canonical.passCollision (h : s.Canonical) {n : Nat} : (passCollision n s).Canonical := h.stopPartition.count

theorem State.Canonical.execPass (h : s.Canonical) {n : CoreId} : Lands (execPass n s) := by
  unfold Machine.execPass
  refine h.engineCommand (fun hx => hx.passCollision) (fun hx => ?_)
  split
  · exact hx.modPart
  · exact hx

theorem State.Canonical.beginPass (h : s.Canonical) {n : Nat} {c : EngCmd} {x : PassP} {replay : Bool} :
    (s.beginPass n c x replay).Canonical := h.modCore.count.ite h.modPart.modCore

theorem State.Canonical.passFault (h : s.Canonical) {n : Nat} {c : EngCmd} {x : PassP} {replay : Bool} {bitNo : Nat} :
    (s.passFault n c x replay bitNo).Canonical := h.beginPass.raiseFault.modCore.stopPartition.count

theorem State.Canonical.settleLoads (h : s.Canonical) {n p : Nat} : (s.settleLoads n p).Canonical := by
  unfold State.settleLoads
  extract_lets -merge +onlyGivenNames _ _ _ s1
  have h1 : s1.Canonical := by
    unfold s1
    refine h.foldl fun hx => ?_
    split
    · exact hx.releaseFor
    · exact hx
  exact h1.modPart

theorem State.Canonical.countPass (h : s.Canonical) {n : Nat} {c : EngCmd} {x : PassP} {t : Shape} {feed : Option Feed}
    {rows entered : Nat} :
    (s.countPass n c x t feed rows entered).Canonical := by
  unfold State.countPass
  split
  · exact h
  · extract_lets -merge +onlyGivenNames _ s1 s2
    have h1 : s1.Canonical := h.modCore.countRows
    have h2 : s2.Canonical := by
      unfold s2
      split
      · exact h1.countFeed
      · exact h1
    exact h2.count.count

theorem State.Canonical.enterPass (h : s.Canonical) {n : Nat} {c : EngCmd} {x : PassP} {t : Shape} {g : Geom}
    {ws : Weights} {feed : Option Feed} {replay : Bool} :
    (s.enterPass n c x t g ws feed replay).Canonical := by
  unfold State.enterPass
  exact (h.beginPass.modPart.spendRace.ite h.beginPass.modPart.spendRace.releaseFor).settleLoads.countPass

theorem State.Canonical.feedFault (h : s.Canonical) {n : Nat} {c : EngCmd} {x : PassP} {t : Shape} {f : Feed}
    {e : FeedErr} {replay : Bool} :
    (s.feedFault n c x t f e replay).Canonical := (h.beginPass.ite h.beginPass.countFeed).raiseFault.modCore.stopPartition.count

theorem State.Canonical.abortPasses (h : s.Canonical) {n p step source bitNo : Nat} {hit : List Nat} :
    (s.abortPasses n p step source bitNo hit).Canonical := h.modPart.raise.ite h.raiseFault.modCore.stopPartition

theorem State.Canonical.passHeader (h : s.Canonical) {n : Nat} {c : EngCmd} {x : PassP} {replay : Bool}
    {bad : List (Fin 4 × Word)} :
    (s.passHeader n c x replay bad).Canonical := h.beginPass.modSpm.count.abortPasses

theorem State.Canonical.startPass (h : s.Canonical) {n : Nat} {c : EngCmd} {x : PassP} {t : Shape} {g : Geom} {replay : Bool} :
    (s.startPass n c x t g replay).Canonical := by
  unfold State.startPass
  extract_lets -merge +onlyGivenNames _ _ _
  split
  · exact h.passHeader
  · split
    · exact h
    · split
      · exact h.count.count
      · split
        · exact h.count.count.count
        · split
          · exact h.count
          · split
            · exact h.count
            · split
              · exact h.passFault
              · split
                · exact h.count
                · split
                  · exact h.passFault
                  · split
                    · exact h.feedFault
                    · exact h.enterPass

theorem State.Canonical.execPassStart (h : s.Canonical) {n : CoreId} {p : Fin 16} : Lands (execPassStart n p s) := by
  unfold Machine.execPassStart
  extract_lets -merge +onlyGivenNames _ _
  split
  · exact h
  · split
    · split
      · exact h
      · split
        · exact h.countWait
        · split
          · exact h.passFault
          · split
            · exact h.startPass
            · exact h
    · exact h

theorem State.Canonical.commitPass (h : s.Canonical) {n : Nat} {c : EngCmd} {x : PassP} {r : Running} :
    (s.commitPass n c x r).Canonical := (h.modArr.modPart.releaseFor.ite h.modArr.modPart).complete.settleLoads.count

theorem State.Canonical.execPassBoundary (h : s.Canonical) {n : CoreId} {p : Fin 16} : Lands (execPassBoundary n p s) := by
  unfold Machine.execPassBoundary
  extract_lets -merge +onlyGivenNames _
  split
  · exact h
  · split
    · exact h
    · split
      · exact Lands.ite h (Lands.ite h.count h.commitPass)
      · exact h

theorem State.Canonical.abortPass (h : s.Canonical) {n p cmd source bitNo : Nat} :
    (s.abortPass n p cmd source bitNo).Canonical := h.ite h.modPart.count.abortPasses

theorem State.Canonical.replayPass (h : s.Canonical) {n p id : Nat} : (State.replayPass n p s id).Canonical := by
  unfold State.replayPass
  extract_lets -merge +onlyGivenNames _ _
  split
  · split
    · split
      · exact h.startPass.ite h
      · exact h
    · exact h
  · exact h

theorem State.Canonical.accRange (h : s.Canonical) {n : Nat} {c : EngCmd} : (s.accRange n c).Canonical := h.modCore.raiseFault

theorem State.Canonical.performAcc (h : s.Canonical) {n : Nat} {c : EngCmd} : (performAcc n s c).Canonical := by
  unfold Machine.performAcc
  extract_lets -merge +onlyGivenNames _
  split
  · exact h.ite (h.accRange.ite (h.ite (h.count.ite h.writeFor.trackDrain.performed)))
  · exact h.ite (h.accRange.ite (h.ite h.modArr.performed))
  · exact h

theorem State.Canonical.execDrain (h : s.Canonical) {n : CoreId} : Lands (execDrain n s) := by
  unfold Machine.execDrain
  refine h.issue (fun hx => hx.engineOff) (fun hx => ?_)
  exact hx.engineOnGated (fun hy => hy.trackGate) id (fun hy => hy.trackIssued.performAcc)

theorem State.Canonical.execArrayHang (h : s.Canonical) {n : CoreId} {p : Fin 16} : Lands (execArrayHang n p s) := by
  unfold Machine.execArrayHang
  extract_lets -merge +onlyGivenNames _ _ _ _
  split
  · exact h
  · extract_lets -merge +onlyGivenNames _ _ _ _ s1
    have h1 : s1.Canonical := h.count.raise.modPart
    exact Lands.ite h1.modPart (h1.raiseFault.ite h1.faultCore).modCore.stopPartition

/-! ## LiftLink -/

theorem State.Canonical.setLink (h : s.Canonical) {x : Side} {lanes : BitVec 32} {state : Nat} :
    (s.setLink x lanes state).Canonical := (h.setReg.ite h.setReg.modLiftPort).foldl fun hx => hx.setReg

theorem State.Canonical.linkEventAt (h : s.Canonical) {x : Side} {bitNo : Nat} {seq : BitVec 16} :
    (s.linkEventAt x bitNo seq).Canonical := h.raise

theorem State.Canonical.linkEvent (h : s.Canonical) {x : Side} {bitNo : Nat} : (s.linkEvent x bitNo).Canonical := h.linkEventAt

theorem State.Canonical.emitFrame (hs : s.Canonical) {x : Side} {fcs : Fcs} {h : List Byte} {seq : BitVec 16}
    {data : List Byte} :
    (s.emitFrame x fcs h seq data).Canonical := (hs.count.ite hs).modLiftPort.emit.count

theorem State.Canonical.sendFrame (hs : s.Canonical) {x : Side} {h : FrameHdr} {data : List Byte} :
    (s.sendFrame x h data).Canonical := (hs.emitFrame.ite hs).modLiftPort

theorem State.Canonical.resendFrames (h : s.Canonical) {x : Side} : (s.resendFrames x).Canonical :=
  h.ite (h.foldl fun hx => hx.emitFrame).modLiftPort.count

theorem State.Canonical.protocolError (h : s.Canonical) {x : Side} {seq : BitVec 16} : (s.protocolError x seq).Canonical :=
  h.linkEventAt.setReg

theorem State.Canonical.setNak (h : s.Canonical) {x : Side} : (s.setNak x).Canonical := h.modLiftPort

theorem State.Canonical.linkFields (hs : s.Canonical) {x : Side} {h : List Byte} : (s.linkFields x h).Canonical :=
  hs.protocolError.ite (hs.modLiftPort.resendFrames.ite hs.modLiftPort)

theorem State.Canonical.screen (h : s.Canonical) {x : Side} {f : LiftFrame} {chair : Bool} {cut act : State → State}
    (hcut : ∀ {t}, t.Canonical → (cut t).Canonical) (hact : ∀ {t}, t.Canonical → (act t).Canonical) :
    (s.screen x f chair cut act).Canonical := by
  unfold State.screen
  split
  · exact h
  · split
    · exact h.count
    · exact h.count
    · exact hcut h
    · exact (hcut h).count.setNak.ite (hcut h).count
    · exact hact h

theorem State.Canonical.receive (h : s.Canonical) {x : Side} {f : LiftFrame} {mine : List Byte → Bool} {chair : Bool}
    {cut act : State → State} (hcut : ∀ {t}, t.Canonical → (cut t).Canonical)
    (hact : ∀ {t}, t.Canonical → (act t).Canonical) :
    (s.receive x f mine chair cut act).Canonical := h.screen hcut (fun hx => (hact hx.linkFields).ite hx)

theorem State.Canonical.receiveMsg (h : s.Canonical) {x : Side} {f : LiftFrame} {ftype : Nat} {act : State → State}
    (hact : ∀ {t}, t.Canonical → (act t).Canonical) :
    (s.receiveMsg x f ftype act).Canonical := h.screen id (fun hx => (hact hx).ite hx)

/-! ## Slice -/

theorem State.Canonical.modStr (h : s.Canonical) {n : Nat} {f : Str → Str} : (s.modStr n f).Canonical := h.modCore
theorem State.Canonical.wakeSlice (h : s.Canonical) {n : Nat} : (s.wakeSlice n).Canonical := h.modStr
theorem State.Canonical.enterSlice (h : s.Canonical) {n : Nat} {e : SliceWin} : (s.enterSlice n e).Canonical := h.modStr

theorem State.Canonical.sliceGate (h : s.Canonical) {n : Nat} {uses : Bool} : Gives (State.sliceGate n uses s) :=
  Gives.ite h.count trivial

theorem State.Canonical.setUnits (h : s.Canonical) {n : Nat} {xs : List (Nat × Row)} : (s.setUnits n xs).Canonical :=
  h.foldl fun hx => hx.setUnit

/-! ## Schuss -/

theorem State.Canonical.modSch (h : s.Canonical) {n : Nat} {f : Sch → Sch} : (s.modSch n f).Canonical := h.modCore
theorem State.Canonical.stopSchuss (h : s.Canonical) {n : Nat} : (s.stopSchuss n).Canonical := h.modCore

theorem State.Canonical.vloadHeader (h : s.Canonical) {n : Nat} {c : EngCmd} {bad : List (Fin 4 × Word)} :
    (s.vloadHeader n c bad).Canonical := h.modSpm.raiseFault.modCore.stopSchuss

theorem State.Canonical.performVload (h : s.Canonical) {n : Nat} {c : EngCmd} : (performVload n s c).Canonical := by
  unfold Machine.performVload
  split
  · extract_lets -merge +onlyGivenNames _ _
    split
    · exact h
    · split
      · exact h.vloadHeader
      · extract_lets -merge +onlyGivenNames _
        split
        · exact h.gather
        · exact h.gather.ite h.gather.modSch.count.performed
  · exact h

theorem State.Canonical.schussCollision (h : s.Canonical) {n : Nat} : (schussCollision n s).Canonical :=
  h.stopSchuss.count.ite h.stopSchuss

theorem State.Canonical.execVload (h : s.Canonical) {n : CoreId} : Lands (execVload n s) :=
  h.engineCommand (fun hx => hx.schussCollision) (fun hx => hx.performVload)

theorem State.Canonical.sweepIssued (h : s.Canonical) {n : Nat} {c : EngCmd} : (sweepIssued n s c).Canonical := by
  unfold Machine.sweepIssued
  split
  · exact h.enterSlice.ite h
  · exact h

theorem State.Canonical.execSweep (h : s.Canonical) {n : CoreId} : Lands (execSweep n s) := by
  unfold Machine.execSweep
  refine h.issue (fun hx => hx.engineOff) (fun hx => ?_)
  exact hx.engineOnGated (fun hy => hy.sliceGate) (fun hy => hy.schussCollision) (fun hy => hy.sweepIssued)

theorem State.Canonical.beginSweep (h : s.Canonical) {n : Nat} {c : EngCmd} {replay : Bool} :
    (s.beginSweep n c replay).Canonical := h.modCore.count.ite h.modCore

theorem State.Canonical.sweepFault (h : s.Canonical) {n : Nat} {c : EngCmd} {replay : Bool} {page bitNo : Nat}
    {info0 info1 : Word} :
    (s.sweepFault n c replay page bitNo info0 info1).Canonical := h.beginSweep.raiseFault.modCore.stopSchuss.count

theorem State.Canonical.countFeeds (h : s.Canonical) {n : Nat} {c : EngCmd} {feeds : List (SweepTile × Feed)} :
    (s.countFeeds n c feeds).Canonical := h.ite (h.foldl fun hx => hx.countFeed)

theorem State.Canonical.countSweep (h : s.Canonical) {n : Nat} {c : EngCmd} {x : SweepP} {tiles : List SweepTile}
    {feeds : List (SweepTile × Feed)} {pre : Nat} :
    (s.countSweep n c x tiles feeds pre).Canonical := by
  unfold State.countSweep
  exact h.ite (h.modCore.countRows.countFeeds.count.ite h.modCore.countRows.countFeeds).count

theorem State.Canonical.enterSweep (h : s.Canonical) {n : Nat} {c : EngCmd} {x : SweepP} {tiles : List SweepTile}
    {feeds : List (SweepTile × Feed)} {replay : Bool} :
    (s.enterSweep n c x tiles feeds replay).Canonical := h.beginSweep.modSch.spendRace.countSweep

theorem State.Canonical.abortSweeps (h : s.Canonical) {n step source bitNo : Nat} {hit : List Nat} :
    (s.abortSweeps n step source bitNo hit).Canonical := h.modSch.raise.ite h.raiseFault.modCore.stopSchuss

theorem State.Canonical.sweepHeader (h : s.Canonical) {n : Nat} {c : EngCmd} {replay : Bool} {bad : List (Fin 4 × Word)} :
    (s.sweepHeader n c replay bad).Canonical := h.beginSweep.modSpm.count.abortSweeps

theorem State.Canonical.startSweep (h : s.Canonical) {n : Nat} {c : EngCmd} {x : SweepP} {replay : Bool} :
    (s.startSweep n c x replay).Canonical := by
  unfold State.startSweep
  extract_lets -merge +onlyGivenNames _ _
  refine h.sweepHeader.ite (h.ite (h.count.ite (State.Canonical.ite ?_ (h.count.ite ?_))))
  · split
    · exact h.sweepFault
    · exact h.count.ite h.enterSweep
  · extract_lets -merge +onlyGivenNames s1
    have h1 : s1.Canonical := h.ite h.gather
    split
    · exact h1
    · refine h1.count.count.count.ite ?_
      extract_lets -merge +onlyGivenNames _ _
      split
      · exact h1.countFeeds.sweepFault
      · exact h1.enterSweep

theorem State.Canonical.execSweepStart (h : s.Canonical) {n : CoreId} : Lands (execSweepStart n s) := by
  unfold Machine.execSweepStart
  extract_lets -merge +onlyGivenNames _
  split
  · exact h
  · split
    · split
      · split
        · exact h.startSweep
        · exact h
      · exact h
    · split
      · exact h
      · split
        · split
          · exact h.countWait
          · split
            · exact h.sweepFault
            · exact h.startSweep
        · exact h

theorem State.Canonical.execSweepBoundary (h : s.Canonical) {n : CoreId} : Lands (execSweepBoundary n s) := by
  unfold Machine.execSweepBoundary
  extract_lets -merge +onlyGivenNames _
  split
  · exact h
  · split
    · exact h
    · split
      · exact Lands.ite h (Lands.ite h (h.modSch.releaseFor.ite h.modSch).complete.count)
      · exact h

theorem State.Canonical.abortSweep (h : s.Canonical) {n cmd source bitNo : Nat} :
    (s.abortSweep n cmd source bitNo).Canonical := h.ite h.modSch.count.abortSweeps

theorem State.Canonical.execSchussHang (h : s.Canonical) {n : CoreId} : Lands (execSchussHang n s) := by
  unfold Machine.execSchussHang
  extract_lets -merge +onlyGivenNames _ _ _
  split
  · exact h
  · extract_lets -merge +onlyGivenNames _ _ s1 _
    have h1 : s1.Canonical := h.count.raise
    exact Lands.ite h1.modSch.modSch (h1.modSch.raiseFault.ite h1.modSch.faultCore).modCore.stopSchuss

theorem State.Canonical.performSdrain (h : s.Canonical) {n : Nat} {c : EngCmd} : (performSdrain n s c).Canonical := by
  unfold Machine.performSdrain
  extract_lets -merge +onlyGivenNames _
  split
  · exact h.ite (h.raiseFault.modCore.stopSchuss.ite (h.ite (h.count.ite h.writeFor.trackDrain.performed)))
  · exact h

theorem State.Canonical.execSdrain (h : s.Canonical) {n : CoreId} : Lands (execSdrain n s) := by
  unfold Machine.execSdrain
  refine h.issue (fun hx => hx.engineOff) (fun hx => ?_)
  exact hx.engineOnGated (fun hy => hy.trackGate) (fun hy => hy.schussCollision) (fun hy => hy.trackIssued.performSdrain)

end Sys2Proof.Machine
end

section
/-!
The four tables stay canonical: the lift, the traverse, the row engine, the scratchpad and streams.
`extract_lets` names the states that an operation passes through `s1`, `s2`, …
-/
namespace Sys2Proof.Machine

variable {s t : State}

/-! ## Lift -/

theorem State.Canonical.liftEvent (h : s.Canonical) {ev pos side : Nat} : (s.liftEvent ev pos side).Canonical := h.post

theorem State.Canonical.abortLanding (h : s.Canonical) {n : Nat} : (s.abortLanding n).Canonical :=
  (h.modCore.ite h.modCore.count).ite (h.modCore.ite h.modCore.count).count

theorem State.Canonical.dropLift (h : s.Canonical) {linksStay : Bool} : (s.dropLift linksStay).Canonical :=
  h.modLiftPort.modLiftPort.modLift.foldl fun hx => hx.modCore

theorem State.Canonical.faultLift (h : s.Canonical) {bitNo : Nat} : (s.faultLift bitNo).Canonical := by
  unfold State.faultLift
  refine h.foldl fun hx => ?_
  split
  · extract_lets -merge +onlyGivenNames s1
    have h1 : s1.Canonical := (hx.foldl fun hy => hy.abortLanding).modJob
    exact h1.ite h1.faultLocal.tellPeers
  · exact hx

theorem State.Canonical.breakLift (h : s.Canonical) {pos side : Nat} : (s.breakLift pos side).Canonical :=
  h.modLift.raise.dropLift.faultLift.liftEvent

theorem State.Canonical.declareLoss (h : s.Canonical) {x : Side} {side : Nat} : (s.declareLoss x side).Canonical :=
  h.breakLift.sendMsg.ite h

theorem State.Canonical.deliberateBreak (h : s.Canonical) : s.deliberateBreak.Canonical := h.breakLift.sendMsg.sendMsg
theorem State.Canonical.rearm (h : s.Canonical) : s.rearm.Canonical := h.foldl fun hx => hx.modBundle.ite hx

theorem State.Canonical.stallLift (h : s.Canonical) {pos : Nat} : (s.stallLift pos).Canonical :=
  h.raise.faultLift.dropLift.liftEvent.rearm

theorem State.Canonical.execLiftNotice (h : s.Canonical) {side : Side} {stall : Framed Bool} {position : BitVec 7}
    {failedSide : BitVec 2} :
    Lands (execLiftNotice side stall position failedSide s) := by
  unfold Machine.execLiftNotice
  refine h.receiveMsg (fun hx => ?_)
  exact hx.ite ((hx.stallLift.ite hx.breakLift).sendMsg.ite (hx.stallLift.ite hx.breakLift))

theorem State.Canonical.execLinkRetrainDone (h : s.Canonical) {side : Side} {lanes : BitVec 32} :
    Lands (execLinkRetrainDone side lanes s) := by
  unfold Machine.execLinkRetrainDone
  split
  · exact h
  · exact Lands.ite h.count.setLink.linkEvent.modLiftPort.resendFrames h.count.setLink.linkEvent.declareLoss

theorem State.Canonical.freeEntries (h : s.Canonical) {x : Side} {k : Nat} : (s.freeEntries x k).Canonical := h.modLiftPort

theorem State.Canonical.settleHeld (h : s.Canonical) : s.settleHeld.Canonical := by
  unfold State.settleHeld
  extract_lets -merge +onlyGivenNames _ s1
  have h1 : s1.Canonical := by
    unfold s1
    refine h.foldl fun hx => ?_
    split
    · exact hx.freeEntries
    · exact hx
  exact h1.modLift

theorem State.Canonical.noRegion (hs : s.Canonical) {h : ChairHdr} {n : Nat} : (s.noRegion h n).Canonical :=
  hs.raise.foldl fun hx => hx.faultTask

theorem State.Canonical.badMask (hs : s.Canonical) {h : ChairHdr} {n : Nat} : (s.badMask h n).Canonical := hs.raise.modLift

theorem State.Canonical.sendChair (h : s.Canonical) {x : Side} {c : Chair} : (s.sendChair x c).Canonical :=
  (h.foldl fun hx => hx.sendFrame).modLiftPort

theorem State.Canonical.sendDemands (h : s.Canonical) {fuel : Nat} : (State.sendDemands fuel s).Canonical := by
  induction fuel generalizing s with
  | zero => exact h
  | succ fuel ih =>
    unfold State.sendDemands
    split
    · exact h
    · refine h.ite (ih ?_)
      exact h.sendFrame.modLiftPort.modLift.modLiftPort.count.ite h.sendFrame.modLiftPort.modLift.count

theorem State.Canonical.finishLap (h : s.Canonical) {d : Nat} : (s.finishLap d).Canonical := by
  unfold State.finishLap
  extract_lets -merge +onlyGivenNames _
  split
  · extract_lets -merge +onlyGivenNames s1
    have h1 : s1.Canonical := by
      unfold s1
      refine h.foldl fun hx => ?_
      split
      · exact hx.modSeq.markStage
      · exact hx
    exact h1.modLift.count
  · exact h

theorem State.Canonical.takeDemand (hs : s.Canonical) {h : ChairHdr} {bits : BitVec 256} :
    (s.takeDemand h bits).Canonical := (hs.modLift.modLiftPort.count.ite hs.modLift.modLift.sendDemands).finishLap

theorem State.Canonical.admitDemands (h : s.Canonical) {fuel : Nat} : (State.admitDemands fuel s).Canonical := by
  induction fuel generalizing s with
  | zero => exact h
  | succ fuel ih =>
    unfold State.admitDemands
    split
    · exact h
    · exact (ih h.modLiftPort.takeDemand).ite h

theorem State.Canonical.liftArg (h : s.Canonical) {n detail pos : Nat} {seq : Word} :
    (s.liftArg n detail pos seq).Canonical := h.raise.faultCore.modCore.modLift

theorem State.Canonical.launchIssued (h : s.Canonical) {n : Nat} {c : EngCmd} : (launchIssued n s c).Canonical := by
  unfold Machine.launchIssued
  split
  · exact h.modLift.enterSlice.ite h.modLift
  · exact h

theorem State.Canonical.performLaunch (h : s.Canonical) {n : Nat} {c : EngCmd} : (performLaunch n s c).Canonical := by
  unfold Machine.performLaunch
  extract_lets -merge +onlyGivenNames _
  split
  · extract_lets -merge +onlyGivenNames _
    split
    · exact h
    · split
      · exact h.liftArg
      · exact h.count.ite (h.count.ite (h.modLift.takeFree.ite h.modLift).performed)
  · exact h

theorem State.Canonical.execLaunch (h : s.Canonical) {n : CoreId} : Lands (execLaunch n s) := by
  unfold Machine.execLaunch
  refine h.issue (fun hx => hx.engineOff) (fun hx => ?_)
  exact hx.engineOnGated (fun hy => hy.sliceGate) id (fun hy => hy.launchIssued.ite hy.launchIssued.performLaunch)

theorem State.Canonical.performDemand (h : s.Canonical) {n : Nat} {c : EngCmd} : (performDemand n s c).Canonical := by
  unfold Machine.performDemand
  extract_lets -merge +onlyGivenNames _
  split
  · extract_lets -merge +onlyGivenNames _
    split
    · exact h
    · split
      · exact h.liftArg
      · split
        · exact h.liftArg
        · split
          · exact h.liftArg
          · split
            · exact h
            · extract_lets -merge +onlyGivenNames _ _ _ _ _ _ s1 _ _ _
              have h1 : s1.Canonical := h.modCore.markStage.modLift
              exact (h1.modLift.sendDemands.ite h1).finishLap.admitDemands
  · exact h

theorem State.Canonical.addGrad (h : s.Canonical) {x : Side} {c : Chair} {g : Contribution} : (s.addGrad x c g).Canonical := by
  unfold State.addGrad
  extract_lets -merge +onlyGivenNames _
  split
  · extract_lets -merge +onlyGivenNames _ _ _ s1
    have h1 : s1.Canonical := by
      unfold s1
      refine h.modLift.freeEntries.raise.foldl fun hx => ?_
      split
      · exact hx.ite hx.faultLocal.tellPeers
      · exact hx
    exact h1.deliberateBreak.ite h1
  · exact h.modLift.count.modLift.ite h.modLift.count.markStage.modLift

theorem State.Canonical.performGrad (h : s.Canonical) {n : Nat} {c : EngCmd} : (performGrad n s c).Canonical := by
  unfold Machine.performGrad
  extract_lets -merge +onlyGivenNames _
  split
  · split
    · exact h
    · split
      · exact h.liftArg
      · split
        · exact h.liftArg
        · split
          · exact h.liftArg
          · split
            · exact h
            · extract_lets -merge +onlyGivenNames _
              split
              · exact h.modLift.count.performed
              · extract_lets -merge +onlyGivenNames _ _ s1 _
                have h1 : s1.Canonical := h.modLift.performed.markStage
                split
                · exact h1.modLiftPort.addGrad
                · exact h1
  · exact h

theorem State.Canonical.sendOwn (h : s.Canonical) {d : Dir} {o : OwnChair} {c : Chair} : (s.sendOwn d o c).Canonical := by
  unfold State.sendOwn
  extract_lets -merge +onlyGivenNames _ _
  split
  · exact h.modLift.badMask
  · exact h.modLift.noRegion
  · exact h.modLift.sendChair.modLift.ite h.modLift.sendChair.modLift.modLift.count

theorem State.Canonical.sendHeld (hs : s.Canonical) {d : Dir} {h : Held} : (s.sendHeld d h).Canonical :=
  hs.sendChair.modLift.count.settleHeld

theorem State.Canonical.execChairSend (h : s.Canonical) {d : Dir} : Lands (execChairSend d s) := by
  unfold Machine.execChairSend
  extract_lets -merge +onlyGivenNames _
  split
  · exact h
  · extract_lets -merge +onlyGivenNames s1
    have h1 : s1.Canonical := h.sendDemands.ite h
    split
    · exact h1
    · split
      · exact h1.sendOwn
      · exact h1.sendHeld
      · exact h1

theorem State.Canonical.cutBad (h : s.Canonical) {x : Side} {f : LiftFrame} : (s.cutBad x f).Canonical := h.emitFrame.ite h

theorem State.Canonical.cutBadDemand (h : s.Canonical) {x : Side} {f : LiftFrame} : (s.cutBadDemand x f).Canonical :=
  h.emitFrame.ite h

theorem State.Canonical.chairArrived (h : s.Canonical) {x : Side} {c : Chair} {thr : Bool} :
    (s.chairArrived x c thr).Canonical := by
  unfold State.chairArrived
  split
  · exact h.freeEntries.badMask
  · split
    · exact h.freeEntries.noRegion
    · exact (h.count.ite (h.count.ite h)).modLift.settleHeld

theorem State.Canonical.takeFrame (h : s.Canonical) {x : Side} {f : LiftFrame} : (s.takeFrame x f).Canonical := by
  unfold State.takeFrame
  extract_lets -merge +onlyGivenNames _ _ _ _ _ s1
  have h1 : s1.Canonical := h.modLiftPort.count
  split
  · exact h1.modLiftPort
  · extract_lets -merge +onlyGivenNames s2 s3 _ _ _ s4
    have h2 : s2.Canonical := h1.modLiftPort
    have h3 : s3.Canonical := h2.modLiftPort.ite h2
    have h4 : s4.Canonical := (h3.sendFrame.modLiftPort.modLift.ite h3.sendFrame.modLiftPort).ite h3
    split
    · extract_lets -merge +onlyGivenNames _
      split
      · split
        · exact h4.addGrad
        · exact h4.modLiftPort
      · exact h4.chairArrived
    · exact h4

theorem State.Canonical.execDemandChairRx (h : s.Canonical) {side : Side} {f : LiftFrame} :
    Lands (execDemandChairRx side f s) := by
  unfold Machine.execDemandChairRx
  exact h.receive (fun hx => hx.cutBadDemand) (fun hx => hx.modLiftPort.count.modLiftPort.admitDemands)

theorem State.Canonical.execChairLand (h : s.Canonical) {n : CoreId} {hdrOk : Bool} : Lands (execChairLand n hdrOk s) := by
  unfold Machine.execChairLand
  split
  · exact h
  · split
    · exact Lands.ite h.count h
    · extract_lets -merge +onlyGivenNames _ _
      split
      · exact h.modLift.count.count
      · split
        · exact h.modSpm.raise.ite h.modSpm.raise.count
        · extract_lets -merge +onlyGivenNames _ _ _ _ s1 s2
          have h1 : s1.Canonical := h.modSpm.count.count.modLift
          have h2 : s2.Canonical := by
            unfold s2
            split
            · exact h1.markStage
            · exact h1
          exact h2.settleHeld

theorem State.Canonical.askQuiesce (h : s.Canonical) : s.askQuiesce.Canonical := h.modLift.sendMsg.ite h

theorem State.Canonical.enterQuiescent (h : s.Canonical) : s.enterQuiescent.Canonical :=
  (h.modLift.foldl fun hx => hx.modJob).liftEvent

theorem State.Canonical.execQuiesceFrame (h : s.Canonical) {second : Framed Bool} : Lands (execQuiesceFrame second s) := by
  unfold Machine.execQuiesceFrame
  refine h.receiveMsg (fun hx => ?_)
  split
  · exact (hx.ite hx.modLift.sendMsg).ite (hx.sendMsg.ite hx)
  · exact (hx.modLift.enterQuiescent.ite hx.enterQuiescent.sendMsg).ite hx

/-! ## TraverseLink -/

theorem State.Canonical.setTrvLink (h : s.Canonical) {p : TPort} {lanes : BitVec 8} {state : Nat} :
    (s.setTrvLink p lanes state).Canonical := (h.setReg.ite h.setReg.modTrv).foldl fun hx => hx.setReg

theorem State.Canonical.trvRaise (h : s.Canonical) {p : TPort} {bitNo detail core coord : Nat} :
    (s.trvRaise p bitNo detail core coord).Canonical := h.raise

theorem State.Canonical.trvFault (h : s.Canonical) {p : TPort} {bitNo detail core coord : Nat} :
    (s.trvFault p bitNo detail core coord).Canonical := h.trvRaise.foldl fun hx => hx.faultTask

theorem State.Canonical.modFlow (h : s.Canonical) {p : TPort} {peer : BitVec 15} {sends : Bool} {g : Flow → Flow} :
    (s.modFlow p peer sends g).Canonical := h.modTrv

theorem State.Canonical.useFlow (h : s.Canonical) {p : TPort} {peer : BitVec 15} {sends : Bool} {epoch : BitVec 16} :
    Gives (s.useFlow p peer sends epoch) := by
  unfold State.useFlow
  extract_lets -merge +onlyGivenNames _ _
  split
  · exact h.modTrv
  · extract_lets -merge +onlyGivenNames _
    split
    · exact h.modTrv
    · split
      · exact h.modTrv
      · trivial

theorem State.Canonical.flowPacket (h : s.Canonical) {p : TPort} {f : Flow} {type : Nat} {ece : Bool} :
    (s.flowPacket p f type ece).Canonical := h.sendTrv

theorem State.Canonical.sendAck (h : s.Canonical) {p : TPort} {peer : BitVec 15} : (s.sendAck p peer).Canonical := by
  unfold State.sendAck
  split
  · exact h.modFlow.flowPacket
  · exact h

theorem State.Canonical.sendNak (h : s.Canonical) {p : TPort} {peer : BitVec 15} : (s.sendNak p peer).Canonical := by
  unfold State.sendNak
  split
  · exact h.ite h.modFlow.flowPacket.count
  · exact h

theorem State.Canonical.trvReceive (h : s.Canonical) {p : TPort} {x : TrvPacket} {type : Nat} {f : TrvHdr → State → State}
    (hf : ∀ {x t}, t.Canonical → (f x t).Canonical) :
    (s.trvReceive p x type f).Canonical := h.ite ((h.count.sendNak.ite h.count).ite (h.ite (h.count.ite (hf h))))

theorem State.Canonical.cutRate (h : s.Canonical) {p : TPort} {peer : BitVec 15} {num den : Nat} :
    (s.cutRate p peer num den).Canonical := h.modFlow.count

theorem State.Canonical.resendFlow (h : s.Canonical) {p : TPort} {f : Flow} : (s.resendFlow p f).Canonical :=
  (h.foldl fun hx => hx.sendTrv).count

theorem State.Canonical.modMsg (h : s.Canonical) {p : TPort} {m : TrvMsg} {g : TrvMsg → TrvMsg} :
    (s.modMsg p m g).Canonical := h.modTrv

theorem State.Canonical.sendRequest (h : s.Canonical) {p : TPort} {m : TrvMsg} : (s.sendRequest p m).Canonical := h.sendTrv

theorem State.Canonical.sendPackets (h : s.Canonical) {fuel : Nat} {p : TPort} {m : TrvMsg} :
    (State.sendPackets fuel s p m).Canonical := by
  induction fuel generalizing s m with
  | zero => exact h
  | succ fuel ih =>
    unfold State.sendPackets
    split
    · exact h.ite (ih h.sendTrv.modTrv.modFlow.modMsg)
    · exact h

theorem State.Canonical.pumpMsg (h : s.Canonical) {p : TPort} {m : TrvMsg} : (State.pumpMsg p s m).Canonical := by
  unfold State.pumpMsg
  split
  · exact h
  · split
    · exact h
    · split
      · exact h
      · split
        · next r hr => exact (h.useFlow.some hr).sendPackets.ite (h.useFlow.some hr).modMsg.sendRequest
        · exact h

theorem State.Canonical.askShard (h : s.Canonical) {p : TPort} {peer : BitVec 15} {digest : BitVec 512}
    {position first count : Nat} :
    (s.askShard p peer digest position first count).Canonical := h.sendTrv

theorem State.Canonical.serveNext (h : s.Canonical) {p : TPort} {v : Serve} : (State.serveNext p s v).Canonical := by
  unfold State.serveNext
  split
  · exact h
  · extract_lets -merge +onlyGivenNames _
    split
    · exact h.modTrv.ite h.modTrv.pumpMsg
    · exact h.modTrv

theorem State.Canonical.takeAsk (h : s.Canonical) {p : TPort} {peer : BitVec 15} {ask : List Byte} :
    (s.takeAsk p peer ask).Canonical := by
  unfold State.takeAsk
  extract_lets -merge +onlyGivenNames _
  split
  · exact h.modTrv.emit.serveNext.ite h.emit
  · exact h.emit

theorem State.Canonical.pump (h : s.Canonical) {p : TPort} : (s.pump p).Canonical :=
  (h.foldl fun hx => hx.pumpMsg).foldl fun hx => hx.serveNext

theorem State.Canonical.execTrvPortTrained (h : s.Canonical) {port : TPort} {lanes : BitVec 8} :
    Lands (execTrvPortTrained port lanes s) := by
  unfold Machine.execTrvPortTrained
  exact Lands.ite h (Lands.ite h.setTrvLink.modTrv.emit.pump (h.setTrvLink.trvRaise.ite h.setTrvLink))

theorem State.Canonical.execPfcPauseEnd (h : s.Canonical) {port : TPort} {ns : Nat} : Lands (execPfcPauseEnd port ns s) :=
  Lands.ite (h.modTrv.foldl fun hx => hx.emitTrv).count.pump h

theorem State.Canonical.execTrvRtoExpiry (h : s.Canonical) {port : TPort} {peer : BitVec 15} :
    Lands (execTrvRtoExpiry port peer s) := by
  unfold Machine.execTrvRtoExpiry
  split
  · exact h
  · extract_lets -merge +onlyGivenNames s1
    have h1 : s1.Canonical := by
      unfold s1
      split
      · exact h
      · exact h.ite h.resendFlow.modFlow.cutRate
    exact h1.foldl fun hx => hx.sendRequest

/-! ## Clock -/

theorem State.Canonical.tickIf (h : s.Canonical) {p off : Nat} {c : Bool} : (s.tickIf p off c).Canonical := h.count.ite h
theorem State.Canonical.tickLift (h : s.Canonical) : s.tickLift.Canonical := h.tickIf.tickIf.foldl fun hx => hx.tickIf.tickIf
theorem State.Canonical.tickTrv (h : s.Canonical) : s.tickTrv.Canonical := h.foldl fun hx => hx.ite hx.count
theorem State.Canonical.idle (h : s.Canonical) : s.idle.Canonical := h.ite h.rest.tickIf.tickIf.tickIf.tickIf.tickLift.tickTrv

/-! ## RowEngine -/

theorem State.Canonical.modRow (h : s.Canonical) {n : Nat} {f : RowEng → RowEng} : (s.modRow n f).Canonical := h.modCore

theorem State.Canonical.rowFault (h : s.Canonical) {n routine bitNo code item : Nat} :
    (s.rowFault n routine bitNo code item).Canonical := h.raiseFault.modCore

theorem State.Canonical.rowEnd (h : s.Canonical) {n id : Nat} : (s.rowEnd n id).Canonical := by
  unfold State.rowEnd
  split
  · split
    · exact h.rowFault
    · exact h
  · exact h

theorem State.Canonical.performRowop (h : s.Canonical) {n : Nat} {c : EngCmd} : (performRowop n s c).Canonical := by
  unfold Machine.performRowop
  extract_lets -merge +onlyGivenNames _
  split
  · split
    · exact h.pushOut
    · split
      · exact h
      · split
        · exact h.rowFault
        · extract_lets -merge +onlyGivenNames _ _
          split
          · exact h.headerFault
          · split
            · exact h.count
            · exact h.countRows.count.count.spendRace.modRow.markStage.ite h.countRows.count.count.spendRace.deliverAll
  · exact h

theorem State.Canonical.rowop (h : s.Canonical) {n code : Nat} : (s.rowop n code).Canonical :=
  h.engineCommand id (fun hx => hx.performRowop)

/-! ## Book -/

theorem State.Canonical.callResult (h : s.Canonical) {n : Nat} {c : EngCmd} {v : BookEnv} {res : BookRes}
    {out : State → BookRes → State} (hout : ∀ {t x}, t.Canonical → (out t x).Canonical) :
    (s.callResult n c v res out).Canonical := (hout h.count.count.modCore).rowEnd

theorem State.Canonical.scatter (h : s.Canonical) {n : Nat} {c : EngCmd} {x : CallP} {got : List (List Row)} {v : BookEnv} :
    (s.scatter n c x got v).Canonical := h.callResult (fun hx => hx.markStage.pushOut.ite hx.modSpm.countRows.markStage)

theorem State.Canonical.performCall (h : s.Canonical) {n : Nat} {c : EngCmd} : (performCall n s c).Canonical := by
  unfold Machine.performCall
  extract_lets -merge +onlyGivenNames _
  split
  · split
    · exact h.pushOut.rowEnd
    · split
      · exact h
      · split
        · exact h.rowFault
        · extract_lets -merge +onlyGivenNames _ _
          split
          · exact h.headerFault
          · split
            · exact h.count
            · exact h.countRows.spendRace.scatter.ite (h.countRows.spendRace.callResult (fun hx => hx.deliverAll))
  · exact h

theorem State.Canonical.call (h : s.Canonical) {n r : Nat} : (s.call n r).Canonical :=
  h.engineCommand id (fun hx => hx.count.performCall)

/-! ## Scratchpad -/

theorem State.Canonical.performRowPath (h : s.Canonical) {n : Nat} {c : EngCmd} : (performRowPath n s c).Canonical := by
  unfold Machine.performRowPath
  extract_lets -merge +onlyGivenNames _
  split
  · exact h
  · split
    · exact h.modSeq.performed
    · exact h.writeFor.performed
    · exact h

theorem State.Canonical.execClaim (h : s.Canonical) {n : CoreId} : Lands (execClaim n s) := by
  unfold Machine.execClaim
  refine h.heldCommand (fun hx => ?_)
  extract_lets -merge +onlyGivenNames _ _ _
  split
  · exact hx.spmSource.raiseFault
  · exact (hx.modCore.ite hx.modCore.count).signalNow.advance

theorem State.Canonical.execRegion (h : s.Canonical) {n : CoreId} : Lands (execRegion n s) :=
  h.heldCommand (fun hx => hx.spmSource.raiseFault.ite hx.modSpm.signalNow.advance)

theorem State.Canonical.emptySlots (h : s.Canonical) {n id : Nat} {r : Fin 4} {xs : List Word} :
    (s.emptySlots n id r xs).Canonical := by
  induction xs generalizing s with
  | nil => exact h.markStage
  | cons x xs ih =>
    unfold State.emptySlots
    exact (ih h.modCore).ite h

theorem State.Canonical.performRelease (h : s.Canonical) {n : Nat} {c : EngCmd} : (performRelease n s c).Canonical := by
  unfold Machine.performRelease
  split
  · exact h.emptySlots.ite h
  · exact h

theorem State.Canonical.execSpmBistStart (h : s.Canonical) {pcore : Nat} {bank : Fin 48} :
    Lands (execSpmBistStart pcore bank s) := by
  unfold Machine.execSpmBistStart
  split
  · trivial
  · split
    · exact h
    · split
      · exact Lands.ite h.modSpm h
      · exact Lands.ite h h.modPcore

theorem State.Canonical.testOver (h : s.Canonical) {p : Nat} {failed : Bool} : (s.testOver p failed).Canonical :=
  h.modPcore.ite (h.count.count.ite h.count).modPcore

theorem State.Canonical.execSpmBistDone (h : s.Canonical) {pcore : Nat} {bank : Fin 48} {failing : List (Fin 512)} :
    Lands (execSpmBistDone pcore bank failing s) := by
  unfold Machine.execSpmBistDone
  split
  · trivial
  · split
    · exact h
    · extract_lets -merge +onlyGivenNames _ _ _ _ _ _
      split
      · extract_lets -merge +onlyGivenNames _
        split
        · extract_lets -merge +onlyGivenNames s1 _ _ s2 _ _ s3 _
          have h1 : s1.Canonical := h.modPcore.modHost.rest
          have h2 : s2.Canonical := h1.modSpm.count.ite h1.modSpm.count.count
          have h3 : s3.Canonical := h2.ite h2.raise
          exact (h3.raiseHardware.ite h3).testOver
        · exact h
      · split
        · exact Lands.ite h.modPcore.modHost.rest.testOver.rest.modPcore.raise h.modPcore.modHost.rest.testOver
        · exact h

/-! ## Stream -/

theorem State.Canonical.streamIssued (h : s.Canonical) {n : Nat} {c : EngCmd} : (streamIssued n s c).Canonical := by
  unfold Machine.streamIssued
  split
  · exact h.enterSlice
  · exact h

theorem State.Canonical.dropCmd (h : s.Canonical) {n id : Nat} : (s.dropCmd n id).Canonical := h.modCore

theorem State.Canonical.holdTags (h : s.Canonical) {n id quota count : Nat} : (s.holdTags n id quota count).Canonical :=
  h.modCore.countFree.ite h.modCore

theorem State.Canonical.streamOut (h : s.Canonical) {n : Nat} {c : EngCmd} {x : StreamP} {us : List Nat} :
    (s.streamOut n c x us).Canonical := by
  unfold State.streamOut
  extract_lets -merge +onlyGivenNames _ _ _ _
  split
  · exact h.gather
  · exact h.gather.setUnits.count.holdTags.performed.ite h.gather.setUnits.count.holdTags.countRows.count

theorem State.Canonical.performStream (h : s.Canonical) {move : Bool} {n : Nat} {c : EngCmd} :
    (performStream move n s c).Canonical := by
  unfold Machine.performStream
  extract_lets -merge +onlyGivenNames _
  split
  · extract_lets -merge +onlyGivenNames _
    split
    · exact h.pushOut
    · split
      · exact h
      · exact h.count
      · extract_lets -merge +onlyGivenNames _
        split
        · exact h.modStr.raiseFault.dropCmd
        · extract_lets -merge +onlyGivenNames _ _
          split
          · exact h.modStr.setUnits.count.holdTags.markStage.ite h.modStr.streamOut
          · exact (h.modStr.holdTags.ite h.modStr).ite (h.modStr.holdTags.ite h.modStr).count.deliverAll
  · exact h

theorem State.Canonical.execStream (h : s.Canonical) {n : CoreId} : Lands (execStream n s) := by
  unfold Machine.execStream
  refine h.issue (fun hx => hx.engineOff) (fun hx => ?_)
  exact hx.engineOnGated (fun hy => hy.sliceGate) id (fun hy => hy.streamIssued.performStream)

theorem State.Canonical.streamDone (h : s.Canonical) {n : Nat} {d : EngCmd} : (s.streamDone n d).Canonical := by
  unfold State.streamDone
  split
  · exact h.complete.count
  · exact h.complete

theorem State.Canonical.execStreamComplete (h : s.Canonical) {n : CoreId} {c : Fin 16} : Lands (execStreamComplete n c s) := by
  unfold Machine.execStreamComplete
  split
  · exact h
  · split
    · exact h
    · split
      · exact h.streamDone
      · extract_lets -merge +onlyGivenNames s1
        have h1 : s1.Canonical := h.performStream
        split
        · exact Lands.ite h1.streamDone h1
        · exact h1

theorem State.Canonical.execStreamHang (h : s.Canonical) {n : CoreId} {c : Fin 16} : Lands (execStreamHang n c s) := by
  unfold Machine.execStreamHang
  extract_lets -merge +onlyGivenNames _
  split
  · exact h
  · split
    · exact h
    · exact Lands.ite h h.raiseFault.dropCmd

theorem State.Canonical.modDrill (h : s.Canonical) {n : Nat} {f : Drill → Drill} : (s.modDrill n f).Canonical := h.modStr
theorem State.Canonical.drillBad (h : s.Canonical) {n : Nat} : (s.drillBad n).Canonical := h.modDrill.raise

theorem State.Canonical.drillWrite (h : s.Canonical) {n : Nat} {xs : List (Nat × Row)} : (s.drillWrite n xs).Canonical :=
  h.setUnits.rest

theorem State.Canonical.startDrill (h : s.Canonical) {n : Nat} {preset : Option Nat} {code : SMap Word64}
    {next : Option (Option Nat × SMap Word64)} :
    (s.startDrill n preset code next).Canonical := h.modDrill

theorem State.Canonical.drillStep (h : s.Canonical) {n op : Nat} {body : Word64 → State → State}
    (hbody : ∀ {x t}, t.Canonical → (body x t).Canonical) :
    (s.drillStep n op body).Canonical := by
  unfold State.drillStep
  split
  · extract_lets -merge +onlyGivenNames _ _
    split
    · exact h.drillBad
    · split
      · split
        · exact h.count
        · exact hbody h.modStr
      · exact h
  · exact h

theorem State.Canonical.drillDone (h : s.Canonical) {n : Nat} : (s.drillDone n).Canonical := h.modDrill

theorem State.Canonical.execDloop (h : s.Canonical) {n : CoreId} : Lands (execDloop n s) := by
  unfold Machine.execDloop
  exact h.drillStep (fun hx => hx.drillBad.ite (hx.modDrill.modDrill.ite hx.modDrill.modDrill))

theorem State.Canonical.execDfill (h : s.Canonical) {n : CoreId} : Lands (execDfill n s) := by
  unfold Machine.execDfill
  refine h.drillStep (fun hx => ?_)
  split
  · exact hx.drillBad
  · exact hx.drillWrite.takeFree.count.drillDone

theorem State.Canonical.markRow (h : s.Canonical) {n u : Nat} : (s.markRow n u).Canonical := h.modChan

theorem State.Canonical.execDcheck (h : s.Canonical) {n : CoreId} : Lands (execDcheck n s) := by
  unfold Machine.execDcheck
  refine h.drillStep (fun hx => ?_)
  split
  · exact hx.drillBad
  · exact (hx.foldl fun hy => hy.markRow).setReg.modDrill.takeFree.count.drillDone

theorem State.Canonical.drillMove (h : s.Canonical) {n : Nat} {load : Bool} {w : Word64} :
    (s.drillMove n load w).Canonical := by
  unfold State.drillMove
  split
  · exact h.drillBad
  · exact h.drillBad.ite (h.modSpm.ite h.drillWrite).count.drillDone

theorem State.Canonical.execDend (h : s.Canonical) {n : CoreId} : Lands (execDend n s) := by
  unfold Machine.execDend
  refine h.drillStep (fun hx => ?_)
  split
  · exact hx.startDrill
  · exact hx.modDrill

theorem State.Canonical.startSliceTest (h : s.Canonical) {n : Nat} : (s.startSliceTest n).Canonical := h.setReg.startDrill

theorem State.Canonical.zeroUnits (h : s.Canonical) {n base len : Nat} : (s.zeroUnits n base len).Canonical :=
  h.drillWrite.count.modStr

theorem State.Canonical.zeroExtent (h : s.Canonical) {n base len : Nat} : (s.zeroExtent n base len).Canonical := h.setUnits

/-! ## Traverse -/

theorem State.Canonical.landRows (h : s.Canonical) {n : Nat} {seq : Word} {total off : Nat} {rows : List Row} :
    (s.landRows n seq total off rows).Canonical := h.modSpm.count

theorem State.Canonical.modOpen (h : s.Canonical) {p : TPort} {core cmd : Nat} {g : TrvOpen → TrvOpen} :
    (s.modOpen p core cmd g).Canonical := h.modTrv

theorem State.Canonical.sendCopies (h : s.Canonical) {p : TPort} {o : TrvOpen} {phase : Nat} {rows : Nat → List Row} :
    (s.sendCopies p o phase rows).Canonical := h.modTrv.pump

theorem State.Canonical.landOwn (h : s.Canonical) {p : TPort} {core cmd : Nat} : (s.landOwn p core cmd).Canonical := by
  unfold State.landOwn
  split
  · exact h
  · exact h.landRows.modOpen.ite h

theorem State.Canonical.tryFinish (h : s.Canonical) {p : TPort} {core cmd : Nat} : (s.tryFinish p core cmd).Canonical := by
  unfold State.tryFinish
  split
  · exact h
  · exact (h.modOpen.ite h.modTrv).markStage.ite h

theorem State.Canonical.reduceDone (h : s.Canonical) {p : TPort} {core cmd : Nat} : (s.reduceDone p core cmd).Canonical := by
  unfold State.reduceDone
  split
  · exact h
  · extract_lets -merge +onlyGivenNames _ _ _ _ _ _ _ s1 s2
    have h1 : s1.Canonical := (h.modSpm.count.count.modOpen.ite h).modOpen
    have h2 : s2.Canonical := by
      unfold s2
      split
      · exact h1.sendCopies.ite h1
      · exact h1
    exact h2.landOwn.tryFinish

theorem State.Canonical.matchOpen (h : s.Canonical) {p : TPort} {core cmd : Nat} : (s.matchOpen p core cmd).Canonical := by
  unfold State.matchOpen
  split
  · exact h
  · extract_lets -merge +onlyGivenNames _
    split
    · exact h.trvFault
    · exact h.modOpen

theorem State.Canonical.travIssued (h : s.Canonical) {n : Nat} {c : EngCmd} : (travIssued n s c).Canonical := by
  unfold Machine.travIssued
  split
  · exact h.enterSlice.ite h
  · exact h

theorem State.Canonical.trvArg (h : s.Canonical) {n : Nat} {c : EngCmd} {x : TravP} {detail : Nat} :
    (s.trvArg n c x detail).Canonical := h.trvRaise.faultCore.dropCmd

theorem State.Canonical.startSend (h : s.Canonical) {n : Nat} {c : EngCmd} {x : TravP} : (s.startSend n c x).Canonical :=
  h.performed.markStage.modTrv.pump

theorem State.Canonical.startRecv (h : s.Canonical) {n : Nat} {c : EngCmd} {x : TravP} : (s.startRecv n c x).Canonical :=
  h.modCore.markStage.modTrv.matchOpen

theorem State.Canonical.startColl (h : s.Canonical) {n : Nat} {c : EngCmd} {x : TravP} {k : Nat} :
    (s.startColl n c x k).Canonical := by
  unfold State.startColl
  extract_lets -merge +onlyGivenNames _ _ _ _ _ _ _ _ _ _ _ s1 _ s2 s3
  have h1 : s1.Canonical := h.modCore.performed.markStage
  have h2 : s2.Canonical := (h1.vary.ite h1).modTrv
  have h3 : s3.Canonical := h2.sendCopies.ite (h2.sendCopies.ite ((h2.sendCopies.ite h2).ite h2.sendCopies))
  exact h3.matchOpen.landOwn.tryFinish

theorem State.Canonical.performTrav (h : s.Canonical) {n : Nat} {c : EngCmd} : (performTrav n s c).Canonical := by
  unfold Machine.performTrav
  extract_lets -merge +onlyGivenNames _
  split
  · split
    · exact h.landOwn.tryFinish
    · split
      · exact h
      · split
        · exact h
        · split
          · exact h.count
          · split
            · exact h.count
            · split
              · exact h.trvArg
              · split
                · exact h.startSend
                · exact h.startRecv
                · exact h.startColl
  · exact h

theorem State.Canonical.travCommand (h : s.Canonical) {n : Nat} {isRow : BitVec 128 → Bool} {reduce : Bool} :
    (s.travCommand n isRow reduce).Canonical := by
  unfold State.travCommand
  refine h.issue (fun hx => hx.engineOff) (fun hx => ?_)
  exact hx.engineOnGated (fun hy => hy.sliceGate) id (fun hy => hy.travIssued.performTrav)

theorem State.Canonical.completeMsgs (h : s.Canonical) {p : TPort} {peer : BitVec 15} : (s.completeMsgs p peer).Canonical := by
  unfold State.completeMsgs
  split
  · exact h
  · exact h.foldl fun hx => hx.modTrv.ite (hx.modTrv.count.tryFinish.ite hx.modTrv.count.markStage)

theorem State.Canonical.takeAck (h : s.Canonical) {p : TPort} {peer : BitVec 15} {ack : Word} {ece : Bool} :
    (s.takeAck p peer ack ece).Canonical := by
  unfold State.takeAck
  split
  · exact h
  · exact ((h.modFlow.ite h).cutRate.modFlow.ite (h.modFlow.ite h)).completeMsgs.pump

theorem State.Canonical.execTrvNak (h : s.Canonical) {port : TPort} {p : TrvPacket} : Lands (execTrvNak port p s) := by
  unfold Machine.execTrvNak
  refine h.trvReceive (fun hx => ?_)
  extract_lets -merge +onlyGivenNames _ _
  split
  · exact hx.takeAck.resendFlow
  · exact hx.takeAck

theorem State.Canonical.execTrvRequest (h : s.Canonical) {port : TPort} {p : TrvPacket} : Lands (execTrvRequest port p s) := by
  unfold Machine.execTrvRequest
  refine h.trvReceive (fun hx => ?_)
  split
  · exact hx.takeAsk
  · split
    · exact hx.sendTrv.ite hx
    · extract_lets -merge +onlyGivenNames _ _
      split
      · exact hx.modTrv
      · split
        · exact hx.modTrv.matchOpen
        · exact hx.modTrv

theorem State.Canonical.execGrantIssue (h : s.Canonical) {port : TPort} {index : Nat} :
    Lands (execGrantIssue port index s) := by
  unfold Machine.execGrantIssue
  split
  · exact h
  · exact Lands.ite h h.modTrv.sendTrv

theorem State.Canonical.execTrvGrant (h : s.Canonical) {port : TPort} {p : TrvPacket} : Lands (execTrvGrant port p s) := by
  unfold Machine.execTrvGrant
  refine h.trvReceive (fun hx => ?_)
  split
  · exact hx
  · exact hx.modMsg.modOpen.modTrv.tryFinish.ite hx.modMsg.modOpen.pumpMsg

theorem State.Canonical.modReq (hs : s.Canonical) {p : TPort} {h : TrvHdr} {g : TrvReq → TrvReq} :
    (s.modReq p h g).Canonical := hs.modTrv

theorem State.Canonical.dropReq (hs : s.Canonical) {p : TPort} {h : TrvHdr} : (s.dropReq p h).Canonical := hs.modTrv

theorem State.Canonical.takeSegment (h : s.Canonical) {p : TPort} {r : TrvReq} {off : Nat} {rows : List Row} {whole : Bool} :
    (s.takeSegment p r off rows whole).Canonical := by
  unfold State.takeSegment
  split
  · exact h
  · exact h.setUnits.rest.modBundle.ite h.setUnits

theorem State.Canonical.takeContribution (h : s.Canonical) {p : TPort} {o : TrvOpen} {rank off : Nat} {rows : List Row} :
    (s.takeContribution p o rank off rows).Canonical := h.landRows.count.ite h.modOpen.count

theorem State.Canonical.applyData (hs : s.Canonical) {p : TPort} {h : TrvHdr} {rows : List Row} :
    (s.applyData p h rows).Canonical := by
  unfold State.applyData
  split
  · exact hs
  · extract_lets -merge +onlyGivenNames _ _ _ s1
    have h1 : s1.Canonical := by
      unfold s1
      split
      · exact hs.modReq.takeSegment
      · split
        · exact hs.modReq.landRows.count
        · split
          · exact hs.modReq
          · extract_lets -merge +onlyGivenNames _
            split
            · exact hs.modReq.setUnits.count.modOpen
            · split
              · exact (hs.modReq.takeContribution.modOpen.reduceDone.ite hs.modReq.takeContribution.modOpen).ite hs.modReq.takeContribution
              · exact hs.modReq.landRows.count.modOpen.ite hs.modReq.landRows.count
    split
    · extract_lets -merge +onlyGivenNames s2
      have h2 : s2.Canonical := h1.dropReq
      split
      · exact h2.tryFinish
      · exact h2
    · exact h1

theorem State.Canonical.execTrvDataPacket (h : s.Canonical) {port : TPort} {p : TrvPacket} :
    Lands (execTrvDataPacket port p s) := by
  unfold Machine.execTrvDataPacket
  refine h.trvReceive (fun hx => ?_)
  extract_lets -merge +onlyGivenNames _ s1
  have h1 : s1.Canonical := hx.count.ite hx
  split
  · exact h1
  · next r hr =>
    extract_lets -merge +onlyGivenNames s2 _
    have h2 : s2.Canonical := (h1.useFlow.some hr).modFlow.ite (h1.useFlow.some hr)
    split
    · exact h2
    · split
      · exact h2.modTrv.modFlow.takeAck.applyData.sendAck.ite h2.modTrv.modFlow.takeAck.applyData
      · exact h2.sendAck.ite h2.sendNak

theorem State.Canonical.execTrvAbort (h : s.Canonical) {port : TPort} {p : TrvPacket} : Lands (execTrvAbort port p s) := by
  unfold Machine.execTrvAbort
  refine h.trvReceive (fun hx => ?_)
  split
  · exact hx
  · extract_lets -merge +onlyGivenNames _ _ s1
    have h1 : s1.Canonical := by
      unfold s1
      refine hx.trvRaise.foldl fun hy => ?_
      split
      · exact hy.ite hy.faultLocal.tellPeers
      · exact hy
    exact h1.abortTraverse

end Sys2Proof.Machine
end

section
/-!
The four tables stay canonical: fences, jobs, queues, contexts, bundles and launches.
`extract_lets` names the states that an operation passes through `s1`, `s2`, …
-/
namespace Sys2Proof.Machine

variable {s t : State}

/-! ## Faults -/

theorem State.Canonical.regate (h : s.Canonical) : s.regate.Canonical :=
  h.foldl fun hx => hx.modPcore.ite (hx.modPcore.count.ite hx)

theorem State.Canonical.markFenced (h : s.Canonical) {p core : Nat} : (s.markFenced p core).Canonical :=
  (h.modPcore.rest.ite h.modPcore).count.raise.raise

theorem State.Canonical.discardReturns (h : s.Canonical) {n : Nat} : (s.discardReturns n).Canonical := h.ite h.count.modCore

theorem State.Canonical.unhost (h : s.Canonical) {n p : Nat} {code : Word} : (s.unhost n p code).Canonical := by
  unfold State.unhost
  extract_lets -merge +onlyGivenNames s1 _ _
  have h1 : s1.Canonical := h.discardReturns
  split
  · exact h1.rest.raise.faultTask
  · exact h1.rest.raise

theorem State.Canonical.moveCore (h : s.Canonical) {n old new : Nat} {stuck : List (Fin 16)} :
    (s.moveCore n old new stuck).Canonical := by
  unfold State.moveCore
  extract_lets -merge +onlyGivenNames _ _ _ _ _ s1 _ s2
  have h1 : s1.Canonical := h.discardReturns.modCore.count.modSpm.rest.modPcore
  have h2 : s2.Canonical := by
    refine State.Canonical.ite ?_ h1
    split
    · exact h1.faultTask
    · exact h1
  exact h2.count.count

theorem State.Canonical.execCoreMove (h : s.Canonical) {stuck : List (Fin 16)} : Lands (execCoreMove stuck s) := by
  unfold Machine.execCoreMove
  split
  · exact h
  · split
    · exact h
    · extract_lets -merge +onlyGivenNames _
      split
      · exact h.markFenced.regate
      · split
        · extract_lets -merge +onlyGivenNames s1
          have h1 : s1.Canonical := h.markFenced
          split
          · exact Lands.ite h1.raise h1.moveCore.regate
          · exact h1.unhost.regate
        · exact h.unhost.modPcore.regate

theorem State.Canonical.staleCopies (h : s.Canonical) {n : Nat} : (s.staleCopies n).Canonical := h.modLift

theorem State.Canonical.execScheduleEffect (h : s.Canonical) : Lands (execScheduleEffect s) := by
  unfold Machine.execScheduleEffect
  split
  · exact Lands.ite h.rest.staleCopies.count h
  · exact h

theorem State.Canonical.execRouteFail (h : s.Canonical) {d e : Fin 4} : Lands (execRouteFail d e s) := by
  unfold Machine.execRouteFail
  extract_lets -merge +onlyGivenNames _
  split
  · trivial
  · split
    · exact h
    · refine h.rest.foldl fun hx => ?_
      split
      · exact hx.raise.ite hx
      · exact hx

theorem State.Canonical.abortConsumers (h : s.Canonical) {n slot : Nat} : (s.abortConsumers n slot).Canonical := by
  unfold State.abortConsumers
  extract_lets -merge +onlyGivenNames _ _ s1
  have h1 : s1.Canonical := by
    unfold s1
    refine h.foldl fun hx => ?_
    extract_lets -merge +onlyGivenNames _
    split
    · exact hx
    · exact hx.modPart.count.modCore
  split
  · exact h1
  · exact h1.modSch.count.modCore

theorem State.Canonical.execDescEcc (h : s.Canonical) {n : CoreId} {d : Fin 1024} : Lands (execDescEcc n d s) := by
  unfold Machine.execDescEcc
  split
  · exact Lands.ite h.raiseFault.dropCmd h
  · exact h

theorem State.Canonical.faultAll (h : s.Canonical) {code : Word} : (s.faultAll code).Canonical := h.foldl fun hx => hx.faultTask
theorem State.Canonical.haltPart (h : s.Canonical) : s.haltPart.Canonical := h.raise.rest

theorem State.Canonical.execArraySelfTestDone (h : s.Canonical) {pcore : Nat} {failed : Option (Fin 16)} :
    Lands (execArraySelfTestDone pcore failed s) := by
  unfold Machine.execArraySelfTestDone
  split
  · trivial
  · extract_lets -merge +onlyGivenNames _
    split
    · extract_lets -merge +onlyGivenNames _ _ s1
      have h1 : s1.Canonical := h.rest.modPcore.count
      split
      · exact h1.regate
      · exact h1.count.raise.fenceDue.regate
    · exact h

/-! ## Jobs -/

theorem State.Canonical.hashed (h : s.Canonical) {k : Nat} : (s.hashed k).Canonical := h.count

theorem State.Canonical.execTrackKeyClose (h : s.Canonical) {n : CoreId} : Lands (execTrackKeyClose n s) := by
  unfold Machine.execTrackKeyClose
  split
  · exact h
  · extract_lets -merge +onlyGivenNames _
    split
    · exact h
    · exact Lands.ite h h.setCore.count

theorem State.Canonical.mergeRings (h : s.Canonical) {t : Nat} {x : Task} : (s.mergeRings t x).Canonical :=
  h.foldl fun hx => hx.ite hx.modJob.modCore

theorem State.Canonical.execTrackRecordClose (h : s.Canonical) {task : Fin 64} : Lands (execTrackRecordClose task s) := by
  unfold Machine.execTrackRecordClose
  split
  · exact h
  · split
    · exact h
    · extract_lets -merge +onlyGivenNames s1
      have h1 : s1.Canonical := h.mergeRings
      split
      · exact h1
      · split
        · exact h1
        · exact Lands.ite h1.modJob.hashed.post h1

theorem State.Canonical.execTrackStall (h : s.Canonical) {n : CoreId} : Lands (execTrackStall n s) := by
  unfold Machine.execTrackStall
  split
  · exact h
  · split
    · exact h
    · exact h.raiseFault

theorem State.Canonical.endJob (h : s.Canonical) {t outcome : Nat} : (s.endJob t outcome).Canonical := by
  unfold State.endJob
  split
  · exact h
  · split
    · exact h
    · extract_lets -merge +onlyGivenNames _ _ _ s1 s2 _
      have h1 : s1.Canonical := h.hashed.modHost.count.foldl fun hx => hx.modCore
      have h2 : s2.Canonical := h1.modLift.ite h1
      exact (h2.endTraverse.ite h2).setTask.post

theorem State.Canonical.execJobComplete (h : s.Canonical) {task : Fin 64} : Lands (execJobComplete task s) := by
  unfold Machine.execJobComplete
  split
  · exact h
  · split
    · exact h
    · exact Lands.ite h.endJob h

theorem State.Canonical.execJobFaultEnd (h : s.Canonical) {task : Fin 64} : Lands (execJobFaultEnd task s) := by
  unfold Machine.execJobFaultEnd
  split
  · exact h
  · split
    · exact h
    · exact Lands.ite h.endJob h

theorem State.Canonical.execProvenanceSigned (h : s.Canonical) {job : Word64} : Lands (execProvenanceSigned job s) := by
  unfold Machine.execProvenanceSigned
  split
  · exact h
  · exact Lands.ite h (h.modHost.count.ite h.modHost)

/-! ## Queue -/

theorem State.Canonical.doorBad (h : s.Canonical) {detail number : Nat} : (s.doorBad detail number).Canonical := h.raise

theorem State.Canonical.execSqDoorbell (h : s.Canonical) {bits : Nat} {value : Word64} :
    Lands (execSqDoorbell bits value s) := by
  unfold Machine.execSqDoorbell
  extract_lets -merge +onlyGivenNames _
  split
  · exact h
  · split
    · exact h.doorBad
    · split
      · exact h.doorBad
      · exact Lands.ite h.doorBad h.setQueue.count

theorem State.Canonical.fireRing (h : s.Canonical) {r : Nat} {x : Ring} : (s.fireRing r x).Canonical :=
    h.setRing.sendVector.ite h

theorem State.Canonical.execHeadDoorbell (h : s.Canonical) {bits : Nat} {value : Word64} :
    Lands (execHeadDoorbell bits value s) := by
  unfold Machine.execHeadDoorbell
  extract_lets -merge +onlyGivenNames _
  split
  · exact h
  · split
    · exact h.doorBad
    · split
      · exact h.doorBad
      · exact Lands.ite h.doorBad (Lands.ite h.count.raise h.count.setRing.fireRing)

theorem State.Canonical.execNoticeBacklogDrain (h : s.Canonical) : Lands (execNoticeBacklogDrain s) := by
  unfold Machine.execNoticeBacklogDrain
  split
  · exact h
  · split
    · exact h
    · exact h.drainRing

theorem State.Canonical.answer (h : s.Canonical) {q : Nat} {e : List Byte} {after status detail : Nat} :
    (s.answer q e after status detail).Canonical := by
  unfold State.answer
  split
  · exact h
  · exact h.post.ite h

theorem State.Canonical.finish (h : s.Canonical) {q : Nat} {c : Started} {status detail : Nat} :
    (s.finish q c status detail).Canonical := by
  unfold State.finish
  split
  · exact h
  · exact h.setQueue.answer

theorem State.Canonical.hostError (h : s.Canonical) {q : Nat} {c : Started} : (s.hostError q c).Canonical := h.raise.finish

theorem State.Canonical.execCommandFetch (h : s.Canonical) {q : BitVec 20} {entry : Option (List Byte)} :
    Lands (execCommandFetch q entry s) := by
  unfold Machine.execCommandFetch
  split
  · exact h
  · split
    · exact h
    · extract_lets -merge +onlyGivenNames _ _
      split
      · exact h.setQueue.raise.answer
      · exact Lands.ite h.setQueue.count.raise.answer (Lands.ite h.setQueue.answer h.setQueue)

theorem State.Canonical.startEntry (h : s.Canonical) {q : Nat} {x : Queue} {f : Fetched} :
    (s.startEntry q x f).1.Canonical := h.setQueue.count.count.ite h.setQueue.count

theorem State.Canonical.queueRow (h : s.Canonical) {q : BitVec 20} {op : Nat}
    {onward : State → Nat → Started → Option State} {start : State → Nat → Started → State}
    (honward : ∀ {t x y}, t.Canonical → Gives (onward t x y)) (hstart : ∀ {t x y}, t.Canonical → (start t x y).Canonical)
    :
    (s.queueRow q op onward start).Canonical := by
  unfold State.queueRow
  split
  · exact h
  · split
    · exact h
    · split
      · next r hr => exact (Gives.findSome (honward h)).some hr
      · split
        · exact h
        · exact (hstart h.startEntry).ite h

theorem State.Canonical.withFields (h : s.Canonical) {q : Nat} {c : Started} {own : List (Nat × Bool)} {k : State → State}
    (hk : ∀ {t}, t.Canonical → (k t).Canonical) :
    (s.withFields q c own k).Canonical := by
  unfold State.withFields
  split
  · exact h.finish
  · exact hk h

theorem State.Canonical.admin (h : s.Canonical) {q : Nat} {c : Started} {own : List (Nat × Bool)} {k : State → State}
    (hk : ∀ {t}, t.Canonical → (k t).Canonical) :
    (s.admin q c own k).Canonical := h.finish.ite (h.withFields hk)

theorem State.Canonical.onTask (h : s.Canonical) {q : Nat} {c : Started} {k : State → Task → State}
    (hk : ∀ {t x}, t.Canonical → (k t x).Canonical) :
    (s.onTask q c k).Canonical := by
  unfold State.onTask
  split
  · exact h.finish
  · exact (hk h).ite h.finish

theorem State.Canonical.execQueueNop (h : s.Canonical) {q : BitVec 20} : Lands (execQueueNop q s) :=
  h.queueRow (fun _ => trivial) (fun hx => hx.withFields (fun hy => hy.finish))

theorem State.Canonical.execFlush (h : s.Canonical) {q : BitVec 20} : Lands (execFlush q s) := by
  unfold Machine.execFlush
  split
  · exact h
  · split
    · exact h.queueRow (fun _ => trivial) (fun hx => hx.withFields (fun hy => (hy.ite hy.count).finish))
    · exact h

/-! ## Contexts -/

theorem State.Canonical.killTask (h : s.Canonical) {t : Nat} : (s.killTask t).Canonical := by
  unfold State.killTask
  split
  · exact h
  · extract_lets -merge +onlyGivenNames s1
    have h1 : s1.Canonical := by
      unfold s1
      split
      · exact h
      · exact ((h.tellPeers.ite h).dropLift.ite (h.tellPeers.ite h)).endJob
    exact h1.foldl fun hx => hx.modCore

theorem State.Canonical.freeTask (h : s.Canonical) {t : Nat} : (s.freeTask t).Canonical := by
  unfold State.freeTask
  split
  · exact h
  · exact (h.setTask.foldl fun hx => hx.modCore).regate

theorem State.Canonical.killQueue (h : s.Canonical) {q : Nat} : (s.killQueue q).Canonical := by
  unfold State.killQueue
  split
  · exact h
  · exact ((h.foldl fun hx => hx.answer).foldl fun hx => hx.answer).setQueue

theorem State.Canonical.killContext (h : s.Canonical) {c : Nat} : (s.killContext c).Canonical := by
  unfold State.killContext
  exact ((h.foldl fun hx => hx.killTask.freeTask.ite hx).foldl fun hx => hx.killQueue).setContext

theorem State.Canonical.execCtxCreate (h : s.Canonical) {q : BitVec 20} : Lands (execCtxCreate q s) := by
  unfold Machine.execCtxCreate
  refine h.queueRow (fun _ => trivial) (fun hx => ?_)
  exact hx.admin (fun hy => hy.finish.ite (hy.finish.ite hy.setContext.finish))

theorem State.Canonical.execCtxKill (h : s.Canonical) {q : BitVec 20} : Lands (execCtxKill q s) := by
  unfold Machine.execCtxKill
  exact h.queueRow (fun hx => Gives.ite hx.finish trivial) (fun hx => hx.admin (fun hy => hy.killContext.ite hy.finish))

theorem State.Canonical.execSqCreate (h : s.Canonical) {q : BitVec 20} : Lands (execSqCreate q s) := by
  unfold Machine.execSqCreate
  exact h.queueRow (fun _ => trivial) (fun hx => hx.admin (fun hy => hy.finish.ite hy.setQueue.finish))

theorem State.Canonical.execSqDelete (h : s.Canonical) {q : BitVec 20} : Lands (execSqDelete q s) := by
  unfold Machine.execSqDelete
  refine h.queueRow (fun hx => ?_) (fun hx => ?_)
  · extract_lets -merge +onlyGivenNames _
    split
    · exact Gives.ite hx.setQueue.finish trivial
    · exact hx.finish
  · refine hx.admin (fun hy => ?_)
    split
    · exact hy.finish
    · exact hy.setQueue

theorem State.Canonical.execRingCreate (h : s.Canonical) {q : BitVec 20} : Lands (execRingCreate q s) :=
  h.queueRow (fun _ => trivial) (fun hx => hx.admin (fun hy => hy.setRing.finish))

theorem State.Canonical.execRingDelete (h : s.Canonical) {q : BitVec 20} : Lands (execRingDelete q s) := by
  unfold Machine.execRingDelete
  refine h.queueRow (fun _ => trivial) (fun hx => ?_)
  exact hx.admin (fun hy => hy.finish.ite (hy.finish.ite hy.setRing.modHost.finish))

theorem State.Canonical.execPcoreFence (h : s.Canonical) {q : BitVec 20} : Lands (execPcoreFence q s) := by
  unfold Machine.execPcoreFence
  exact h.queueRow (fun hx => Gives.ite hx.finish trivial) (fun hx => hx.admin (fun hy => hy.finish.ite hy.fenceDue))

theorem State.Canonical.tryTest (h : s.Canonical) {kind id : Nat} : (s.tryTest kind id).Canonical := by
  unfold State.tryTest
  split
  · exact h.ite h.modPcore.regate
  · split
    · exact h.wakeSlice.startSliceTest.modHost.ite h
    · exact h
  · exact h

theorem State.Canonical.execSelfTest (h : s.Canonical) {q : BitVec 20} : Lands (execSelfTest q s) := by
  unfold Machine.execSelfTest
  refine h.queueRow (fun hx => ?_) (fun hx => hx.admin (fun hy => hy.modHost.tryTest))
  exact Gives.ite hx.finish (Gives.ite hx.tryTest trivial)

theorem State.Canonical.execHbmAlloc (h : s.Canonical) {q : BitVec 20} : Lands (execHbmAlloc q s) := by
  unfold Machine.execHbmAlloc
  refine h.queueRow (fun _ => trivial) (fun hx => ?_)
  exact hx.withFields (fun hy => hy.finish.ite (hy.finish.ite hy.setContext.finish))

theorem State.Canonical.execHbmFree (h : s.Canonical) {q : BitVec 20} : Lands (execHbmFree q s) := by
  unfold Machine.execHbmFree
  refine h.queueRow (fun hx => Gives.ite trivial hx.finish) (fun hx => ?_)
  exact hx.withFields (fun hy => hy.setContext.ite (hy.finish.ite hy.finish))

theorem State.Canonical.execTaskCreate (h : s.Canonical) {q : BitVec 20} : Lands (execTaskCreate q s) := by
  unfold Machine.execTaskCreate
  refine h.queueRow (fun hx => ?_) (fun hx => ?_)
  · split
    · exact Gives.ite trivial hx.finish
    · exact hx.finish
  · exact hx.withFields (fun hy => hy.finish.ite (hy.setTask.foldl fun hz => hz.modCore.wakeSlice).regate)

theorem State.Canonical.execTaskKill (h : s.Canonical) {q : BitVec 20} : Lands (execTaskKill q s) := by
  unfold Machine.execTaskKill
  refine h.queueRow (fun hx => ?_) (fun hx => ?_)
  · extract_lets -merge +onlyGivenNames _
    split
    · exact Gives.ite trivial hx.freeTask.finish
    · exact hx.finish
  · exact hx.withFields (fun hy => hy.onTask (fun hz => hz.killTask))

theorem State.Canonical.hostReset (h : s.Canonical) : s.hostReset.Canonical :=
  (h.foldl fun hx => hx.killContext.ite hx).modHost.setReg

theorem State.Canonical.resetPage (h : s.Canonical) {p : Nat} : (s.resetPage p).Canonical := h.modPage

theorem State.Canonical.functionReset (h : s.Canonical) : s.functionReset.Canonical :=
  (h.hostReset.resetPage.resetPage.setReg.foldl fun hx => hx.setReg).count

theorem State.Canonical.sendPending (h : s.Canonical) : s.sendPending.Canonical := h.modHost.foldl fun hx => hx.sendVector

theorem State.Canonical.execVectorUnmask (h : s.Canonical) {vector : Option (Fin 2048)} :
    Lands (execVectorUnmask vector s) := by
  unfold Machine.execVectorUnmask
  extract_lets -merge +onlyGivenNames s1
  have h1 : s1.Canonical := by
    unfold s1
    split
    · exact h.modHost
    · exact h.modHost
  exact h1.sendPending

/-! ## Bundles -/

theorem State.Canonical.bundleNotice (h : s.Canonical) {b event code item : Nat} :
    (s.bundleNotice b event code item).Canonical := h.post.foldl fun hx => hx.post

theorem State.Canonical.countChecks (h : s.Canonical) {m d : List Byte} {err : Option Nat} :
    (s.countChecks m d err).Canonical := h.hashed.ite h.hashed.count

theorem State.Canonical.zeroBundle (h : s.Canonical) {b : Nat} : (s.zeroBundle b).Canonical := h.rest.modBundle

theorem State.Canonical.refuseLoad (h : s.Canonical) {b code : Nat} : (s.refuseLoad b code).Canonical :=
  h.zeroBundle.modBundle.bundleNotice

theorem State.Canonical.placeLoad (h : s.Canonical) {fuel b : Nat} : (State.placeLoad fuel s b).Canonical := by
  induction fuel generalizing s with
  | zero => exact h.refuseLoad
  | succ fuel ih =>
    unfold State.placeLoad
    extract_lets
    split
    · exact (h.foldl fun hx => hx.wakeSlice).modBundle
    · split
      · exact ih h.zeroBundle
      · exact h.refuseLoad

theorem State.Canonical.sendCircuit (h : s.Canonical) {b : Nat} : (s.sendCircuit b).Canonical := by
  unfold State.sendCircuit
  split
  · split
    · exact h
    · exact h.sendMsg
  · exact h

theorem State.Canonical.addAdmits (h : s.Canonical) {t : Nat} {slots : List Nat} {k : Nat} :
    (s.addAdmits t slots k).Canonical := by
  unfold State.addAdmits
  split
  · exact h
  · split
    · exact h
    · exact h.foldl fun hx => hx.modCore

theorem State.Canonical.admitHeld (h : s.Canonical) {b : Nat} : (s.admitHeld b).Canonical := by
  unfold State.admitHeld
  refine h.foldl fun hx => ?_
  split
  · exact hx.addAdmits.modJob.modBundle
  · exact hx

theorem State.Canonical.cancelSwap (h : s.Canonical) {b code : Nat} : (s.cancelSwap b code).Canonical :=
  h.modBundle.admitHeld.bundleNotice

theorem State.Canonical.commitSwap (h : s.Canonical) {b : Nat} : (s.commitSwap b).Canonical := h.modBundle

theorem State.Canonical.release (h : s.Canonical) {f : ResRing} : (s.release f).Canonical := by
  unfold State.release
  extract_lets -merge +onlyGivenNames _
  split
  · exact h.modBundle.bundleNotice.ite h
  · exact h.commitSwap.ite h
  · extract_lets -merge +onlyGivenNames _
    split
    · exact h.cancelSwap.ite h
    · exact h.modBundle.bundleNotice.ite h
    · exact h

theorem State.Canonical.endCircuit (h : s.Canonical) {f : ResRing} : (s.endCircuit f).Canonical := h.modBundle.sendMsg

theorem State.Canonical.takeRing (h : s.Canonical) {f : ResRing} : (s.takeRing f).Canonical := by
  unfold State.takeRing
  extract_lets -merge +onlyGivenNames _
  split
  · exact h
  · split
    · exact h.release.sendMsg.ite (h.modBundle.ite h).sendMsg
    · exact h.release.ite (h.ite (h.endCircuit.ite (h.endCircuit.ite h)))

theorem State.Canonical.execResidencyRing (h : s.Canonical) {f : LiftFrame} : Lands (execResidencyRing f s) := by
  unfold Machine.execResidencyRing
  refine h.receiveMsg (fun hx => ?_)
  split
  · exact hx.takeRing
  · exact hx

theorem State.Canonical.execRingTimeout (h : s.Canonical) {slot : Fin 64} : Lands (execRingTimeout slot s) := by
  unfold Machine.execRingTimeout
  extract_lets -merge +onlyGivenNames _
  split
  · exact h
  · split
    · exact h.cancelSwap
    · exact Lands.ite h.modBundle.bundleNotice h
    · exact h

theorem State.Canonical.refuseBundle (h : s.Canonical) {q : Nat} {c : Started} {m : List Byte} {code : Nat} :
    (s.refuseBundle q c m code).Canonical := h.modBundle.finish

theorem State.Canonical.checkBundle (h : s.Canonical) {q : Nat} {c : Started} {manifest directory : Option (List Byte)}
    {k : State → List Byte → List Byte → State} (hk : ∀ {t x y}, t.Canonical → (k t x y).Canonical) :
    (s.checkBundle q c manifest directory k).Canonical := by
  unfold State.checkBundle
  split
  · exact h.hostError
  · split
    · exact h.refuseBundle
    · split
      · exact h.countChecks.refuseBundle
      · split
        · exact h.finish.modBundle.bundleNotice.ite h.hostError
        · extract_lets -merge +onlyGivenNames s1
          have h1 : s1.Canonical := h.countChecks
          split
          · exact h1.refuseBundle
          · exact hk h1

theorem State.Canonical.askSegments (h : s.Canonical) {b first count : Nat} : (s.askSegments b first count).Canonical := by
  unfold State.askSegments
  extract_lets -merge +onlyGivenNames _
  split
  · exact h.askShard
  · exact h

theorem State.Canonical.tryLoad (h : s.Canonical) {manifest directory : Option (List Byte)} {q : Nat} {c : Started} :
    (State.tryLoad manifest directory s q c).Canonical := by
  unfold State.tryLoad
  exact h.checkBundle (fun hx => hx.rest.modBundle.finish.placeLoad.askSegments.sendCircuit)

theorem State.Canonical.execBundleLoad (h : s.Canonical) {q : BitVec 20} {manifest directory : Option (List Byte)} :
    Lands (execBundleLoad q manifest directory s) := by
  unfold Machine.execBundleLoad
  extract_lets attempt
  have hattempt {t q c} (ht : t.Canonical) : (attempt t q c).Canonical := by
    unfold attempt
    split
    · exact ht.ite ht.tryLoad
    · exact ht
    all_goals exact ht.finish
  exact h.queueRow (fun hx => Gives.ite trivial (hattempt hx)) fun hx => hx.withFields hattempt

theorem State.Canonical.execSegDone (h : s.Canonical) {q : BitVec 20} : Lands (execSegDone q s) := by
  unfold Machine.execSegDone
  refine h.queueRow (fun hx => ?_) (fun hx => ?_)
  · split
    · exact Gives.ite trivial hx.finish
    · exact hx.finish
  · refine hx.withFields (fun hy => ?_)
    split
    · exact hy.rest.modBundle.ite hy.finish
    · exact hy.finish

theorem State.Canonical.execSegmentHashed (h : s.Canonical) {slot : Fin 64} {segment : Nat} :
    Lands (execSegmentHashed slot segment s) := by
  unfold Machine.execSegmentHashed
  extract_lets -merge +onlyGivenNames _
  split
  · exact h
  · split
    · exact h
    · extract_lets -merge +onlyGivenNames _ s1
      have h1 : s1.Canonical := h.hashed.rest
      split
      · exact Lands.ite h1.modBundle.modBundle.bundleNotice.sendCircuit h1.modBundle
      · exact h1.modBundle.bundleNotice.askSegments

theorem State.Canonical.swapFailed (h : s.Canonical) {b : Nat} : (s.swapFailed b).Canonical := by
  unfold State.swapFailed
  extract_lets -merge +onlyGivenNames s1 _
  have h1 : s1.Canonical := h.modBundle.bundleNotice
  exact (h1.stallLift.sendMsg.ite h1).foldl fun hx => hx.faultTask.modJob

theorem State.Canonical.execLoadTimeout (h : s.Canonical) {slot : Fin 64} : Lands (execLoadTimeout slot s) := by
  unfold Machine.execLoadTimeout
  extract_lets -merge +onlyGivenNames _ _ _
  split
  · exact h
  · split
    · exact h.refuseLoad.endCircuit.ite h.refuseLoad
    · split
      · exact h.endCircuit.ite h
      · exact h
    · split
      · exact h.endCircuit.ite h
      · exact h
    · exact Lands.ite h.swapFailed h
    · exact h
    · exact h

theorem State.Canonical.trySwap (h : s.Canonical) {manifest directory : Option (List Byte)} {q : Nat} {c : Started} :
    (State.trySwap manifest directory s q c).Canonical := by
  unfold State.trySwap
  refine h.checkBundle (fun hx => ?_)
  extract_lets -merge +onlyGivenNames _
  split
  · exact hx.refuseBundle
  · exact hx.refuseBundle.ite (hx.modBundle.finish.sendCircuit.ite hx.modBundle.finish.commitSwap)

theorem State.Canonical.execSwap (h : s.Canonical) {q : BitVec 20} {manifest directory : Option (List Byte)} :
    Lands (execSwap q manifest directory s) := by
  unfold Machine.execSwap
  exact h.queueRow (fun _ => trivial) (fun hx => hx.withFields (fun hy => hy.trySwap.ite hy.finish))

theorem State.Canonical.swapDone (h : s.Canonical) {b : Nat} : (s.swapDone b).Canonical := by
  unfold State.swapDone
  extract_lets -merge +onlyGivenNames _ s1 s2
  have h1 : s1.Canonical := by
    unfold s1
    refine h.foldl fun hx => ?_
    split
    · exact hx.modJob.modBundle
    · exact hx
  have h2 : s2.Canonical := h1.modBundle
  exact h2.bundleNotice.ite h2.bundleNotice.sendCircuit

theorem State.Canonical.execSlotVerified (h : s.Canonical) {slot : Fin 64} : Lands (execSlotVerified slot s) := by
  unfold Machine.execSlotVerified
  extract_lets -merge +onlyGivenNames _ _
  split
  · extract_lets -merge +onlyGivenNames s1 s2
    have h1 : s1.Canonical := by
      unfold s1
      refine h.foldl fun hx => ?_
      split
      · exact hx.addAdmits
      · exact hx
    have h2 : s2.Canonical := h1.modBundle
    exact h2.swapDone.ite h2
  · exact h

theorem State.Canonical.submit (h : s.Canonical) {t b count : Nat} : (s.submit t b count).Canonical := by
  unfold State.submit
  split
  · exact h
  · exact (h.modJob.addAdmits.addAdmits.ite h.modJob.addAdmits).modBundle

theorem State.Canonical.execBatch (h : s.Canonical) {q : BitVec 20} : Lands (execBatch q s) := by
  unfold Machine.execBatch
  refine h.queueRow (fun _ => trivial) (fun hx => ?_)
  refine hx.withFields (fun hy => ?_)
  refine hy.onTask (fun hz => ?_)
  split
  · exact hz.finish
  · split
    · exact hz.finish
    · exact hz.submit.finish.ite hz.finish

theorem State.Canonical.execEvict (h : s.Canonical) {q : BitVec 20} : Lands (execEvict q s) := by
  unfold Machine.execEvict
  refine h.queueRow (fun hx => Gives.ite trivial hx.finish) (fun hx => ?_)
  refine hx.withFields (fun hy => ?_)
  split
  · exact hy.finish
  · exact hy.finish
  · exact hy.zeroBundle
  · exact hy.zeroBundle.ite hy.finish
  · exact hy.zeroBundle.ite hy.finish
  · exact hy.finish

theorem State.Canonical.execPin (h : s.Canonical) {q : BitVec 20} : Lands (execPin q s) := by
  unfold Machine.execPin
  exact h.queueRow (fun _ => trivial) (fun hx => hx.withFields (fun hy => hy.modBundle.finish))

theorem State.Canonical.execResidency (h : s.Canonical) {q : BitVec 20} {written : Bool} :
    Lands (execResidency q written s) := by
  unfold Machine.execResidency
  exact h.queueRow (fun _ => trivial) (fun hx => hx.withFields (fun hy => hy.emit.finish.ite hy.hostError))

theorem State.Canonical.execHbmZeroingDone (h : s.Canonical) {z : Zeroed} : Lands (execHbmZeroingDone z s) := by
  unfold Machine.execHbmZeroingDone
  split
  · exact Lands.ite h (h.foldl fun hx => hx.zeroUnits).setContext
  · extract_lets -merge +onlyGivenNames _ _
    split
    · exact (h.foldl fun hx => hx.zeroExtent).bundleNotice.setBundle.foldl fun hx => hx.modBundle.ite hx
    · exact h

theorem State.Canonical.dropTransfers (h : s.Canonical) {gone : TPort × BitVec 15 → Bool} :
    (s.dropTransfers gone).Canonical := by
  unfold State.dropTransfers
  refine h.foldl fun hx => ?_
  extract_lets -merge +onlyGivenNames _
  split
  · split
    · split
      · exact hx.refuseLoad
      · exact hx.modBundle.bundleNotice
      · exact hx
      · exact hx
      · exact hx
      · exact hx
    · exact hx
  · exact hx

theorem State.Canonical.dropServes (h : s.Canonical) {p : TPort} {gone : BitVec 15 → Bool} :
    (s.dropServes p gone).Canonical := h.modTrv

theorem State.Canonical.execPeerLost (h : s.Canonical) {port : TPort} {peer : BitVec 15} {cause : Fin 4} :
    Lands (execPeerLost port peer cause s) := Lands.ite (h.trvFault.ite h.trvRaise).dropServes.dropTransfers h

theorem State.Canonical.trvDown (h : s.Canonical) {port : TPort} : (s.trvDown port).Canonical :=
  (h.setTrvLink.trvRaise.foldl fun hx => hx.trvFault).dropServes.dropTransfers.ite h

/-! ## Launch -/

theorem State.Canonical.loadProgram (h : s.Canonical) {q : Nat} {c : Started} {n bank : Nat} {t : Task} {b : List Byte} :
    (s.loadProgram q c n bank t b).Canonical := h.modSeq.finish.ite (h.modSeq.finish.ite (h.modSeq.finish.ite h.modCore.finish))

theorem State.Canonical.execProgLoad (h : s.Canonical) {q : BitVec 20} {image : Option (List Byte)} :
    Lands (execProgLoad q image s) := by
  unfold Machine.execProgLoad
  refine h.queueRow (fun hx => ?_) (fun hx => ?_)
  · extract_lets -merge +onlyGivenNames _
    split
    · exact hx.finish
    · extract_lets -merge +onlyGivenNames _
      split
      · exact hx.modSeq.hostError
      · exact Gives.ite hx.loadProgram trivial
  · exact hx.withFields (fun hy => hy.onTask (fun hz => hz.raise.finish.ite hz.modSeq))

theorem State.Canonical.clearCounters (h : s.Canonical) {p : Nat} : (s.clearCounters p).Canonical := h.modPage
theorem State.Canonical.clearEqual (h : s.Canonical) {p : Nat} : (s.clearEqual p).Canonical := h.modPage

theorem State.Canonical.loadGroups (h : s.Canonical) {b : List Byte} : (s.loadGroups b).Canonical :=
  h.foldl fun hx => hx.foldl fun hy => hy.setReg

theorem State.Canonical.launchTraverse (h : s.Canonical) {epoch : BitVec 16} {image : List Byte} :
    (s.launchTraverse epoch image).Canonical := h.loadGroups.foldl fun hx => hx.clearEqual.setReg.setReg

theorem State.Canonical.launchLift (h : s.Canonical) {demand : Word64} : (s.launchLift demand).Canonical :=
  h.clearCounters.setReg.setReg.modLift

theorem State.Canonical.launchCore (h : s.Canonical) {bank : Nat} {slot : Option Nat} {j : Job} {n : Nat} :
    (s.launchCore bank slot j n).Canonical := by
  unfold State.launchCore
  split
  · exact h
  · extract_lets -merge +onlyGivenNames _ s1 s2 _
    have h1 : s1.Canonical := (h.foldl fun hx => hx.clearCounters).modCore
    have h2 : s2.Canonical := by
      unfold s2
      split
      · exact h1.modSeq
      · exact h1
    split
    · exact h2.setReg.count
    · exact h2.setReg

theorem State.Canonical.launch (hs : s.Canonical) {e : List Byte} {t : Task} {h : ProgHeader} {inputs : List Byte} :
    (s.launch e t h inputs).Canonical := by
  unfold State.launch
  extract_lets -merge +onlyGivenNames _ _ _ _ s1 s2 _
  have h1 : s1.Canonical := hs.hashed.count.setTask
  have h2 : s2.Canonical := h1.launchLift.ite h1
  exact (h2.launchTraverse.ite h2).foldl fun hx => hx.launchCore

theorem State.Canonical.launchMode (h : s.Canonical) {ctx : Nat} : (s.launchMode ctx).Canonical := h.raise

theorem State.Canonical.tryLaunch (h : s.Canonical) {q : Nat} {c : Started} {t : Task} {inputs : List Byte} :
    (s.tryLaunch q c t inputs).Canonical := by
  unfold State.tryLaunch
  extract_lets -merge +onlyGivenNames _
  split
  · exact (h.launchMode.ite h).finish
  · exact h.finish
  · exact h.finish.ite (h.finish.ite (h.finish.ite h.launch))

theorem State.Canonical.execJobLaunch (h : s.Canonical) {q : BitVec 20} {inputs : Option (List Byte)} :
    Lands (execJobLaunch q inputs s) := by
  unfold Machine.execJobLaunch
  refine h.queueRow (fun hx => Gives.ite hx.finish trivial) (fun hx => ?_)
  extract_lets -merge +onlyGivenNames _ _
  split
  · exact h
  · refine hx.withFields (fun hy => ?_)
    refine hy.onTask (fun hz => ?_)
    split
    · exact hz.hostError
    · exact hz.tryLaunch

theorem State.Canonical.askStop (hs : s.Canonical) {t : Nat} {h : Hold} : (s.askStop t h).Canonical := by
  unfold State.askStop
  extract_lets -merge +onlyGivenNames _
  split
  · exact hs.modJob.askQuiesce.ite hs.modJob
  · exact hs.modJob

theorem State.Canonical.execPreempt (h : s.Canonical) {q : BitVec 20} : Lands (execPreempt q s) := by
  unfold Machine.execPreempt
  refine h.queueRow (fun hx => Gives.ite hx.modJob.finish trivial) (fun hx => ?_)
  extract_lets -merge +onlyGivenNames _
  split
  · exact h
  · refine hx.withFields (fun hy => ?_)
    refine hy.onTask (fun hz => ?_)
    split
    · exact hz.finish
    · exact hz.finish.ite hz.askStop

theorem State.Canonical.execSave (h : s.Canonical) {q : BitVec 20} {regions : Option (List Byte)} :
    Lands (execSave q regions s) := by
  unfold Machine.execSave
  refine h.queueRow (fun hx => ?_) (fun hx => ?_)
  · split
    · exact Gives.ite trivial hx.finish
    · exact hx.finish
  · extract_lets -merge +onlyGivenNames _ _
    split
    · exact h
    · split
      · exact h
      · refine hx.withFields (fun hy => ?_)
        refine hy.onTask (fun hz => ?_)
        split
        · exact hz.finish
        · exact hz.hostError
        · exact hz.finish.ite (hz.finish.ite hz.modJob.askStop)

theorem State.Canonical.saveCore (h : s.Canonical) {n : Nat} {y : SaveImage} : (s.saveCore n y).Canonical := h.rest
theorem State.Canonical.leaveQuiescent (h : s.Canonical) {j : Job} : (s.leaveQuiescent j).Canonical := h.modLift.ite h

theorem State.Canonical.execSaveImageWrite (h : s.Canonical) {task : Fin 64} : Lands (execSaveImageWrite task s) := by
  unfold Machine.execSaveImageWrite
  split
  · exact h
  · split
    · exact h
    · split
      · extract_lets -merge +onlyGivenNames _ _ s1 _
        have h1 : s1.Canonical := (h.foldl fun hx => hx.saveCore).rest.hashed
        exact h1.modJob.ite h1.modJob.leaveQuiescent
      · exact h

theorem State.Canonical.execSaveExport (h : s.Canonical) {q : BitVec 20} {written : Bool} :
    Lands (execSaveExport q written s) := by
  unfold Machine.execSaveExport
  refine h.queueRow (fun _ => trivial) (fun hx => ?_)
  refine hx.withFields (fun hy => ?_)
  refine hy.onTask (fun hz => ?_)
  split
  · exact hz.finish
  · split
    · exact hz.finish
    · exact hz.finish.ite (hz.hostError.ite hz.emit.finish)

theorem State.Canonical.execSaveImport (h : s.Canonical) {q : BitVec 20} {image : Option (List Byte)} :
    Lands (execSaveImport q image s) := by
  unfold Machine.execSaveImport
  refine h.queueRow (fun _ => trivial) (fun hx => ?_)
  extract_lets -merge +onlyGivenNames _
  split
  · exact h
  · refine hx.withFields (fun hy => ?_)
    refine hy.onTask (fun hz => ?_)
    split
    · exact hz.finish
    · split
      · exact hz.finish
      · split
        · exact hz.hostError
        · exact hz.saveCore.finish

theorem State.Canonical.restoreCounters (h : s.Canonical) {n : Nat} {first : Bool} {x : SaveImage} :
    (s.restoreCounters n first x).Canonical := h.foldl fun hx => hx.modPage

theorem State.Canonical.resumeJob (h : s.Canonical) {tid : Nat} {t : Task} {xs : List (Nat × SaveImage)} :
    (s.resumeJob tid t xs).Canonical := by
  unfold State.resumeJob
  split
  · exact h
  · exact ((h.setTask.launchLift.modLift.ite h.setTask).launchTraverse.ite (h.setTask.launchLift.modLift.ite h.setTask)).foldl
      fun hx => hx.modCore.restoreCounters.setReg

theorem State.Canonical.execResume (h : s.Canonical) {q : BitVec 20} : Lands (execResume q s) := by
  unfold Machine.execResume
  refine h.queueRow (fun hx => Gives.ite hx.finish trivial) (fun hx => ?_)
  refine hx.withFields (fun hy => ?_)
  refine hy.onTask (fun hz => ?_)
  split
  · split
    · exact hz.finish
    · exact hz.modJob.leaveQuiescent
  · extract_lets -merge +onlyGivenNames _
    split
    · exact hz.finish
    · split
      · exact hz.finish
      · exact hz.resumeJob

theorem State.Canonical.execProvenance (h : s.Canonical) {q : BitVec 20} {written : Bool} : Lands
    (execProvenance q written s) := by
  unfold Machine.execProvenance
  extract_lets find send
  have hsend {t q c} (ht : t.Canonical) : Gives (send t q c) := by
    unfold send
    split
    · exact ht.finish
    · exact Gives.map (ht.hostError.ite ht.emit.finish)
  exact h.queueRow hsend fun hx => hx.withFields fun hy => (hsend hy).getD hy

end Sys2Proof.Machine
end

section
/-!
The four tables stay canonical: HBM, power, the window, boot, security, registers and pins.
`extract_lets` names the states that an operation passes through `s1`, `s2`, …
-/
namespace Sys2Proof.Machine

variable {s t : State}

/-! ## Hbm -/

theorem State.Canonical.retireSlice (h : s.Canonical) {p stack bitNo : Nat} : (s.retireSlice p stack bitNo).Canonical := by
  unfold State.retireSlice
  split
  · exact h
  · extract_lets -merge +onlyGivenNames _ _ s1 _ s2 _
    have h1 : s1.Canonical := h.rest.foldl fun hx => hx.modChan
    have h2 : s2.Canonical := by
      unfold s2
      split
      · exact h1.faultTask
      · exact h1
    exact (h2.foldl fun hx => hx.raise).raise

theorem State.Canonical.writeCalibration (h : s.Canonical) {stack ch : Nat} : (s.writeCalibration stack ch).Canonical := by
  unfold State.writeCalibration
  split
  · exact h
  · exact h.setUnits.takeFree

theorem State.Canonical.windowWait (h : s.Canonical) {stack ch : Nat} : (s.windowWait stack ch).Canonical := by
  unfold State.windowWait
  split
  · exact h
  · exact h.countFree.ite h

theorem State.Canonical.probe (h : s.Canonical) {stack ch : Nat} {margin : Byte} : (s.probe stack ch margin).Canonical :=
  h.count.writeCalibration.modChan.raise.ite h.count.writeCalibration.modChan

theorem State.Canonical.execHbmRefreshWindow (h : s.Canonical) {stack : Nat} {ch : Fin 32} {marginPs : Byte} :
    Lands (execHbmRefreshWindow stack ch marginPs s) := by
  unfold Machine.execHbmRefreshWindow
  exact Lands.ite trivial (Lands.ite h (h.count.windowWait.modChan.probe.ite h.count.windowWait.modChan))

theorem State.Canonical.execChannelRetrain (h : s.Canonical) {stack : Nat} {ch : Fin 32} {trained : Bool} :
    Lands (execChannelRetrain stack ch trained s) := by
  unfold Machine.execChannelRetrain
  split
  · trivial
  · exact Lands.ite h (h.count.count.windowWait.modChan.ite h.count.count.windowWait.modChan.raise.retireSlice)

theorem State.Canonical.feedLost (h : s.Canonical) {n u cmd : Nat} {feeds : Feeding} :
    (s.feedLost n u cmd feeds).Canonical := by
  unfold State.feedLost
  extract_lets -merge +onlyGivenNames _
  split
  · exact h.abortPass
  · exact h.abortSweep
  · exact h.raiseFault.dropCmd
  · exact h.raiseFault.dropCmd.modLift

theorem State.Canonical.execHbmReadReport (h : s.Canonical) {n : CoreId} {unit badReads : Nat} {feeds : Feeding} :
    Lands (execHbmReadReport n unit badReads feeds s) := by
  unfold Machine.execHbmReadReport
  split
  split
  · exact h
  · exact Lands.ite h (Lands.ite (h.count.ite h.count.count) (h.count.ite h.count.count).raise.markRow.feedLost)

theorem State.Canonical.execSoftRepair (h : s.Canonical) {stack : Nat} {room : Bool} :
    Lands (execSoftRepair stack room s) := by
  unfold Machine.execSoftRepair
  split
  · trivial
  · split
    · exact h
    · split
      · exact h
      · exact Lands.ite h.rest.count h.raise.retireSlice

/-! ## Power -/

theorem State.Canonical.setRates (h : s.Canonical) {cap therm : Nat} : (s.setRates cap therm).Canonical := h.setReg

theorem State.Canonical.setPoint (h : s.Canonical) {d mv : Nat} : (s.setPoint d mv).Canonical :=
  ((h.foldl fun hx => hx.emit).ite (h.foldl fun hx => hx.emit).count).modDie

theorem State.Canonical.applyRail (h : s.Canonical) {d : Nat} : (s.applyRail d).Canonical := h.setPoint.ite h
theorem State.Canonical.mrgRaise (h : s.Canonical) {bitNo d sentinel : Nat} : (s.mrgRaise bitNo d sentinel).Canonical := h.raise

theorem State.Canonical.sampleDie (h : s.Canonical) {d : Nat} {x : DieSample} : (s.sampleDie d x).Canonical := by
  unfold State.sampleDie
  extract_lets -merge +onlyGivenNames _ _ _ _ _ _ _ _ _ _ _ s1
  have h1 : s1.Canonical := (h.modDie.modDie.foldl fun hx => hx.mrgRaise).applyRail
  exact h1.mrgRaise.ite h1

theorem State.Canonical.unlearn (h : s.Canonical) {d : Nat} : (s.unlearn d).Canonical := h.modDie.modPage.ite h

theorem State.Canonical.execStretch (h : s.Canonical) {die : Fin 4} : Lands (execStretch die s) := by
  unfold Machine.execStretch
  exact Lands.ite h (h.modDie.count.unlearn.modDie.applyRail.ite h.modDie.count.unlearn).mrgRaise

theorem State.Canonical.execAvsReadback (h : s.Canonical) {rail : Fin 4} {r : Option RailReading} :
    Lands (execAvsReadback rail r s) := by
  unfold Machine.execAvsReadback
  extract_lets -merge +onlyGivenNames _
  split
  · exact h
  · split
    · exact h.modDie.count.mrgRaise
    · exact (h.modDie.ite h.modDie.count).setReg.setReg.mrgRaise.ite (h.modDie.ite h.modDie.count).setReg.setReg

theorem State.Canonical.pwrRaise (h : s.Canonical) {bitNo die : Nat} {temp : ℤ} : (s.pwrRaise bitNo die temp).Canonical :=
    h.raise

theorem State.Canonical.applyRails (h : s.Canonical) : s.applyRails.Canonical := h.foldl fun hx => hx.applyRail

theorem State.Canonical.execCapInterval (h : s.Canonical) {watts other : BitVec 16} :
    Lands (execCapInterval watts other s) := by
  unfold Machine.execCapInterval
  split
  · exact h
  · extract_lets -merge +onlyGivenNames _ _ s1
    have h1 : s1.Canonical := h.setReg.setReg.count
    split
    split
    · exact h1.rest
    · split
      · exact Lands.ite h1.rest.setRates.applyRails.pwrRaise (h1.rest.pwrRaise.ite h1.rest)
      · exact h1.rest.setRates.applyRails.ite h1.rest

theorem State.Canonical.execThermStep (h : s.Canonical) {hottest : List ℤ} : Lands (execThermStep hottest s) := by
  unfold Machine.execThermStep
  split
  · exact h
  · extract_lets -merge +onlyGivenNames _
    split
    split
    · exact h.setRates.applyRails.pwrRaise.pwrRaise.ite h.setRates.applyRails.pwrRaise
    · exact Lands.ite h.setRates.applyRails h

theorem State.Canonical.execThermtrip (h : s.Canonical) : Lands (execThermtrip s) :=
  Lands.ite h (h.takeFree.pwrRaise.foldl fun hx => hx.modDie).rest

/-! ## Window -/

theorem State.Canonical.execWindowRead (h : s.Canonical) {offset : Nat} : Lands (execWindowRead offset s) :=
  Lands.ite h (Lands.ite (Lands.ite h.wakeSlice h.modHost.count) h.modHost.count)

theorem State.Canonical.execWindowWritePerform (h : s.Canonical) {index : Nat} : Lands (execWindowWritePerform index s) := by
  unfold Machine.execWindowWritePerform
  split
  · exact h
  · split
    · exact h
    · extract_lets -merge +onlyGivenNames _ _ _
      split
      · exact h.modHost.count.raise
      · exact Lands.ite h.wakeSlice h.modHost.setUnit.count

/-! ## Completion -/

theorem State.Canonical.performCmd (h : s.Canonical) {n : Nat} {c : EngCmd} : (performCmd n s c).Canonical := by
  unfold Machine.performCmd
  split
  · exact h.performRowPath
  · exact h.performRowPath
  · exact h.performAcc
  · exact h.performAcc
  · exact h.performVload
  · exact h.performSdrain
  · exact h.performTload
  · exact h.performRowop
  · exact h.performCall
  · exact h.performLaunch
  · exact h.performDemand
  · exact h.performGrad
  · exact h.performTrav
  · exact h.performRelease
  · exact h
  · exact h
  · exact h
  · exact h

theorem State.Canonical.countHeld (h : s.Canonical) {n : Nat} {c : EngCmd} : (s.countHeld n c).Canonical := by
  unfold State.countHeld
  extract_lets -merge +onlyGivenNames _
  split
  · exact h.count.count.ite h.count
  · split
    · split
      · exact h.count.ite h
      · exact h
    · split
      · exact h
      · split
        · exact h.count
        · split
          · exact h.count
          · split
            · exact h.ite h.count
            · exact h.ite h.count
            · exact h

theorem State.Canonical.completed (h : s.Canonical) {n : Nat} {c : EngCmd} : (s.completed n c).Canonical := by
  unfold State.completed
  split
  · exact h.releaseAll.complete.count
  · exact h.releaseAll.complete.count
  · exact h.complete

theorem State.Canonical.execCommandCompletion (h : s.Canonical) {n : CoreId} {r : Requester} :
    Lands (execCommandCompletion n r s) := by
  unfold Machine.execCommandCompletion
  split
  · exact h
  · split
    · exact h
    · split
      · exact h.completed
      · extract_lets -merge +onlyGivenNames s1
        have h1 : s1.Canonical := h.performCmd
        split
        · exact h1
        · exact h1.completed.ite h1.countHeld

/-! ## Boot -/

theorem State.Canonical.secCopy (h : s.Canonical) {bitNo : Nat} {c : Bool × FwCopy} : (s.secCopy bitNo c).Canonical := h.raise

theorem State.Canonical.romBoot (h : s.Canonical) : s.romBoot.Canonical := by
  unfold State.romBoot
  extract_lets -merge +onlyGivenNames _ s1
  have h1 : s1.Canonical := h.rest.ite h.rest.raise
  split
  · exact h1.rest
  · extract_lets -merge +onlyGivenNames _ _ _ _ s2
    have h2 : s2.Canonical := (h1.foldl fun hx => hx.secCopy).foldl fun hx => hx.secCopy
    split
    · exact h2.rest
    · exact h2.rest

theorem State.Canonical.replay (h : s.Canonical) {r : Repair} : (s.replay r).Canonical := by
  unfold State.replay
  split
  · exact h.ite h.modPcore
  · exact h.modPcore
  · exact h.modPcore
  · exact h.rest
  · exact h.rest
  · exact h

theorem State.Canonical.defaultHosts (h : s.Canonical) {ds : List Nat} : (s.defaultHosts ds).Canonical :=
  (h.foldl fun hx => hx.modPcore).rest.rest

theorem State.Canonical.hostRest (h : s.Canonical) {ns : List Nat} : Gives (s.hostRest ns) := by
  induction ns generalizing s with
  | nil => exact h
  | cons n ns ih =>
    unfold State.hostRest
    refine Gives.ite (ih h) ?_
    split
    · exact ih (h.rest.modPcore)
    · trivial

theorem State.Canonical.present (h : s.Canonical) {ds : List Nat} : Gives (s.present ds) :=
  Gives.ite trivial h.defaultHosts.hostRest

theorem State.Canonical.firmwareBoot (h : s.Canonical) : s.firmwareBoot.Canonical := by
  unfold State.firmwareBoot
  extract_lets -merge +onlyGivenNames s1 _ s2
  have h1 : s1.Canonical := h.foldl fun hx => hx.replay
  have h2 : s2.Canonical := (h1.raise.ite h1).countFree.countFree.countFree
  split
  · exact h2.rest.haltPart
  · next r hr =>
    extract_lets -merge +onlyGivenNames s3 _ _ _
    have h3 : s3.Canonical := ((Gives.findSome h2.present).some hr).raise.ite ((Gives.findSome h2.present).some hr)
    exact (h3.rest.foldl fun hx => hx.modPcore.count.ite hx).regate.rest

theorem State.Canonical.execBootComplete (h : s.Canonical) : Lands (execBootComplete s) := by
  unfold Machine.execBootComplete
  split
  · exact h
  · extract_lets -merge +onlyGivenNames s1
    have h1 : s1.Canonical := h.romBoot.ite h
    exact Lands.ite h1 (Lands.ite (h1.ite h1.raise) h1.firmwareBoot)

/-! ## Formation -/

theorem State.Canonical.clearGo (h : s.Canonical) : s.clearGo.Canonical := h.setReg

theorem State.Canonical.formFail (h : s.Canonical) {detail pos : Nat} : (s.formFail detail pos).Canonical :=
  h.modLift.clearGo.raise

theorem State.Canonical.startTraining (h : s.Canonical) : s.startTraining.Canonical :=
  h.modLift.foldl fun hx => hx.modLiftPort.setLink

theorem State.Canonical.writeForm (h : s.Canonical) {v : Word} : (s.writeForm v).Canonical := by
  unfold State.writeForm
  extract_lets -merge +onlyGivenNames _ _ _
  split
  · exact h.setReg
  · exact (h.deliberateBreak.ite h).setReg.formFail.ite (h.deliberateBreak.ite h).setReg.setReg.startTraining

theorem State.Canonical.execLiftPortTrained (h : s.Canonical) {side : Side} {lanes : BitVec 32} :
    Lands (execLiftPortTrained side lanes s) := Lands.ite h (Lands.ite (h.setLink.modLift.ite h.setLink) h.setLink)

theorem State.Canonical.bothAgree (h : s.Canonical) : s.bothAgree.Canonical := by
  unfold State.bothAgree
  split
  · exact h.sendMsg
  · split
    · exact h.modLift.sendMsg
    · exact h

theorem State.Canonical.execFormationFrame (h : s.Canonical) {side : Side} {f : Framed Formation} :
    Lands (execFormationFrame side f s) := by
  unfold Machine.execFormationFrame
  refine h.receiveMsg (fun hx => ?_)
  split
  · exact hx
  · extract_lets -merge +onlyGivenNames _ _
    split
    · exact hx.setReg.linkEventAt.formFail
    · exact hx.setReg.modLiftPort.bothAgree.ite hx.setReg.modLiftPort

theorem State.Canonical.enterFormed (h : s.Canonical) {e : BitVec 16} : (s.enterFormed e).Canonical :=
  h.modLiftPort.modLiftPort.modLift.clearGo.liftEvent

theorem State.Canonical.execRingFrame (h : s.Canonical) {second : Framed Bool} {epoch : BitVec 16} :
    Lands (execRingFrame second epoch s) := by
  unfold Machine.execRingFrame
  refine h.receiveMsg (fun hx => ?_)
  split
  · exact hx
  · exact ((hx.enterFormed.sendMsg.ite hx).ite (hx.sendMsg.ite hx.modLift)).ite (hx.enterFormed.sendMsg.ite hx)

/-! ## Security -/

theorem State.Canonical.setCopy (h : s.Canonical) {b : Bool} {c : FwCopy} : (s.setCopy b c).Canonical := h.rest

theorem State.Canonical.updateDone (h : s.Canonical) {component : Nat} {ok : Bool} :
    (s.updateDone component ok).Canonical := by
  unfold State.updateDone
  extract_lets -merge +onlyGivenNames _ _ s1 _
  have h1 : s1.Canonical := h.takeFree.countFree.countFree.countFree
  exact h1.emit.count.ite h1.emit.raise

theorem State.Canonical.flashWrite (h : s.Canonical) {len : Nat} : (s.flashWrite len).Canonical := h.count.count.count

theorem State.Canonical.execRecoveryImage (h : s.Canonical) {image : List Byte} : Lands (execRecoveryImage image s) := by
  unfold Machine.execRecoveryImage
  exact Lands.ite h (Lands.ite h.countFree.count.setCopy.flashWrite.emit.rest h.countFree.count.emit.takeFree)

theorem State.Canonical.execConfigRecord (h : s.Canonical) {record : List Byte} : Lands (execConfigRecord record s) := by
  unfold Machine.execConfigRecord
  split
  · exact h
  · extract_lets -merge +onlyGivenNames s1
    have h1 : s1.Canonical := h.countFree.countFree
    split
    · exact h1.raise.updateDone
    · exact h1.rest.flashWrite.count.updateDone

theorem State.Canonical.compact (h : s.Canonical) : Gives (s.compact) := Gives.ite h
    (Gives.ite trivial h.rest.count.count.count)

theorem State.Canonical.execJournalAppend (h : s.Canonical) {written : Bool} : Lands (execJournalAppend written s) := by
  unfold Machine.execJournalAppend
  split
  · exact h
  · split
    · exact h
    · split
      · exact h.raise
      · next r hr =>
        extract_lets -merge +onlyGivenNames s1
        have h1 : s1.Canonical := (h.compact.some hr).count
        exact Lands.ite (h1.count.ite h1).rest.count.count h1.raise

theorem State.Canonical.spdmAnswer (h : s.Canonical) {t : Transport} {code : Byte} {bytes : List Byte} :
    (s.spdmAnswer t code bytes).Canonical := h.count.emit.count.count.ite h.count.emit

theorem State.Canonical.spdm (h : s.Canonical) {t : Transport} {need : Nat} {next : Option Nat} {code : Byte} {ok : Bool}
    {k : State → State × List Byte} (hk : ∀ {t}, t.Canonical → (k t).1.Canonical) :
    (s.spdm t need next code ok k).Canonical := by
  unfold State.spdm
  refine h.ite (h.spdmAnswer.ite ?_)
  have hnext := hk h
  generalize k s = x at hnext ⊢
  obtain ⟨u, bytes⟩ := x
  cases next with
  | none => exact hnext.spdmAnswer
  | some v => exact hnext.rest.spdmAnswer

theorem State.Canonical.spdmSigned (h : s.Canonical) {message : List Byte} : (spdmSigned message s).1.Canonical := h.count

theorem State.Canonical.execGetMeasurements (h : s.Canonical) {t : Transport} {index : Byte} {sign : Bool}
    {nonce : BitVec 256} :
    Lands (execGetMeasurements t index sign nonce s) := by
  refine h.spdm fun hx => ?_
  cases sign with
  | true => exact hx.spdmSigned
  | false => exact hx

/-! ## Registers -/

theorem State.Canonical.logRead (h : s.Canonical) {p off : Nat} : (s.logRead p off).Canonical := h.rest.ite h

theorem State.Canonical.execCounterLowRead (h : s.Canonical) {page offset : Nat} :
    Lands (execCounterLowRead page offset s) := by
  unfold Machine.execCounterLowRead
  split
  · exact h
  · extract_lets -merge +onlyGivenNames _ _
    split
    · exact Lands.ite h.modHost.modPage h.modHost.logRead
    · exact h.modHost

theorem State.Canonical.snap (h : s.Canonical) {p : Nat} : (s.snap p).Canonical := h.modPage

theorem State.Canonical.clearPage (h : s.Canonical) {p : Nat} : (s.clearPage p).Canonical := by
  unfold State.clearPage
  split
  · exact h.modPage
  · exact h

theorem State.Canonical.live (h : s.Canonical) {p : Nat} : (s.live p).Canonical := h.modPage

theorem State.Canonical.onPage (h : s.Canonical) {p : Nat} {k : State → State} (hk : ∀ {t}, t.Canonical → (k t).Canonical) :
    (s.onPage p k).Canonical := (hk h).ite h

theorem State.Canonical.clearErr (h : s.Canonical) {p : Nat} {v : Word} : (s.clearErr p v).Canonical := h.modPage
theorem State.Canonical.writeMode (h : s.Canonical) {v : Word} : (s.writeMode v).Canonical := h.setReg.raise.ite h.setReg

theorem State.Canonical.liftDown (h : s.Canonical) {x : Side} : (s.liftDown x).Canonical :=
  h.setLink.linkEvent.declareLoss.ite h.setLink

theorem State.Canonical.liftTrain (h : s.Canonical) {x : Side} : (s.liftTrain x).Canonical := h.setLink.ite h
theorem State.Canonical.trvTrain (h : s.Canonical) {p : TPort} : (s.trvTrain p).Canonical := h.setTrvLink.ite h
theorem State.Canonical.trvHold (h : s.Canonical) {p : TPort} : (s.trvHold p).Canonical := h.trvDown.setTrvLink
theorem State.Canonical.afterLftCtl (h : s.Canonical) {x : Side} : (s.afterLftCtl x).Canonical := h.liftTrain.ite h.liftDown

theorem State.Canonical.afterTrvCtl (h : s.Canonical) {p : TPort} {old : Word} : (s.afterTrvCtl p old).Canonical :=
  h.trvHold.ite (h.trvDown.setTrvLink.ite h.trvTrain)

theorem State.Canonical.afterWrite (h : s.Canonical) {b : Blk} {i off : Nat} {old : Word} :
    (s.afterWrite b i off old).Canonical := by
  unfold State.afterWrite
  split
  · exact h.regate.ite h
  · exact h.afterLftCtl.ite h
  · exact h.afterTrvCtl.ite h
  · exact h.modSpm.ite h
  · exact h

theorem State.Canonical.writeBlk (h : s.Canonical) {b : Blk} {i p off : Nat} {v : Word} :
    (s.writeBlk b i p off v).Canonical := h.ite h.setReg.afterWrite

theorem State.Canonical.writeCtl (h : s.Canonical) {p : Nat} {v : Word} : (s.writeCtl p v).Canonical := by
  unfold State.writeCtl
  exact ((h.snap.ite h).clearPage.ite (h.snap.ite h)).live.ite ((h.snap.ite h).clearPage.ite (h.snap.ite h))

theorem State.Canonical.writeMsix (h : s.Canonical) {p off : Nat} {v : Word} : (s.writeMsix p off v).Canonical :=
  h.ite (h.modHost.sendPending.ite h.setReg)

theorem State.Canonical.writeReg (h : s.Canonical) {p off : Nat} {v : Word} : (s.writeReg p off v).Canonical := by
  unfold State.writeReg
  split
  · exact h.writeMsix.ite h
  · split
    · exact h
    · split
      · exact h.writeCtl
      · exact h.clearErr
      · exact h.modPage
      · exact h.modPage
      · exact h.writeMode.ite (h.writeForm.ite h.writeBlk)

/-! ## Management -/

theorem State.Canonical.mctp (h : s.Canonical) : s.mctp.Canonical := h.count.count

/-! ## Pins -/

theorem State.Canonical.reset : State.reset.Canonical := ⟨rfl, rfl, rfl, rfl⟩
theorem State.Canonical.cleared (_ : s.Canonical) : s.cleared.Canonical := State.Canonical.reset.rest
theorem State.Canonical.releaseReset (h : s.Canonical) : s.releaseReset.Canonical := h.cleared.rest.romBoot

theorem State.Canonical.execSerdesRefclkLoss (h : s.Canonical) {traverse : Bool} :
    Lands (execSerdesRefclkLoss traverse s) := Lands.ite (h.rest.trvHold.trvHold.ite h.rest) (h.rest.liftDown.liftDown.ite h.rest)

theorem State.Canonical.execSerdesRefclkReturn (h : s.Canonical) {traverse : Bool} :
    Lands (execSerdesRefclkReturn traverse s) := by
  unfold Machine.execSerdesRefclkReturn
  exact Lands.ite (h.rest.trvTrain.trvTrain.ite h.rest) (h.rest.liftTrain.liftTrain.ite h.rest)

theorem State.Canonical.execTapInstruction (h : s.Canonical) {i : Tap} : Lands (execTapInstruction i s) := by
  unfold Machine.execTapInstruction
  extract_lets -merge +onlyGivenNames _ s1
  have h1 : s1.Canonical := by
    unfold s1
    split
    · exact h.rest.rest
    · exact h.rest.rest
    · exact h.rest
    · exact h.rest
    · exact h.rest
    · exact h.rest
  exact h1.emit

end Sys2Proof.Machine
end

section
/-!
The four tables stay canonical: every command, and the step.
-/
namespace Sys2Proof.Machine

variable {s : State}

/-- A command keeps the tables canonical: one arm for each arm of `exec`. -/
theorem State.Canonical.exec (h : s.Canonical) (i : Instr) : Lands (exec i s) :=
  match i with
  | .nop _ => h.execNop
  | .endProg _ => h.issue (fun hx => hx.passOff) (fun hx => hx.endCommand)
  | .switchBank _ => h.seqCommand
  | .fence _ => h.execFence
  | .li _ => h.seqCommand
  | .alu _ => h.seqCommand
  | .cmp _ => h.seqCommand
  | .mova _ => h.seqCommand
  | .setlc _ => h.seqCommand
  | .lidx _ => h.seqCommand
  | .ld _ => h.execLd
  | .st _ => h.execSt
  | .loop _ => h.execLoop
  | .setrng _ => h.execSetrng
  | .rowld _ => h.engineCommand id (fun hx => hx.performRowPath)
  | .rowst _ => h.engineCommand id (fun hx => hx.performRowPath)
  | .claim _ => h.execClaim
  | .claimTakeover _ _ => Lands.ite h.modSpm h
  | .region _ => h.execRegion
  | .release _ => h.engineCommand id (fun hx => hx.performRelease)
  | .part _ => h.execPart
  | .pass _ => h.execPass
  | .passStart _ _ => h.execPassStart
  | .passBoundary _ _ => h.execPassBoundary
  | .passReplay _ _ => Lands.ite (h.foldl fun hx => hx.replayPass) h
  | .drain _ => h.execDrain
  | .fill _ => h.engineCommand id (fun hx => hx.performAcc)
  | .vload _ => h.execVload
  | .sweep _ => h.execSweep
  | .sweepStart _ => h.execSweepStart
  | .sweepBoundary _ => h.execSweepBoundary
  | .sdrain _ => h.execSdrain
  | .tload _ => h.engineCommand id (fun hx => hx.performTload)
  | .tableLoadDone _ _ => h.execTableLoadDone
  | .copy _ => h.rowop
  | .add _ => h.rowop
  | .sub _ => h.rowop
  | .mul _ => h.rowop
  | .fma _ => h.rowop
  | .min _ => h.rowop
  | .max _ => h.rowop
  | .neg _ => h.rowop
  | .abs _ => h.rowop
  | .exp _ => h.rowop
  | .log _ => h.rowop
  | .rsqrt _ => h.rowop
  | .recip _ => h.rowop
  | .sigmoid _ => h.rowop
  | .silu _ => h.rowop
  | .rsum _ => h.rowop
  | .rmax _ => h.rowop
  | .rmin _ => h.rowop
  | .classify _ => h.rowop
  | .cvt _ => h.rowop
  | .hold _ => h.rowop
  | .rmsnorm _ => h.call
  | .layernorm _ => h.call
  | .softmax _ => h.call
  | .rope _ => h.call
  | .topkRoute _ => h.call
  | .gather _ => h.call
  | .scatter _ => h.call
  | .scatterAdd _ => h.call
  | .quantMx _ => h.call
  | .dequantMx _ => h.call
  | .quantFp8 _ => h.call
  | .attnProb _ => h.call
  | .attnMerge _ => h.call
  | .attnFinal _ => h.call
  | .stream _ => h.execStream
  | .streamComplete _ _ => h.execStreamComplete
  | .launch _ => h.execLaunch
  | .chairSend _ => h.execChairSend
  | .demand _ => h.engineCommand id (fun hx => hx.performDemand)
  | .grad _ => h.engineCommand id (fun hx => hx.performGrad)
  | .xsend _ => h.travCommand
  | .recv _ => h.travCommand
  | .allreduce _ => h.travCommand
  | .reduceScatter _ => h.travCommand
  | .allgather _ => h.travCommand
  | .broadcast _ => h.travCommand
  | .barrier _ => h.travCommand
  | .arrayHang _ _ => h.execArrayHang
  | .schussHang _ => h.execSchussHang
  | .rowHang _ => Lands.ite h h.rowFault
  | .streamHang _ _ => h.execStreamHang
  | .coreMove _ => h.execCoreMove
  | .scheduleEffect => h.execScheduleEffect
  | .tableEcc _ _ => Lands.ite h h.abortConsumers.raiseFault
  | .dmemEcc _ => Lands.ite h.seqFault h
  | .progEcc _ => Lands.ite h.seqFault h
  | .descEcc _ _ => h.execDescEcc
  | .bookEcc _ => Lands.ite h.rowFault h
  | .spmTableEcc _ => Lands.ite h.raiseHardware h
  | .ctrlEcc => Lands.ite h.raise.faultAll.haltPart h
  | .routeFail _ _ => h.execRouteFail
  | .jobFaultEnd _ => h.execJobFaultEnd
  | .jobComplete _ => h.execJobComplete
  | .provenanceSigned _ => h.execProvenanceSigned
  | .bankWakeDone _ _ => Lands.ite h.modSpm.count h
  | .spmBistStart _ _ => h.execSpmBistStart
  | .spmBistDone _ _ _ => h.execSpmBistDone
  | .spmZeroDone _ => Lands.ite h h.modSpm.count
  | .saveImageWrite _ => h.execSaveImageWrite
  | .trackKeyClose _ => h.execTrackKeyClose
  | .trackRecordClose _ => h.execTrackRecordClose
  | .trackStall _ => h.execTrackStall
  | .hbmRefreshWindow _ _ _ => h.execHbmRefreshWindow
  | .channelRetrain _ _ _ => h.execChannelRetrain
  | .hbmReadReport _ _ _ _ => h.execHbmReadReport
  | .softRepair _ _ => h.execSoftRepair
  | .hbmSelfRefresh _ => Lands.ite h.modStr.count h
  | .dset _ => h.drillStep (fun hx => hx.modDrill.drillDone)
  | .dadd _ => h.drillStep (fun hx => hx.modDrill.drillDone)
  | .dloop _ => h.execDloop
  | .dfill _ => h.execDfill
  | .dcheck _ => h.execDcheck
  | .dsave _ => h.drillStep (fun hx => hx.drillMove)
  | .dload _ => h.drillStep (fun hx => hx.drillMove)
  | .dwait _ => h.drillStep (fun hx => hx.drillDone)
  | .dmark _ => h.drillStep (fun hx => hx.setReg.drillDone)
  | .dend _ => h.execDend
  | .hbmZeroingDone _ => h.execHbmZeroingDone
  | .liftPortTrained _ _ => h.execLiftPortTrained
  | .formationSend _ => Lands.ite h.sendMsg h
  | .formationFrame _ _ => h.execFormationFrame
  | .ringFrame _ _ => h.execRingFrame
  | .formTimeout => Lands.ite h.formFail h
  | .chairFrame _ _ => h.receive (fun hx => hx.cutBad) (fun hx => hx.takeFrame)
  | .chairLand _ _ => h.execChairLand
  | .demandChairRx _ _ => h.execDemandChairRx
  | .gradChairRx _ _ => h.receive id (fun hx => hx.takeFrame)
  | .linkControlFrame _ _ => h.receive id id
  | .linkControlSend _ => Lands.ite h (h.count.ite h).modLiftPort.emit
  | .ackTimeout _ => Lands.ite h.resendFrames h
  | .retryLimit _ => Lands.ite h.linkEvent.setReg h
  | .linkRetrainDone _ _ => h.execLinkRetrainDone
  | .liftNotice _ _ _ _ => h.execLiftNotice
  | .lossTimeout _ => Lands.ite h.declareLoss h
  | .liftStall => Lands.ite h.stallLift.sendMsg h
  | .quiesceFrame _ => h.execQuiesceFrame
  | .trvPortTrained _ _ => h.execTrvPortTrained
  | .trvDataPacket _ _ => h.execTrvDataPacket
  | .trvAck _ _ => h.trvReceive (fun hx => hx.takeAck)
  | .trvNak _ _ => h.execTrvNak
  | .trvRequest _ _ => h.execTrvRequest
  | .grantIssue _ _ => h.execGrantIssue
  | .trvGrant _ _ => h.execTrvGrant
  | .trvAbort _ _ => h.execTrvAbort
  | .abortResend _ => Lands.ite h.sendAborts.modTrv h
  | .arpRequest _ _ _ => Lands.ite h (Lands.ite h.emit h.count)
  | .neighbourSolicitation _ _ _ => Lands.ite (Lands.ite h.emit h.count) h
  | .pfcPauseFrame _ _ => Lands.ite h.modTrv h
  | .pfcStorm _ => Lands.ite h.trvRaise h
  | .trvAckSend _ _ => Lands.ite h.sendAck h
  | .trvRtoExpiry _ _ => h.execTrvRtoExpiry
  | .ccWindow _ _ => Lands.ite h h.modFlow
  | .peerLost _ _ _ => h.execPeerLost
  | .trvLinkDown _ => Lands.ite h.trvDown h
  | .sqDoorbell _ _ => h.execSqDoorbell
  | .headDoorbell _ _ => h.execHeadDoorbell
  | .commandFetch _ _ => h.execCommandFetch
  | .noticeBacklogDrain => h.execNoticeBacklogDrain
  | .ctxCreate _ => h.execCtxCreate
  | .ctxKill _ => h.execCtxKill
  | .sqCreate _ => h.execSqCreate
  | .sqDelete _ => h.execSqDelete
  | .ringCreate _ => h.execRingCreate
  | .ringDelete _ => h.execRingDelete
  | .pcoreFence _ => h.execPcoreFence
  | .selfTest _ => h.execSelfTest
  | .arraySelfTestDone _ _ => h.execArraySelfTestDone
  | .queueNop _ => h.execQueueNop
  | .flush _ => h.execFlush
  | .hbmAlloc _ => h.execHbmAlloc
  | .hbmFree _ => h.execHbmFree
  | .taskCreate _ => h.execTaskCreate
  | .taskKill _ => h.execTaskKill
  | .progLoad _ _ => h.execProgLoad
  | .jobLaunch _ _ => h.execJobLaunch
  | .preempt _ => h.execPreempt
  | .resume _ => h.execResume
  | .save _ _ => h.execSave
  | .saveExport _ _ => h.execSaveExport
  | .saveImport _ _ => h.execSaveImport
  | .batch _ => h.execBatch
  | .provenance _ _ => h.execProvenance
  | .bundleLoad _ _ _ => h.execBundleLoad
  | .segDone _ => h.execSegDone
  | .segmentHashed _ _ => h.execSegmentHashed
  | .swap _ _ _ => h.execSwap
  | .evict _ => h.execEvict
  | .pin _ => h.execPin
  | .residency _ _ => h.execResidency
  | .loadTimeout _ => h.execLoadTimeout
  | .residencyRing _ => h.execResidencyRing
  | .residencyRingRepeat _ => Lands.ite h.sendCircuit h
  | .ringTimeout _ => h.execRingTimeout
  | .slotOpen _ => Lands.ite h.modBundle.bundleNotice.askSegments h
  | .slotVerified _ => h.execSlotVerified
  | .windowRead _ => h.execWindowRead
  | .windowWrite _ _ _ => Lands.ite h h.modHost
  | .windowWritePerform _ => h.execWindowWritePerform
  | .functionLevelReset => Lands.ite h.functionReset h
  | .cxlReset => Lands.ite h.functionReset h
  | .hostLinkDown => Lands.ite h.hostReset.setReg.raise h
  | .hostLinkTrained _ _ => Lands.ite (h.setReg.ite h.setReg.raise) h
  | .busMasterDisable => h.modHost
  | .pageCtlSnap _ => h.onPage (fun hx => hx.snap)
  | .pageCtlClear _ => h.onPage (fun hx => hx.clearPage)
  | .pageCtlLive _ => h.onPage (fun hx => hx.live)
  | .pageErrWrite _ _ => h.onPage (fun hx => hx.clearErr)
  | .lfcFormGo _ => Lands.ite h.writeForm h
  | .devModeWrite _ => h.onPage (fun hx => hx.writeMode)
  | .counterLowRead _ _ => h.execCounterLowRead
  | .badAccess _ _ => Lands.ite (h.ite h.modHost).count.raise h
  | .registerWrite _ _ => Lands.ite h.writeReg h
  | .porNRise => Lands.ite h (h.rest.releaseReset.ite h.rest.cleared)
  | .porNFall => Lands.ite h.rest.cleared h
  | .perstNRise _ _ => Lands.ite h (h.rest.releaseReset.ite h.rest)
  | .perstNFall => Lands.ite (h.rest.cleared.ite h.rest) h
  | .bootComplete => h.execBootComplete
  | .powerLoss => Lands.ite h h.rest.cleared.rest
  | .thermtrip => h.execThermtrip
  | .refLost => Lands.ite h (Lands.ite h.rest h.rest.count.raise)
  | .refReturn => h.rest
  | .serdesRefclkLoss _ => h.execSerdesRefclkLoss
  | .marginSample _ => Lands.ite (h.foldl fun hx => hx.sampleDie) h
  | .stretch _ => h.execStretch
  | .stretchEnd _ => Lands.ite h.modDie h
  | .marginLow _ => Lands.ite h.mrgRaise h
  | .learnStep _ => Lands.ite h.modDie.applyRail.count h
  | .avsReadback _ _ => h.execAvsReadback
  | .capInterval _ _ => h.execCapInterval
  | .thermStep _ => h.execThermStep
  | .firmwareUpdate _ => Lands.ite h h.setCopy.flashWrite.countFree.count.updateDone
  | .configRecord _ => h.execConfigRecord
  | .recoveryImage _ => h.execRecoveryImage
  | .journalAppend _ => h.execJournalAppend
  | .getVersion _ => h.spdm id
  | .getCapabilities _ => h.spdm id
  | .negotiateAlgorithms _ _ _ => h.spdm id
  | .getDigests _ => h.spdm id
  | .getCertificate _ _ => h.spdm id
  | .challenge _ _ _ => h.spdm (fun hx => hx.spdmSigned)
  | .getMeasurements _ _ _ _ => h.execGetMeasurements
  | .commandCompletion _ _ => h.execCommandCompletion
  | .busMasterEnable => h.modHost
  | .vectorUnmask _ => h.execVectorUnmask
  | .configurationRequest => Lands.ite h h.emit
  | .cdatRequest => Lands.ite h.emit h
  | .pldmMonitoringRequest _ => Lands.ite h.mctp.count.emit h
  | .setEndpointId _ => Lands.ite h.mctp.setReg h
  | .malformedMctpPacket _ => Lands.ite h.raise h
  | .busTimeout => Lands.ite h.raise h
  | .stackHot _ _ => Lands.ite trivial (Lands.ite h.rest.raise h)
  | .serdesRefclkReturn _ => h.execSerdesRefclkReturn
  | .pfcPauseEnd _ _ => h.execPfcPauseEnd
  | .foreignFrame _ => Lands.ite h.count h
  | .foreignPacket _ => Lands.ite h.count h
  | .tapInstruction _ => h.execTapInstruction
  | .pcoreWakeDone _ => Lands.ite trivial (Lands.ite h.modPcore h)
  | .selfRefreshExit _ => Lands.ite (h.modStr.foldl fun hx => hx.modChan) h

theorem State.Canonical.step (h : s.Canonical) : Lands (step s) := by
  unfold Machine.step
  split
  · exact h.idle
  · exact h.rest.exec _

/-- Settles O57: each table is written through `SMap.set` alone, which keeps the canonical form. -/
theorem stepKeepsCanonical : Obligations.StepKeepsCanonical := by
  unfold Obligations.StepKeepsCanonical
  intro s t h hstep
  have hlands : Lands (step s) := h.step
  rwa [hstep] at hlands

end Sys2Proof.Machine
end

section
/-!
Proofs of chapter 10, the upkeep of the HBM stacks: what a window, a probe and a retirement leave of the channels and the
pages (R213-R217), soft repair (R216), self-refresh (R411) and hot stacks (R228).
-/
namespace Sys2Proof.Machine

/-! ## The pages of the stacks (R454) -/

theorem pageBlk_pHBM {st : Nat} (h : st < 20) : (pageBlk (pHBM st)).isSome = true := by
  have h0 : ¬ pHBM st < 16 := by unfold pHBM; omega
  have h1 : pHBM st < 0x24 := by unfold pHBM; omega
  rw [pageBlk, if_neg h0, if_pos h1]
  rfl

theorem pHBM_ne_pNTC (st : Nat) : pHBM st ≠ pNTC := by unfold pHBM pNTC; omega
theorem pHBM_ne_pFLT (st : Nat) : pHBM st ≠ pFLT := by unfold pHBM pFLT; omega

theorem corePage_ne_pHBM {st : Nat} (h : st < 20) (n k : Nat) : corePage n k ≠ pHBM st := by unfold corePage pHBM; omega

theorem State.reported_raise_pHBM (s : State) {st : Nat} (b : Nat) (i j : Word) (hst : st < 20) (hb : b < 32) :
    (s.raise (pHBM st) b i j).reported (pHBM st) b = true :=
  s.raised _ b i j (pageBlk_pHBM hst) hb

section
variable {s t : State} (h : s.Raises t)
include h

theorem State.Raises.hot : t.hot = s.hot := by rw [h.frame]
theorem State.Raises.retired : t.retired = s.retired := by rw [h.frame]
theorem State.Raises.toJournal : t.toJournal = s.toJournal := by rw [h.frame]

end

theorem State.core_modStr_same (s : State) (n : Nat) (f : Str → Str) :
    (s.modStr n f).core n = { s.core n with str := f (s.core n).str } :=
  s.core_modCore_same n _

/-! ## Channels (R203, R213) -/

theorem State.chan_modChan (s : State) (st ch a b : Nat) (f : Chan → Chan) :
    (s.modChan st ch f).chan a b = if 32 * a + b = 32 * st + ch then f (s.chan st ch) else s.chan a b := by
  simp [State.chan, State.modChan, SMap.get_set]

/-- The same update of each channel of a list of channel numbers. -/
def State.modChans (s : State) (cs : List Nat) (f : Chan → Chan) : State :=
  cs.foldl (fun s c => s.modChan (c / 32) (c % 32) f) s

theorem State.frame_modChans (cs : List Nat) (f : Chan → Chan) :
    ∀ s : State, s.modChans cs f = { s with chans := (s.modChans cs f).chans } := by
  induction cs with
  | nil => exact fun _ => rfl
  | cons c cs ih => exact fun s => ih (s.modChan (c / 32) (c % 32) f)

@[simp] theorem State.core_modChans (s : State) (cs : List Nat) (f : Chan → Chan) (n : Nat) :
    (s.modChans cs f).core n = s.core n := by
  rw [State.frame_modChans]; rfl

/-- What the update of a list of channels establishes of every channel, it keeps. -/
theorem State.chan_modChans_keeps {P : Chan → Prop} {f : Chan → Chan} (hf : ∀ x, P (f x)) (a b : Nat) (cs : List Nat) :
    ∀ s : State, P (s.chan a b) → P ((s.modChans cs f).chan a b) := by
  induction cs with
  | nil => exact fun _ h => h
  | cons c cs ih =>
    refine fun s h => ih _ ?_
    rw [State.chan_modChan]
    split
    · exact hf _
    · exact h

theorem State.chan_modChans {P : Chan → Prop} {f : Chan → Chan} (hf : ∀ x, P (f x)) {a b : Nat} {cs : List Nat}
    (hc : 32 * a + b ∈ cs) (s : State) : P ((s.modChans cs f).chan a b) := by
  induction cs generalizing s with
  | nil => exact absurd hc List.not_mem_nil
  | cons c cs ih =>
    rcases List.mem_cons.1 hc with rfl | hc
    · refine State.chan_modChans_keeps hf a b cs _ ?_
      rw [State.chan_modChan, if_pos (Nat.div_add_mod _ 32).symm]
      exact hf _
    · exact ih hc _

/-! ## Retired slices (R217) -/

/-- The numbers of a slice's channels (R203). -/
def sliceChans (p : Nat) : List Nat := (List.range 10).map (fun m => 10 * p + m)

theorem mem_sliceChans_chanSlice (st ch : Nat) : 32 * st + ch ∈ sliceChans (chanSlice st ch) :=
  List.mem_map.2 ⟨(32 * st + ch) % 10, List.mem_range.2 (Nat.mod_lt _ (by decide)), Nat.div_add_mod _ 10⟩

/-- A slice is in the list of retired slices and due to the journal, and its channels are out of service. -/
def State.takenOut (s : State) (p : Nat) : State :=
  State.modChans { s with retired := s.retired ++ [p], toJournal := s.toJournal ++ [Repair.mk 6 [p]] } (sliceChans p)
    (fun x => { x with state := 2, retrain := false })

theorem State.frame_takenOut (s : State) (p : Nat) : s.takenOut p =
    { s with retired := s.retired ++ [p], toJournal := s.toJournal ++ [Repair.mk 6 [p]], chans := (s.takenOut p).chans } :=
  State.frame_modChans ..

/-- The reports on the pages of a retired slice's stacks. -/
theorem State.kept_raises (b : Nat) (i j : Word) (sts : List Nat) (s : State) :
    s.PlacementKept (sts.foldl (fun s st => s.raise (pHBM st) b i j) s) :=
  State.PlacementKept.foldl (fun s st => s.kept_raise (pHBM st) b i j) sts s

/-- A retirement takes the slice out and reports it last on the SLS page. -/
theorem State.retireSlice_eq (s : State) (p st b : Nat) (h : s.retired.contains p = false) :
    ∃ t i j, (s.takenOut p).PlacementKept t ∧ s.retireSlice p st b = t.raise pSLS 1 i j := by
  have faulted (core : Option Nat) : (s.takenOut p).PlacementKept (match core.bind (fun n => ((s.takenOut p).core n).task) with
      | some t => (s.takenOut p).faultTask t.val ((s.takenOut p).faultCode (pHBM st) b)
      | none => s.takenOut p) := by
    split
    · exact State.kept_faultTask ..
    · exact .refl _
  unfold State.retireSlice
  rw [h]
  exact ⟨_, _, _, (faulted ((s.takenOut p).sliceCore p)).trans
    (State.kept_raises 5 (hbmInfo 5 0 0) 0 ((sliceChans p).map (· / 32)).eraseDups _), rfl⟩

theorem State.kept_retireSlice (s : State) (p st b : Nat) (h : s.retired.contains p = false) :
    (s.takenOut p).PlacementKept (s.retireSlice p st b) := by
  obtain ⟨t, i, j, ht, hr⟩ := s.retireSlice_eq p st b h
  rw [hr]
  exact ht.trans (t.kept_raise ..)

section
variable (s : State) (p st b : Nat) (h : s.retired.contains p = false)
include h

theorem State.retired_retireSlice : (s.retireSlice p st b).retired = s.retired ++ [p] := by
  rw [(s.kept_retireSlice p st b h).frame, s.frame_takenOut p]

theorem State.toJournal_retireSlice : (s.retireSlice p st b).toJournal = s.toJournal ++ [Repair.mk 6 [p]] := by
  rw [(s.kept_retireSlice p st b h).frame, s.frame_takenOut p]

theorem State.reported_pSLS_retireSlice : (s.retireSlice p st b).reported pSLS 1 = true := by
  obtain ⟨t, i, j, -, hr⟩ := s.retireSlice_eq p st b h
  rw [hr]
  exact t.raised pSLS 1 i j (by decide) (by decide)

theorem State.reported_retireSlice {q c : Nat} (hr : s.reported q c = true) : (s.retireSlice p st b).reported q c = true := by
  have hout : (s.takenOut p).reported q c = true := by
    rw [s.frame_takenOut p]
    exact hr
  exact (s.kept_retireSlice p st b h).reported hout

theorem State.chan_retireSlice_state {a c : Nat} (hc : 32 * a + c ∈ sliceChans p) :
    ((s.retireSlice p st b).chan a c).state = 2 := by
  have hchans : (s.retireSlice p st b).chans = (s.takenOut p).chans := by rw [(s.kept_retireSlice p st b h).frame]
  rw [State.chan, hchans]
  exact State.chan_modChans (P := fun x => x.state = 2) (fun _ => rfl) hc _

end

/-! ## Soft repair, self-refresh and hot stacks (R216, R228, R411) -/

/-- SOFT_REPAIR journals the row that is due first. -/
theorem State.softRepair_room {s : State} {st ch bank row : Nat} (hs : s.phase = .ready) (hst : st < 20)
    (hd : (s.softDue st).head? = some (ch, bank, row)) : exec (.softRepair st true) s =
      .next (({ s with toJournal := s.toJournal ++ [Repair.mk 4 [st, ch, bank, row]] }).count (pHBM st) 0x128 1) := by
  show execSoftRepair st true s = _
  unfold execSoftRepair
  rw [if_neg (by omega), hs, if_neg (by decide), hd]
  rfl

/-- SOFT_REPAIR without a free spare reports it and retires the slice. -/
theorem State.softRepair_full {s : State} {st ch bank row : Nat} (hs : s.phase = .ready) (hst : st < 20)
    (hd : (s.softDue st).head? = some (ch, bank, row)) : exec (.softRepair st false) s =
      .next ((s.raise (pHBM st) 3 (hbmInfo 3 bank ch) (word row)).retireSlice (chanSlice st ch) st 3) := by
  show execSoftRepair st false s = _
  unfold execSoftRepair
  rw [if_neg (by omega), hs, if_neg (by decide), hd]
  rfl

theorem State.selfRefreshExit_eq {s : State} {n : CoreId} (hs : s.phase = .ready) (hw : (s.core n.val).str.waking = true) :
    exec (.selfRefreshExit n) s = .next ((s.modStr n.val (fun x => { x with asleep := false, waking := false })).modChans
      (sliceChans (s.physSlice n.val)) (fun x => { x with windows := 0 })) := by
  show execSelfRefreshExit n s = _
  unfold execSelfRefreshExit
  rw [hs, hw, if_pos (by decide), State.modChans, sliceChans, List.foldl_map]
  rfl

theorem State.selfRefresh_eq {s : State} {n : CoreId} (hs : s.phase = .ready) (hn : s.isPresented n.val = true)
    (hen : bit (s.reg pPWR 0x40) 2 = true) (htask : (s.core n.val).task = none) (hasleep : (s.core n.val).str.asleep = false)
    (hdrill : (s.core n.val).str.drill.running = false) : exec (.hbmSelfRefresh n) s =
      .next ((s.modStr n.val (fun x => { x with asleep := true, waking := false })).count pPWR 0x120 1) := by
  show execHbmSelfRefresh n s = _
  unfold execHbmSelfRefresh
  simp only []
  rw [hs, hn, hen, htask, hasleep, hdrill, if_pos (by decide)]

theorem State.stackHot_eq {s : State} {st : Nat} {temp : BitVec 16} (hs : s.phase = .ready) (hst : st < 20)
    (ht : bits (s.reg (pHBM st) 0x4C) 31 16 < temp.toNat) : exec (.stackHot st temp) s = .next
      (({ s with hot := s.hot.set (fun _ => none) st (some (s.time, temp)) }).raise (pHBM st) 4 (hbmInfo 4 0 0) 0) := by
  show execStackHot st temp s = _
  unfold execStackHot
  simp only []
  rw [if_neg (by omega), hs, decide_eq_true ht, if_pos (by decide)]

/-- Settles O23, with the frame of a retirement, and the update of a list of channels. -/
theorem stackUpkeep : Obligations.StackUpkeep := by
  unfold Obligations.StackUpkeep
  intro s hs
  refine ⟨fun st ch bank row hst hd => ⟨⟨_, s.softRepair_room hs hst hd, rfl, rfl, ?_⟩, fun hr =>
    ⟨_, s.softRepair_full hs hst hd, ?_, ?_⟩⟩, fun n hn hen htask hasleep hdrill => ?_, fun n hw =>
    ⟨_, s.selfRefreshExit_eq hs hw, ?_, ?_, fun c hc => ?_⟩, fun st temp hst ht => ?_⟩
  · rw [State.counter_count, if_pos ⟨rfl, rfl⟩]
    rfl
  · exact State.reported_retireSlice _ _ _ _ (by rwa [(s.raises_raise ..).retired]) (s.reported_raise_pHBM 3 _ _ hst (by decide))
  · rw [State.retired_retireSlice _ _ _ _ (by rwa [(s.raises_raise ..).retired]), (s.raises_raise ..).retired]
  · refine ⟨_, s.selfRefresh_eq hs hn hen htask hasleep hdrill, rfl, (State.count_core ..).trans (s.core_modStr_same ..), ?_⟩
    rw [State.counter_count, if_pos ⟨rfl, rfl⟩]
    rfl
  · rw [State.frame_modChans]
    rfl
  · exact (State.core_modChans ..).trans (s.core_modStr_same ..)
  · refine State.chan_modChans (P := fun x => x.windows = 0) (fun _ => rfl) ?_ _
    rw [Nat.div_add_mod]
    exact List.mem_map.2 ⟨c, List.mem_range.2 hc, rfl⟩
  · refine ⟨_, s.stackHot_eq hs hst ht, State.reported_raise_pHBM _ 4 _ _ hst (by decide), ?_, fun k => ?_⟩
    · rw [(State.raises_raise ..).hot]
      simp
    · exact (State.raises_raise ..).core k

end Sys2Proof.Machine
end

section
/-!
Proofs of chapter 10, the events of a channel: refresh windows and probes (R213, R214), retraining (R214, R217), and reads
that report uncorrectable errors (R215).
-/
namespace Sys2Proof.Machine

/-! ## The calibration rows (R203, R214) -/

/-- Every unit of a calibration row is a unit of the slice's calibration part. -/
theorem State.calibrationRow_part (s : State) {ch u : Nat} (hch : ch < 10) (hu : u ∈ s.calibrationRow ch) :
    u < sliceUnits ∧ slicePart u = .calibration := by
  obtain ⟨i, hi, rfl⟩ := List.mem_map.1 hu
  have hi : i < 4 := List.mem_range.1 hi
  have hrow : (Config.freeWord s.free).toNat % (0x4FF200000 / 512 / 40 - (0x4FF100000 / 512 + 39) / 40) <
    0x4FF200000 / 512 / 40 - (0x4FF100000 / 512 + 39) / 40 := Nat.mod_lt _ (by decide)
  generalize (Config.freeWord s.free).toNat % (0x4FF200000 / 512 / 40 - (0x4FF100000 / 512 + 39) / 40) = g at hrow ⊢
  norm_num at hrow ⊢
  refine ⟨by unfold sliceUnits; omega, ?_⟩
  unfold slicePart sliceUser
  simp only []
  rw [if_neg (by omega), if_neg (by omega), if_neg (by omega), if_neg (by omega), if_pos (by omega)]

/-- A unit that is not among those written reads as before, on every slice. -/
theorem State.unit_setUnits_other {n u : Nat} (hu : u < sliceUnits) (c : Nat) {xs : List (Nat × Row)}
    (hxs : ∀ x ∈ xs, x.1 < sliceUnits ∧ x.1 ≠ u) (s : State) : (s.setUnits n xs).unit c u = s.unit c u := by
  induction xs generalizing s with
  | nil => rfl
  | cons x xs ih =>
    obtain ⟨⟨hlt, hne⟩, hxs⟩ := List.forall_mem_cons.1 hxs
    have apart : s.physSlice c * sliceUnits + u ≠ s.physSlice n * sliceUnits + x.1 := by
      unfold sliceUnits at *
      omega
    exact (ih hxs _).trans (SMap.get_set_other _ _ _ apart)

/-! ## What a window of a channel leaves (R213, R214) -/

/-- Every core stands, and every unit outside the calibration part. -/
structure State.UnitsKept (s t : State) : Prop where
  core : ∀ k, t.core k = s.core k
  unit : ∀ c u, u < sliceUnits → slicePart u ≠ .calibration → t.unit c u = s.unit c u

theorem State.UnitsKept.trans {s t u : State} (h : s.UnitsKept t) (g : t.UnitsKept u) : s.UnitsKept u where
  core k := (g.core k).trans (h.core k)
  unit c v hv hp := (g.unit c v hv hp).trans (h.unit c v hv hp)

theorem State.Raises.unit {s t : State} (h : s.Raises t) (c u : Nat) : t.unit c u = s.unit c u := by rw [h.frame]; rfl

theorem State.Raises.unitsKept {s t : State} (h : s.Raises t) : s.UnitsKept t where
  core := h.core
  unit c u _ _ := h.unit c u

theorem State.Raises.slices {s t : State} (h : s.Raises t) : t.slices = s.slices := by rw [h.frame]
theorem State.Raises.chans {s t : State} (h : s.Raises t) : t.chans = s.chans := by rw [h.frame]
theorem State.Raises.chan {s t : State} (h : s.Raises t) (a b : Nat) : t.chan a b = s.chan a b := by
  rw [State.chan, h.chans]; rfl

theorem State.unitsKept_modChan (s : State) (st ch : Nat) (f : Chan → Chan) : s.UnitsKept (s.modChan st ch f) :=
  ⟨fun _ => rfl, fun _ _ _ _ => rfl⟩

/-- A wait for a window counts on a page of the channel's core alone. -/
theorem State.frame_windowWait (s : State) (st ch : Nat) :
    s.windowWait st ch = { s with pages := (s.windowWait st ch).pages, free := (s.windowWait st ch).free } := by
  unfold State.windowWait
  split
  · rfl
  · simp only []
    split <;> rfl

theorem State.page_windowWait (s : State) (st ch : Nat) {q : Nat} (hq : ∀ n, q ≠ corePage n kSTR) :
    (s.windowWait st ch).page q = s.page q := by
  unfold State.windowWait
  split
  · rfl
  · simp only []
    split
    · exact s.page_modPage_other (fun x => { x with work := (0x120, s.free) :: x.work }) (hq _)
    · rfl

theorem State.frame_setUnits (s : State) (n : Nat) (xs : List (Nat × Row)) :
    s.setUnits n xs = { s with slices := (s.setUnits n xs).slices } := by
  rw [State.setUnits_eq]

/-- A probe writes units of the calibration part alone. -/
theorem State.writeCalibration_eq (s : State) (st ch : Nat) : s.writeCalibration st ch = s ∨ ∃ n xs,
    (∀ x ∈ xs, x.1 < sliceUnits ∧ slicePart x.1 = .calibration) ∧ s.writeCalibration st ch = (s.setUnits n xs).takeFree 4 := by
  rw [State.writeCalibration]
  cases hcore : s.chanCore st ch with
  | none => exact .inl rfl
  | some n =>
    refine .inr ⟨n, _, fun x hx => ?_, rfl⟩
    obtain ⟨y, hy, rfl⟩ := List.mem_map.1 hx
    exact s.calibrationRow_part (Nat.mod_lt _ (by decide)) (List.fst_mem_of_mem_zipIdx hy)

theorem State.frame_writeCalibration (s : State) (st ch : Nat) : s.writeCalibration st ch =
    { s with slices := (s.writeCalibration st ch).slices, free := (s.writeCalibration st ch).free } := by
  obtain h | ⟨n, xs, -, h⟩ := s.writeCalibration_eq st ch
  · rw [h]
  · rw [h, State.takeFree, s.frame_setUnits n xs]

theorem State.unitsKept_writeCalibration (s : State) (st ch : Nat) : s.UnitsKept (s.writeCalibration st ch) where
  core k := by rw [State.frame_writeCalibration]; rfl
  unit c u hu hp := by
    obtain h | ⟨n, xs, hxs, h⟩ := s.writeCalibration_eq st ch
    · rw [h]
    · rw [h]
      exact State.unit_setUnits_other hu c (fun x hx => ⟨(hxs x hx).1, fun e => hp (e ▸ (hxs x hx).2)⟩) s

/-! ## HBM_REFRESH_WINDOW (R213, R214) -/

/-- A window of a channel has been counted, as a wait of its core where one waits, and as one of the channel's four. -/
def State.windowed (s : State) (st ch : Nat) (f : Chan → Chan) : State := (s.windowWait st ch).modChan st ch f

theorem State.frame_windowed (s : State) (st ch : Nat) (f : Chan → Chan) : s.windowed st ch f =
    { s with pages := (s.windowed st ch f).pages, chans := (s.windowed st ch f).chans, free := (s.windowed st ch f).free } := by
  rw [State.windowed, State.modChan, State.frame_windowWait]

section
variable (s : State) {st : Nat} (ch : Nat) (f : Chan → Chan)

theorem State.page_windowed (hst : st < 20) : (s.windowed st ch f).page (pHBM st) = s.page (pHBM st) :=
  s.page_windowWait st ch (fun n => (corePage_ne_pHBM hst n kSTR).symm)

theorem State.reg_windowed (hst : st < 20) (o : Nat) : (s.windowed st ch f).reg (pHBM st) o = s.reg (pHBM st) o := by
  rw [State.reg, State.page_windowed _ _ _ hst, State.reg]

theorem State.counter_windowed (hst : st < 20) (o : Nat) : (s.windowed st ch f).counter (pHBM st) o = s.counter (pHBM st) o := by
  have hpage := s.page_windowed ch f hst
  exact State.counter_eq _ _ _ o (by rw [hpage]) (by rw [hpage]) (by rw [hpage]) (by rw [State.frame_windowed])

theorem State.core_windowed (k : Nat) : (s.windowed st ch f).core k = s.core k := by rw [State.frame_windowed]; rfl

theorem State.slices_windowed : (s.windowed st ch f).slices = s.slices := by rw [State.frame_windowed]

theorem State.unitsKept_windowed : s.UnitsKept (s.windowed st ch f) :=
  ⟨s.core_windowed ch f, fun _ _ _ _ => by rw [State.frame_windowed]; rfl⟩

theorem State.chan_windowed : (s.windowed st ch f).chan st ch = f (s.chan st ch) := by
  rw [State.windowed, State.chan_modChan_same, State.frame_windowWait]
  rfl

end

/-- The channel after a probe: the third low margin in a row calls for a retraining (R214). -/
def Chan.probed (x : Chan) (m : Byte) (limit : Nat) : Chan :=
  if m.toNat < limit then { x with margin := m, lowProbes := x.lowProbes + 1, retrain := decide (3 ≤ x.lowProbes + 1) }
  else { x with margin := m, lowProbes := 0 }

/-- A probe in its steps: the count, the calibration row, the channel, and CAL_LOW where the margin is low. -/
theorem State.probe_eq (s : State) (st ch : Nat) (m : Byte) :
    let limit := bits (s.reg (pHBM st) 0x44) 7 0
    let t := ((s.count (pHBM st) 0x108 1).writeCalibration st ch).modChan st ch (fun x => x.probed m limit)
    s.probe st ch m = if m.toNat < limit then t.raise (pHBM st) 1 (hbmInfo 1 0 ch) 0 else t := by
  have hreg : ((s.count (pHBM st) 0x108 1).writeCalibration st ch).reg (pHBM st) 0x44 = s.reg (pHBM st) 0x44 := by
    rw [State.frame_writeCalibration]
    exact State.reg_count ..
  simp only [State.probe, hreg, State.modChan, Chan.probed]
  split <;> rfl

section
variable (s : State) {st : Nat} (hst : st < 20) (ch : Nat) (m : Byte)

theorem State.unitsKept_probe : s.UnitsKept (s.probe st ch m) := by
  have kept (f : Chan → Chan) : s.UnitsKept (((s.count (pHBM st) 0x108 1).writeCalibration st ch).modChan st ch f) :=
    ((s.notes_count (pHBM st) 0x108 1).raises.unitsKept.trans (State.unitsKept_writeCalibration _ st ch)).trans
      (State.unitsKept_modChan _ st ch f)
  rw [State.probe_eq]
  split
  · exact (kept _).trans (State.raises_raise ..).unitsKept
  · exact kept _

theorem State.chan_probe :
    (s.probe st ch m).chan st ch = (s.chan st ch).probed m (bits (s.reg (pHBM st) 0x44) 7 0) := by
  have hchan (f : Chan → Chan) :
      (((s.count (pHBM st) 0x108 1).writeCalibration st ch).modChan st ch f).chan st ch = f (s.chan st ch) := by
    rw [State.chan_modChan_same, State.frame_writeCalibration]
    rfl
  rw [State.probe_eq]
  split
  · rw [(State.raises_raise ..).chan, hchan]
  · exact hchan _

include hst

theorem State.counter_probe (o : Nat) :
    (s.probe st ch m).counter (pHBM st) o = (s.count (pHBM st) 0x108 1).counter (pHBM st) o := by
  have hcounter (f : Chan → Chan) : (((s.count (pHBM st) 0x108 1).writeCalibration st ch).modChan st ch f).counter (pHBM st) o =
      (s.count (pHBM st) 0x108 1).counter (pHBM st) o := by
    rw [State.modChan, State.frame_writeCalibration]
    rfl
  rw [State.probe_eq]
  split
  · rw [State.counter_raise_same _ _ _ _ _ (pageBlk_pHBM hst) (pHBM_ne_pNTC st) (pHBM_ne_pFLT st), hcounter]
  · exact hcounter _

theorem State.reported_probe (hm : m.toNat < bits (s.reg (pHBM st) 0x44) 7 0) : (s.probe st ch m).reported (pHBM st) 1 = true := by
  rw [State.probe_eq, if_pos hm]
  exact State.reported_raise_pHBM _ 1 _ _ hst (by decide)

end

/-- The windows that are left before a channel's next probe, after one more. -/
def Chan.window (x : Chan) : Chan := { x with windows := if x.windows = 0 then 3 else x.windows - 1 }

/-- A channel's window is due for a probe. -/
def State.probeDue (s : State) (st ch : Nat) : Prop := (s.chan st ch).windows = 0 ∧ bit (s.reg (pHBM st) 0x40) 0 = true

/-- A refresh window has been counted. -/
def State.refreshed (s : State) (st ch : Nat) : State := (s.count (pHBM st) 0x100 1).windowed st ch Chan.window

section
variable (s : State) {st : Nat} (hst : st < 20) (ch : Nat)

theorem State.unitsKept_refreshed : s.UnitsKept (s.refreshed st ch) :=
  (s.notes_count (pHBM st) 0x100 1).raises.unitsKept.trans (State.unitsKept_windowed ..)

theorem State.slices_refreshed : (s.refreshed st ch).slices = s.slices := State.slices_windowed ..

theorem State.chan_refreshed : (s.refreshed st ch).chan st ch = (s.chan st ch).window := State.chan_windowed ..

include hst

theorem State.reg_refreshed (o : Nat) : (s.refreshed st ch).reg (pHBM st) o = s.reg (pHBM st) o :=
  (State.reg_windowed _ _ _ hst o).trans (State.reg_count ..)

theorem State.counter_windows_refreshed : (s.refreshed st ch).counter (pHBM st) 0x100 = s.counter (pHBM st) 0x100 + 1 :=
  (State.counter_windowed _ _ _ hst _).trans ((s.counter_count ..).trans (if_pos ⟨rfl, rfl⟩))

theorem State.counter_probes_refreshed : (s.refreshed st ch).counter (pHBM st) 0x108 = s.counter (pHBM st) 0x108 :=
  (State.counter_windowed _ _ _ hst _).trans ((s.counter_count ..).trans (if_neg (by simp)))

end

/-- A refresh window with its probe has been counted. -/
def State.probedWindow (s : State) (st ch : Nat) (m : Byte) : State := (s.refreshed st ch).probe st ch m

section
variable (s : State) {st : Nat} (hst : st < 20) (ch : Nat) (m : Byte)

theorem State.unitsKept_probedWindow : s.UnitsKept (s.probedWindow st ch m) :=
  (s.unitsKept_refreshed ch).trans (State.unitsKept_probe ..)

include hst

theorem State.chan_probedWindow : (s.probedWindow st ch m).chan st ch =
    (s.chan st ch).window.probed m (bits (s.reg (pHBM st) 0x44) 7 0) := by
  rw [State.probedWindow, State.chan_probe, s.reg_refreshed hst, State.chan_refreshed]

theorem State.counter_windows_probedWindow :
    (s.probedWindow st ch m).counter (pHBM st) 0x100 = s.counter (pHBM st) 0x100 + 1 := by
  rw [State.probedWindow, State.counter_probe _ hst, State.counter_count, if_neg (by simp), s.counter_windows_refreshed hst]

theorem State.counter_probes_probedWindow :
    (s.probedWindow st ch m).counter (pHBM st) 0x108 = s.counter (pHBM st) 0x108 + 1 := by
  rw [State.probedWindow, State.counter_probe _ hst, State.counter_count, if_pos ⟨rfl, rfl⟩, s.counter_probes_refreshed hst]
  rfl

theorem State.reported_probedWindow (hm : m.toNat < bits (s.reg (pHBM st) 0x44) 7 0) :
    (s.probedWindow st ch m).reported (pHBM st) 1 = true :=
  State.reported_probe _ hst _ _ (by rwa [s.reg_refreshed hst])

end

section
variable {s : State} {st : Nat} {ch : Fin 32} (m : Byte) (hst : st < 20) (hruns : s.chanRuns st ch.val = true)
  (hr : (s.chan st ch.val).retrain = false)
include hst hruns hr

theorem State.refreshWindow_plain (hp : ¬ s.probeDue st ch.val) :
    exec (.hbmRefreshWindow st ch m) s = .next (s.refreshed st ch.val) := by
  show execHbmRefreshWindow st ch m s = _
  rw [execHbmRefreshWindow, if_neg (by omega), hruns, hr, if_neg (by decide)]
  refine congrArg _ (if_neg fun ⟨h0, hcal⟩ => hp ⟨h0, ?_⟩)
  rwa [← s.reg_refreshed hst ch.val]

theorem State.refreshWindow_probe (hp : s.probeDue st ch.val) :
    exec (.hbmRefreshWindow st ch m) s = .next (s.probedWindow st ch.val m) := by
  obtain ⟨h0, hcal⟩ := hp
  show execHbmRefreshWindow st ch m s = _
  rw [execHbmRefreshWindow, if_neg (by omega), hruns, hr, if_neg (by decide)]
  rw [← s.reg_refreshed hst ch.val] at hcal
  exact congrArg _ (if_pos ⟨h0, hcal⟩)

end

/-- CHANNEL_RETRAIN in its steps: the channel is trained, or its slice is retired. -/
theorem State.channelRetrain_eq {s : State} {st : Nat} {ch : Fin 32} (trained : Bool) (hst : st < 20)
    (hruns : s.chanRuns st ch.val = true) (hr : (s.chan st ch.val).retrain = true) :
    let t := ((s.count (pHBM st) 0x100 1).count (pHBM st) 0x110 1).windowed st ch.val
      (fun x => { x with retrain := false, lowProbes := 0, windows := 0 })
    exec (.channelRetrain st ch trained) s = .next
      (if trained then t else (t.raise (pHBM st) 2 (hbmInfo 2 0 ch.val) 0).retireSlice (chanSlice st ch.val) st 2) := by
  show execChannelRetrain st ch trained s = _
  rw [execChannelRetrain, if_neg (by omega), hruns, hr, if_neg (by decide)]
  rfl

section
variable {s : State} {st : Nat} {ch : Fin 32} (hst : st < 20) (hruns : s.chanRuns st ch.val = true)
include hst hruns

theorem channelRetrain_trained (hr : (s.chan st ch.val).retrain = true) :
    ∃ t, exec (.channelRetrain st ch true) s = .next t ∧ (∀ k, t.core k = s.core k) ∧ t.retired = s.retired ∧
      t.chan st ch.val = { s.chan st ch.val with retrain := false, lowProbes := 0, windows := 0 } ∧
      t.counter (pHBM st) 0x110 = s.counter (pHBM st) 0x110 + 1 := by
  refine ⟨_, s.channelRetrain_eq true hst hruns hr, fun k => ?_, ?_, ?_, ?_⟩
  · exact State.core_windowed ..
  · rw [if_pos rfl, State.frame_windowed]
    rfl
  · exact State.chan_windowed ..
  · rw [if_pos rfl, State.counter_windowed _ _ _ hst, State.counter_count, if_pos ⟨rfl, rfl⟩, State.counter_count,
      if_neg (by simp)]
    rfl

theorem channelRetrain_failed (hr : (s.chan st ch.val).retrain = true)
    (hslice : s.retired.contains (chanSlice st ch.val) = false) :
    ∃ t, exec (.channelRetrain st ch false) s = .next t ∧ t.reported (pHBM st) 2 = true ∧
      t.retired = s.retired ++ [chanSlice st ch.val] ∧
      t.toJournal = s.toJournal ++ [Repair.mk 6 [chanSlice st ch.val]] ∧
      (t.chan st ch.val).state = 2 ∧ t.reported pSLS 1 = true := by
  refine ⟨_, s.channelRetrain_eq false hst hruns hr, ?_⟩
  rw [if_neg (by decide)]
  generalize hv : ((s.count (pHBM st) 0x100 1).count (pHBM st) 0x110 1).windowed st ch.val _ = v
  have hret : v.retired = s.retired := by rw [← hv, State.frame_windowed]; rfl
  have hjou : v.toJournal = s.toJournal := by rw [← hv, State.frame_windowed]; rfl
  have raises := v.raises_raise (pHBM st) 2 (hbmInfo 2 0 ch.val) 0
  have hfree : (v.raise (pHBM st) 2 (hbmInfo 2 0 ch.val) 0).retired.contains (chanSlice st ch.val) = false := by
    rwa [raises.retired, hret]
  refine ⟨State.reported_retireSlice _ _ _ _ hfree (v.reported_raise_pHBM 2 _ _ hst (by decide)), ?_, ?_, ?_, ?_⟩
  · rw [State.retired_retireSlice _ _ _ _ hfree, raises.retired, hret]
  · rw [State.toJournal_retireSlice _ _ _ _ hfree, raises.toJournal, hjou]
  · exact State.chan_retireSlice_state _ _ _ _ hfree (mem_sliceChans_chanSlice st ch.val)
  · exact State.reported_pSLS_retireSlice _ _ _ _ hfree

end

theorem Chan.windows_probed (x : Chan) (m : Byte) (limit : Nat) : (x.probed m limit).windows = x.windows := by
  unfold Chan.probed
  split <;> rfl

theorem Chan.probed_low {x : Chan} {m : Byte} {limit : Nat} (h : m.toNat < limit) :
    x.probed m limit = { x with margin := m, lowProbes := x.lowProbes + 1, retrain := decide (3 ≤ x.lowProbes + 1) } :=
  if_pos h

theorem Chan.probed_high {x : Chan} {m : Byte} {limit : Nat} (h : limit ≤ m.toNat) :
    x.probed m limit = { x with margin := m, lowProbes := 0 } :=
  if_neg (Nat.not_lt.2 h)

theorem Chan.margin_probed (x : Chan) (m : Byte) (limit : Nat) : (x.probed m limit).margin = m := by
  unfold Chan.probed
  split <;> rfl

/-! ## Uncorrectable reads (R215) -/

section
variable {s t : State} (h : s.PlacementKept t)
include h

theorem State.PlacementKept.chans : t.chans = s.chans := by rw [h.frame]

end

theorem Core.foldl_dropCmd_frame (ids : List Nat) : ∀ k : Core,
    ids.foldl Core.dropCmd k = { k with inflight := (ids.foldl Core.dropCmd k).inflight } := by
  induction ids with
  | nil => exact fun _ => rfl
  | cons id ids ih => exact fun k => ih (k.dropCmd id)

theorem State.kept_foldl_dropCmd (s : State) (n : Nat) (ids : List Nat) :
    s.PlacementKept (s.modCore n (fun k => ids.foldl Core.dropCmd k)) :=
  s.kept_modCore n _ (fun k => by rw [Core.foldl_dropCmd_frame]) (fun k => by rw [Core.foldl_dropCmd_frame])

theorem State.kept_modPart (s : State) (n p : Nat) (f : Part → Part) : s.PlacementKept (s.modPart n p f) := by
  unfold State.modPart State.modArr
  exact s.kept_modCore n _ (fun _ => rfl) (fun _ => rfl)

theorem State.kept_modSch (s : State) (n : Nat) (f : Sch → Sch) : s.PlacementKept (s.modSch n f) :=
  s.kept_modCore n _ (fun _ => rfl) (fun _ => rfl)

theorem State.kept_stopPartition (s : State) (n p source b : Nat) : s.PlacementKept (s.stopPartition n p source b) := by
  unfold State.stopPartition
  exact (s.kept_modPart n p _).trans (State.kept_modCore _ n _ (fun _ => rfl) (fun _ => rfl))

theorem State.kept_stopSchuss (s : State) (n : Nat) : s.PlacementKept (s.stopSchuss n) :=
  s.kept_modCore n _ (fun _ => rfl) (fun _ => rfl)

theorem State.kept_dropCmd (s : State) (n id : Nat) : s.PlacementKept (s.dropCmd n id) :=
  s.kept_modCore n _ (fun _ => rfl) (fun _ => rfl)

/-! ### Passes that end together (R63, R64) -/

/-- Passes that abort together keep the placement, and which passes of the partition are running. -/
theorem State.kept_abortPasses (s : State) (n p step source b : Nat) (hit : List Nat) :
    s.PlacementKept (s.abortPasses n p step source b hit) := by
  unfold State.abortPasses
  simp only []
  split
  · exact (s.kept_modPart ..).trans (State.kept_raise ..)
  · exact ((s.kept_raiseFault ..).trans (State.kept_foldl_dropCmd ..)).trans (State.kept_stopPartition ..)

theorem State.running_abortPasses (s : State) (n p step source b : Nat) (hit : List Nat) :
    (((s.abortPasses n p step source b hit).core n).arr.part p).running = ((s.core n).arr.part p).running := by
  unfold State.abortPasses
  simp only []
  split
  · rw [(State.raises_raise ..).core, State.core_modPart_same, Arr.part_setPart_same]
  · rw [State.arr_stopPartition, Arr.part_setPart_same, State.core_modCore_same, Core.foldl_dropCmd_arr,
      (State.engines_raiseFault ..).arr]

theorem State.kept_abortPass (s : State) (n p cmd source b : Nat) : s.PlacementKept (s.abortPass n p cmd source b) := by
  unfold State.abortPass
  simp only []
  split
  · exact .refl s
  · exact ((s.kept_modPart ..).trans (State.kept_count ..)).trans (State.kept_abortPasses ..)

/-- The running entries that are not from command `cmd` on are before it. -/
theorem lt_of_filter_isEmpty {α : Type} {l : List α} {f : α → Nat} {cmd : Nat}
    (h : ((l.filter (fun r => decide (cmd ≤ f r))).map f).isEmpty = true) : ∀ r ∈ l, f r < cmd := by
  simpa using h

theorem State.running_abortPass (s : State) (n p cmd source b : Nat) :
    ∀ r ∈ (((s.abortPass n p cmd source b).core n).arr.part p).running, r.cmd < cmd := by
  unfold State.abortPass
  simp only []
  split
  · next h => exact lt_of_filter_isEmpty h
  · rw [State.running_abortPasses, State.count_core, State.core_modPart_same, Arr.part_setPart_same]
    exact fun r hr => by simpa using (List.mem_filter.1 hr).2

/-! ### Sweeps that end together (R81) -/

theorem State.kept_abortSweeps (s : State) (n step source b : Nat) (hit : List Nat) :
    s.PlacementKept (s.abortSweeps n step source b hit) := by
  unfold State.abortSweeps
  simp only []
  split
  · exact (s.kept_modSch ..).trans (State.kept_raise ..)
  · exact ((s.kept_raiseFault ..).trans (State.kept_foldl_dropCmd ..)).trans (State.kept_stopSchuss ..)

theorem State.running_abortSweeps (s : State) (n step source b : Nat) (hit : List Nat) :
    ((s.abortSweeps n step source b hit).core n).sch.running = (s.core n).sch.running := by
  unfold State.abortSweeps
  simp only []
  split
  · rw [(State.raises_raise ..).core, State.core_modSch_same]
  · rw [State.sch_stopSchuss, State.core_modCore_same, Core.foldl_dropCmd_sch, (State.engines_raiseFault ..).sch]

theorem State.kept_abortSweep (s : State) (n cmd source b : Nat) : s.PlacementKept (s.abortSweep n cmd source b) := by
  unfold State.abortSweep
  simp only []
  split
  · exact .refl s
  · exact ((s.kept_modSch ..).trans (State.kept_count ..)).trans (State.kept_abortSweeps ..)

theorem State.running_abortSweep (s : State) (n cmd source b : Nat) :
    ∀ r ∈ ((s.abortSweep n cmd source b).core n).sch.running, r.cmd < cmd := by
  unfold State.abortSweep
  simp only []
  split
  · next h => exact lt_of_filter_isEmpty h
  · rw [State.running_abortSweeps, State.count_core, State.core_modSch_same]
    exact fun r hr => by simpa using (List.mem_filter.1 hr).2

/-! ### What a persistent report does -/

/-- The STREAM or LAUNCH that a persistent report feeds is reported and dropped. -/
def State.streamLost (s : State) (n u cmd ctx : Nat) : State :=
  (s.raiseFault n kSTR 6 (strInfo 0 6 ctx) (word u)).dropCmd n cmd

theorem State.kept_streamLost (s : State) (n u cmd ctx : Nat) : s.PlacementKept (s.streamLost n u cmd ctx) :=
  (s.kept_raiseFault ..).trans (State.kept_dropCmd ..)

theorem State.streamLost_ends (s : State) (n : CoreId) (u cmd ctx : Nat) :
    ((s.streamLost n.val u cmd ctx).core n.val).command cmd = none ∧
      (s.streamLost n.val u cmd ctx).reported (corePage n.val kSTR) 6 = true := by
  refine ⟨?_, s.reported_raiseFault n _ _ (by decide) (by decide)⟩
  rw [State.streamLost, State.dropCmd, State.core_modCore_same]
  exact Core.command_eq_none_of_sublist (.refl _)

/-- A LAUNCH that is lost leaves the lift's queue, too. -/
theorem State.feedLost_launch (s : State) (n u cmd : Nat) :
    ∃ f, s.feedLost n u cmd .launch = (s.streamLost n u cmd 0).modLift f :=
  ⟨fun l => { l with ownQ := l.ownQ.filter (fun o => !(o.core == n && o.cmd == cmd)) }, rfl⟩

theorem State.feedLost_keeps (s : State) (n u cmd : Nat) (feeds : Feeding) :
    s.ErrKept (s.feedLost n u cmd feeds) ∧ (s.feedLost n u cmd feeds).chans = s.chans ∧
      (s.feedLost n u cmd feeds).slices = s.slices := by
  have of_kept {t : State} (h : s.PlacementKept t) : s.ErrKept t ∧ t.chans = s.chans ∧ t.slices = s.slices :=
    ⟨h.errKept, h.chans, h.slices⟩
  cases feeds with
  | pass p => exact of_kept (s.kept_abortPass n p.val cmd 3 0)
  | sweep => exact of_kept (s.kept_abortSweep n cmd 3 0)
  | stream c => exact of_kept (s.kept_streamLost n u cmd c.val)
  | launch =>
    obtain ⟨f, hf⟩ := s.feedLost_launch n u cmd
    obtain ⟨herr, hchans, hslices⟩ := of_kept (s.kept_streamLost n u cmd 0)
    rw [hf]
    exact ⟨herr.trans (State.errKept_of_pages rfl), hchans, hslices⟩

/-- The pass or sweep is running no longer, with no later one; the STREAM or LAUNCH is dropped and reported. -/
theorem State.feedLost_ends (s : State) (n : CoreId) (u cmd : Nat) (feeds : Feeding) :
    let t := s.feedLost n.val u cmd feeds
    match feeds with
    | .pass p => ∀ r ∈ ((t.core n.val).arr.part p.val).running, r.cmd < cmd
    | .sweep => ∀ r ∈ (t.core n.val).sch.running, r.cmd < cmd
    | .stream _ | .launch => (t.core n.val).command cmd = none ∧ t.reported (corePage n.val kSTR) 6 = true := by
  cases feeds with
  | pass p => exact s.running_abortPass n.val p.val cmd 3 0
  | sweep => exact s.running_abortSweep n.val cmd 3 0
  | stream c => exact s.streamLost_ends n u cmd c.val
  | launch =>
    obtain ⟨f, hf⟩ := s.feedLost_launch n.val u cmd
    simp only [hf, State.modLift_core, State.reported, State.modLift_page]
    exact s.streamLost_ends n u cmd 0

/-- A read that was reported has been made again, as often as it was (R215). -/
def State.reread (s : State) (n st bad retries : Nat) : State :=
  let s := s.count (pHBM st) 0x120 bad
  if retries = 0 then s else s.count (corePage n kSTR) 0x138 retries

theorem State.frame_reread (s : State) (n st bad retries : Nat) :
    s.reread n st bad retries = { s with pages := (s.reread n st bad retries).pages } := by
  unfold State.reread
  simp only []
  split <;> rfl

theorem mem_marked_markRow (s : State) (n u : Nat) :
    (s.unitPlace n u).2.2 ∈ ((s.markRow n u).chan (s.unitPlace n u).1 (s.unitPlace n u).2.1).marked := by
  have hmark := s.chan_modChan_same (s.unitPlace n u).1 (s.unitPlace n u).2.1 (fun x =>
    { x with marked := if x.marked.contains (s.unitPlace n u).2.2 then x.marked else x.marked ++ [(s.unitPlace n u).2.2] })
  refine (congrArg (fun x => (s.unitPlace n u).2.2 ∈ Chan.marked x) hmark).mpr ?_
  simp only []
  split
  · next h => simpa using h
  · simp

section
variable {s : State} {n : CoreId} {u bad cmd : Nat} {feeds : Feeding} (hs : s.phase = .ready)
  (hn : s.isPresented n.val = true) (hu : u < sliceUnits) (hfed : (s.core n.val).fedBy u feeds = some cmd) (hbad : 0 < bad)
include hs hn hu hfed hbad

theorem State.readReport_eq :
    let x := s.unitPlace n.val u
    let retry := bits (s.reg (pHBM x.1) 0x40) 2 1
    let t := s.reread n.val x.1 (min bad (retry + 1)) (min (min bad (retry + 1)) retry)
    exec (.hbmReadReport n u bad feeds) s = .next (if bad ≤ retry then t else
      ((t.raise (pHBM x.1) 0 (hbmInfo 0 x.2.2.1 x.2.1) (word x.2.2.2)).markRow n.val u).feedLost n.val u cmd feeds) := by
  have hgo : ¬ (s.phase != .ready || !s.isPresented n.val || decide (bad = 0) || decide (sliceUnits ≤ u)) = true := by
    simp [hs, hn]
    omega
  have hexec : exec (.hbmReadReport n u bad feeds) s = execHbmReadReport n u bad feeds s := rfl
  intro x retry t
  rw [hexec]
  unfold execHbmReadReport
  simp only [hfed, if_neg hgo]
  split
  · rfl
  · rfl

/-- A report that a retry clears is counted on the stack's page and on the core's. -/
theorem readReport_cleared (hst : (s.unitPlace n.val u).1 < 20)
    (hretry : bad ≤ bits (s.reg (pHBM (s.unitPlace n.val u).1) 0x40) 2 1) :
    ∃ t, exec (.hbmReadReport n u bad feeds) s = .next t ∧ (∀ k, t.core k = s.core k) ∧ t = { s with pages := t.pages } ∧
      t.counter (pHBM (s.unitPlace n.val u).1) 0x120 =
        s.counter (pHBM (s.unitPlace n.val u).1) 0x120 + BitVec.ofNat 64 bad ∧
      t.counter (corePage n.val kSTR) 0x138 = s.counter (corePage n.val kSTR) 0x138 + BitVec.ofNat 64 bad := by
  refine ⟨_, State.readReport_eq hs hn hu hfed hbad, ?_⟩
  have hpages := corePage_ne_pHBM hst n.val kSTR
  rw [if_pos hretry, Nat.min_eq_left (by omega), Nat.min_eq_left hretry, State.reread, if_neg (by omega)]
  refine ⟨fun _ => rfl, rfl, ?_, ?_⟩
  · rw [State.counter_count, if_neg (fun h => hpages h.1.symm), State.counter_count, if_pos ⟨rfl, rfl⟩]
  · rw [State.counter_count, if_pos ⟨rfl, rfl⟩, State.counter_count, if_neg (fun h => hpages h.1)]

/-- A report that persists is reported on the stack's page, its row is marked, and its consumer loses the feed. -/
theorem readReport_persists (hst : (s.unitPlace n.val u).1 < 20)
    (hretry : bits (s.reg (pHBM (s.unitPlace n.val u).1) 0x40) 2 1 < bad) :
    ∃ v : State, exec (.hbmReadReport n u bad feeds) s = .next (v.feedLost n.val u cmd feeds) ∧
      v.reported (pHBM (s.unitPlace n.val u).1) 0 = true ∧
      (s.unitPlace n.val u).2.2 ∈ (v.chan (s.unitPlace n.val u).1 (s.unitPlace n.val u).2.1).marked ∧ v.slices = s.slices := by
  refine ⟨_, (State.readReport_eq hs hn hu hfed hbad).trans (congrArg _ (if_neg (by omega))), ?_⟩
  generalize hr : State.raise _ (pHBM (s.unitPlace n.val u).1) 0 _ _ = r
  have hreported : r.reported (pHBM (s.unitPlace n.val u).1) 0 = true :=
    hr ▸ State.reported_raise_pHBM _ 0 _ _ hst (by decide)
  have hplace : r.unitPlace n.val u = s.unitPlace n.val u := by
    rw [← hr, (State.raises_raise ..).frame, State.frame_reread]
    rfl
  have hslices : r.slices = s.slices := by rw [← hr, (State.raises_raise ..).slices, State.frame_reread]
  exact ⟨hreported, hplace ▸ mem_marked_markRow r n.val u, hslices⟩

end

/-- Settles O22: a window is due for a probe or is not, a channel trains or does not, and a report is cleared by a retry or
persists. -/
theorem channelEvents : Obligations.ChannelEvents := by
  unfold Obligations.ChannelEvents
  refine ⟨fun s st ch m hst hruns => ⟨fun hr => ?_, fun hr => channelRetrain_trained hst hruns hr,
    fun hr hslice => channelRetrain_failed hst hruns hr hslice⟩,
    fun s n u bad feeds cmd hs hn hu hst hfed => ⟨fun hbad hretry => readReport_cleared hs hn hu hfed hbad hst hretry,
      fun hretry => ?_⟩⟩
  · by_cases hp : s.probeDue st ch.val
    · have hchan := s.chan_probedWindow hst ch.val m
      have kept := s.unitsKept_probedWindow (st := st) ch.val m
      refine ⟨_, s.refreshWindow_probe m hst hruns hr hp, s.counter_windows_probedWindow hst _ m, kept.core, kept.unit, ?_,
        fun h => absurd hp.1 (h.resolve_right (by simp [hp.2])), fun _ _ => ⟨?_, s.counter_probes_probedWindow hst _ m,
          fun hm => ?_, fun hm => ?_⟩⟩
      · rw [hchan, Chan.windows_probed]
        rfl
      · rw [hchan, Chan.margin_probed]
      · rw [hchan, Chan.probed_high hm]
        exact ⟨rfl, hr⟩
      · rw [hchan, Chan.probed_low hm]
        exact ⟨rfl, rfl, s.reported_probedWindow hst _ m hm⟩
    · have hchan := s.chan_refreshed (st := st) ch.val
      have kept := s.unitsKept_refreshed (st := st) ch.val
      refine ⟨_, s.refreshWindow_plain m hst hruns hr hp, s.counter_windows_refreshed hst _, kept.core, kept.unit, ?_,
        fun _ => ⟨s.slices_refreshed ch.val, hchan⟩, fun h0 hcal => absurd ⟨h0, hcal⟩ hp⟩
      rw [hchan]
      rfl
  · obtain ⟨v, hexec, hreported, hmarked, hslices⟩ := readReport_persists hs hn hu hfed (by omega) hst hretry
    obtain ⟨herr, hchans, hkept⟩ := v.feedLost_keeps n.val u cmd feeds
    refine ⟨_, hexec, herr.kept _ _ hreported, ?_, hkept.trans hslices, v.feedLost_ends n u cmd feeds⟩
    rwa [State.chan, hchans]

end Sys2Proof.Machine
end

section
/-!
Proofs of chapter 10, the instructions of a drill (R220, R221): the state in which an instruction acts, what writing,
checking and moving units leaves, and an instruction that is bad.
-/
namespace Sys2Proof.Machine

/-! ## An instruction at its place (R220, R221) -/

/-- The drill's instruction word at its place. -/
def Drill.word (d : Drill) : Word64 := d.code.get (fun _ => 0) d.pc

/-- The state in which a drill's instruction acts: under the preset that the drill names (R206). -/
def State.drilling (s : State) (n : Nat) : State := s.modStr n (fun x => { x with preset := x.drillPreset })

/-- The drill may go on with this instruction: it runs, its place is inside the code, and nothing holds the instruction. -/
def State.drillAt (s : State) (n op : Nat) : Prop :=
  s.drillRuns n = true ∧ (s.core n).str.drill.pc < 512 ∧ drillOp (s.core n).str.drill.word = op ∧ s.drillHeld n op = none

theorem State.drillStep_acts {s : State} {n op : Nat} (h : s.drillAt n op) (hop : drillOps.contains op = true)
    (body : Word64 → State → State) : s.drillStep n op body = body (s.core n).str.drill.word (s.drilling n) := by
  obtain ⟨hrun, hpc, hword, hheld⟩ := h
  have hgood : ¬ (!drillOps.contains (drillOp (s.core n).str.drill.word) ||
      decide (512 ≤ (s.core n).str.drill.pc)) = true := by
    rw [hword, hop, decide_eq_false (by omega)]
    decide
  rw [State.drillStep, if_pos hrun]
  exact (if_neg hgood).trans ((if_pos hword).trans (by rw [hheld]; rfl))

theorem State.drillStep_unknown {s : State} {n : Nat} (hrun : s.drillRuns n = true)
    (hop : drillOps.contains (drillOp (s.core n).str.drill.word) = false) (op : Nat) (body : Word64 → State → State) :
    s.drillStep n op body = s.drillBad n := by
  rw [State.drillStep, if_pos hrun]
  refine if_pos ?_
  have hbad : (!drillOps.contains (drillOp (s.core n).str.drill.word)) = true := by rw [hop]; rfl
  exact Bool.or_eq_true_iff.2 (.inl hbad)

/-! ## What an instruction leaves of the cores -/

/-- Core `n` has this drill and the preset that the drill named, and is otherwise as it was, with every other core. -/
def State.SetsDrill (s t : State) (n : Nat) (d : Drill) : Prop :=
  t.core n = { s.core n with str := { (s.core n).str with drill := d, preset := (s.core n).str.drillPreset } } ∧
    ∀ m, m ≠ n → t.core m = s.core m

section
variable {s t : State} {n : Nat} {d : Drill}

theorem State.setsDrill_drilling (s : State) (n : Nat) : s.SetsDrill (s.drilling n) n (s.core n).str.drill :=
  ⟨s.core_modStr_same n _, fun m hm => by rw [State.drilling, State.modStr, State.core_modCore, if_neg hm]⟩

theorem State.SetsDrill.modDrill (h : s.SetsDrill t n d) (f : Drill → Drill) : s.SetsDrill (t.modDrill n f) n (f d) := by
  obtain ⟨hcore, hother⟩ := h
  refine ⟨?_, fun m hm => ?_⟩
  · rw [State.modDrill, State.core_modStr_same, hcore]
  · rw [State.modDrill, State.modStr, State.core_modCore, if_neg hm, hother m hm]

theorem State.SetsDrill.of_core (h : s.SetsDrill t n d) {u : State} (hu : ∀ m, u.core m = t.core m) : s.SetsDrill u n d :=
  ⟨(hu n).trans h.1, fun m hm => (hu m).trans (h.2 m hm)⟩

theorem State.SetsDrill.takeFree (h : s.SetsDrill t n d) (k : Nat) : s.SetsDrill (t.takeFree k) n d := h

end

theorem State.frame_modStr (s : State) (n : Nat) (f : Str → Str) : s.CoreFrame (s.modStr n f) n := s.frame_modCore n _
theorem State.frame_drilling (s : State) (n : Nat) : s.CoreFrame (s.drilling n) n := s.frame_modStr n _
theorem State.frame_modDrill (s : State) (n : Nat) (f : Drill → Drill) : s.CoreFrame (s.modDrill n f) n := s.frame_modStr n _

/-- DRILL_BAD stops the drill, and is reported; no unit changes. -/
theorem State.drillBad_stops (s : State) (n : CoreId) : (s.drillBad n.val).reported (corePage n.val kSTR) 5 = true ∧
    (∀ m, (s.drillBad n.val).core m = (s.modDrill n.val (fun d => { d with running := false })).core m) ∧
    (s.drillBad n.val).slices = s.slices :=
  ⟨State.reported_raise _ n _ _ (by decide) (by decide), (State.raises_raise ..).core, (State.raises_raise ..).slices⟩

theorem State.drilling_bad (s : State) (n : CoreId) :
    ((s.drilling n.val).drillBad n.val).reported (corePage n.val kSTR) 5 = true ∧
      s.SetsDrill ((s.drilling n.val).drillBad n.val) n.val { (s.core n.val).str.drill with running := false } ∧
      ((s.drilling n.val).drillBad n.val).slices = s.slices := by
  obtain ⟨hreported, hcore, hslices⟩ := (s.drilling n.val).drillBad_stops n
  exact ⟨hreported, ((s.setsDrill_drilling n.val).modDrill _).of_core hcore, hslices⟩

/-! ## Units that drills write and read (R203) -/

theorem State.get_foldl_set_none (n j : Nat) (is : List Nat) : ∀ m : SMap (Option SaveImage),
    (is.foldl (fun m i => m.set (fun _ => none) (2 * n + i) none) m).get (fun _ => none) (2 * n + j) =
      if j ∈ is then none else m.get (fun _ => none) (2 * n + j) := by
  induction is with
  | nil => exact fun _ => rfl
  | cons i is ih =>
    intro m
    rw [List.foldl_cons, ih, SMap.get_set]
    by_cases hj : j ∈ is
    · simp [hj]
    · by_cases hi : j = i <;> simp [hj, hi]

/-- Of its core's images a drill's write takes away those into whose slots it writes. -/
theorem State.slotImage_drillWrite (s : State) (n : Nat) (xs : List (Nat × Row)) (i : Fin 2) :
    (s.drillWrite n xs).slotImage n i.val =
      if (xs.map (·.1)).any (fun u => slicePart u == .save i) then none else s.slotImage n i.val := by
  have hof : Fin.ofNat 2 i.val = i := by simp
  have hsaves : (s.setUnits n xs).saves = s.saves := by rw [s.frame_setUnits n xs]
  rw [State.slotImage, State.drillWrite]
  simp only [State.get_foldl_set_none, hsaves, List.mem_filter, List.mem_range, i.isLt, true_and, hof, List.any_map,
    Function.comp_def, State.slotImage]

theorem State.frame_drillWrite (s : State) (n : Nat) (xs : List (Nat × Row)) : s.drillWrite n xs =
    { s with slices := (s.setUnits n xs).slices, saves := (s.drillWrite n xs).saves } := by
  rw [State.drillWrite, s.frame_setUnits n xs]

/-- The preset of a drill does not show in the units that it reads or in the patterns. -/
theorem State.drillUnit_drilling (s : State) (n u : Nat) : (s.drilling n).drillUnit n u = s.drillUnit n u := rfl
theorem State.unitPlace_drilling (s : State) (n u : Nat) : (s.drilling n).unitPlace n u = s.unitPlace n u := rfl
theorem State.patternRow_drilling (s : State) (n p u : Nat) : (s.drilling n).patternRow n p u = s.patternRow n p u := rfl

theorem State.core_drillWrite (s : State) (n : Nat) (xs : List (Nat × Row)) (m : Nat) :
    (s.drillWrite n xs).core m = s.core m := by
  rw [State.frame_drillWrite]; rfl

section
variable {s : State} {n : CoreId}

/-! ## Registers and loops -/

theorem drill_dset (h : s.drillAt n.val 0x01) :
    let d := (s.core n.val).str.drill
    ∃ t, exec (.dset n) s = .next t ∧ s.CoreFrame t n.val ∧ s.SetsDrill t n.val
      { d with d := d.d.set (fun _ => 0) (drillA d.word) ((drillImm32 d.word).signExtend 64) }.advance :=
  ⟨_, congrArg Host.Outcome.next (s.drillStep_acts h rfl _),
    ((s.frame_drilling n.val).trans (State.frame_modDrill ..)).trans (State.frame_modDrill ..),
    ((s.setsDrill_drilling n.val).modDrill _).modDrill _⟩

theorem drill_dadd (h : s.drillAt n.val 0x02) :
    let d := (s.core n.val).str.drill
    ∃ t, exec (.dadd n) s = .next t ∧ s.CoreFrame t n.val ∧ s.SetsDrill t n.val
      { d with d := d.d.set (fun _ => 0) (drillA d.word) (d.reg (drillB d.word) + (drillImm32 d.word).signExtend 64) }.advance :=
  ⟨_, congrArg Host.Outcome.next (s.drillStep_acts h rfl _),
    ((s.frame_drilling n.val).trans (State.frame_modDrill ..)).trans (State.frame_modDrill ..),
    ((s.setsDrill_drilling n.val).modDrill _).modDrill _⟩

/-- What DRILL_BAD of an instruction leaves. -/
def State.drillsBadly (s : State) (n : CoreId) (c : Instr) : Prop := ∃ t, exec c s = .next t ∧
  t.reported (corePage n.val kSTR) 5 = true ∧ s.SetsDrill t n.val { (s.core n.val).str.drill with running := false } ∧
  t.slices = s.slices

theorem State.drillsBadly_of_eq {c : Instr} (h : exec c s = .next ((s.drilling n.val).drillBad n.val)) : s.drillsBadly n c :=
  ⟨_, h, s.drilling_bad n⟩

theorem State.drill_drilling (s : State) (n : Nat) : ((s.drilling n).core n).str.drill = (s.core n).str.drill := by
  rw [(s.setsDrill_drilling n).1]

theorem drill_dloop_bad (h : s.drillAt n.val 0x03) (hd : 2 ≤ (s.core n.val).str.drill.loops.length) :
    s.drillsBadly n (.dloop n) := by
  refine State.drillsBadly_of_eq (congrArg Host.Outcome.next ((s.drillStep_acts h rfl _).trans (if_pos ?_)))
  rwa [s.drill_drilling]

section
variable (h : s.drillAt n.val 0x03) (hd : (s.core n.val).str.drill.loops.length < 2)
include h hd

/-- A loop whose count is 0 goes on past its end. -/
theorem drill_dloop_skip (hz : drillImm32 (s.core n.val).str.drill.word = 0) :
    let d := (s.core n.val).str.drill
    ∃ t, exec (.dloop n) s = .next t ∧ s.CoreFrame t n.val ∧ s.SetsDrill t n.val
      { d with c := d.c.set wordZero (drillA d.word % 2) 0, pc := drillImm16 d.word }.advance := by
  have hlevel : ¬ 2 ≤ ((s.drilling n.val).core n.val).str.drill.loops.length := by
    rw [s.drill_drilling]; omega
  refine ⟨_, congrArg Host.Outcome.next ((s.drillStep_acts h rfl _).trans ((if_neg hlevel).trans (if_pos hz))),
    ((s.frame_drilling n.val).trans (State.frame_modDrill ..)).trans (State.frame_modDrill ..), ?_⟩
  rw [← hz]
  exact ((s.setsDrill_drilling n.val).modDrill _).modDrill _

theorem drill_dloop_enter (hz : drillImm32 (s.core n.val).str.drill.word ≠ 0) :
    let d := (s.core n.val).str.drill
    ∃ t, exec (.dloop n) s = .next t ∧ s.CoreFrame t n.val ∧ s.SetsDrill t n.val
      { d with c := d.c.set wordZero (drillA d.word % 2) (drillImm32 d.word), pc := d.pc + 1,
               loops := (Fin.ofNat 2 (drillA d.word % 2), d.pc + 1, drillImm16 d.word) :: d.loops } := by
  have hlevel : ¬ 2 ≤ ((s.drilling n.val).core n.val).str.drill.loops.length := by
    rw [s.drill_drilling]; omega
  exact ⟨_, congrArg Host.Outcome.next ((s.drillStep_acts h rfl _).trans ((if_neg hlevel).trans (if_neg hz))),
    ((s.frame_drilling n.val).trans (State.frame_modDrill ..)).trans (State.frame_modDrill ..),
    ((s.setsDrill_drilling n.val).modDrill _).modDrill _⟩

end

/-! ## The wait, the mark and the end -/

theorem drill_dwait (h : s.drillAt n.val 0x20) :
    ∃ t, exec (.dwait n) s = .next t ∧ s.CoreFrame t n.val ∧ s.SetsDrill t n.val (s.core n.val).str.drill.advance :=
  ⟨_, congrArg Host.Outcome.next (s.drillStep_acts h rfl _), (s.frame_drilling n.val).trans (State.frame_modDrill ..),
    (s.setsDrill_drilling n.val).modDrill _⟩

theorem drill_dmark (h : s.drillAt n.val 0x21) :
    ∃ t, exec (.dmark n) s = .next t ∧ s.SetsDrill t n.val (s.core n.val).str.drill.advance ∧
      t.reg (corePage n.val kSTR) 0x54 = drillImm32 (s.core n.val).str.drill.word ∧
      t = { s with pages := t.pages, cores := t.cores } := by
  refine ⟨_, congrArg Host.Outcome.next (s.drillStep_acts h rfl _), ?_, ?_, rfl⟩
  · exact ((s.setsDrill_drilling n.val).of_core fun _ => rfl).modDrill _
  · exact ((s.drilling n.val).reg_setReg ..).trans (if_pos ⟨rfl, rfl⟩)

/-- After the drill's last instruction its second half begins, or it runs no longer. -/
def Drill.ended (d : Drill) : Drill :=
  match d.next with
  | none => { d with running := false, pc := 0, loops := [] }
  | some (preset, code) => { Drill.reset with code := code, running := true, preset := preset, log := d.log }

theorem Drill.ended_of_none {d : Drill} (h : d.next = none) : d.ended = { d with running := false, pc := 0, loops := [] } := by
  simp only [Drill.ended, h]

theorem Drill.ended_of_some {d : Drill} {preset : Option Nat} {code : SMap Word64} (h : d.next = some (preset, code)) :
    d.ended = { Drill.reset with code := code, running := true, preset := preset, log := d.log } := by
  simp only [Drill.ended, h]

theorem drill_dend (h : s.drillAt n.val 0x3F) :
    ∃ t, exec (.dend n) s = .next t ∧ s.CoreFrame t n.val ∧ s.SetsDrill t n.val (s.core n.val).str.drill.ended := by
  have hdrill := s.drill_drilling n.val
  rcases hnext : (s.core n.val).str.drill.next with _ | ⟨preset, code⟩
  · rw [Drill.ended_of_none hnext]
    refine ⟨_, congrArg Host.Outcome.next ((s.drillStep_acts h rfl _).trans ?_),
      (s.frame_drilling n.val).trans (State.frame_modDrill _ n.val (fun d => { d with running := false, pc := 0, loops := [] })),
      (s.setsDrill_drilling n.val).modDrill _⟩
    simp only [hdrill, hnext]
  · rw [Drill.ended_of_some hnext]
    refine ⟨_, congrArg Host.Outcome.next ((s.drillStep_acts h rfl _).trans ?_),
      (s.frame_drilling n.val).trans (State.frame_modDrill _ n.val (fun d =>
        { Drill.reset with code := code, running := true, preset := preset, log := d.log })),
      (s.setsDrill_drilling n.val).modDrill _⟩
    simp only [hdrill, hnext]
    rfl

/-! ## Fills and checks -/

theorem drill_dfill_bad (h : s.drillAt n.val 0x10)
    (hus : let d := (s.core n.val).str.drill; drillUnits d d.word (drillImm32 d.word).toInt = none) : s.drillsBadly n (.dfill n) := by
  refine State.drillsBadly_of_eq (congrArg Host.Outcome.next ((s.drillStep_acts h rfl _).trans ?_))
  simp only [s.drill_drilling, hus]

theorem drill_dcheck_bad (h : s.drillAt n.val 0x11)
    (hus : let d := (s.core n.val).str.drill; drillUnits d d.word (drillImm32 d.word).toInt = none) : s.drillsBadly n (.dcheck n) := by
  refine State.drillsBadly_of_eq (congrArg Host.Outcome.next ((s.drillStep_acts h rfl _).trans ?_))
  simp only [s.drill_drilling, hus]

/-- A drill's instruction has moved units: they are counted, and the drill goes on. -/
def State.drillMoved (s : State) (n : Nat) (us : List Nat) : State :=
  (s.count (corePage n kSTR) 0x140 us.length).drillDone n

theorem State.counter_drillMoved (s : State) (n : Nat) (us : List Nat) :
    (s.drillMoved n us).counter (corePage n kSTR) 0x140 = s.counter (corePage n kSTR) 0x140 + BitVec.ofNat 64 us.length :=
  (s.counter_count ..).trans (if_pos ⟨rfl, rfl⟩)

theorem State.frame_drillMoved (s : State) (n : Nat) (us : List Nat) : s.drillMoved n us =
    { s with pages := (s.drillMoved n us).pages, cores := (s.drillMoved n us).cores } := rfl

theorem State.SetsDrill.drillMoved {t : State} {d : Drill} (h : s.SetsDrill t n.val d) (us : List Nat) :
    s.SetsDrill (t.drillMoved n.val us) n.val d.advance :=
  State.SetsDrill.modDrill (h.of_core fun _ => rfl) _

/-- From `s` to `t` a drill wrote these units and took the images away whose slots they lie in. -/
structure State.DrillWrote (s t : State) (n : Nat) (xs : List (Nat × Row)) : Prop where
  sets : s.SetsDrill t n (s.core n).str.drill
  frame : t = { s with cores := t.cores, slices := (s.setUnits n xs).slices, saves := t.saves, free := t.free }
  images : ∀ i : Fin 2, t.slotImage n i.val =
    if (xs.map (·.1)).any (fun u => slicePart u == .save i) then none else s.slotImage n i.val

theorem State.slices_setUnits_drilling (s : State) (n : Nat) (xs : List (Nat × Row)) :
    ((s.drilling n).setUnits n xs).slices = (s.setUnits n xs).slices := by
  rw [State.setUnits_eq, State.setUnits_eq]
  rfl

theorem State.drillWrote_drillWrite (s : State) (n : Nat) (xs : List (Nat × Row)) :
    s.DrillWrote ((s.drilling n).drillWrite n xs) n xs where
  sets := (s.setsDrill_drilling n).of_core fun m => State.core_drillWrite ..
  frame := by
    rw [State.frame_drillWrite, State.slices_setUnits_drilling]
    rfl
  images i := State.slotImage_drillWrite ..

theorem State.DrillWrote.takeFree {t : State} {m : Nat} {xs : List (Nat × Row)} (h : s.DrillWrote t m xs) (k : Nat) :
    s.DrillWrote (t.takeFree k) m xs where
  sets := h.sets.takeFree k
  frame := by
    rw [State.takeFree, h.frame]
  images := h.images

section
variable {t : State} {xs : List (Nat × Row)} (h : s.DrillWrote t n.val xs) (us : List Nat)
include h

theorem State.DrillWrote.counter_moved : (t.drillMoved n.val us).counter (corePage n.val kSTR) 0x140 =
    s.counter (corePage n.val kSTR) 0x140 + BitVec.ofNat 64 us.length := by
  have hcounter : t.counter (corePage n.val kSTR) 0x140 = s.counter (corePage n.val kSTR) 0x140 := by
    rw [h.frame]
    rfl
  rw [State.counter_drillMoved, hcounter]

theorem State.DrillWrote.slices_moved : (t.drillMoved n.val us).slices = (s.setUnits n.val xs).slices := by
  rw [State.frame_drillMoved, h.frame]

theorem State.DrillWrote.frame_moved : t.drillMoved n.val us = { s with
    pages := (t.drillMoved n.val us).pages, cores := (t.drillMoved n.val us).cores
    slices := (t.drillMoved n.val us).slices, saves := (t.drillMoved n.val us).saves, free := t.free } := by
  rw [State.frame_drillMoved, h.frame]

end

/-- The units that a fill writes, with the pattern that its instruction names. -/
def State.filled (s : State) (n : Nat) (w : Word64) (us : List Nat) : List (Nat × Row) :=
  us.map (fun u => (u, s.patternRow n (drillImm16 w % 8) u))

theorem State.dfill_eq (h : s.drillAt n.val 0x10) {us : List Nat}
    (hus : let d := (s.core n.val).str.drill; drillUnits d d.word (drillImm32 d.word).toInt = some us) :
    exec (.dfill n) s = .next ((((s.drilling n.val).drillWrite n.val
      (s.filled n.val (s.core n.val).str.drill.word us)).takeFree sliceUnits).drillMoved n.val us) := by
  refine congrArg Host.Outcome.next ((s.drillStep_acts h rfl _).trans ?_)
  simp only [s.drill_drilling, hus]
  rfl

theorem drill_dfill (h : s.drillAt n.val 0x10) {us : List Nat}
    (hus : let d := (s.core n.val).str.drill; drillUnits d d.word (drillImm32 d.word).toInt = some us) :
    ∃ t, exec (.dfill n) s = .next t ∧ s.SetsDrill t n.val (s.core n.val).str.drill.advance ∧
      t.counter (corePage n.val kSTR) 0x140 = s.counter (corePage n.val kSTR) 0x140 + BitVec.ofNat 64 us.length ∧
      (∀ i : Fin 2, t.slotImage n.val i.val =
        if us.any (fun u => slicePart u == .save i) then none else s.slotImage n.val i.val) ∧
      t.slices = (s.setUnits n.val (s.filled n.val (s.core n.val).str.drill.word us)).slices ∧
      t = { s with pages := t.pages, cores := t.cores, slices := t.slices, saves := t.saves, free := t.free } := by
  have wrote := (s.drillWrote_drillWrite n.val (s.filled n.val (s.core n.val).str.drill.word us)).takeFree sliceUnits
  have hunits : (s.filled n.val (s.core n.val).str.drill.word us).map (·.1) = us := by simp [State.filled, Function.comp_def]
  refine ⟨_, s.dfill_eq h hus, wrote.sets.drillMoved us, wrote.counter_moved us, fun i => ?_, wrote.slices_moved us,
    wrote.frame_moved us⟩
  refine (wrote.images i).trans ?_
  rw [hunits]

/-! ### Rows marked by a check (R216) -/

theorem State.frame_markRows (n : Nat) (us : List Nat) : ∀ s : State, us.foldl (fun s u => s.markRow n u) s =
    { s with chans := (us.foldl (fun s u => s.markRow n u) s).chans } := by
  induction us with
  | nil => exact fun _ => rfl
  | cons u us ih => exact fun s => ih (s.markRow n u)

theorem State.marked_markRow (s : State) (n u a b : Nat) {x : Nat × Nat} (hx : x ∈ (s.chan a b).marked) :
    x ∈ ((s.markRow n u).chan a b).marked := by
  unfold State.markRow
  simp only []
  rw [State.chan_modChan]
  split
  · next h =>
    have hchan : s.chan a b = s.chan (s.unitPlace n u).1 (s.unitPlace n u).2.1 := by
      rw [State.chan, h]
      rfl
    rw [hchan] at hx
    simp only []
    split
    · exact hx
    · exact List.mem_append_left _ hx
  · exact hx

theorem State.marked_markRows_keeps (n a b : Nat) {x : Nat × Nat} (us : List Nat) : ∀ s : State, x ∈ (s.chan a b).marked →
    x ∈ ((us.foldl (fun s u => s.markRow n u) s).chan a b).marked := by
  induction us with
  | nil => exact fun _ h => h
  | cons u us ih => exact fun s h => ih _ (s.marked_markRow n u a b h)

/-- The rows of the units of a list are marked one by one. -/
theorem State.marked_markRows (n : Nat) {u : Nat} {us : List Nat} (hu : u ∈ us) (s : State) : (s.unitPlace n u).2.2 ∈
    ((us.foldl (fun s u => s.markRow n u) s).chan (s.unitPlace n u).1 (s.unitPlace n u).2.1).marked := by
  induction us generalizing s with
  | nil => exact absurd hu List.not_mem_nil
  | cons v us ih =>
    rcases List.mem_cons.1 hu with rfl | hu
    · exact State.marked_markRows_keeps n _ _ us _ (mem_marked_markRow s n u)
    · exact ih hu (s.markRow n v)

/-- The units of a check that do not hold the pattern that its instruction names. -/
def State.missed (s : State) (n : Nat) (w : Word64) (us : List Nat) : List Nat :=
  us.filter (fun u => s.drillUnit n u != s.patternRow n (drillImm16 w % 8) u)

/-- A check has marked, counted and logged the units that it missed. -/
def State.missLogged (s : State) (n : Nat) (miss : List Nat) : State :=
  let t := miss.foldl (fun s u => s.markRow n u) s
  (t.setReg (corePage n kSTR) 0x58 (t.reg (corePage n kSTR) 0x58 + word miss.length)).modDrill n
    (fun d => { d with log := (d.log ++ miss).take 16 })

theorem State.dcheck_eq (h : s.drillAt n.val 0x11) {us : List Nat}
    (hus : let d := (s.core n.val).str.drill; drillUnits d d.word (drillImm32 d.word).toInt = some us) :
    exec (.dcheck n) s = .next ((((s.drilling n.val).missLogged n.val
      (s.missed n.val (s.core n.val).str.drill.word us)).takeFree sliceUnits).drillMoved n.val us) := by
  refine congrArg Host.Outcome.next ((s.drillStep_acts h rfl _).trans ?_)
  simp only [s.drill_drilling, hus]
  rfl

section
variable (s : State) (m : Nat) (miss : List Nat)

theorem State.frame_missLogged : s.missLogged m miss = { s with
    pages := (s.missLogged m miss).pages, cores := (s.missLogged m miss).cores, chans := (s.missLogged m miss).chans } := by
  unfold State.missLogged
  rw [State.frame_markRows]
  rfl

theorem State.chan_missLogged (a b : Nat) :
    (s.missLogged m miss).chan a b = (miss.foldl (fun s u => s.markRow m u) s).chan a b := rfl

theorem State.reg_missLogged : (s.missLogged m miss).reg (corePage m kSTR) 0x58 =
    s.reg (corePage m kSTR) 0x58 + word miss.length := by
  refine (State.reg_setReg ..).trans ((if_pos ⟨rfl, rfl⟩).trans ?_)
  rw [State.frame_markRows]
  rfl

theorem State.counter_missLogged (o : Nat) :
    (s.missLogged m miss).counter (corePage m kSTR) o = s.counter (corePage m kSTR) o := by
  refine (State.counter_setReg ..).trans ?_
  rw [State.frame_markRows]
  rfl

end

theorem State.setsDrill_missLogged (s : State) (n : Nat) (miss : List Nat) : s.SetsDrill ((s.drilling n).missLogged n miss) n
    { (s.core n).str.drill with log := ((s.core n).str.drill.log ++ miss).take 16 } := by
  refine ((s.setsDrill_drilling n).of_core fun m => ?_).modDrill _
  rw [State.frame_markRows]
  rfl

theorem drill_dcheck (h : s.drillAt n.val 0x11) {us : List Nat}
    (hus : let d := (s.core n.val).str.drill; drillUnits d d.word (drillImm32 d.word).toInt = some us) :
    let d := (s.core n.val).str.drill
    let miss := s.missed n.val d.word us
    ∃ t, exec (.dcheck n) s = .next t ∧
      t.counter (corePage n.val kSTR) 0x140 = s.counter (corePage n.val kSTR) 0x140 + BitVec.ofNat 64 us.length ∧
      t = { s with pages := t.pages, cores := t.cores, chans := t.chans, free := t.free } ∧
      s.SetsDrill t n.val { d with log := (d.log ++ miss).take 16 }.advance ∧
      t.reg (corePage n.val kSTR) 0x58 = s.reg (corePage n.val kSTR) 0x58 + word miss.length ∧
      ∀ u ∈ miss, (s.unitPlace n.val u).2.2 ∈ (t.chan (s.unitPlace n.val u).1 (s.unitPlace n.val u).2.1).marked := by
  intro d miss
  refine ⟨_, s.dcheck_eq h hus, ?_, ?_, ?_, ?_, fun u hu => ?_⟩
  · rw [State.counter_drillMoved]
    exact congrArg (· + _) ((s.drilling n.val).counter_missLogged ..)
  · rw [State.frame_drillMoved, State.takeFree, State.frame_missLogged]
    rfl
  · exact ((s.setsDrill_missLogged n.val miss).takeFree sliceUnits).drillMoved us
  · exact (State.reg_count ..).trans ((s.drilling n.val).reg_missLogged ..)
  · have hmark := State.marked_markRows n.val hu (s.drilling n.val)
    rwa [State.unitPlace_drilling, ← State.chan_missLogged] at hmark

/-! ## Moves between the scratchpad and the slice -/

theorem State.drillMove_bad (s : State) (n : Nat) (load : Bool) (w : Word64)
    (hus : ∀ us, drillUnits (s.core n).str.drill w 1 = some us → 24576 < drillImm16 w + us.length) :
    s.drillMove n load w = s.drillBad n := by
  unfold State.drillMove
  split
  · rfl
  · next us h => exact if_pos (hus us h)

theorem State.drillMove_eq {s : State} {n : Nat} {w : Word64} {us : List Nat} (load : Bool)
    (hus : drillUnits (s.core n).str.drill w 1 = some us) (hfit : drillImm16 w + us.length ≤ 24576) :
    s.drillMove n load w = (if load then
        s.modSpm n (fun m => m.writeRows ((List.range us.length).map (drillImm16 w + ·)) (us.map (s.drillUnit n)))
      else s.drillWrite n (us.zipIdx.map (fun u => (u.1, (s.core n).spm.row (drillImm16 w + u.2))))).drillMoved n us := by
  unfold State.drillMove
  simp only [hus]
  exact if_neg (by omega)

section
variable (hus : let d := (s.core n.val).str.drill
  drillUnits d d.word 1 = none ∨ ∃ us, drillUnits d d.word 1 = some us ∧ 24576 < drillImm16 d.word + us.length)
include hus

/-- A move past the slice, past what drills reach or past the scratchpad is bad (R203, R221). -/
theorem State.drillMove_drilling_bad (load : Bool) :
    (s.drilling n.val).drillMove n.val load (s.core n.val).str.drill.word = (s.drilling n.val).drillBad n.val := by
  refine State.drillMove_bad _ _ _ _ fun us h => ?_
  rw [s.drill_drilling] at h
  rcases hus with hnone | ⟨vs, hsome, hpast⟩
  · exact absurd (hnone.symm.trans h) (by simp)
  · exact Option.some.inj (hsome.symm.trans h) ▸ hpast

theorem drill_dsave_bad (h : s.drillAt n.val 0x12) : s.drillsBadly n (.dsave n) :=
  State.drillsBadly_of_eq (congrArg Host.Outcome.next ((s.drillStep_acts h rfl _).trans (State.drillMove_drilling_bad hus false)))

theorem drill_dload_bad (h : s.drillAt n.val 0x13) : s.drillsBadly n (.dload n) :=
  State.drillsBadly_of_eq (congrArg Host.Outcome.next ((s.drillStep_acts h rfl _).trans (State.drillMove_drilling_bad hus true)))

end

/-- The units that a save writes, with the rows from the one that its instruction names. -/
def State.savedRows (s : State) (n : Nat) (w : Word64) (us : List Nat) : List (Nat × Row) :=
  us.zipIdx.map (fun u => (u.1, (s.core n).spm.row (drillImm16 w + u.2)))

section
variable {us : List Nat} (hus : let d := (s.core n.val).str.drill; drillUnits d d.word 1 = some us)
  (hfit : drillImm16 (s.core n.val).str.drill.word + us.length ≤ 24576)
include hus hfit

theorem drill_dsave (h : s.drillAt n.val 0x12) :
    ∃ t, exec (.dsave n) s = .next t ∧ s.SetsDrill t n.val (s.core n.val).str.drill.advance ∧
      t.counter (corePage n.val kSTR) 0x140 = s.counter (corePage n.val kSTR) 0x140 + BitVec.ofNat 64 us.length ∧
      (∀ i : Fin 2, t.slotImage n.val i.val =
        if us.any (fun u => slicePart u == .save i) then none else s.slotImage n.val i.val) ∧
      t.slices = (s.setUnits n.val (s.savedRows n.val (s.core n.val).str.drill.word us)).slices ∧
      t = { s with pages := t.pages, cores := t.cores, slices := t.slices, saves := t.saves } := by
  have hexec : exec (.dsave n) s = .next (((s.drilling n.val).drillWrite n.val
      (s.savedRows n.val (s.core n.val).str.drill.word us)).drillMoved n.val us) := by
    refine congrArg Host.Outcome.next ((s.drillStep_acts h rfl _).trans ?_)
    rw [State.drillMove_eq false (by rw [s.drill_drilling]; exact hus) hfit, if_neg (by decide), State.savedRows,
      (s.setsDrill_drilling n.val).1]
  have wrote := s.drillWrote_drillWrite n.val (s.savedRows n.val (s.core n.val).str.drill.word us)
  have hunits : (s.savedRows n.val (s.core n.val).str.drill.word us).map (·.1) = us := by
    simp [State.savedRows, Function.comp_def]
  refine ⟨_, hexec, wrote.sets.drillMoved us, wrote.counter_moved us, fun i => ?_, wrote.slices_moved us, ?_⟩
  · refine (wrote.images i).trans ?_
    rw [hunits]
  · have hfree : ((s.drilling n.val).drillWrite n.val (s.savedRows n.val (s.core n.val).str.drill.word us)).free = s.free := by
      rw [State.frame_drillWrite]
      rfl
    have hframe := wrote.frame_moved us
    rwa [hfree] at hframe

theorem drill_dload (h : s.drillAt n.val 0x13) :
    let d := (s.core n.val).str.drill
    ∃ t, exec (.dload n) s = .next t ∧ s.CoreFrame t n.val ∧
      t.counter (corePage n.val kSTR) 0x140 = s.counter (corePage n.val kSTR) 0x140 + BitVec.ofNat 64 us.length ∧
      t.core n.val = { s.core n.val with
        str := { (s.core n.val).str with drill := d.advance, preset := (s.core n.val).str.drillPreset }
        spm := (t.core n.val).spm } ∧
      (t.core n.val).spm.rows = ((s.core n.val).spm.writeRows ((List.range us.length).map (drillImm16 d.word + ·))
        (us.map (s.drillUnit n.val))).rows := by
  intro d
  have hexec : exec (.dload n) s = .next (((s.drilling n.val).modSpm n.val (fun m =>
      m.writeRows ((List.range us.length).map (drillImm16 d.word + ·)) (us.map (s.drillUnit n.val)))).drillMoved n.val us) := by
    refine congrArg Host.Outcome.next ((s.drillStep_acts h rfl _).trans ?_)
    rw [State.drillMove_eq true (by rw [s.drill_drilling]; exact hus) hfit, if_pos rfl]
    rfl
  have hcore (f : Spm → Spm) : (((s.drilling n.val).modSpm n.val f).drillMoved n.val us).core n.val = { s.core n.val with
      str := { (s.core n.val).str with drill := d.advance, preset := (s.core n.val).str.drillPreset }
      spm := f (s.core n.val).spm } := by
    rw [State.drillMoved, State.drillDone, State.modDrill, State.core_modStr_same, State.count_core, State.modSpm,
      State.core_modCore_same, (s.setsDrill_drilling n.val).1]
  refine ⟨_, hexec, ?_, State.counter_drillMoved .., ?_, ?_⟩
  · exact ((s.frame_drilling n.val).trans (State.frame_modSpm ..)).trans
      ((State.frame_count _ _ kSTR 0x140 _ (by decide)).trans (State.frame_modDrill ..))
  · rw [hcore]
  · rw [hcore]

end

end

/-! ## Unknown instructions -/

/-- Every instruction of a drill is a step of the drill. -/
theorem exec_drillStep (s : State) (n : CoreId) : ∀ c ∈ [Instr.dset n, .dadd n, .dloop n, .dfill n, .dcheck n, .dsave n,
    .dload n, .dwait n, .dmark n, .dend n], ∃ op body, exec c s = .next (s.drillStep n.val op body) := by
  simp only [List.forall_mem_cons]
  exact ⟨⟨_, _, rfl⟩, ⟨_, _, rfl⟩, ⟨_, _, rfl⟩, ⟨_, _, rfl⟩, ⟨_, _, rfl⟩, ⟨_, _, rfl⟩, ⟨_, _, rfl⟩, ⟨_, _, rfl⟩, ⟨_, _, rfl⟩,
    ⟨_, _, rfl⟩, fun _ h => absurd h List.not_mem_nil⟩

theorem drill_unknown {s : State} {n : CoreId} (hrun : s.drillRuns n.val = true)
    (hop : drillOps.contains (drillOp (s.core n.val).str.drill.word) = false) {c : Instr}
    (hc : c ∈ [Instr.dset n, .dadd n, .dloop n, .dfill n, .dcheck n, .dsave n, .dload n, .dwait n, .dmark n, .dend n]) :
    ∃ t, exec c s = .next t ∧ t.reported (corePage n.val kSTR) 5 = true ∧
      (t.core n.val).str.drill = { (s.core n.val).str.drill with running := false } ∧ t.slices = s.slices := by
  obtain ⟨op, body, hexec⟩ := exec_drillStep s n c hc
  obtain ⟨hreported, hcore, hslices⟩ := s.drillBad_stops n
  refine ⟨_, hexec, ?_⟩
  rw [State.drillStep_unknown hrun hop]
  refine ⟨hreported, ?_, hslices⟩
  rw [hcore, State.modDrill, State.core_modStr_same]

/-- Settles O24, one lemma an instruction: each acts under the drill's preset and leaves the core with its drill further on.
Units past the parts that drills reach and rows past 24,575 are bad by log entry 33, and a write into an image slot takes the
image away by log entry 17. -/
theorem drills : Obligations.Drills := by
  unfold Obligations.Drills
  intro s n hrun
  refine ⟨fun hop c hc => drill_unknown hrun hop hc, fun hpc hheld => ?_⟩
  have at_ {op : Nat} (hop : drillOp (s.core n.val).str.drill.word = op) : s.drillAt n.val op :=
    ⟨hrun, hpc, hop, hop ▸ hheld⟩
  exact ⟨fun hop => drill_dset (at_ hop), fun hop => drill_dadd (at_ hop), fun hop hd => drill_dloop_bad (at_ hop) hd,
    fun hop hd hz => drill_dloop_skip (at_ hop) hd hz, fun hop hd hz => drill_dloop_enter (at_ hop) hd hz,
    fun hus => ⟨fun hop => drill_dfill_bad (at_ hop) hus, fun hop => drill_dcheck_bad (at_ hop) hus⟩,
    fun us hus => ⟨fun hop => drill_dfill (at_ hop) hus, fun hop => drill_dcheck (at_ hop) hus⟩,
    fun us hus hfit => ⟨fun hop => drill_dsave hus hfit (at_ hop), fun hop => drill_dload hus hfit (at_ hop)⟩,
    fun hus => ⟨fun hop => drill_dsave_bad hus (at_ hop), fun hop => drill_dload_bad hus (at_ hop)⟩,
    fun hop => drill_dwait (at_ hop), fun hop => drill_dmark (at_ hop), fun hop => drill_dend (at_ hop)⟩

end Sys2Proof.Machine
end

section
/-!
Proofs of chapter 10, the commands on parts and regions: PCORE_FENCE (R382), SELF_TEST (R356, R389), HBM_ALLOC and HBM_FREE (R357),
and the zeroing of regions and extents (R222, R309).
-/
namespace Sys2Proof.Machine

/-! ## A command that has started (R354) -/

section
variable (s : State) (q : BitVec 20) (x : Queue) (f : Fetched)

/-- The start of a command touches its queue and the counts of the host's page. -/
theorem State.frame_begun : s.begun q x f = { s with
    pages := (s.begun q x f).pages, host := { s.host with queues := (s.begun q x f).host.queues } } := by
  unfold State.begun State.startEntry
  simp only []
  split <;> rfl

@[simp] theorem State.pcore_begun (p : Nat) : (s.begun q x f).pcore p = s.pcore p := by rw [State.frame_begun]; rfl
@[simp] theorem State.context_begun (c : Nat) : (s.begun q x f).context c = s.context c := by rw [State.frame_begun]; rfl
@[simp] theorem State.meetsAny_begun (n base len : Nat) : (s.begun q x f).meetsAny n base len = s.meetsAny n base len := by
  rw [State.frame_begun]; rfl
@[simp] theorem State.sliceCore_begun (p : Nat) : (s.begun q x f).sliceCore p = s.sliceCore p := by rw [State.frame_begun]; rfl
@[simp] theorem State.sliceFree_begun (n : Nat) : (s.begun q x f).sliceFree n = s.sliceFree n := by rw [State.frame_begun]; rfl

end

/-- On queue 0 an entry whose fields pass every check goes on (R356). -/
theorem State.admin_ok (s : State) {c : Started} {own : List (Nat × Bool)} (k : State → State) (h : reservedBad c.entry = none)
    (hown : ∀ y ∈ own, y.2 = false) : s.admin 0 c own k = k s :=
  (if_neg (by decide)).trans (s.withFields_ok 0 k h hown)

section
variable {s : State} {q : BitVec 20} {x : Queue} {f : Fetched} {c : Started}

/-! ## PCORE_FENCE (R382) -/

section
variable (hgood : reservedBad f.entry = none) (hq : q = 0) (hfront : s.front q 0x07 x f) (hid : leAt f.entry 8 1 < 68)
include hgood hq hfront hid

theorem pcoreFence_starts : exec (.pcoreFence q) s = .next (
    if (s.pcore (leAt f.entry 8 1)).state == .fenced then (s.begun q x f).finish q.toNat f.begun 0 0
    else (s.begun q x f).fenceDue (leAt f.entry 8 1) 0 false) := by
  have hexec : exec (.pcoreFence q) s = execPcoreFence q s := rfl
  rw [hexec, execPcoreFence, State.queueRow_front _ _ hfront, hq]
  refine congrArg Host.Outcome.next ((State.admin_ok _ _ hgood ?_).trans ?_)
  · exact List.forall_mem_singleton.2 (decide_eq_false (Nat.not_le.2 hid))
  · simp only [State.pcore_begun]
    rfl

theorem pcoreFence_marks (hstate : (s.pcore (leAt f.entry 8 1)).state ≠ .fenced) :
    ∃ t, exec (.pcoreFence q) s = .next t ∧ t = { s.begun q x f with pcores := t.pcores } ∧
      (t.pcore (leAt f.entry 8 1)).due = true ∧ (t.pcore (leAt f.entry 8 1)).state = (s.pcore (leAt f.entry 8 1)).state ∧
      ∀ p, p ≠ leAt f.entry 8 1 → t.pcore p = s.pcore p := by
  have hbegun : ((s.begun q x f).pcore (leAt f.entry 8 1)).state ≠ .fenced := by rwa [State.pcore_begun]
  refine ⟨_, pcoreFence_starts hgood hq hfront hid, ?_⟩
  rw [if_neg (by simpa using hstate)]
  refine ⟨?_, ?_, ?_, fun p hp => ?_⟩
  · unfold State.fenceDue
    split <;> rfl
  · rw [State.pcore_fenceDue _ _ _ _ hbegun]
  · rw [State.pcore_fenceDue _ _ _ _ hbegun, State.pcore_begun]
  · unfold State.fenceDue
    rw [if_neg (by simpa using hstate), State.pcore_modPcore, if_neg hp, State.pcore_begun]

end

theorem pcoreFence_ends (h : s.underWay q 0x07 x c) (hstate : (s.pcore (leAt c.entry 8 1)).state = .fenced) :
    exec (.pcoreFence q) s = .next (s.finish q.toNat c 0 0) :=
  congrArg Host.Outcome.next (State.queueRow_underWay _ _ h (if_pos (by simp [hstate])))

/-! ## SELF_TEST (R356, R389) -/

/-- The tests that a command asks for: one of a pcore or slice, or one of each bank of a pcore's scratchpad. -/
def testsAsked (kind id : Nat) : List (Nat × Nat) :=
  if kind = 1 then (List.range 48).map (fun b => (1, id * 64 + b)) else [(kind, id)]

/-- The tests of a command are asked for. -/
def State.asked (s : State) (kind id : Nat) : State :=
  s.modHost (fun h => { h with tests := (h.tests ++ testsAsked kind id).eraseDups })

theorem State.mem_tests_asked (s : State) {kind id : Nat} {y : Nat × Nat} (hy : y ∈ testsAsked kind id) :
    y ∈ (s.asked kind id).host.tests :=
  List.mem_eraseDups.2 (List.mem_append_right _ hy)

theorem State.drill_startSliceTest (s : State) (n : Nat) : ((s.startSliceTest n).core n).str.drill =
    { Drill.reset with code := patternDrill 0x10, running := true, preset := some 2, log := (s.core n).str.drill.log,
                       next := some (some 1, patternDrill 0x11) } := by
  rw [State.startSliceTest, State.startDrill, State.modDrill, State.core_modStr_same, State.setReg_core]

section
variable (hgood : reservedBad f.entry = none) (hq : q = 0) (hfront : s.front q 0x08 x f)
include hgood hq hfront

theorem selfTest_starts {kind : Nat} (hkind : leAt f.entry 9 1 = kind) (hlt : kind < 3)
    (hid : if kind = 2 then (s.sliceCore (leAt f.entry 8 1)).isSome = true else leAt f.entry 8 1 < 68) :
    exec (.selfTest q) s = .next (((s.begun q x f).asked kind (leAt f.entry 8 1)).tryTest kind (leAt f.entry 8 1)) := by
  have hexec : exec (.selfTest q) s = execSelfTest q s := rfl
  subst hkind
  rw [hexec, execSelfTest, State.queueRow_front _ _ hfront, hq]
  refine congrArg Host.Outcome.next ((State.admin_ok _ _ hgood ?_).trans rfl)
  have hbegun : f.begun.entry = f.entry := rfl
  simp only [List.forall_mem_cons, List.not_mem_nil, false_imp_iff, implies_true, and_true, hbegun, State.sliceCore_begun]
  refine ⟨?_, by simpa using by omega⟩
  split
  · next h => simpa [h] using hid
  · next h => simpa [h] using hid

/-- An array test begins on a pcore that neither hosts nor is under test (R389). -/
theorem selfTest_pcore (hkind : leAt f.entry 9 1 = 0) (hid : leAt f.entry 8 1 < 68)
    (hhost : (s.pcore (leAt f.entry 8 1)).state ≠ .hosting) (htest : (s.pcore (leAt f.entry 8 1)).state ≠ .testing) :
    ∃ t, exec (.selfTest q) s = .next t ∧ (t.pcore (leAt f.entry 8 1)).state = .testing ∧
      (t.pcore (leAt f.entry 8 1)).before = (s.pcore (leAt f.entry 8 1)).state ∧
      (t.pcore (leAt f.entry 8 1)).testResult = 3 ∧ (0, leAt f.entry 8 1) ∈ t.host.tests := by
  refine ⟨_, selfTest_starts hgood hq hfront hkind (by decide) (by simpa using hid), ?_⟩
  generalize leAt f.entry 8 1 = id at *
  have hpcore : ((s.begun q x f).asked 0 id).pcore id = s.pcore id := State.pcore_begun ..
  have hfree : ¬ ((((s.begun q x f).asked 0 id).pcore id).state == .hosting ||
      (((s.begun q x f).asked 0 id).pcore id).state == .testing) = true := by
    rw [hpcore]
    simp [hhost, htest]
  unfold State.tryTest
  simp only []
  rw [if_neg hfree]
  have regated := State.regated_regate (((s.begun q x f).asked 0 id).modPcore id (fun p =>
    { p with before := p.state, state := .testing, testKind := 0, testResult := 3 }))
  refine ⟨?_, ?_, ?_, ?_⟩
  · rw [regated.pcore_state, State.pcore_modPcore_same]
  · rw [regated.pcore, State.pcore_modPcore_same, hpcore]
  · rw [regated.pcore_testResult, State.pcore_modPcore_same]
  · rw [regated.tests]
    exact State.mem_tests_asked _ (List.mem_singleton_self _)

theorem selfTest_banks (hkind : leAt f.entry 9 1 = 1) (hid : leAt f.entry 8 1 < 68) :
    ∃ t, exec (.selfTest q) s = .next t ∧ ∀ b < 48, (1, leAt f.entry 8 1 * 64 + b) ∈ t.host.tests :=
  ⟨_, selfTest_starts hgood hq hfront hkind (by decide) (by simpa using hid),
    fun b hb => State.mem_tests_asked _ (List.mem_map.2 ⟨b, List.mem_range.2 hb, rfl⟩)⟩

/-- A slice test is a drill that fills the slice under preset 2 and then checks it under preset 1 (R222). -/
theorem selfTest_slice {n : Nat} (hkind : leAt f.entry 9 1 = 2) (hcore : s.sliceCore (leAt f.entry 8 1) = some n)
    (hfree : s.sliceFree n = true) (hidle : (s.core n).str.drill.running = false) :
    ∃ t, exec (.selfTest q) s = .next t ∧ (t.core n).str.drill =
      { Drill.reset with code := patternDrill 0x10, running := true, preset := some 2, log := (s.core n).str.drill.log,
                         next := some (some 1, patternDrill 0x11) } := by
  refine ⟨_, selfTest_starts hgood hq hfront hkind (by decide) (by simp [hcore]), ?_⟩
  generalize leAt f.entry 8 1 = id at *
  have hasked : ((s.begun q x f).asked 2 id).sliceCore id = some n := (State.sliceCore_begun ..).trans hcore
  have hc : ((s.begun q x f).asked 2 id).core n = s.core n := State.core_begun ..
  have hgo : (((s.begun q x f).asked 2 id).sliceFree n && !(((s.begun q x f).asked 2 id).core n).str.drill.running) = true := by
    have hf : ((s.begun q x f).asked 2 id).sliceFree n = true := (State.sliceFree_begun ..).trans hfree
    rw [hf, hc, hidle]
    rfl
  unfold State.tryTest
  simp only [hasked]
  rw [if_pos hgo]
  rw [State.modHost_core, State.drill_startSliceTest, State.wakeSlice, State.core_modStr_same, hc]

end

theorem selfTest_ends (h : s.underWay q 0x08 x c) (hdone : s.testDone (leAt c.entry 9 1) (leAt c.entry 8 1) = true) :
    exec (.selfTest q) s = .next (s.finish q.toNat c 0 0) :=
  congrArg Host.Outcome.next (State.queueRow_underWay _ _ h (if_pos hdone))

/-! ## HBM_ALLOC and HBM_FREE (R349, R357) -/

section
variable (hgood : reservedBad f.entry = none) (hcore : leAt f.entry 8 1 < s.presented)
  (hbase : (regionOf f.entry).base % 2097152 = 0) (hlen : (regionOf f.entry).len % 2097152 = 0) (hlen0 : (regionOf f.entry).len ≠ 0)
include hgood hcore hbase hlen hlen0

/-- The entry names a presented core and a range in whole units of 2 MiB, so the command goes on. -/
theorem State.withFields_region (k : State → State) :
    (s.begun q x f).withFields q.toNat f.begun ((s.begun q x f).regionFields f.begun.entry) k = k (s.begun q x f) := by
  refine State.withFields_ok _ _ _ hgood ?_
  have hb : leAt f.entry 0x10 8 % 2097152 = 0 := hbase
  have hl : leAt f.entry 0x18 8 % 2097152 = 0 := hlen
  have hl0 : leAt f.entry 0x18 8 ≠ 0 := hlen0
  simp [State.regionFields, Fetched.begun, twoMiB, hb, hl, hl0, hcore]

theorem hbmAlloc_starts (hfront : s.front q 0x10 x f) : exec (.hbmAlloc q) s = .next (
    let r := regionOf f.entry
    if 21407727616 < r.base + r.len then (s.begun q x f).finish q.toNat f.begun 7 1
    else if s.meetsAny r.core.val r.base r.len then (s.begun q x f).finish q.toNat f.begun 7 0
    else ((s.begun q x f).setContext x.ctx.toNat { s.context x.ctx.toNat with
      regions := (s.context x.ctx.toNat).regions ++ [r] }).finish q.toNat f.begun 0 0) := by
  have hexec : exec (.hbmAlloc q) s = execHbmAlloc q s := rfl
  rw [hexec, execHbmAlloc, State.queueRow_front _ _ hfront]
  refine congrArg Host.Outcome.next ((State.withFields_region hgood hcore hbase hlen hlen0 _).trans ?_)
  simp only [State.meetsAny_begun, State.queueCtx_begun, State.context_begun]
  rfl

theorem hbmFree_starts (hfront : s.front q 0x11 x f) (hmem : regionOf f.entry ∈ (s.context x.ctx.toNat).regions) :
    exec (.hbmFree q) s = .next ((s.begun q x f).setContext x.ctx.toNat { s.context x.ctx.toNat with
      regions := (s.context x.ctx.toNat).regions.erase (regionOf f.entry)
      zeroing := (s.context x.ctx.toNat).zeroing ++ [regionOf f.entry] }) := by
  have hexec : exec (.hbmFree q) s = execHbmFree q s := rfl
  rw [hexec, execHbmFree, State.queueRow_front _ _ hfront]
  refine congrArg Host.Outcome.next ((State.withFields_region hgood hcore hbase hlen hlen0 _).trans ?_)
  simp only [State.queueCtx_begun, State.context_begun]
  exact if_pos (List.contains_iff_mem.2 hmem)

end

theorem hbmFree_ends (h : s.underWay q 0x11 x c) (hzeroed : regionOf c.entry ∉ (s.context x.ctx.toNat).zeroing) :
    exec (.hbmFree q) s = .next (s.finish q.toNat c 0 0) := by
  have hctx : s.queueCtx q.toNat = x.ctx.toNat := by rw [State.queueCtx, h.2.1]
  refine congrArg Host.Outcome.next (State.queueRow_underWay _ _ h ?_)
  rw [hctx]
  exact if_neg (by simpa using hzeroed)

end

/-! ## Zeroing (R222, R309) -/

/-- A unit lies in a byte range of a core's slice. -/
def State.covers (s : State) (n base len m v : Nat) : Bool :=
  decide (s.physSlice n * 41943040 + base / 512 ≤ s.physSlice m * 41943040 + v) &&
    decide (s.physSlice m * 41943040 + v < s.physSlice n * 41943040 + (base + len + 511) / 512)

theorem State.covers_of_dies {s t : State} (h : t.dies = s.dies) (n base len m v : Nat) :
    t.covers n base len m v = s.covers n base len m v := by
  unfold State.covers State.physSlice State.homeDie
  rw [h]

/-- The units of a byte range. -/
def rangeUnits (base len : Nat) : List Nat := (List.range ((base + len + 511) / 512 - base / 512)).map (base / 512 + ·)

theorem State.covers_iff (s : State) (n base len m v : Nat) : s.covers n base len m v = true ↔
    s.physSlice m * sliceUnits + v ∈ (rangeUnits base len).map (s.physSlice n * sliceUnits + ·) := by
  have hunits : sliceUnits = 41943040 := rfl
  unfold State.covers
  rw [hunits, Bool.and_eq_true, decide_eq_true_eq, decide_eq_true_eq]
  constructor
  · rintro ⟨hlo, hhi⟩
    refine List.mem_map.2 ⟨s.physSlice m * 41943040 + v - s.physSlice n * 41943040, List.mem_map.2
      ⟨s.physSlice m * 41943040 + v - s.physSlice n * 41943040 - base / 512, List.mem_range.2 ?_, ?_⟩, ?_⟩ <;> omega
  · intro h
    obtain ⟨_, hu, hkey⟩ := List.mem_map.1 h
    obtain ⟨i, hi, rfl⟩ := List.mem_map.1 hu
    have hi := List.mem_range.1 hi
    omega

/-- Units written with zeros read 0, every other unit as before. -/
theorem State.unit_setUnits_zero (n m v : Nat) (us : List Nat) : ∀ s : State,
    (s.setUnits n (us.map (fun u => (u, (0 : Row))))).unit m v =
      if s.physSlice m * sliceUnits + v ∈ us.map (s.physSlice n * sliceUnits + ·) then 0 else s.unit m v := by
  induction us with
  | nil => exact fun s => by simp [State.setUnits]
  | cons u us ih =>
    intro s
    have hset : (s.setUnit n u 0).unit m v = if s.physSlice m * sliceUnits + v = s.physSlice n * sliceUnits + u then 0
        else s.unit m v := SMap.get_set ..
    refine (ih (s.setUnit n u 0)).trans ?_
    rw [hset, List.map_cons]
    have hphys (k : Nat) : (s.setUnit n u 0).physSlice k = s.physSlice k := rfl
    simp only [hphys, List.mem_cons]
    by_cases hmem : s.physSlice m * sliceUnits + v ∈ us.map (s.physSlice n * sliceUnits + ·)
    · rw [if_pos hmem, if_pos (.inr hmem)]
    · simp only [hmem, if_false, or_false]

/-- A byte range of a core's slice is zeroed. -/
theorem State.unit_setUnits_range (s : State) (n base len m v : Nat) :
    (s.setUnits n ((rangeUnits base len).map (fun u => (u, (0 : Row))))).unit m v =
      if s.covers n base len m v then 0 else s.unit m v := by
  rw [s.unit_setUnits_zero]
  exact if_congr (s.covers_iff ..).symm rfl rfl

theorem State.unit_drillWrite (s : State) (n : Nat) (xs : List (Nat × Row)) (m v : Nat) :
    (s.drillWrite n xs).unit m v = (s.setUnits n xs).unit m v := rfl

theorem State.unit_zeroUnits (s : State) (n base len m v : Nat) :
    (s.zeroUnits n base len).unit m v = if s.covers n base len m v then 0 else s.unit m v := by
  rw [← s.unit_setUnits_range, ← State.unit_drillWrite, State.zeroUnits, State.modStr, State.modCore_unit, State.count_unit]
  rfl

theorem State.unit_zeroExtent (s : State) (n base len m v : Nat) :
    (s.zeroExtent n base len).unit m v = if s.covers n base len m v then 0 else s.unit m v := by
  rw [← s.unit_setUnits_range, rangeUnits, List.map_map]
  rfl

theorem State.dies_setUnits (s : State) (n : Nat) (xs : List (Nat × Row)) : (s.setUnits n xs).dies = s.dies := by
  rw [State.frame_setUnits]

theorem State.dies_zeroUnits (s : State) (n base len : Nat) : (s.zeroUnits n base len).dies = s.dies := by
  rw [State.zeroUnits, State.modStr, State.modCore_dies, State.count_dies, State.frame_drillWrite]

theorem State.dies_zeroExtent (s : State) (n base len : Nat) : (s.zeroExtent n base len).dies = s.dies := State.dies_setUnits ..

section
variable {α : Type} {g : State → α → State} (core base len : α → Nat)
  (hunit : ∀ s a m v, (g s a).unit m v = if s.covers (core a) (base a) (len a) m v then 0 else State.unit s m v)
  (hdies : ∀ s a, (g s a).dies = s.dies)
include hunit hdies

/-- Ranges zeroed one by one. -/
theorem State.unit_foldl_zero (m v : Nat) (xs : List α) : ∀ s : State, (xs.foldl g s).unit m v =
    if xs.any (fun a => s.covers (core a) (base a) (len a) m v) then 0 else s.unit m v := by
  induction xs with
  | nil => exact fun _ => rfl
  | cons a xs ih =>
    intro s
    rw [List.foldl_cons, ih, hunit, List.any_cons]
    simp only [State.covers_of_dies (hdies s a)]
    cases s.covers (core a) (base a) (len a) m v with
    | false => rfl
    | true => exact ite_self _

end

theorem State.foldl_keeps {α β : Type} {g : State → α → State} (p : State → β) (hg : ∀ s a, p (g s a) = p s) (xs : List α) :
    ∀ s : State, p (xs.foldl g s) = p s := by
  induction xs with
  | nil => exact fun _ => rfl
  | cons a xs ih => exact fun s => (ih _).trans (hg s a)

/-! ### HBM_ZEROING_DONE -/

theorem zeroingDone_context (s : State) (c : BitVec 12) (hmay : ∀ z ∈ (s.context c.toNat).zeroing, s.mayDrill z.core.val = true) :
    ∃ t, exec (.hbmZeroingDone (.context c)) s = .next t ∧ (t.context c.toNat).zeroing = [] ∧
      (t.context c.toNat).regions = (s.context c.toNat).regions ∧ ∀ m v, t.unit m v =
        if (s.context c.toNat).zeroing.any (fun r => s.covers r.core.val r.base r.len m v) then 0 else s.unit m v := by
  have hexec : exec (.hbmZeroingDone (.context c)) s = execHbmZeroingDone (.context c) s := rfl
  have hall : ¬ (!(s.context c.toNat).zeroing.all (fun r => s.mayDrill r.core.val)) = true := by
    rw [List.all_eq_true.2 hmay]
    decide
  rw [hexec, execHbmZeroingDone]
  refine ⟨_, if_neg hall, ?_, ?_, fun m v => ?_⟩
  · rw [State.context_setContext, if_pos rfl]
  · rw [State.context_setContext, if_pos rfl]
  · exact State.unit_foldl_zero (fun r : HbmRegion => r.core.val) (fun r => r.base) (fun r => r.len)
      (fun s r => s.unit_zeroUnits r.core.val r.base r.len) (fun s r => s.dies_zeroUnits r.core.val r.base r.len) m v _ s

theorem State.notes_foldl_post (n : Notice) (rs : List Nat) : ∀ s : State, s.Notes (rs.foldl (fun s r => s.post r n) s) := by
  induction rs with
  | nil => exact .refl
  | cons r rs ih => exact fun s => (s.notes_post r n).trans (ih _)

theorem State.notes_bundleNotice (s : State) (b event code item : Nat) : s.Notes (s.bundleNotice b event code item) :=
  (s.notes_post ..).trans (State.notes_foldl_post ..)

/-- A bundle that waits looks again whether it must (R309). -/
def State.rewait (s : State) (i : Nat) : State :=
  if (s.bundle i).waiting then s.modBundle i (fun y => { y with waiting := s.mustWait y.extents }) else s

theorem State.unit_rewait (s : State) (i m v : Nat) : (s.rewait i).unit m v = s.unit m v := by
  unfold State.rewait
  split <;> rfl

theorem State.bundle_rewait {s : State} {b : Nat} (h : (s.bundle b).waiting = false) (i : Nat) :
    (s.rewait i).bundle b = s.bundle b := by
  unfold State.rewait
  split
  · next hi =>
    have hne : b ≠ i := fun e => Bool.false_ne_true (h.symm.trans (e ▸ hi))
    rw [State.bundle_modBundle, if_neg hne]
  · rfl

theorem State.bundle_foldl_rewait {b : Nat} (is : List Nat) : ∀ {s : State}, (s.bundle b).waiting = false →
    (is.foldl State.rewait s).bundle b = s.bundle b := by
  induction is with
  | nil => exact fun _ => rfl
  | cons i is ih =>
    intro s h
    have hi := State.bundle_rewait h i
    exact (ih (by rwa [hi])).trans hi

/-- A bundle whose extents are being zeroed is empty once they are (R309). -/
theorem zeroingDone_bundle (s : State) (b : Fin 64) (hb : (s.bundle b.val).state = .zeroing) :
    ∃ t, exec (.hbmZeroingDone (.bundle b)) s = .next t ∧ t.bundle b.val =
        { bundleDefault 0 with pinned := (s.bundle b.val).pinned, refused := (s.bundle b.val).refused } ∧
      ∀ m v, t.unit m v = if (s.bundle b.val).extents.any (fun x => s.covers x.1.val x.2.1 x.2.2 m v) then 0 else s.unit m v := by
  have hexec : exec (.hbmZeroingDone (.bundle b)) s = execHbmZeroingDone (.bundle b) s := rfl
  rw [hexec, execHbmZeroingDone]
  refine ⟨_, if_pos (by simp [hb]), ?_, fun m v => ?_⟩
  · refine (State.bundle_foldl_rewait (b := b.val) (List.range 64) ?_).trans ?_
    · rw [State.bundle_setBundle, if_pos rfl]
      rfl
    · rw [State.bundle_setBundle, if_pos rfl]
  · refine (State.foldl_keeps (g := State.rewait) (fun s => s.unit m v) (fun s i => s.unit_rewait i m v) (List.range 64) _).trans ?_
    have noticed := ((s.bundle b.val).extents.foldl (fun s x => s.zeroExtent x.1.val x.2.1 x.2.2) s).notes_bundleNotice b.val 7 0 0
    refine (noticed.raises.unit m v).trans ?_
    exact State.unit_foldl_zero (fun x : CoreId × Nat × Nat => x.1.val) (fun x => x.2.1) (fun x => x.2.2)
      (fun s x => s.unit_zeroExtent x.1.val x.2.1 x.2.2) (fun s x => s.dies_zeroExtent x.1.val x.2.1 x.2.2) m v _ s

/-- Settles O40, one lemma a command and outcome; SELF_TEST names the physical slice by log entry 33. -/
theorem partCommands : Obligations.PartCommands := by
  unfold Obligations.PartCommands
  intro s q x f
  refine ⟨fun hgood hq hfront hid => ⟨fun hstate => ?_, fun hstate => pcoreFence_marks hgood hq hfront hid hstate⟩,
    fun c h hstate => pcoreFence_ends h hstate,
    fun hgood hq hfront => ⟨fun hkind hid hhost htest => selfTest_pcore hgood hq hfront hkind hid hhost htest,
      fun hkind hid => selfTest_banks hgood hq hfront hkind hid,
      fun n hkind hcore hfree hidle => selfTest_slice hgood hq hfront hkind hcore hfree hidle⟩,
    fun c h hdone => selfTest_ends h hdone,
    fun hgood hfront hcore hbase hlen hlen0 => hbmAlloc_starts hgood hcore hbase hlen hlen0 hfront,
    fun hgood hfront hcore hbase hlen hlen0 hmem => hbmFree_starts hgood hcore hbase hlen hlen0 hfront hmem,
    fun c h hzeroed => hbmFree_ends h hzeroed, fun c hmay => zeroingDone_context s c hmay, fun b hb => zeroingDone_bundle s b hb⟩
  rw [pcoreFence_starts hgood hq hfront hid, if_pos (by simp [hstate])]

end Sys2Proof.Machine
end

section
/-!
Proofs of chapter 11: headers read back as they were written (R6, R240, R272-R274).
-/
namespace Sys2Proof.Machine

/-! ## Fields of bytes (R6) -/

theorem length_leBytes (n v : Nat) : (leBytes n v).length = n := by simp [leBytes]

theorem leBytes_succ (n v : Nat) : leBytes (n + 1) v = BitVec.ofNat 8 v :: leBytes n (v / 256) := by
  have shifted (i : Nat) : v >>> (8 * (i + 1)) = (v / 256) >>> (8 * i) := by
    simp only [Nat.shiftRight_eq_div_pow, Nat.div_div_eq_div_mul, Nat.mul_add, Nat.pow_add]
    rw [Nat.mul_comm]
  rw [leBytes, List.range_succ_eq_map, List.map_cons, List.map_map]
  exact congrArg (_ :: ·) (List.map_congr_left fun i _ => congrArg (BitVec.ofNat 8) (shifted i))

theorem leNat_leBytes (n : Nat) : ∀ v, leNat (leBytes n v) = v % 256 ^ n := by
  induction n with
  | zero => exact fun v => (Nat.mod_one v).symm
  | succ n ih =>
    intro v
    rw [leBytes_succ, leNat, ih, BitVec.toNat_ofNat, Nat.pow_succ' (n := n), Nat.mod_mul]

/-- The bytes of a number from its byte `i` on. -/
theorem drop_leBytes (i : Nat) : ∀ k v, (leBytes (i + k) v).drop i = leBytes k (v / 256 ^ i) := by
  induction i with
  | zero => intro k v; simp
  | succ i ih =>
    intro k v
    rw [Nat.add_right_comm, leBytes_succ, List.drop_succ_cons, ih, Nat.div_div_eq_div_mul, Nat.pow_succ, Nat.mul_comm 256]

/-- The low bytes of a number. -/
theorem take_leBytes {n k : Nat} (h : n ≤ k) (v : Nat) : (leBytes k v).take n = leBytes n v := by
  rw [leBytes, ← List.map_take, List.take_range, Nat.min_eq_left h, leBytes]

/-- A field within the first bytes of a list. -/
theorem leAt_leBytes_append {i n k : Nat} (h : i + n ≤ k) (v : Nat) (l : List Byte) :
    leAt (leBytes k v ++ l) i n = v / 256 ^ i % 256 ^ n := by
  have hk : k = i + (k - i) := by omega
  rw [leAt, List.drop_append_of_le_length (by rw [length_leBytes]; omega),
    List.take_append_of_le_length (by rw [List.length_drop, length_leBytes]; omega), hk, drop_leBytes, take_leBytes (by omega),
    leNat_leBytes]

/-- A field past the first bytes of a list. -/
theorem leAt_append_skip {k i : Nat} (h : k ≤ i) (v n : Nat) (l : List Byte) :
    leAt (leBytes k v ++ l) i n = leAt l (i - k) n := by
  rw [leAt, leAt, List.drop_append, List.drop_eq_nil_of_le (by rw [length_leBytes]; exact h), length_leBytes, List.nil_append]

/-- A field of the last bytes of a list. -/
theorem leAt_leBytes {i n k : Nat} (h : i + n ≤ k) (v : Nat) : leAt (leBytes k v) i n = v / 256 ^ i % 256 ^ n := by
  rw [← List.append_nil (leBytes k v), leAt_leBytes_append h]

/-! ## CRC-32C (R353) -/

theorem crcStep_lt {c : Nat} (h : c < 2 ^ 32) : crcStep c < 2 ^ 32 := by
  have half : c >>> 1 < 2 ^ 32 := lt_of_le_of_lt (Nat.shiftRight_le c 1) h
  unfold crcStep
  split
  · exact Nat.xor_lt_two_pow half (by decide)
  · exact half

theorem crcByte_lt {c : Nat} (h : c < 2 ^ 32) (b : Byte) : crcByte c b < 2 ^ 32 := by
  have mixed : c ^^^ b.toNat < 2 ^ 32 := Nat.xor_lt_two_pow h (lt_trans b.isLt (by decide))
  unfold crcByte
  iterate 8 apply crcStep_lt
  exact mixed

/-- A checksum fits in its 4 bytes. -/
theorem crc32c_lt (bs : List Byte) : crc32c bs < 2 ^ 32 := by
  have fold : ∀ c < 2 ^ 32, bs.foldl crcByte c < 2 ^ 32 := by
    induction bs with
    | nil => exact fun c h => h
    | cons b bs ih => exact fun c h => ih _ (crcByte_lt h b)
  exact Nat.xor_lt_two_pow (fold _ (by decide)) (by decide)

/-! ## The traverse header (R272-R274) -/

/-- The 36 bytes of a traverse header that its checksum covers. -/
def TrvHdr.body (h : TrvHdr) : List Byte :=
  leBytes 1 (1 + 16 * h.type) ++ leBytes 1 (boolNat h.ece + 2 * boolNat h.last + 4 * h.kind) ++
    leBytes 2 h.src ++ leBytes 2 h.dst ++ leBytes 1 h.core ++ leBytes 1 h.phase ++ leBytes 4 h.psn.toNat ++
    leBytes 4 h.ack.toNat ++ leBytes 4 h.seq.toNat ++ leBytes 4 h.param.toNat ++ leBytes 2 h.rows ++
    leBytes 2 h.offset ++ leBytes 2 h.len ++ leBytes 2 h.epoch.toNat ++ leBytes 4 0

theorem TrvHdr.bytes_eq (h : TrvHdr) : h.bytes = h.body ++ leBytes 4 (crc32c h.body) := rfl

theorem TrvHdr.length_body (h : TrvHdr) : h.body.length = 36 := by
  simp [TrvHdr.body, length_leBytes]

theorem TrvHdr.take_bytes (h : TrvHdr) : h.bytes.take 0x24 = h.body := by
  rw [TrvHdr.bytes_eq, List.take_left' h.length_body]

theorem word_bytes (v : Word) : word (v.toNat / 256 ^ 0 % 256 ^ 4) = v := by
  have hv : v.toNat / 256 ^ 0 % 256 ^ 4 = v.toNat := by omega
  rw [word, hv, BitVec.ofNat_toNat, BitVec.setWidth_eq]

theorem boolNat_lt (b : Bool) : boolNat b < 2 := by cases b <;> decide

theorem boolNat_beq_one (b : Bool) : (boolNat b == 1) = b := by cases b <;> rfl

/-- A traverse header whose fields fit their bits reads back as it was written (R272). -/
theorem trvHdrOf_bytes (h : TrvHdr) (htype : h.type < 16) (hkind : h.kind < 4) (hsrc : h.src < 32768) (hdst : h.dst < 32768)
    (hcore : h.core < 64) (hphase : h.phase < 256) (hrows : h.rows < 65536) (hoff : h.offset < 65536) (hlen : h.len < 65536) :
    trvHdrOf h.bytes = h := by
  have hece := boolNat_lt h.ece
  have hlast := boolNat_lt h.last
  have hepoch := h.epoch.isLt
  have typed : (1 + 16 * h.type) / 256 ^ 0 % 256 ^ 1 / 16 = h.type := by omega
  have flags : (boolNat h.ece + 2 * boolNat h.last + 4 * h.kind) / 256 ^ 0 % 256 ^ 1 =
    boolNat h.ece + 2 * boolNat h.last + 4 * h.kind := by omega
  have ece : (boolNat h.ece + 2 * boolNat h.last + 4 * h.kind) % 2 = boolNat h.ece := by omega
  have last : (boolNat h.ece + 2 * boolNat h.last + 4 * h.kind) / 2 % 2 = boolNat h.last := by omega
  have kind : (boolNat h.ece + 2 * boolNat h.last + 4 * h.kind) / 4 % 4 = h.kind := by omega
  have src : h.src / 256 ^ 0 % 256 ^ 2 % 2 ^ 15 = h.src := by omega
  have dst : h.dst / 256 ^ 0 % 256 ^ 2 % 2 ^ 15 = h.dst := by omega
  have core : h.core / 256 ^ 0 % 256 ^ 1 % 64 = h.core := by omega
  have phase : h.phase / 256 ^ 0 % 256 ^ 1 = h.phase := by omega
  have rows : h.rows / 256 ^ 0 % 256 ^ 2 = h.rows := by omega
  have offset : h.offset / 256 ^ 0 % 256 ^ 2 = h.offset := by omega
  have len : h.len / 256 ^ 0 % 256 ^ 2 = h.len := by omega
  have epoch : BitVec.ofNat 16 (h.epoch.toNat / 256 ^ 0 % 256 ^ 2) = h.epoch :=
    BitVec.eq_of_toNat_eq (by rw [BitVec.toNat_ofNat]; omega)
  simp only [trvHdrOf, TrvHdr.bytes_eq, TrvHdr.body, List.append_assoc, leAt_append_skip, leAt_leBytes_append, Nat.reduceLeDiff,
    Nat.reduceSub, Nat.zero_add, Nat.le_refl, Nat.sub_self, typed, flags, ece, last, kind, src, dst, core, phase,
    rows, offset, len, epoch, word_bytes, boolNat_beq_one]

/-- A written header of an assigned TYPE and KIND, with a `param` of 22 bits and the data of its length, passes the receiver's
check (R273, R274). -/
theorem trvHeaderOk_bytes (h : TrvHdr) {data : List Byte} (htype : h.type ≤ 5) (hkind : h.kind ≤ 2) (hsrc : h.src < 32768)
    (hdst : h.dst < 32768) (hcore : h.core < 64) (hlen : h.len < 65536) (hparam : h.param.toNat < 4194304)
    (hdata : data.length = h.len) (hrows : h.len % 512 = 0) : trvHeaderOk h.bytes data = true := by
  have hece := boolNat_lt h.ece
  have hlast := boolNat_lt h.last
  have hcrc := crc32c_lt h.body
  have length : h.bytes.length = 40 := by rw [TrvHdr.bytes_eq, List.length_append, h.length_body, length_leBytes]
  have sum : leAt h.bytes 0x24 4 = crc32c h.body := by
    rw [leAt, TrvHdr.bytes_eq, List.drop_left' h.length_body, take_leBytes (Nat.le_refl 4), leNat_leBytes]
    omega
  simp only [trvHeaderOk, length, h.take_bytes, sum, Bool.and_eq_true, beq_iff_eq, bne_iff_ne, decide_eq_true_eq, and_assoc, true_and]
  simp only [TrvHdr.bytes_eq, TrvHdr.body, List.append_assoc, leAt_append_skip, leAt_leBytes_append, Nat.reduceLeDiff,
    Nat.reduceSub, Nat.reduceAdd, Nat.zero_add, Nat.le_refl, Nat.sub_self]
  omega

/-! ## The chair header (R240) -/

/-- A chair header reads back from any frame that carries it, at the receiving port of its direction. -/
theorem chairHdrOf_bytes (s : State) {x : Side} {h : ChairHdr} (i : Nat) (nak seqd : Bool) (df : BitVec 3) (a b c : BitVec 16)
    (hdir : h.dir = arrivingDir x) (horigin : h.origin < 128) (hpos : 1 ≤ h.rows) (hrows : h.rows ≤ 256) (hcore : h.core < 64) :
    chairHdrOf x ((s.chairHead h i).bytes (linkBytes nak seqd df a b c)) = h := by
  have hdown := boolNat_lt (h.dir == .downhill)
  have hfirst := boolNat_lt (i == 0)
  have hlast := boolNat_lt (i + 1 == chairFrames h.rows)
  have kind : Fin.ofNat 4 ((h.kind.val + 4 * boolNat (h.dir == .downhill) + 8 * boolNat (i == 0) +
      16 * boolNat (i + 1 == chairFrames h.rows)) / 256 ^ 0 % 256 ^ 1) = h.kind := by
    apply Fin.ext
    rw [Fin.val_ofNat]
    omega
  have origin : h.origin / 256 ^ 0 % 256 ^ 1 % 128 = h.origin := by omega
  have mask : BitVec.ofNat 64 (h.mask.toNat / 256 ^ 0 % 256 ^ 8) = h.mask :=
    BitVec.eq_of_toNat_eq (by rw [BitVec.toNat_ofNat]; omega)
  have seq : BitVec.ofNat 32 (h.seq.toNat / 256 ^ 0 % 256 ^ 4) = h.seq := word_bytes h.seq
  have rows : (h.rows - 1) / 256 ^ 0 % 256 ^ 1 + 1 = h.rows := by omega
  have core : h.core / 256 ^ 0 % 256 ^ 1 % 64 = h.core := by omega
  simp only [chairHdrOf, State.chairHead, FrameHdr.bytes, FrameHdr.head, FrameHdr.tail, linkBytes, List.append_assoc,
    leAt_append_skip, leAt_leBytes_append, Nat.reduceLeDiff, Nat.reduceSub, Nat.zero_add, Nat.le_refl, Nat.sub_self,
    kind, origin, mask, seq, rows, core, ← hdir]

/-- Settles O59: each field of a header is one number of its bytes, so a field whose value fits them reads back. -/
theorem headerRoundTrips : Obligations.HeaderRoundTrips := by
  refine ⟨fun h data htype hkind hsrc hdst hcore hphase hrows hoff hlen => ⟨trvHdrOf_bytes h htype hkind hsrc hdst hcore hphase hrows
    hoff hlen, fun htype' hkind' hparam hdata hlen' => trvHeaderOk_bytes h htype' hkind' hsrc hdst hcore hlen hparam hdata hlen'⟩,
    fun s x h i nak seqd df a b c hdir horigin hpos hrows hcore => chairHdrOf_bytes s i nak seqd df a b c hdir horigin hpos hrows hcore⟩

end Sys2Proof.Machine
end

section
/-!
Proofs of chapter 11: what the fault of the lift's jobs leaves of the station, what a loss and a stall drop (R256, R258), and
what reporting leaves of what has left the part.
-/
namespace Sys2Proof.Machine

/-! ## What has left the part -/

/-- From `s` to `t` nothing that has left the part is taken back: the newest stands first. -/
structure State.Said (s t : State) : Prop where
  kept : s.outbox <:+ t.outbox

theorem State.Said.refl (s : State) : s.Said s := ⟨List.suffix_refl _⟩
theorem State.Said.trans {s t u : State} (h : s.Said t) (g : t.Said u) : s.Said u := ⟨h.kept.trans g.kept⟩
theorem State.said_of_outbox {s t : State} (h : t.outbox = s.outbox) : s.Said t := ⟨by rw [h]⟩
theorem State.said_emit (s : State) (o : Out) : s.Said (s.emit o) := ⟨List.suffix_cons o s.outbox⟩

theorem State.said_count (s : State) (p off k : Nat) : s.Said (s.count p off k) := State.said_of_outbox rfl
theorem State.said_modPage (s : State) (p : Nat) (f : Page → Page) : s.Said (s.modPage p f) := State.said_of_outbox rfl
theorem State.said_modHost (s : State) (f : HostSide → HostSide) : s.Said (s.modHost f) := State.said_of_outbox rfl

theorem State.Said.told {s t : State} (h : s.Said t) {x : Side} {m : LiftMsg} (htold : s.told x m) : t.told x m := by
  obtain ⟨mac, hdr, data, pad, hmem⟩ := htold
  exact ⟨mac, hdr, data, pad, h.kept.subset hmem⟩

theorem State.said_sendVector (s : State) (v : Nat) : s.Said (s.sendVector v) := by
  unfold State.sendVector
  split
  · exact State.said_of_outbox rfl
  · exact (s.said_count ..).trans (State.said_emit ..)

theorem State.said_ringWrite (s : State) (r : Nat) (n : Notice) : s.Said (s.ringWrite r n) := by
  unfold State.ringWrite
  split
  · exact .refl s
  · have written (o : Out) (y : Option Ring) : s.Said (((s.emit o).count pNTC 0x100 1).setRing r y) :=
      ((s.said_emit o).trans (State.said_count ..)).trans (State.said_modHost ..)
    simp only []
    split
    · exact (written ..).trans (State.said_sendVector ..)
    · exact written ..

theorem State.said_drainRing (fuel : Nat) : ∀ (s : State) (r : Nat), s.Said (State.drainRing fuel s r) := by
  induction fuel with
  | zero => exact fun s _ => .refl s
  | succ fuel ih =>
    intro s r
    unfold State.drainRing
    split
    · exact State.said_of_outbox rfl
    · split
      · exact .refl s
      · split
        · refine State.Said.trans ?_ (ih ..)
          exact State.Said.trans (s.said_modHost _) (State.said_ringWrite ..)
        · split
          · exact .refl s
          · refine State.Said.trans ?_ (ih ..)
            exact State.Said.trans (s.said_modHost fun h => { h with backlog := h.backlog.erase _ }) (State.said_ringWrite ..)

theorem State.said_logEntry (s : State) (code : Word) (ctx id : Nat) : s.Said (s.logEntry code ctx id) := by
  refine State.said_of_outbox ?_
  unfold State.logEntry
  simp only []
  split
  · simp only [State.modPage_outbox, State.setReg_outbox]
  · simp only [State.setReg_outbox]

theorem State.said_putNotice (s : State) (r : Nat) (n : Notice) : s.Said (s.putNotice r n) := by
  unfold State.putNotice
  simp only []
  refine (State.said_drainRing 4098 s r).trans ?_
  split
  · exact .refl _
  · split
    · exact State.said_ringWrite ..
    · split
      · exact State.said_of_outbox rfl
      · refine State.Said.trans ?_ (State.said_logEntry ..)
        exact State.said_of_outbox rfl

theorem State.said_tellNew (s : State) (before : Word) (p b : Nat) : s.Said (s.tellNew before p b) := by
  unfold State.tellNew
  split
  · exact State.said_putNotice ..
  · exact .refl s

theorem State.said_post (s : State) (r : Nat) (n : Notice) : s.Said (s.post r n) := by
  unfold State.post
  exact (((s.said_putNotice ..).trans (State.said_tellNew ..)).trans (State.said_tellNew ..)).trans (State.said_tellNew ..)

theorem State.said_faultLog (s : State) (code : Word) (ctx id : Nat) : s.Said (s.faultLog code ctx id) := by
  unfold State.faultLog
  simp only []
  split
  · exact (s.said_logEntry ..).trans (State.said_post ..)
  · exact s.said_logEntry ..

theorem State.said_postPageError (s : State) (p b : Nat) : s.Said (s.postPageError p b) := by
  unfold State.postPageError
  simp only []
  split
  · split
    · exact s.said_post ..
    · exact (s.said_post ..).trans (State.said_post ..)
  · exact s.said_post ..

theorem State.said_fenceDue (s : State) (p : Nat) (c : Word) (j : Bool) : s.Said (s.fenceDue p c j) := by
  unfold State.fenceDue
  split <;> exact State.said_of_outbox rfl

/-- Reporting an event takes back nothing that has left the part. -/
theorem State.said_raise (s : State) (p b : Nat) (i j : Word) : s.Said (s.raise p b i j) := by
  have logged (f : Page → Page) (c : Bool) (code : Word) (ctx id : Nat) (m : Option Nat) :
      s.Said (match m with
        | some off => ((if c then (s.modPage p f).postPageError p b else s.modPage p f).faultLog code ctx id).count pFLT off 1
        | none => (if c then (s.modPage p f).postPageError p b else s.modPage p f).faultLog code ctx id) := by
    have posted : s.Said (if c then (s.modPage p f).postPageError p b else s.modPage p f) := by
      split
      · exact (s.said_modPage p f).trans (State.said_postPageError ..)
      · exact s.said_modPage p f
    split
    · exact (posted.trans (State.said_faultLog ..)).trans (State.said_count ..)
    · exact posted.trans (State.said_faultLog ..)
  unfold State.raise
  split
  · exact .refl s
  · simp only []
    split
    · split
      · exact (logged ..).trans (State.said_fenceDue ..)
      · exact logged ..
    · exact logged ..

/-! ## What the fault of the lift's jobs leaves of the station (R256, R258, R379) -/

/-- From `s` to `t` the lift and the pages below the traverse's stand, and commands can only have left their queues. -/
structure State.StationKept (s t : State) : Prop where
  lift : t.lift = s.lift
  page : ∀ p < 13, t.page p = s.page p
  inflight : ∀ m, (t.core m).inflight.Sublist (s.core m).inflight

theorem State.StationKept.refl (s : State) : s.StationKept s := ⟨rfl, fun _ _ => rfl, fun _ => .refl _⟩

theorem State.StationKept.trans {s t u : State} (h : s.StationKept t) (g : t.StationKept u) : s.StationKept u :=
  ⟨g.lift.trans h.lift, fun p hp => (g.page p hp).trans (h.page p hp), fun m => (g.inflight m).trans (h.inflight m)⟩

theorem State.StationKept.foldl {α : Type} {f : State → α → State} (hf : ∀ (s : State) a, s.StationKept (f s a)) (l : List α) :
    ∀ s : State, s.StationKept (l.foldl f s) := by
  induction l with
  | nil => exact .refl
  | cons a l ih => exact fun s => (hf s a).trans (ih _)

theorem State.station_modCore (s : State) (n : Nat) (f : Core → Core) (hf : ∀ k, (f k).inflight.Sublist k.inflight) :
    s.StationKept (s.modCore n f) where
  lift := rfl
  page _ _ := rfl
  inflight m := by
    rw [State.core_modCore]
    split
    · next h => rw [h]; exact hf _
    · exact .refl _

theorem State.station_dropCmds (s : State) (n : Nat) (g : EngCmd → Bool) :
    s.StationKept (s.modCore n (fun k => { k with inflight := k.inflight.filter g })) :=
  s.station_modCore n (fun k => { k with inflight := k.inflight.filter g }) fun _ => List.filter_sublist

theorem State.station_count (s : State) {p : Nat} (off k : Nat) (hp : 13 ≤ p) : s.StationKept (s.count p off k) :=
  ⟨rfl, fun q hq => s.page_count_other off k (by omega), fun _ => .refl _⟩

theorem State.station_emit (s : State) (o : Out) : s.StationKept (s.emit o) := ⟨rfl, fun _ _ => rfl, fun _ => .refl _⟩

theorem State.station_modTrv (s : State) (p : TPort) (f : Traverse → Traverse) : s.StationKept (s.modTrv p f) :=
  ⟨State.modTrv_lift .., fun _ _ => State.modTrv_page .., fun m => by rw [State.modTrv_core]⟩

theorem State.station_modJob (s : State) (t : Nat) (f : Job → Job) : s.StationKept (s.modJob t f) :=
  ⟨State.modJob_lift .., fun _ _ => State.modJob_page .., fun m => by rw [State.modJob_core]⟩

theorem State.station_abortLanding (s : State) (n : Nat) : s.StationKept (s.abortLanding n) := by
  have dropped (f : Core → Core) (hf : (f (s.core n)).inflight.Sublist (s.core n).inflight) : s.StationKept (s.modCore n f) := by
    refine ⟨rfl, fun _ _ => rfl, fun m => ?_⟩
    rw [State.core_modCore]
    split
    · next h => rw [h]; exact hf
    · exact .refl _
  have counted (s : State) (k : Nat) : s.StationKept (if k = 0 then s else s.count (corePage n kARR) 0x130 k) := by
    split
    · exact .refl s
    · exact s.station_count _ _ (by unfold corePage; omega)
  have counted' (s : State) (k : Nat) : s.StationKept (if k = 0 then s else s.count (corePage n kSCH) 0x128 k) := by
    split
    · exact .refl s
    · exact s.station_count _ _ (by unfold corePage; omega)
  unfold State.abortLanding
  simp only []
  refine ((dropped _ ?_).trans (counted ..)).trans (counted' ..)
  exact List.filter_sublist

theorem State.station_sendTrv (s : State) (p : TPort) (h : TrvHdr) (data : List Byte) : s.StationKept (s.sendTrv p h data) := by
  have hpage : 13 ≤ pTRV p := by cases p <;> decide
  unfold State.sendTrv
  split
  · exact s.station_modTrv ..
  · unfold State.emitTrv
    simp only []
    split
    · exact (s.station_emit _).trans (State.station_count _ _ _ hpage)
    · exact s.station_emit _

theorem State.station_discardTrv (s : State) (p : TPort) (peers : List (BitVec 15)) : s.StationKept (s.discardTrv p peers) := by
  unfold State.discardTrv
  simp only []
  refine State.StationKept.trans (State.StationKept.foldl (fun s o => ?_) _ s) (State.station_modTrv _ p _)
  exact s.station_modCore _ _ fun _ => .refl _

theorem State.station_abortTraverse (s : State) (sends : Bool) (told : List (BitVec 15)) :
    s.StationKept (s.abortTraverse sends told) := by
  have aborted (s : State) (p : TPort) (epoch : BitVec 16) (dsts : List (BitVec 15)) :
      s.StationKept (s.sendAborts p epoch dsts) := State.StationKept.foldl (fun s _ => s.station_sendTrv ..) dsts s
  unfold State.abortTraverse
  refine State.StationKept.trans (State.StationKept.foldl (fun s p => ?_) _ s) (State.StationKept.foldl (fun s n => ?_) _ _)
  · simp only []
    refine State.StationKept.trans ?_ (State.station_discardTrv _ p _)
    split
    · exact (aborted s p _ _).trans (State.station_modTrv ..)
    · exact .refl s
  · exact s.station_dropCmds n _

theorem State.station_tellPeers (s : State) (j : Job) (lift traverse : Bool) : s.StationKept (s.tellPeers j lift traverse) := by
  have noticed : s.StationKept
      (if lift && j.lift && s.lift.isFormed then s.sendMsg .up (.notice true s.liftPos 0) else s) := by
    split
    · exact s.station_emit _
    · exact .refl s
  unfold State.tellPeers
  simp only []
  split
  · exact noticed.trans (State.station_abortTraverse ..)
  · exact noticed

theorem State.station_faultLocal (s : State) (t : Nat) (code : Word) : s.StationKept (s.faultLocal t code) := by
  unfold State.faultLocal
  split
  · exact .refl s
  · split
    · exact .refl s
    · refine State.StationKept.trans ?_ (State.StationKept.foldl (fun s n => s.station_modCore n Core.stopIssue fun _ => .refl _) _ _)
      split
      · exact .refl s
      · exact s.station_modJob ..

/-- The fault of a job leaves the lift (R379). -/
theorem State.station_faultTask (s : State) (t : Nat) (code : Word) : s.StationKept (s.faultTask t code) := by
  unfold State.faultTask
  split
  · split
    · exact s.station_faultLocal ..
    · exact (s.station_faultLocal ..).trans (State.station_tellPeers ..)
  · exact .refl s

/-! ## The lift's jobs fault (R256 step 4, R314) -/

/-- A job of the lift that faults with its held batches dropped. -/
def Job.liftFaulted (code : Word) (j : Job) : Job := { j with held := [] }.faulted code

/-- One lift job faults: its landing commands are aborted, and the traverse of a coupled job is told. -/
def State.faultLiftJob (code : Word) (s : State) (t : Nat) : State :=
  match (s.task t).bind (·.job), s.task t with
  | some j, some x =>
    let s := (x.coreList.foldl State.abortLanding s).modJob t (fun j => { j with held := [] })
    if j.fault.isSome then s else (s.faultLocal t code).tellPeers j false true
  | _, _ => s

theorem State.faultLift_eq (s : State) (b : Nat) :
    s.faultLift b = s.liftTasks.foldl (State.faultLiftJob (s.faultCode pLFC b)) s := rfl

theorem State.station_faultLiftJob (code : Word) (s : State) (t : Nat) : s.StationKept (State.faultLiftJob code s t) := by
  unfold State.faultLiftJob
  split
  · next x _ _ =>
    have aborted : s.StationKept ((x.coreList.foldl State.abortLanding s).modJob t (fun j => { j with held := [] })) :=
      (State.StationKept.foldl (fun s n => s.station_abortLanding n) _ s).trans (State.station_modJob ..)
    simp only []
    split
    · exact aborted
    · exact (aborted.trans (State.station_faultLocal ..)).trans (State.station_tellPeers ..)
  · exact .refl s

theorem State.station_faultLift (s : State) (b : Nat) : s.StationKept (s.faultLift b) := by
  rw [State.faultLift_eq]
  exact State.StationKept.foldl (State.station_faultLiftJob _) _ s

theorem State.tasks_abortLanding (s : State) (n : Nat) : s.TasksKept (s.abortLanding n) := by
  have counted (s : State) (p off k : Nat) : s.TasksKept (if k = 0 then s else s.count p off k) := by
    split
    · exact .refl s
    · exact s.tasks_count ..
  unfold State.abortLanding
  simp only []
  refine ((s.tasks_modCore n _ ?_).trans (counted ..)).trans (counted ..)
  exact fun _ => rfl

/-- A lift job that faults is marked on its task, and every other task stands. -/
theorem State.task_faultLiftJob (code : Word) (s : State) (t u : Nat) : (State.faultLiftJob code s t).task u =
    if u = t then (s.task t).map (fun x => { x with job := x.job.map (Job.liftFaulted code) }) else s.task u := by
  have aborted (x : Task) (u : Nat) : ((x.coreList.foldl State.abortLanding s).modJob t (fun j => { j with held := [] })).task u =
      if u = t then (s.task t).map (fun x => { x with job := x.job.map (fun j => { j with held := [] }) }) else s.task u := by
    have kept := State.TasksKept.foldl (fun s n => State.tasks_abortLanding s n) x.coreList s
    rw [State.task_modJob, kept.task, kept.task]
  cases hx : s.task t with
  | none =>
    simp only [State.faultLiftJob, hx, Option.bind_none, Option.map_none]
    split
    · next h => rw [h, hx]
    · rfl
  | some x =>
    cases hj : x.job with
    | none =>
      simp only [State.faultLiftJob, hx, hj, Option.bind_some, Option.map_some, Option.map_none]
      split
      · next h => rw [h, hx, ← hj]
      · rfl
    | some j =>
      simp only [State.faultLiftJob, hx, hj, Option.bind_some, Option.map_some]
      split
      · next hfault => rw [aborted, hx]; simp [hj, Job.liftFaulted, Job.faulted, hfault]
      · next hfault =>
        rw [(State.tasks_tellPeers ..).task, State.task_faultLocal, aborted, aborted, if_pos rfl, hx]
        split
        · simp [Task.faulted, hj, Job.liftFaulted]
        · rfl

/-- The lift job on a task, if it runs one, has faulted. -/
def State.LiftFaultedAt (s : State) (u : Nat) : Prop :=
  ∀ tk j, s.task u = some tk → tk.job = some j → j.lift = true → j.fault.isSome = true

theorem State.liftFaultedAt_faultLiftJob (code : Word) {s : State} {t u : Nat} (h : u = t ∨ s.LiftFaultedAt u) :
    (State.faultLiftJob code s t).LiftFaultedAt u := by
  intro tk j htk hj hlift
  rw [State.task_faultLiftJob] at htk
  split at htk
  · obtain ⟨x, -, rfl⟩ := Option.map_eq_some_iff.1 htk
    obtain ⟨i, -, rfl⟩ := Option.map_eq_some_iff.1 hj
    exact Job.isSome_faulted code _
  · next hne => exact (h.resolve_left hne) tk j htk hj hlift

theorem State.liftFaultedAt_foldl (code : Word) {u : Nat} (ts : List Nat) : ∀ s : State, u ∈ ts ∨ s.LiftFaultedAt u →
    (ts.foldl (State.faultLiftJob code) s).LiftFaultedAt u := by
  induction ts with
  | nil => exact fun s h => h.resolve_left List.not_mem_nil
  | cons t ts ih =>
    intro s h
    refine ih _ ?_
    obtain hu | h := h
    · obtain rfl | hu := List.mem_cons.1 hu
      · exact .inr (State.liftFaultedAt_faultLiftJob code (.inl rfl))
      · exact .inl hu
    · exact .inr (State.liftFaultedAt_faultLiftJob code (.inr h))

theorem State.mem_liftTasks {s : State} {t : Nat} {tk : Task} {j : Job} (ht : t < 64) (htask : s.task t = some tk)
    (hjob : tk.job = some j) (hlift : j.lift = true) : t ∈ s.liftTasks :=
  List.mem_filter.2 ⟨List.mem_range.2 ht, by simp [htask, hjob, hlift]⟩

/-- No lift job is left that has not faulted (R256 step 4). -/
theorem State.liftFaulted_faultLift (s : State) (b : Nat) : (s.faultLift b).liftFaulted := by
  intro y tk j htask hjob hlift
  rw [State.faultLift_eq] at htask
  refine State.liftFaultedAt_foldl (s.faultCode pLFC b) (u := y.val) s.liftTasks s ?_ tk j htask hjob hlift
  by_cases hmem : y.val ∈ s.liftTasks
  · exact .inl hmem
  · exact .inr fun tk j htask hjob hlift => absurd (State.mem_liftTasks y.isLt htask hjob hlift) hmem

theorem State.TasksKept.liftFaulted {s t : State} (h : s.TasksKept t) (hfaulted : s.liftFaulted) : t.liftFaulted :=
  fun y tk j htask => hfaulted y tk j ((h.task y.val).symm.trans htask)

/-! ## What is dropped (R256 steps 2 and 3) -/

/-- The lift queue of a core loses its commands. -/
def State.dropQueue (s : State) (n : Nat) : State :=
  s.modCore n (fun k => { k with inflight := k.inflight.filter (fun d => d.req != .lift) })

/-- A lift that holds no chair, contribution or lap. -/
def Lift.cleared (l : Lift) : Lift :=
  { l with ownQ := [], held := [], demands := [], contribs := [], laps := [], turnUp := 0, turnDown := 0 }

/-- A port whose chairs and demand entries are discarded, `dem` of them held for chairs to go uphill. -/
def LiftPort.dropped (linksStay : Bool) (dem : Nat) (p : LiftPort) : LiftPort :=
  { p with rxDemand := [], rxChair := none, through := none, rxGrad := [], sentUsed := p.sentUsed - p.through.getD 0,
           replay := if linksStay then p.replay else [], freed := p.freed + BitVec.ofNat 16 p.rxUsed, rxUsed := 0,
           demandFreed := p.demandFreed + BitVec.ofNat 3 (p.rxDemand.length + dem) }

/-- The lift's ports and lists as they are dropped; the cores' lift queues follow. -/
def State.liftCleared (s : State) (linksStay : Bool) : State :=
  (((s.modLiftPort .up (.dropped linksStay 0)).modLiftPort .down
    (.dropped linksStay (s.lift.demands.filter (fun d => d.2.2)).length)).modLift Lift.cleared)

theorem State.dropLift_eq (s : State) (linksStay : Bool) :
    s.dropLift linksStay = (List.range 64).foldl State.dropQueue (s.liftCleared linksStay) := rfl

theorem State.core_dropLift (s : State) (linksStay : Bool) (n : CoreId) : ((s.dropLift linksStay).core n.val).queueOf .lift = [] := by
  rw [State.dropLift_eq, State.core_foldl (f := fun k => { k with inflight := k.inflight.filter (fun d => d.req != .lift) })
    (fun s n m => State.core_modCore ..) n.val List.nodup_range, if_pos (List.mem_range.2 n.isLt), Core.queueOf, List.filter_filter,
    List.filter_eq_nil_iff]
  intro d _
  simp

theorem State.lift_dropLift (s : State) (linksStay : Bool) : (s.dropLift linksStay).lift = (s.liftCleared linksStay).lift := by
  rw [State.dropLift_eq]
  exact State.foldl_keeps (g := State.dropQueue) (·.lift) (fun _ _ => rfl) _ _

theorem State.page_dropLift (s : State) (linksStay : Bool) (p : Nat) : (s.dropLift linksStay).page p = s.page p := by
  rw [State.dropLift_eq]
  exact State.foldl_keeps (g := State.dropQueue) (·.page p) (fun _ _ => rfl) _ _

theorem State.state_dropLift (s : State) (linksStay : Bool) : (s.dropLift linksStay).lift.state = s.lift.state := by
  rw [State.lift_dropLift]
  rfl

theorem State.liftDropped_dropLift (s : State) (linksStay : Bool) : (s.dropLift linksStay).liftDropped := by
  unfold State.liftDropped
  rw [State.lift_dropLift]
  exact ⟨rfl, rfl, rfl, rfl, rfl, s.core_dropLift linksStay⟩

/-- What has been dropped stays dropped while the lift stands and commands only leave their queues. -/
theorem State.liftDropped_of_kept {s t : State} (hlift : t.lift = s.lift)
    (hin : ∀ m, (t.core m).inflight.Sublist (s.core m).inflight) (h : s.liftDropped) : t.liftDropped := by
  obtain ⟨hheld, hown, hdemands, hcontribs, hlaps, hqueue⟩ := h
  unfold State.liftDropped
  rw [hlift]
  refine ⟨hheld, hown, hdemands, hcontribs, hlaps, fun n => List.eq_nil_of_sublist_nil ?_⟩
  exact (hqueue n) ▸ (hin n.val).filter _

theorem State.Raises.lift {s t : State} (h : s.Raises t) : t.lift = s.lift := by rw [h.frame]

theorem State.Raises.liftDropped {s t : State} (h : s.Raises t) (hdropped : s.liftDropped) : t.liftDropped :=
  State.liftDropped_of_kept h.lift (fun m => by rw [h.core]) hdropped

theorem State.Raises.liftFaulted {s t : State} (h : s.Raises t) (hfaulted : s.liftFaulted) : t.liftFaulted :=
  h.tasksKept.liftFaulted hfaulted

theorem State.StationKept.liftDropped {s t : State} (h : s.StationKept t) (hdropped : s.liftDropped) : t.liftDropped :=
  State.liftDropped_of_kept h.lift h.inflight hdropped

/-! ## Notices of the lift (R363) -/

theorem State.raises_liftEvent (s : State) (ev pos side : Nat) : s.Raises (s.liftEvent ev pos side) :=
  (State.notes_post ..).raises

theorem State.page_liftEvent (s : State) (ev pos side : Nat) {p : Nat} (h : p ≠ pNTC) (h' : p ≠ pFLT) :
    (s.liftEvent ev pos side).page p = s.page p := State.page_post _ _ _ h h'

/-! ## The lift's pages -/

theorem pageBlk_pLFC : (pageBlk pLFC).isSome = true := rfl
theorem pageBlk_pLFT (x : Side) : (pageBlk (pLFT x)).isSome = true := by cases x <;> rfl
theorem pLFC_ne_pLFT (x : Side) : pLFC ≠ pLFT x := by cases x <;> decide
theorem pLFT_lt (x : Side) : pLFT x < 13 := by cases x <;> decide
theorem pLFT_ne_pNTC (x : Side) : pLFT x ≠ pNTC := by cases x <;> decide
theorem pLFT_ne_pFLT (x : Side) : pLFT x ≠ pFLT := by cases x <;> decide

theorem Page.bit_mark (x : Page) {b : Nat} (hb : b < 32) (i j : Word) : bit (x.mark b i j).err b = true := by
  simp [Page.mark, bit, hb]

/-! ## Breaking (R256) -/

/-- The station as a loss drops it and faults its jobs; the notice to ring 0 follows. -/
def State.lost (s : State) (pos side : Nat) : State :=
  (((s.modLift (fun l => { l with state := .broken, asked := false })).raise pLFC 1 (lfcInfo side 1 0 pos) 0).dropLift false).faultLift 1

theorem State.breakLift_eq (s : State) (pos side : Nat) : s.breakLift pos side = (s.lost pos side).liftEvent 1 pos side := rfl

section
variable (s : State) (pos side : Nat)

theorem State.page_breakLift : (s.breakLift pos side).page pLFC = (s.page pLFC).mark 1 (lfcInfo side 1 0 pos) 0 := by
  rw [State.breakLift_eq, State.page_liftEvent _ _ _ _ (by decide) (by decide), State.lost,
    (State.station_faultLift _ 1).page _ (by decide), State.page_dropLift, State.page_raise_same _ _ _ _ rfl (by decide) (by decide)]
  rfl

theorem State.page_breakLift_port (x : Side) : (s.breakLift pos side).page (pLFT x) = s.page (pLFT x) := by
  rw [State.breakLift_eq, State.page_liftEvent _ _ _ _ (pLFT_ne_pNTC x) (pLFT_ne_pFLT x), State.lost,
    (State.station_faultLift _ 1).page _ (pLFT_lt x), State.page_dropLift,
    State.page_raise _ _ _ _ _ (pLFC_ne_pLFT x).symm (pLFT_ne_pNTC x) (pLFT_ne_pFLT x)]
  rfl

theorem State.reg_breakLift (o : Nat) : (s.breakLift pos side).reg pLFC o = s.reg pLFC o := by
  rw [State.reg, State.page_breakLift]
  rfl

theorem State.state_breakLift : (s.breakLift pos side).lift.state = .broken := by
  rw [State.breakLift_eq, (State.raises_liftEvent ..).lift, State.lost, (State.station_faultLift _ 1).lift, State.state_dropLift,
    (State.raises_raise ..).lift]
  rfl

/-- A loss leaves the station broken (R256). -/
theorem State.liftBroken_breakLift : (s.breakLift pos side).liftBroken := by
  refine ⟨s.state_breakLift pos side, ?_, ?_, ?_⟩
  · rw [State.reported, State.page_breakLift]
    exact Page.bit_mark _ (by decide) _ _
  · exact (State.raises_liftEvent ..).liftDropped ((State.station_faultLift ..).liftDropped (State.liftDropped_dropLift ..))
  · exact (State.raises_liftEvent ..).liftFaulted (State.liftFaulted_faultLift _ 1)

end

/-- A message changes nothing of the station but what has left it. -/
theorem State.liftBroken_sendMsg {s : State} (h : s.liftBroken) (x : Side) (m : LiftMsg) : (s.sendMsg x m).liftBroken := h

theorem State.sentMsg_sendMsg (s : State) (x : Side) (m : LiftMsg) : (s.sendMsg x m).sentMsg x m := ⟨_, _, _, _, rfl⟩

theorem State.told_sendMsg (s : State) (x : Side) (m : LiftMsg) : (s.sendMsg x m).told x m :=
  ⟨_, _, _, _, List.mem_cons_self⟩

theorem State.said_sendMsg (s : State) (x : Side) (m : LiftMsg) : s.Said (s.sendMsg x m) := s.said_emit _

end Sys2Proof.Machine
end

section
/-!
Proofs of chapter 11: the link registers of a port (R265, R269), what forming keeps of the station, and from these the forming of
a lift and its deliberate break (R242, R260).
-/
namespace Sys2Proof.Machine

/-! ## Receiving (R241) -/

/-- A message of its type that the receiver hears is acted on. -/
theorem State.receiveMsg_heard {s : State} {x : Side} {f : LiftFrame} {ftype : Nat} (h : s.hears x f ftype = true)
    (act : State → State) : s.receiveMsg x f ftype act = act s := by
  simp only [State.hears, Bool.and_eq_true, beq_iff_eq, decide_eq_true_eq] at h
  obtain ⟨⟨⟨hready, hup⟩, hok⟩, htype⟩ := h
  simp [State.receiveMsg, State.screen, hready, hup, hok, htype]

/-! ## The link registers (R265, R269) -/

/-- LFT_LINK, with the count of trainings; the lane table follows. -/
def State.linkSet (s : State) (x : Side) (lanes : BitVec 32) (state : Nat) : State :=
  let s := s.setReg (pLFT x) 0x48 (word (popcount lanes * 256 + state))
  if lanes = 0 then s else s.modLiftPort x (fun p => { p with trained := p.trained + 1 })

/-- One lane's entry of the lane table. -/
def State.setLane (x : Side) (lanes : BitVec 32) (s : State) (l : Nat) : State :=
  s.setReg (pLFT x) (0x400 + 4 * l) (if lanes.getLsbD l then 0x80000000#32 else 0)

theorem State.setLink_eq (s : State) (x : Side) (lanes : BitVec 32) (state : Nat) :
    s.setLink x lanes state = (List.range 32).foldl (State.setLane x lanes) (s.linkSet x lanes state) := rfl

theorem State.reg_linkSet (s : State) (x : Side) (lanes : BitVec 32) (state q o : Nat) : (s.linkSet x lanes state).reg q o =
    if q = pLFT x ∧ o = 0x48 then word (popcount lanes * 256 + state) else s.reg q o := by
  unfold State.linkSet
  simp only []
  split
  · exact s.reg_setReg ..
  · exact (State.modLiftPort_reg ..).trans (s.reg_setReg ..)

/-- Registers below the lane table after a write of the link's. -/
theorem State.reg_setLink (s : State) (x : Side) (lanes : BitVec 32) (state q : Nat) {o : Nat} (ho : o < 0x400) :
    (s.setLink x lanes state).reg q o =
      if q = pLFT x ∧ o = 0x48 then word (popcount lanes * 256 + state) else s.reg q o := by
  have lanes_keep (s : State) (l : Nat) : (State.setLane x lanes s l).reg q o = s.reg q o := by
    rw [State.setLane, State.reg_setReg, if_neg]
    omega
  rw [State.setLink_eq, State.foldl_keeps (g := State.setLane x lanes) (·.reg q o) lanes_keep, State.reg_linkSet]

theorem pLFT_inj {x y : Side} : pLFT x = pLFT y ↔ x = y := by cases x <;> cases y <;> decide

theorem State.linkState_setLink (s : State) (x y : Side) (lanes : BitVec 32) {state : Nat} (h : state < 4) :
    (s.setLink x lanes state).linkState y = if y = x then state else s.linkState y := by
  have low : bits (word (popcount lanes * 256 + state)) 1 0 = state := by
    rw [bits, word, BitVec.toNat_ofNat, Nat.shiftRight_zero]
    omega
  unfold State.linkState
  rw [State.reg_setLink _ _ _ _ _ (by decide)]
  simp only [pLFT_inj, and_true]
  split
  · exact low
  · rfl

/-- The link's registers leave the lift but for the count of trainings. -/
theorem State.lift_setLink (s : State) (x : Side) (lanes : BitVec 32) (state : Nat) : (s.setLink x lanes state).lift =
    if lanes = 0 then s.lift else (s.modLiftPort x (fun p => { p with trained := p.trained + 1 })).lift := by
  rw [State.setLink_eq, State.foldl_keeps (g := State.setLane x lanes) (·.lift) (fun _ _ => rfl)]
  unfold State.linkSet
  simp only []
  split <;> rfl

theorem State.liftPort_setLink (s : State) (x y : Side) (lanes : BitVec 32) (state : Nat) : (s.setLink x lanes state).liftPort y =
    { s.liftPort y with trained := ((s.setLink x lanes state).liftPort y).trained } := by
  have trained : (s.setLink x lanes state).liftPort y =
      if lanes = 0 then s.liftPort y else (s.modLiftPort x (fun p => { p with trained := p.trained + 1 })).liftPort y := by
    unfold State.liftPort
    rw [State.lift_setLink]
    split <;> rfl
  rw [trained, State.liftPort_modLiftPort]
  split
  · rfl
  · split
    · next h => rw [h]
    · rfl

theorem State.state_setLink (s : State) (x : Side) (lanes : BitVec 32) (state : Nat) :
    (s.setLink x lanes state).lift.state = s.lift.state := by
  rw [State.lift_setLink]
  split <;> rfl

/-! ## What forming keeps -/

/-- From `s` to `t` the cores and tasks stand, and of the lift all but its state, a held ring frame and the ports; no event is
cleared, LOSS keeps its details, and nothing that left is taken back. -/
structure State.FormKept (s t : State) : Prop where
  lift : t.lift = { s.lift with state := t.lift.state, ring := t.lift.ring, port := t.lift.port }
  core : ∀ k, t.core k = s.core k
  tasks : s.TasksKept t
  errKept : s.ErrKept t
  info0 : bit (s.page pLFC).err 1 = true → (t.page pLFC).info0 = (s.page pLFC).info0
  said : s.Said t

theorem State.FormKept.refl (s : State) : s.FormKept s := ⟨rfl, fun _ => rfl, .refl s, .refl s, fun _ => rfl, .refl s⟩

theorem State.FormKept.trans {s t u : State} (h : s.FormKept t) (g : t.FormKept u) : s.FormKept u where
  lift := by rw [g.lift, h.lift]
  core k := (g.core k).trans (h.core k)
  tasks := h.tasks.trans g.tasks
  errKept := h.errKept.trans g.errKept
  info0 hb := (g.info0 (h.errKept.kept _ _ hb)).trans (h.info0 hb)
  said := h.said.trans g.said

theorem State.form_setReg (s : State) (p off : Nat) (v : Word) : s.FormKept (s.setReg p off v) where
  lift := rfl
  core _ := rfl
  tasks := ⟨fun _ => rfl, fun _ => rfl⟩
  errKept := s.errKept_setReg p off v
  info0 _ := by
    rw [State.setReg, State.page_modPage]
    split
    · next h => rw [h]
    · rfl
  said := State.said_of_outbox rfl

theorem State.form_raise (s : State) (b : Nat) (i j : Word) : s.FormKept (s.raise pLFC b i j) where
  lift := by rw [(s.raises_raise pLFC b i j).lift]
  core := (s.raises_raise pLFC b i j).core
  tasks := s.tasks_raise pLFC b i j
  errKept := s.errKept_raise pLFC b i j
  info0 hb := by
    have armed : ((s.page pLFC).err == 0) = false := beq_eq_false_iff_ne.2 fun h => by simp [h, bit] at hb
    rw [State.page_raise_same _ _ _ _ rfl (by decide) (by decide), Page.mark, armed]
    rfl
  said := s.said_raise pLFC b i j

/-- A change of the lift's state, a held ring frame or the ports. -/
theorem State.form_modLift (s : State) (f : Lift → Lift)
    (hf : f s.lift = { s.lift with state := (f s.lift).state, ring := (f s.lift).ring, port := (f s.lift).port }) :
    s.FormKept (s.modLift f) :=
  ⟨hf, fun _ => rfl, ⟨fun _ => rfl, fun _ => rfl⟩, State.errKept_of_pages rfl, fun _ => rfl, State.said_of_outbox rfl⟩

theorem State.form_modLiftPort (s : State) (x : Side) (f : LiftPort → LiftPort) : s.FormKept (s.modLiftPort x f) :=
  s.form_modLift _ rfl

theorem State.FormKept.foldl {α : Type} {f : State → α → State} (hf : ∀ (s : State) a, s.FormKept (f s a)) (l : List α) :
    ∀ s : State, s.FormKept (l.foldl f s) := by
  induction l with
  | nil => exact .refl
  | cons a l ih => exact fun s => (hf s a).trans (ih _)

theorem State.form_setLink (s : State) (x : Side) (lanes : BitVec 32) (state : Nat) : s.FormKept (s.setLink x lanes state) := by
  have linked : s.FormKept (s.linkSet x lanes state) := by
    unfold State.linkSet
    simp only []
    split
    · exact s.form_setReg ..
    · exact (s.form_setReg ..).trans (State.form_modLiftPort ..)
  rw [State.setLink_eq]
  exact linked.trans (State.FormKept.foldl (fun s l => s.form_setReg _ _ _) _ _)

section
variable {s t : State} (h : s.FormKept t)
include h

theorem State.FormKept.liftDropped (hdropped : s.liftDropped) : t.liftDropped := by
  obtain ⟨hheld, hown, hdemands, hcontribs, hlaps, hqueue⟩ := hdropped
  unfold State.liftDropped
  rw [h.lift]
  exact ⟨hheld, hown, hdemands, hcontribs, hlaps, fun n => by rw [h.core]; exact hqueue n⟩

end

/-! ## A formation that fails (R242) -/

theorem State.forming_clearGo (s : State) : s.clearGo.forming = false := by
  rw [State.clearGo, State.forming, State.reg_setReg, if_pos ⟨rfl, rfl⟩, bit, BitVec.getLsbD_and]
  exact Bool.and_false _

section
variable (s : State) (detail pos : Nat)

theorem State.form_formFail : s.FormKept (s.formFail detail pos) :=
  ((s.form_modLift _ rfl).trans (State.form_setReg ..)).trans (State.form_raise ..)

/-- A formation that fails leaves the station unformed, GO clear and FORM_FAIL reported. -/
theorem State.formFail_failed : (s.formFail detail pos).lift.state = .unformed ∧ (s.formFail detail pos).forming = false ∧
    (s.formFail detail pos).reported pLFC 0 = true := by
  refine ⟨?_, ?_, State.raised _ _ _ _ _ rfl (by decide)⟩
  · rw [State.formFail, (State.raises_raise ..).lift]
    rfl
  · rw [State.formFail, State.forming, State.reg_raise_same _ _ _ _ _ rfl (by decide) (by decide)]
    exact State.forming_clearGo _

end

/-! ## GO (R242, R260) -/

/-- A write of LFC_FORM with GO, at a station that no longer forms a lift. -/
def State.goWritten (s : State) (v : Word) : State :=
  let s := s.setReg pLFC 0x40 (v &&& 0x00FF7F7F#32)
  if bits v 14 8 = 0 then s.formFail 0 s.liftPos else (s.setReg pLFC 0x40 (s.reg pLFC 0x40 ||| 0x80000000#32)).startTraining

theorem exec_lfcFormGo {s : State} {v : Word} (hready : s.phase = .ready) (hgo : bit v 31 = true) (hforming : s.forming = false) :
    exec (.lfcFormGo v) s = .next ((if s.lift.isFormed then s.deliberateBreak else s).goWritten v) := by
  have hexec : exec (.lfcFormGo v) s = execLfcFormGo v s := rfl
  rw [hexec, execLfcFormGo, if_pos (by simp [hready, hgo]), State.writeForm]
  simp only [hgo, hforming, Bool.not_true, Bool.or_false, Bool.false_eq_true, if_false, BitVec.ofNat_eq_ofNat, BitVec.or_zero]
  rfl

/-- One port starts to train. -/
def State.trainPort (s : State) (x : Side) : State :=
  (s.modLiftPort x (fun p => { p with agreed := false })).setLink x 0 (if bit (s.reg (pLFT x) 0x40) 0 && s.liftClk then 1 else 0)

theorem State.startTraining_eq (s : State) : s.startTraining =
    [Side.up, Side.down].foldl State.trainPort (s.modLift (fun l => { l with state := .training, ring := none })) := rfl

theorem State.form_trainPort (s : State) (x : Side) : s.FormKept (s.trainPort x) := by
  unfold State.trainPort
  exact (s.form_modLiftPort ..).trans (State.form_setLink ..)

theorem State.form_startTraining (s : State) : s.FormKept s.startTraining := by
  rw [State.startTraining_eq]
  exact State.FormKept.trans (s.form_modLift _ rfl) (State.FormKept.foldl (fun s x => s.form_trainPort x) _ _)

theorem State.state_trainPort (s : State) (x : Side) : (s.trainPort x).lift.state = s.lift.state := by
  rw [State.trainPort, State.state_setLink]
  rfl

theorem State.state_startTraining (s : State) : s.startTraining.lift.state = .training := by
  rw [State.startTraining_eq, State.foldl_keeps (g := State.trainPort) (·.lift.state) State.state_trainPort]
  rfl

theorem State.form_goWritten (s : State) (v : Word) : s.FormKept (s.goWritten v) := by
  unfold State.goWritten
  simp only []
  split
  · exact (s.form_setReg ..).trans (State.form_formFail ..)
  · exact ((s.form_setReg ..).trans (State.form_setReg ..)).trans (State.form_startTraining _)

theorem State.isFormed_goWritten (s : State) (v : Word) : (s.goWritten v).lift.isFormed = false := by
  unfold State.goWritten
  simp only []
  split
  · simp [Lift.isFormed, (State.formFail_failed ..).1]
  · simp [Lift.isFormed, State.state_startTraining]

/-! ## The deliberate break (R260) -/

theorem State.liftPos_lt (s : State) : s.liftPos < 128 := Nat.mod_lt _ (by decide)

theorem State.liftPos_breakLift (s : State) (pos side : Nat) : (s.breakLift pos side).liftPos = s.liftPos := by
  rw [State.liftPos, State.reg_breakLift, State.liftPos]

theorem State.deliberateBreak_eq (s : State) : s.deliberateBreak =
    ((s.breakLift s.liftPos 3).sendMsg .up (.notice false s.liftPos 3)).sendMsg .down (.notice false s.liftPos 3) := by
  rw [State.deliberateBreak]
  simp only [State.liftPos_breakLift]

theorem State.liftBroken_deliberateBreak (s : State) : s.deliberateBreak.liftBroken := by
  rw [State.deliberateBreak_eq]
  exact State.liftBroken_sendMsg (State.liftBroken_sendMsg (s.liftBroken_breakLift ..) ..) ..

theorem State.told_deliberateBreak (s : State) : s.deliberateBreak.told .up (.notice false s.liftPos 3) ∧
    s.deliberateBreak.told .down (.notice false s.liftPos 3) := by
  rw [State.deliberateBreak_eq]
  exact ⟨(State.said_sendMsg ..).told (State.told_sendMsg ..), State.told_sendMsg ..⟩

theorem State.info0_deliberateBreak (s : State) (h : (s.page pLFC).err = 0) :
    (s.deliberateBreak.page pLFC).info0 = word (3 * 2 ^ 24 + 1 * 65536 + s.liftPos) := by
  have fields : lfcInfo 3 1 0 s.liftPos = word (3 * 2 ^ 24 + 1 * 65536 + s.liftPos) := by
    have hpos := s.liftPos_lt
    rw [lfcInfo, cause]
    congr 1
    omega
  have page : s.deliberateBreak.page pLFC = (s.page pLFC).mark 1 (lfcInfo 3 1 0 s.liftPos) 0 := by
    rw [State.deliberateBreak_eq]
    exact s.page_breakLift s.liftPos 3
  rw [page, Page.mark, h, ← fields]
  rfl

/-- Settles O26: the break reports, drops, faults and tells; the GO after it changes the state of the lift and its ports, and
reports no more than FORM_FAIL, which keeps the details of the loss. The two notices of side 3 are log entry 51's reading of
R256. -/
theorem deliberateBreak : Obligations.DeliberateBreak := by
  intro s v hready hformed hforming hgo
  have kept := s.deliberateBreak.form_goWritten v
  obtain ⟨-, hloss, hdropped, hfaulted⟩ := s.liftBroken_deliberateBreak
  obtain ⟨hup, hdown⟩ := s.told_deliberateBreak
  refine ⟨s.deliberateBreak.goWritten v, ?_, State.isFormed_goWritten .., kept.errKept.kept _ _ hloss, fun herr => ?_,
    kept.liftDropped hdropped, kept.tasks.liftFaulted hfaulted, kept.said.told hup, kept.said.told hdown⟩
  · rw [exec_lfcFormGo hready hgo hforming, if_pos hformed]
  · rw [kept.info0 hloss, s.info0_deliberateBreak herr]

/-! ## GO on an unformed station (R242) -/

/-- Bits that agree spell the same number. -/
theorem bits_congr {v w : Word} {hi lo : Nat} (h : ∀ i, lo ≤ i → i ≤ hi → v.getLsbD i = w.getLsbD i) :
    bits v hi lo = bits w hi lo := by
  refine Nat.eq_of_testBit_eq fun i => ?_
  simp only [bits, Nat.testBit_mod_two_pow, Nat.testBit_shiftRight]
  by_cases hi' : i < hi + 1 - lo
  · exact congrArg _ (h (lo + i) (by omega) (by omega))
  · simp [hi']

/-- LFC_FORM once a GO has begun a formation: the fields written, and GO. -/
def formWord (v : Word) : Word := v &&& 0x00FF7F7F#32 ||| 0x80000000#32

/-- The fields of LFC_FORM read as they were written. -/
theorem bits_formWord (v : Word) {hi lo : Nat}
    (h : ∀ i, lo ≤ i → i ≤ hi → (0x00FF7F7F#32).getLsbD i = true ∧ (0x80000000#32).getLsbD i = false) :
    bits (formWord v) hi lo = bits v hi lo := by
  refine bits_congr fun i hlo hhi => ?_
  obtain ⟨hfield, hgo⟩ := h i hlo hhi
  rw [formWord, BitVec.getLsbD_or, BitVec.getLsbD_and, hfield, hgo, Bool.and_true, Bool.or_false]

theorem bit_formWord_go (v : Word) : bit (formWord v) 31 = true := by
  rw [bit, formWord, BitVec.getLsbD_or]
  exact Bool.or_true _

/-- The station as a GO begins to train its ports: LFC_FORM is written. -/
def State.goBegun (s : State) (v : Word) : State :=
  (s.setReg pLFC 0x40 (v &&& 0x00FF7F7F#32)).setReg pLFC 0x40 (formWord v)

theorem State.goWritten_short (s : State) {v : Word} (h : bits v 14 8 = 0) : s.goWritten v =
    (s.setReg pLFC 0x40 (v &&& 0x00FF7F7F#32)).formFail 0 (s.setReg pLFC 0x40 (v &&& 0x00FF7F7F#32)).liftPos := by
  rw [State.goWritten]
  exact if_pos h

theorem State.goWritten_trains (s : State) {v : Word} (h : bits v 14 8 ≠ 0) : s.goWritten v = (s.goBegun v).startTraining := by
  simp only [State.goWritten, if_neg h, State.goBegun, State.reg_setReg, formWord, and_self, if_true]

theorem State.reg_goBegun (s : State) (v : Word) (p o : Nat) : (s.goBegun v).reg p o =
    if p = pLFC ∧ o = 0x40 then formWord v else s.reg p o := by
  rw [State.goBegun, State.reg_setReg, State.reg_setReg]
  split <;> rfl

/-- Training leaves LFC_FORM and the ports' control registers. -/
theorem State.reg_trainPort (s : State) (x : Side) (p : Nat) {o : Nat} (ho : o < 0x400) (h : o ≠ 0x48) :
    (s.trainPort x).reg p o = s.reg p o := by
  rw [State.trainPort, State.reg_setLink _ _ _ _ _ ho, if_neg (fun g => h g.2), State.modLiftPort_reg]

theorem State.reg_startTraining (s : State) (p : Nat) {o : Nat} (ho : o < 0x400) (h : o ≠ 0x48) :
    s.startTraining.reg p o = s.reg p o := by
  rw [State.startTraining_eq,
    State.foldl_keeps (g := State.trainPort) (·.reg p o) (fun s x => s.reg_trainPort x p ho h), State.modLift_reg]

theorem State.linkState_trainPort (s : State) (x y : Side) : (s.trainPort x).linkState y =
    if y = x then (if bit (s.reg (pLFT y) 0x40) 0 && s.liftClk then 1 else 0) else s.linkState y := by
  rw [State.trainPort, State.linkState_setLink _ _ _ _ (by split <;> decide), State.modLiftPort_linkState]
  split
  · next h => rw [h]
  · rfl

theorem State.liftClk_trainPort (s : State) (x : Side) : (s.trainPort x).liftClk = s.liftClk := by
  rw [State.trainPort, State.setLink_eq, State.foldl_keeps (g := State.setLane x 0) (·.liftClk) (fun _ _ => rfl)]
  rfl

/-- A port trains unless it is held down or without its clock (R242, R267, R476). -/
theorem State.linkState_startTraining (s : State) (y : Side) :
    s.startTraining.linkState y = if bit (s.reg (pLFT y) 0x40) 0 && s.liftClk then 1 else 0 := by
  rw [State.startTraining_eq]
  simp only [List.foldl_cons, List.foldl_nil, State.linkState_trainPort, State.liftClk_trainPort,
    State.reg_trainPort _ _ _ (show 0x40 < 0x400 by decide) (show 0x40 ≠ 0x48 by decide), State.modLift_reg, State.modLift_liftClk]
  cases y <;> rfl

section
variable {s : State} {v : Word} (hready : s.phase = .ready) (hgo : bit v 31 = true) (hforming : s.forming = false)
  (hformed : s.lift.isFormed = false)
include hready hgo hforming hformed

theorem exec_lfcFormGo_unformed : exec (.lfcFormGo v) s = .next (s.goWritten v) := by
  rw [exec_lfcFormGo hready hgo hforming, hformed]
  rfl

theorem lfcFormGo_short (hlen : bits v 14 8 = 0) : ∃ t, exec (.lfcFormGo v) s = .next t ∧ t.lift.state = .unformed ∧
    t.forming = false ∧ t.reported pLFC 0 = true := by
  rw [exec_lfcFormGo_unformed hready hgo hforming hformed, State.goWritten_short _ hlen]
  exact ⟨_, rfl, State.formFail_failed ..⟩

theorem lfcFormGo_trains (hlen : bits v 14 8 ≠ 0) : ∃ t, exec (.lfcFormGo v) s = .next t ∧ t.lift.state = .training ∧
    t.forming = true ∧ t.liftPos = bits v 6 0 ∧ t.liftLen = bits v 14 8 + 1 ∧ t.liftId = bits v 23 16 ∧
    (∀ k, t.core k = s.core k) ∧ ∀ y, t.linkState y = if bit (s.reg (pLFT y) 0x40) 0 && s.liftClk then 1 else 0 := by
  have form : (s.goBegun v).startTraining.reg pLFC 0x40 = formWord v := by
    rw [State.reg_startTraining _ _ (by decide) (by decide), State.reg_goBegun, if_pos ⟨rfl, rfl⟩]
  rw [exec_lfcFormGo_unformed hready hgo hforming hformed, State.goWritten_trains _ hlen]
  refine ⟨_, rfl, State.state_startTraining _, ?_, ?_, ?_, ?_, (State.form_startTraining _).core, fun y => ?_⟩
  · rw [State.forming, form, bit_formWord_go]
  · rw [State.liftPos, form, bits_formWord v (by decide)]
  · rw [State.liftLen, form, bits_formWord v (by decide)]
  · rw [State.liftId, form, bits_formWord v (by decide)]
  · have control : (s.goBegun v).reg (pLFT y) 0x40 = s.reg (pLFT y) 0x40 := by
      rw [State.reg_goBegun, if_neg (fun h => pLFC_ne_pLFT y h.1.symm)]
    rw [State.linkState_startTraining, control]
    rfl

end

/-! ## Ports that train (R238) -/

theorem otherSide_ne (x : Side) : otherSide x ≠ x := by cases x <;> decide

section
variable {s : State} {x : Side} (hready : s.phase = .ready) (hlink : s.linkState x = 1)
include hready hlink

/-- A port that trains on all 32 lanes is up; with both ports up the neighbours are checked (R242). -/
theorem liftPortTrained_full : ∃ t, exec (.liftPortTrained x (BitVec.allOnes 32)) s = .next t ∧ t.linkState x = 2 ∧
    t.linkState (otherSide x) = s.linkState (otherSide x) ∧ t.lift.state =
      (if s.linkUp (otherSide x) = true ∧ s.lift.state = .training then .checking else s.lift.state) := by
  have hexec : exec (.liftPortTrained x (BitVec.allOnes 32)) s = execLiftPortTrained x (BitVec.allOnes 32) s := rfl
  have link (y : Side) : (s.setLink x (BitVec.allOnes 32) 2).linkState y = if y = x then 2 else s.linkState y :=
    State.linkState_setLink _ _ _ _ (by decide)
  have hstate : (s.setLink x (BitVec.allOnes 32) 2).lift.state = s.lift.state := State.state_setLink ..
  rw [hexec, execLiftPortTrained, if_neg (by simp [hready, hlink]), if_pos rfl]
  simp only []
  generalize s.setLink x (BitVec.allOnes 32) 2 = u at link hstate
  have both : (u.linkUp .up && u.linkUp .down) = s.linkUp (otherSide x) := by
    unfold State.linkUp
    rw [link, link]
    cases x <;> simp [otherSide]
  rw [both, hstate]
  refine ⟨_, rfl, ?_, ?_, ?_⟩
  · split
    · rw [State.modLift_linkState, link, if_pos rfl]
    · rw [link, if_pos rfl]
  · split
    · rw [State.modLift_linkState, link, if_neg (otherSide_ne x)]
    · rw [link, if_neg (otherSide_ne x)]
  · by_cases h : s.linkUp (otherSide x) = true ∧ s.lift.state = .training
    · rw [if_pos h, if_pos (by simp [h.1, h.2])]
      rfl
    · rw [if_neg h, if_neg (by simpa using h), hstate]

theorem liftPortTrained_part {lanes : BitVec 32} (hlanes : lanes ≠ BitVec.allOnes 32) :
    ∃ t, exec (.liftPortTrained x lanes) s = .next t ∧ t.linkState x = 0 ∧
      t.linkState (otherSide x) = s.linkState (otherSide x) ∧ t.lift.state = s.lift.state := by
  have hexec : exec (.liftPortTrained x lanes) s = execLiftPortTrained x lanes s := rfl
  rw [hexec, execLiftPortTrained, if_neg (by simp [hready, hlink]), if_neg hlanes]
  refine ⟨_, rfl, ?_, ?_, State.state_setLink ..⟩
  · rw [State.linkState_setLink _ _ _ _ (by decide), if_pos rfl]
  · rw [State.linkState_setLink _ _ _ _ (by decide), if_neg (otherSide_ne x)]

end

/-! ## The neighbours' frames (R242 step 3) -/

/-- The station with a neighbour's values on the port's page (R269). -/
def State.neighbourNoted (s : State) (x : Side) (v : Formation) : State :=
  s.setReg (pLFT x) 0x4C (word (v.liftId.toNat * 2 ^ 24 + v.position.toNat * 256 + v.cores.toNat))

theorem State.reg_neighbourNoted (s : State) (x : Side) (v : Formation) (o : Nat) :
    (s.neighbourNoted x v).reg pLFC o = s.reg pLFC o := by
  rw [State.neighbourNoted, State.reg_setReg, if_neg (fun h => pLFC_ne_pLFT x h.1)]

theorem State.formMismatch_neighbourNoted (s : State) (x : Side) (v w : Formation) :
    (s.neighbourNoted x w).formMismatch x v = s.formMismatch x v := by
  have hlen : (s.neighbourNoted x w).liftLen = s.liftLen := by rw [State.liftLen, State.reg_neighbourNoted, State.liftLen]
  have hpos : (s.neighbourNoted x w).liftPos = s.liftPos := by rw [State.liftPos, State.reg_neighbourNoted, State.liftPos]
  have hid : (s.neighbourNoted x w).liftId = s.liftId := by rw [State.liftId, State.reg_neighbourNoted, State.liftId]
  have hpresented : (s.neighbourNoted x w).presented = s.presented := rfl
  unfold State.formMismatch
  rw [hlen, hpos, hid, hpresented]

/-- Once both ports agree the ring begins or goes on: a message leaves, and a held ring frame is no longer held. -/
theorem State.bothAgree_kept (s : State) (y : Side) : s.bothAgree.liftPort y = s.liftPort y ∧
    s.bothAgree.lift.state = s.lift.state ∧ s.bothAgree.forming = s.forming := by
  unfold State.bothAgree
  split
  · exact ⟨rfl, rfl, rfl⟩
  · split <;> exact ⟨rfl, rfl, rfl⟩

section
variable {s : State} {x : Side} {f : LiftFrame} {v : Formation} (hforming : s.forming = true) (hhears : s.hears x f 2 = true)
include hforming hhears

theorem exec_formationFrame : exec (.formationFrame x ⟨f, v⟩) s = .next (match (s.neighbourNoted x v).formMismatch x v with
    | some d => ((s.neighbourNoted x v).linkEventAt x 3 0).formFail d v.position.toNat
    | none =>
      let u := (s.neighbourNoted x v).modLiftPort x (fun p => { p with agreed := true })
      if !((s.neighbourNoted x v).liftPort x).agreed && (u.liftPort .up).agreed && (u.liftPort .down).agreed then u.bothAgree
      else u) := by
  have hexec : exec (.formationFrame x ⟨f, v⟩) s = execFormationFrame x ⟨f, v⟩ s := rfl
  rw [hexec, execFormationFrame, State.receiveMsg_heard hhears]
  simp only [hforming, Bool.not_true, Bool.false_eq_true, if_false]
  rfl

theorem formationFrame_agrees (hmatch : s.formMismatch x v = none) : ∃ t, exec (.formationFrame x ⟨f, v⟩) s = .next t ∧
    (t.liftPort x).agreed = true ∧ t.lift.state = s.lift.state ∧ t.forming = true := by
  let u := (s.neighbourNoted x v).modLiftPort x (fun p => { p with agreed := true })
  have agreed : (u.liftPort x).agreed = true := by rw [State.liftPort_modLiftPort, if_pos rfl]
  have forming : u.forming = true := by
    rw [State.forming, State.modLiftPort_reg, State.reg_neighbourNoted]
    exact hforming
  rw [exec_formationFrame hforming hhears, State.formMismatch_neighbourNoted, hmatch]
  refine ⟨_, rfl, ?_⟩
  simp only []
  split
  · obtain ⟨hport, hstate, hgo⟩ := u.bothAgree_kept x
    exact ⟨(congrArg _ hport).trans agreed, hstate, hgo.trans forming⟩
  · exact ⟨agreed, rfl, forming⟩

theorem formationFrame_fails (hmatch : s.formMismatch x v ≠ none) : ∃ t, exec (.formationFrame x ⟨f, v⟩) s = .next t ∧
    (t.lift.state = .unformed ∧ t.forming = false ∧ t.reported pLFC 0 = true) ∧ t.reported (pLFT x) 3 = true := by
  obtain ⟨d, hd⟩ := Option.ne_none_iff_exists'.1 hmatch
  rw [exec_formationFrame hforming hhears, State.formMismatch_neighbourNoted, hd]
  refine ⟨_, rfl, State.formFail_failed .., ?_⟩
  exact (State.form_formFail ..).errKept.kept _ _ (State.raised _ _ _ _ _ (pageBlk_pLFT x) (by decide))

end

/-! ## The ring (R242 step 4) -/

/-- The port of a station that has just formed: its link starts anew. -/
def LiftPort.anew (p : LiftPort) : LiftPort := { liftPortDefault 0 with agreed := true, trained := p.trained }

/-- The lift of a station that has just formed. -/
def Lift.anew (e : BitVec 16) (l : Lift) : Lift :=
  { l with state := .formed, epoch := e, ring := none, ownQ := [], held := [], demands := [], contribs := [], laps := [],
           turnUp := 0, turnDown := 0, asked := false }

theorem State.enterFormed_eq (s : State) (e : BitVec 16) : s.enterFormed e =
    ((((s.modLiftPort .up LiftPort.anew).modLiftPort .down LiftPort.anew).modLift (Lift.anew e)).clearGo).liftEvent 0
      (((s.modLiftPort .up LiftPort.anew).modLiftPort .down LiftPort.anew).modLift (Lift.anew e)).liftPos 0 := rfl

/-- A station that forms adopts the epoch, with nothing held and its links anew. -/
theorem State.enterFormed_formed (s : State) (e : BitVec 16) : (s.enterFormed e).lift.state = .formed ∧
    (s.enterFormed e).lift.epoch = e ∧ (s.enterFormed e).forming = false ∧ (s.enterFormed e).lift.held = [] ∧
    (s.enterFormed e).lift.ownQ = [] ∧ ∀ x, (s.enterFormed e).liftPort x = (s.liftPort x).anew := by
  have lift : (s.enterFormed e).lift =
      (((s.modLiftPort .up LiftPort.anew).modLiftPort .down LiftPort.anew).modLift (Lift.anew e)).lift := by
    rw [State.enterFormed_eq, (State.raises_liftEvent ..).lift]
    rfl
  refine ⟨by rw [lift]; rfl, by rw [lift]; rfl, ?_, by rw [lift]; rfl, by rw [lift]; rfl, fun x => ?_⟩
  · rw [State.enterFormed_eq, State.forming, State.reg, State.page_liftEvent _ _ _ _ (by decide) (by decide)]
    exact State.forming_clearGo _
  · have port : (s.enterFormed e).liftPort x = ((s.modLiftPort .up LiftPort.anew).modLiftPort .down LiftPort.anew).liftPort x := by
      rw [State.liftPort, lift]
      rfl
    rw [port, State.liftPort_modLiftPort, State.liftPort_modLiftPort, State.liftPort_modLiftPort]
    cases x <;> rfl

/-- What a ring frame finds at a station: the larger epoch, and whether both ports have agreed. -/
def State.ringTop (s : State) (e : BitVec 16) : BitVec 16 := if e.toNat < s.lift.epoch.toNat then s.lift.epoch else e

theorem exec_ringFrame {s : State} {f : LiftFrame} (e : BitVec 16) (second : Bool) (hforming : s.forming = true)
    (hhears : s.hears .down f 2 = true) : exec (.ringFrame ⟨f, second⟩ e) s = .next (
      if !second then
        if s.liftPos = 0 then
          if (s.liftPort .up).agreed && (s.liftPort .down).agreed then
            (s.enterFormed (s.ringTop e + 1)).sendMsg .up (.ring true (s.ringTop e + 1))
          else s
        else if (s.liftPort .up).agreed && (s.liftPort .down).agreed then s.sendMsg .up (.ring false (s.ringTop e))
        else s.modLift (fun l => { l with ring := some e })
      else if ((s.liftPort .up).agreed && (s.liftPort .down).agreed) && s.liftPos ≠ 0 then
        (s.enterFormed e).sendMsg .up (.ring true e)
      else s) := by
  have hexec : exec (.ringFrame ⟨f, second⟩ e) s = execRingFrame ⟨f, second⟩ e s := rfl
  rw [hexec, execRingFrame, State.receiveMsg_heard hhears]
  simp only [hforming, Bool.not_true, Bool.false_eq_true, if_false]
  rfl

theorem formTimeout_fails {s : State} (hready : s.phase = .ready) (hforming : s.forming = true) :
    ∃ t, exec .formTimeout s = .next t ∧ t.lift.state = .unformed ∧ t.forming = false ∧ t.reported pLFC 0 = true := by
  have hexec : exec .formTimeout s = execFormTimeout s := rfl
  rw [hexec, execFormTimeout, if_pos (by simp [hready, hforming])]
  exact ⟨_, rfl, State.formFail_failed ..⟩

/-- Settles O25: each step of forming is one write of LFC_FORM, of a port's link or of the lift, and a failure is the same in each;
a ring frame acts by what the station is and whether its ports have agreed. -/
theorem liftForming : Obligations.LiftForming := by
  refine ⟨fun s x hready => ?_, fun s f e hforming hhears => ?_⟩
  · refine ⟨fun v hgo hforming hformed hlen => lfcFormGo_short hready hgo hforming hformed hlen,
      fun v hgo hforming hformed hlen => lfcFormGo_trains hready hgo hforming hformed hlen, fun lanes hlink => ?_,
      fun hforming hup => ?_, fun f v hforming hhears => ⟨formationFrame_agrees hforming hhears, formationFrame_fails hforming hhears⟩,
      formTimeout_fails hready⟩
    · by_cases hlanes : lanes = BitVec.allOnes 32
      · subst hlanes
        simp only [if_true, true_and]
        exact liftPortTrained_full hready hlink
      · simp only [hlanes, if_false, false_and]
        exact liftPortTrained_part hready hlink hlanes
    · have hexec : exec (.formationSend x) s = execFormationSend x s := rfl
      rw [hexec, execFormationSend, if_pos (by simp [hready, hforming, hup])]
  · refine ⟨fun hagreed hpos => ?_, fun hagreed hpos => ?_, fun hagreed hpos => ?_, fun hagreed hpos => ?_⟩
    · rw [exec_ringFrame e false hforming hhears]
      simp only [Bool.not_false, if_true, hpos, hagreed.1, hagreed.2, Bool.and_self]
      obtain ⟨hstate, hepoch, hgo, hheld, hown, hport⟩ := s.enterFormed_formed (s.ringTop e + 1)
      exact ⟨_, rfl, hstate, hepoch, hgo, hheld, hown, hport, State.sentMsg_sendMsg ..⟩
    · rw [exec_ringFrame e false hforming hhears]
      simp only [Bool.not_false, if_true, hpos, if_false, hagreed.1, hagreed.2, Bool.and_self]
      rfl
    · rw [exec_ringFrame e false hforming hhears]
      simp only [Bool.not_false, if_true, hpos, if_false]
      rw [if_neg (by simpa using hagreed)]
    · rw [exec_ringFrame e true hforming hhears]
      simp only [Bool.not_true, Bool.false_eq_true, if_false, hagreed.1, hagreed.2, Bool.and_self]
      rw [if_pos (by simpa using hpos)]
      obtain ⟨hstate, hepoch, hgo, hheld, hown, hport⟩ := s.enterFormed_formed e
      exact ⟨_, rfl, hstate, hepoch, hgo, hheld, hown, hport, State.sentMsg_sendMsg ..⟩

end Sys2Proof.Machine
end

section
/-!
Proofs of chapter 11: the loss, the stall and the quiesce of a formed lift (R256, R258, R259).
-/
namespace Sys2Proof.Machine

/-! ## A stall (R258) -/

/-- The station as a stall faults its jobs and drops the lift; the notice to ring 0 and the re-arming follow. -/
def State.stalled (s : State) (pos : Nat) : State := ((s.raise pLFC 2 (lfcInfo 0 2 0 pos) 0).faultLift 2).dropLift true

theorem State.stallLift_eq (s : State) (pos : Nat) : s.stallLift pos = ((s.stalled pos).liftEvent 2 pos 0).rearm := rfl

/-- Re-arming changes bundles alone (R314). -/
theorem State.rearm_keeps {β : Type} (p : State → β) (hp : ∀ (s : State) b f, p (s.modBundle b f) = p s) (s : State) :
    p s.rearm = p s := by
  refine State.foldl_keeps p (fun s b => ?_) _ s
  split
  · exact hp ..
  · rfl

section
variable (s : State) (pos : Nat)

theorem State.lift_stallLift : (s.stallLift pos).lift = (s.stalled pos).lift := by
  rw [State.stallLift_eq, State.rearm_keeps (·.lift) (fun _ _ _ => rfl), (State.raises_liftEvent ..).lift]

theorem State.core_stallLift (n : Nat) : (s.stallLift pos).core n = (s.stalled pos).core n := by
  rw [State.stallLift_eq, State.rearm_keeps (·.core n) (fun _ _ _ => rfl), (State.raises_liftEvent ..).core]

theorem State.tasks_stallLift : (s.stalled pos).TasksKept (s.stallLift pos) where
  coreTask n := by rw [State.core_stallLift]
  task u := by rw [State.stallLift_eq, State.rearm_keeps (·.task u) (fun _ _ _ => rfl), (State.raises_liftEvent ..).tasksKept.task]

/-- A stall leaves the lift formed. -/
theorem State.state_stallLift : (s.stallLift pos).lift.state = s.lift.state := by
  rw [State.lift_stallLift, State.stalled, State.state_dropLift, (State.station_faultLift _ 2).lift, (State.raises_raise ..).lift]

theorem State.liftDropped_stallLift : (s.stallLift pos).liftDropped :=
  State.liftDropped_of_kept (s.lift_stallLift pos) (fun m => by rw [State.core_stallLift]) (State.liftDropped_dropLift ..)

theorem State.liftFaulted_stallLift : (s.stallLift pos).liftFaulted :=
  (s.tasks_stallLift pos).liftFaulted ((State.tasks_dropLift _ true).liftFaulted (State.liftFaulted_faultLift _ 2))

theorem State.reported_stallLift : (s.stallLift pos).reported pLFC 2 = true := by
  have page : (s.stallLift pos).page pLFC = (s.raise pLFC 2 (lfcInfo 0 2 0 pos) 0).page pLFC := by
    rw [State.stallLift_eq, State.rearm_keeps (·.page pLFC) (fun _ _ _ => rfl), State.page_liftEvent _ _ _ _ (by decide) (by decide),
      State.stalled, State.page_dropLift, (State.station_faultLift _ 2).page _ (by decide)]
  rw [State.reported, page]
  exact State.raised _ _ _ _ _ rfl (by decide)

end

/-- The station after a stall and a message about it. -/
theorem State.stallLift_sendMsg (s : State) (pos : Nat) (x : Side) (m : LiftMsg) : ∃ t, (s.stallLift pos).sendMsg x m = t ∧
    t.lift.state = s.lift.state ∧ t.liftDropped ∧ t.liftFaulted ∧ t.reported pLFC 2 = true ∧ t.sentMsg x m := by
  have hstate := s.state_stallLift pos
  have hdropped := s.liftDropped_stallLift pos
  have hfaulted := s.liftFaulted_stallLift pos
  have hreported := s.reported_stallLift pos
  generalize s.stallLift pos = u at hstate hdropped hfaulted hreported
  exact ⟨_, rfl, hstate, hdropped, hfaulted, hreported, u.sentMsg_sendMsg x m⟩

/-! ## Notices (R256, R258) -/

section
variable {s : State} {x : Side} {f : LiftFrame} {pos : BitVec 7} (side : BitVec 2) (hhears : s.hears x f 3 = true)
include hhears

/-- A notice back at its own station stops. -/
theorem liftNotice_own (hpos : pos.toNat = s.liftPos) (stall : Bool) : exec (.liftNotice x ⟨f, stall⟩ pos side) s = .next s := by
  have hexec : exec (.liftNotice x ⟨f, stall⟩ pos side) s = execLiftNotice x ⟨f, stall⟩ pos side s := rfl
  rw [hexec, execLiftNotice, State.receiveMsg_heard hhears, if_pos (by simp [hpos])]

variable (hlift : s.lift.isFormed = true ∨ s.lift.state = .broken) (hpos : pos.toNat ≠ s.liftPos)
  (hup : s.linkUp (otherSide x) = true)
include hlift hpos hup

/-- A notice takes effect and goes on. -/
theorem liftNotice_goes (stall : Bool) : exec (.liftNotice x ⟨f, stall⟩ pos side) s = .next
    ((if stall then s.stallLift pos.toNat else s.breakLift pos.toNat side.toNat).sendMsg (otherSide x)
      (.notice stall pos.toNat side.toNat)) := by
  have hexec : exec (.liftNotice x ⟨f, stall⟩ pos side) s = execLiftNotice x ⟨f, stall⟩ pos side s := rfl
  have hears : (s.lift.isFormed || s.lift.state == .broken) = true := by simpa using hlift
  have passes : ¬ (!(s.lift.isFormed || s.lift.state == .broken) || pos.toNat == s.liftPos) = true := by simp [hears, hpos]
  rw [hexec, execLiftNotice, State.receiveMsg_heard hhears, if_neg passes]
  exact congrArg _ (if_pos hup)

theorem liftNotice_loss : ∃ t, exec (.liftNotice x ⟨f, false⟩ pos side) s = .next t ∧ t.liftBroken ∧
    t.sentMsg (otherSide x) (.notice false pos.toNat side.toNat) := by
  rw [liftNotice_goes side hhears hlift hpos hup, if_neg Bool.false_ne_true]
  exact ⟨_, rfl, State.liftBroken_sendMsg (s.liftBroken_breakLift ..) .., State.sentMsg_sendMsg ..⟩

theorem liftNotice_stall : ∃ t, exec (.liftNotice x ⟨f, true⟩ pos side) s = .next t ∧ t.lift.state = s.lift.state ∧ t.liftDropped ∧
    t.liftFaulted ∧ t.reported pLFC 2 = true ∧ t.sentMsg (otherSide x) (.notice true pos.toNat side.toNat) := by
  obtain ⟨t, ht, hstalled⟩ := s.stallLift_sendMsg pos.toNat (otherSide x) (.notice true pos.toNat side.toNat)
  rw [liftNotice_goes side hhears hlift hpos hup, if_pos rfl, ht]
  exact ⟨t, rfl, hstalled⟩

end

/-! ## The station's own loss and stall (R256, R258, R314) -/

theorem State.declareLoss_formed {s : State} (h : s.lift.isFormed = true) (x : Side) (side : Nat) : s.declareLoss x side =
    (s.breakLift s.liftPos side).sendMsg (otherSide x) (.notice false s.liftPos side) := if_pos h

theorem lossTimeout_breaks {s : State} (hready : s.phase = .ready) (hformed : s.lift.isFormed = true) (x : Side) :
    ∃ t, exec (.lossTimeout x) s = .next t ∧ t.liftBroken ∧ t.sentMsg (otherSide x) (.notice false s.liftPos 2) := by
  have hexec : exec (.lossTimeout x) s = execLossTimeout x s := rfl
  rw [hexec, execLossTimeout, if_pos (by rw [hready]; rfl), State.declareLoss_formed hformed]
  exact ⟨_, rfl, State.liftBroken_sendMsg (s.liftBroken_breakLift ..) .., State.sentMsg_sendMsg ..⟩

section
variable {s : State} (hready : s.phase = .ready) (hformed : s.lift.isFormed = true) (hup : s.linkUp .up = true)
  (hdown : s.linkUp .down = true) (hholds : s.holdsChair = true ∨ s.holdsLanding = true)
include hready hformed hup hdown hholds

theorem liftStall_stalls (hgate : s.admitWait = false) : ∃ t, exec .liftStall s = .next t ∧ t.lift.state = s.lift.state ∧
    t.liftDropped ∧ t.liftFaulted ∧ t.reported pLFC 2 = true ∧ t.sentMsg .up (.notice true s.liftPos 0) := by
  have hexec : exec .liftStall s = execLiftStall s := rfl
  obtain ⟨t, ht, hstalled⟩ := s.stallLift_sendMsg s.liftPos .up (.notice true s.liftPos 0)
  rw [hexec, execLiftStall, if_pos (by simpa [hready, hformed, hup, hdown, hgate] using hholds), ht]
  exact ⟨t, rfl, hstalled⟩

omit hready hformed hup hdown hholds in
/-- A wait at the gate of a pending swap is no stall (R314). -/
theorem liftStall_gate (hgate : s.admitWait = true) : exec .liftStall s = .next s := by
  have hexec : exec .liftStall s = execLiftStall s := rfl
  rw [hexec, execLiftStall, if_neg (by simp [hgate])]

end

/-! ## The quiesce frame (R259, R315) -/

/-- The hold of a job whose cores stop at their next pass boundary (R259). -/
def Job.quiesced (j : Job) : Job := { j with hold := if j.hold == .running then .preempting else j.hold }

theorem Job.hold_quiesced (j : Job) : j.quiesced.hold ≠ .running := by
  unfold Job.quiesced
  cases h : j.hold <;> simp

theorem Job.lift_quiesced (j : Job) : j.quiesced.lift = j.lift := rfl

/-- No lift job on a task runs on. -/
def State.QuiescedAt (s : State) (u : Nat) : Prop :=
  ∀ tk j, s.task u = some tk → tk.job = some j → j.lift = true → j.hold ≠ .running

theorem State.quiescedAt_foldl {u : Nat} (ts : List Nat) : ∀ s : State, u ∈ ts ∨ s.QuiescedAt u →
    (ts.foldl (fun s t => s.modJob t Job.quiesced) s).QuiescedAt u := by
  induction ts with
  | nil => exact fun s h => h.resolve_left List.not_mem_nil
  | cons t ts ih =>
    intro s h
    refine ih _ ?_
    by_cases hu : u = t
    · refine .inr fun tk j htk hj hlift => ?_
      rw [State.task_modJob, if_pos hu] at htk
      obtain ⟨x, -, rfl⟩ := Option.map_eq_some_iff.1 htk
      obtain ⟨i, -, rfl⟩ := Option.map_eq_some_iff.1 hj
      exact i.hold_quiesced
    · refine h.imp (fun hmem => (List.mem_cons.1 hmem).resolve_left hu) fun hq tk j htk => ?_
      rw [State.task_modJob, if_neg hu] at htk
      exact hq tk j htk

theorem State.enterQuiescent_eq (s : State) : s.enterQuiescent = ((s.liftTasks.foldl (fun s t => s.modJob t Job.quiesced)
    (s.modLift (fun l => { l with state := .quiescent })))).liftEvent 3
      ((s.liftTasks.foldl (fun s t => s.modJob t Job.quiesced) (s.modLift (fun l => { l with state := .quiescent })))).liftPos 0 := rfl

theorem State.state_enterQuiescent (s : State) : s.enterQuiescent.lift.state = .quiescent := by
  rw [State.enterQuiescent_eq, (State.raises_liftEvent ..).lift,
    State.foldl_keeps (g := fun s t => s.modJob t Job.quiesced) (·.lift.state) (fun s t => by rw [State.modJob_lift])]
  rfl

/-- A quiescent station's lift jobs stop at their next pass boundary (R259). -/
theorem State.quiesced_enterQuiescent (s : State) (y : Fin 64) : s.enterQuiescent.QuiescedAt y.val := by
  intro tk j htask hjob hlift
  rw [State.enterQuiescent_eq, (State.raises_liftEvent ..).tasksKept.task] at htask
  refine State.quiescedAt_foldl s.liftTasks _ ?_ tk j htask hjob hlift
  by_cases hmem : y.val ∈ s.liftTasks
  · exact .inl hmem
  · exact .inr fun tk j htask hjob hlift => absurd (State.mem_liftTasks y.isLt htask hjob hlift) hmem

theorem exec_quiesceFrame {s : State} {f : LiftFrame} (hhears : s.hears .down f 3 = true) (second : Bool) :
    exec (.quiesceFrame ⟨f, second⟩) s = .next (
      if !second then
        if s.lift.state == .formed then
          if s.liftTasks.any s.swapHolds then s
          else (s.modLift (fun l => { l with state := .quiescing })).sendMsg .up (.quiesce false)
        else if s.lift.state == .quiescing && s.lift.asked && s.lapQuiet then s.sendMsg .up (.quiesce true)
        else s
      else if s.lift.state == .quiescing && s.lapQuiet then
        if s.lift.asked then (s.modLift (fun l => { l with asked := false })).enterQuiescent
        else s.enterQuiescent.sendMsg .up (.quiesce true)
      else s) := by
  have hexec : exec (.quiesceFrame ⟨f, second⟩) s = execQuiesceFrame ⟨f, second⟩ s := rfl
  rw [hexec, execQuiesceFrame, State.receiveMsg_heard hhears]

/-- The second circuit makes a quiet station quiescent, and goes on unless this station asked for it. -/
theorem quiesceFrame_second {s : State} {f : LiftFrame} (hhears : s.hears .down f 3 = true) (hstate : s.lift.state = .quiescing)
    (hquiet : s.lapQuiet = true) : ∃ t, exec (.quiesceFrame ⟨f, true⟩) s = .next t ∧ t.lift.state = .quiescent ∧
      (s.lift.asked = false → t.sentMsg .up (.quiesce true)) ∧ ∀ y : Fin 64, t.QuiescedAt y.val := by
  have hboundary : (s.lift.state == .quiescing && s.lapQuiet) = true := by rw [hstate, hquiet]; rfl
  rw [exec_quiesceFrame hhears, Bool.not_true, if_neg Bool.false_ne_true, if_pos hboundary]
  refine ⟨_, rfl, ?_⟩
  cases s.lift.asked
  · exact ⟨s.state_enterQuiescent, fun _ => State.sentMsg_sendMsg .., s.quiesced_enterQuiescent⟩
  · exact ⟨State.state_enterQuiescent _, fun h => absurd h.symm Bool.false_ne_true, State.quiesced_enterQuiescent _⟩

/-- Settles O32: a notice, a loss timeout and a stall break or stall the station and send one message on; the quiesce frame acts
by its circuit and the state of the lift. That a station's own notice stops at it, that a stall notice goes uphill and that
a broken station passes notices on is log entry 51, and the type of a quiesce frame log entry 80. -/
theorem liftTroubles : Obligations.LiftTroubles := by
  intro s x hready
  refine ⟨fun f pos side hhears hlift => ⟨fun hpos hup => ⟨liftNotice_loss side hhears hlift hpos hup,
    liftNotice_stall side hhears hlift hpos hup⟩, liftNotice_own side hhears⟩, fun hformed => lossTimeout_breaks hready hformed x,
    fun hformed hup hdown hholds => ⟨liftStall_stalls hready hformed hup hdown hholds, liftStall_gate⟩, fun f hhears => ?_⟩
  refine ⟨fun hstate hswap => ?_, fun hstate hswap => ?_, fun hstate hasked hquiet => ?_, quiesceFrame_second hhears⟩
  · simp [exec_quiesceFrame hhears, hstate, hswap]
  · simp [exec_quiesceFrame hhears, hstate, hswap]
  · simp [exec_quiesceFrame hhears, hstate, hasked, hquiet]

end Sys2Proof.Machine
end

section
/-!
Proofs of chapter 11: what a port's frames leave when they are sent and sent again, and the upkeep of a link (R243-R245).
-/
namespace Sys2Proof.Machine

/-! ## Frames that leave a port (R243, R244) -/

/-- From `s` to `t` only frames have left port `x`: the other port, the registers and events, the cores and the rest of the lift
stand, and the counters but for the port's frames and NAKs. -/
structure State.LinkKept (s t : State) (x : Side) : Prop where
  lift : t.lift = { s.lift with port := t.lift.port }
  other : ∀ y, y ≠ x → t.liftPort y = s.liftPort y
  core : ∀ k, t.core k = s.core k
  reg : ∀ q o, t.reg q o = s.reg q o
  err : ∀ q, (t.page q).err = (s.page q).err
  counter : ∀ q o, ¬ (q = pLFT x ∧ (o = 0x100 ∨ o = 0x128)) → t.counter q o = s.counter q o

theorem State.LinkKept.refl (s : State) (x : Side) : s.LinkKept s x :=
  ⟨rfl, fun _ _ => rfl, fun _ => rfl, fun _ _ => rfl, fun _ => rfl, fun _ _ _ => rfl⟩

theorem State.LinkKept.trans {s t u : State} {x : Side} (h : s.LinkKept t x) (g : t.LinkKept u x) : s.LinkKept u x where
  lift := by rw [g.lift, h.lift]
  other y hy := (g.other y hy).trans (h.other y hy)
  core k := (g.core k).trans (h.core k)
  reg q o := (g.reg q o).trans (h.reg q o)
  err q := (g.err q).trans (h.err q)
  counter q o ho := (g.counter q o ho).trans (h.counter q o ho)

theorem State.LinkKept.foldl {α : Type} {f : State → α → State} {x : Side} (hf : ∀ (s : State) a, s.LinkKept (f s a) x)
    (l : List α) : ∀ s : State, s.LinkKept (l.foldl f s) x := by
  induction l with
  | nil => exact fun s => .refl s x
  | cons a l ih => exact fun s => (hf s a).trans (ih _)

theorem State.link_modLiftPort (s : State) (x : Side) (f : LiftPort → LiftPort) : s.LinkKept (s.modLiftPort x f) x where
  lift := rfl
  other y hy := by rw [State.liftPort_modLiftPort, if_neg hy]
  core _ := rfl
  reg _ _ := rfl
  err _ := rfl
  counter _ _ _ := rfl

theorem State.link_count (s : State) (x : Side) {o : Nat} (k : Nat) (ho : o = 0x100 ∨ o = 0x128) :
    s.LinkKept (s.count (pLFT x) o k) x where
  lift := rfl
  other _ _ := rfl
  core _ := rfl
  reg q o' := s.reg_count ..
  err q := s.err_count ..
  counter q o' h := by
    rw [State.counter_count, if_neg]
    rintro ⟨hq, rfl⟩
    exact h ⟨hq, ho⟩

theorem State.link_emit (s : State) (x : Side) (o : Out) : s.LinkKept (s.emit o) x :=
  ⟨rfl, fun _ _ => rfl, fun _ => rfl, fun _ _ => rfl, fun _ => rfl, fun _ _ _ => rfl⟩

section
variable {s t : State} {x : Side} (h : s.LinkKept t x)
include h

theorem State.LinkKept.linkState (y : Side) : t.linkState y = s.linkState y := by rw [State.linkState, h.reg, State.linkState]

theorem State.LinkKept.linkUp (y : Side) : t.linkUp y = s.linkUp y := by rw [State.linkUp, h.linkState, State.linkUp]

theorem State.LinkKept.reported (p b : Nat) : t.reported p b = s.reported p b := by rw [State.reported, h.err, State.reported]

end

section
variable (s : State) (x : Side) (fcs : Fcs) (h : List Byte) (seq : BitVec 16) (data : List Byte)

/-- A frame leaves with the NAK that is due, counted. -/
theorem State.emitFrame_eq : ∃ o, s.emitFrame x fcs h seq data =
    (((if (s.liftPort x).nakDue then s.count (pLFT x) 0x128 1 else s).modLiftPort x (fun p => { p with nakDue := false })).emit o).count
      (pLFT x) 0x100 1 := ⟨_, rfl⟩

theorem State.link_emitFrame : s.LinkKept (s.emitFrame x fcs h seq data) x := by
  have nak : s.LinkKept (if (s.liftPort x).nakDue then s.count (pLFT x) 0x128 1 else s) x := by
    split
    · exact s.link_count x 1 (.inr rfl)
    · exact .refl s x
  obtain ⟨o, ho⟩ := s.emitFrame_eq x fcs h seq data
  rw [ho]
  exact ((nak.trans (State.link_modLiftPort ..)).trans (State.link_emit ..)).trans (State.link_count _ x 1 (.inl rfl))

theorem State.liftPort_emitFrame : (s.emitFrame x fcs h seq data).liftPort x = { s.liftPort x with nakDue := false } := by
  obtain ⟨o, ho⟩ := s.emitFrame_eq x fcs h seq data
  rw [ho, State.count_liftPort, State.emit_liftPort, State.liftPort_modLiftPort, if_pos rfl]
  split <;> rfl

end

/-! ## Sending again (R243) -/

/-- A frame of the replay buffer leaves again. -/
def State.emitAgain (x : Side) (s : State) (f : SentFrame) : State := s.emitFrame x .good f.hdr f.seq f.data

theorem State.link_emitAgain (x : Side) (fs : List SentFrame) (s : State) : s.LinkKept (fs.foldl (State.emitAgain x) s) x :=
  State.LinkKept.foldl (fun s _ => s.link_emitFrame ..) fs s

theorem State.liftPort_emitAgain (x : Side) (fs : List SentFrame) : ∀ s : State,
    ∃ b, (fs.foldl (State.emitAgain x) s).liftPort x = { s.liftPort x with nakDue := b } := by
  induction fs with
  | nil => exact fun s => ⟨_, rfl⟩
  | cons f fs ih =>
    intro s
    obtain ⟨b, hb⟩ := ih (State.emitAgain x s f)
    refine ⟨b, hb.trans ?_⟩
    rw [State.emitAgain, State.liftPort_emitFrame]

/-- The replay buffer with each frame sent once more. -/
def LiftPort.resent (p : LiftPort) : LiftPort := { p with replay := p.replay.map (fun f => { f with sends := f.sends + 1 }) }

section
variable {s : State} {x : Side} (hsends : ∀ f ∈ (s.liftPort x).replay, f.sends < s.retryMax x + 1)
include hsends

theorem State.resendFrames_eq : s.resendFrames x =
    (((s.liftPort x).replay.foldl (State.emitAgain x) s).modLiftPort x LiftPort.resent).count (pLFT x) 0x130
      (s.liftPort x).replay.length := by
  have none_spent : (s.liftPort x).replay.any (fun f => decide (s.retryMax x + 1 ≤ f.sends)) = false := by
    rw [List.any_eq_false]
    intro f hf
    have := hsends f hf
    simpa using this
  rw [State.resendFrames]
  simp only [none_spent]
  rfl

/-- A resend sends each frame once more, in sequence. -/
theorem State.liftPort_resendFrames : ∃ b, (s.resendFrames x).liftPort x = { (s.liftPort x).resent with nakDue := b } := by
  obtain ⟨b, hb⟩ := State.liftPort_emitAgain x (s.liftPort x).replay s
  refine ⟨b, ?_⟩
  rw [State.resendFrames_eq hsends, State.count_liftPort, State.liftPort_modLiftPort, if_pos rfl, hb]
  rfl

theorem State.counter_resendFrames : (s.resendFrames x).counter (pLFT x) 0x130 =
    s.counter (pLFT x) 0x130 + BitVec.ofNat 64 (s.liftPort x).replay.length := by
  rw [State.resendFrames_eq hsends, State.counter_count, if_pos ⟨rfl, rfl⟩, State.modLiftPort_counter,
    (State.link_emitAgain ..).counter _ _ (by simp)]

/-- What a resend leaves of the station: its link, its events and the state of the lift. -/
theorem State.resendFrames_kept : (s.resendFrames x).linkState x = s.linkState x ∧
    (∀ b, (s.resendFrames x).reported (pLFT x) b = s.reported (pLFT x) b) ∧
    (s.resendFrames x).lift.state = s.lift.state := by
  have kept := (State.link_emitAgain x (s.liftPort x).replay s).trans (State.link_modLiftPort _ x LiftPort.resent)
  rw [State.resendFrames_eq hsends]
  refine ⟨?_, fun b => ?_, ?_⟩
  · rw [← kept.linkState x, State.linkState, State.reg_count, State.linkState]
  · rw [← kept.reported, State.reported, State.err_count, State.reported]
  · rw [State.count_lift, kept.lift]

end

/-- The replay buffer with no frame sent yet. -/
def LiftPort.unsent (p : LiftPort) : LiftPort := { p with replay := p.replay.map (fun f => { f with sends := 0 }) }

/-! ## Link control (R245) -/

theorem FrameHdr.link_bytes (h : FrameHdr) (nak seqd : Bool) (df : BitVec 3) (a b c : BitVec 16) :
    ((h.bytes (linkBytes nak seqd df a b c)).drop 2).take 8 = linkBytes nak seqd df a b c := by
  have head : h.head.length = 2 := by simp [FrameHdr.head, length_leBytes]
  have link : (linkBytes nak seqd df a b c).length = 8 := by simp [linkBytes, length_leBytes]
  rw [FrameHdr.bytes, List.append_assoc, List.append_assoc, List.drop_left' head, List.take_left' link]

/-- The header of a link-control frame but for its link fields (R245). -/
def State.linkControlHead (s : State) (x : Side) : FrameHdr :=
  { ftype := 1, kind := 0, down := x == .down, first := false, last := false, origin := s.liftPos, id := s.liftId,
    epoch := s.lift.epoch.toNat, len := 0, mask := 0, seq := 0, rows1 := 0, index := 0, core := 0 }

theorem linkControlSend_sends {s : State} {x : Side} (hready : s.phase = .ready) (hup : s.linkUp x = true)
    (hformed : s.lift.isFormed = true) : ∃ t hdr, exec (.linkControlSend x) s = .next t ∧
      t.outbox = .linkControl x (s.liftMac x) hdr (liftPad 0) :: s.outbox ∧
      t.liftPort x = { s.liftPort x with nakDue := false } ∧ (hdr.drop 2).take 8 =
        linkBytes (s.liftPort x).nakDue false (s.liftPort x).demandFreed 0 (s.liftPort x).rxSeq (s.liftPort x).freed := by
  have hexec : exec (.linkControlSend x) s = execLinkControlSend x s := rfl
  have mac (p off : Nat) : (s.count p off 1).liftMac x = s.liftMac x := by
    simp only [State.liftMac, State.liftLen, State.liftPos, State.liftId, State.reg_count]
  rw [hexec, execLinkControlSend, if_neg (by simp [hready, hup, hformed])]
  refine ⟨_, (s.linkControlHead x).bytes _, rfl, ?_, ?_, FrameHdr.link_bytes ..⟩
  · rw [State.emit, State.linkControlHead]
    split
    · rw [mac]
      rfl
    · rfl
  · rw [State.emit_liftPort, State.liftPort_modLiftPort, if_pos rfl]
    split <;> rfl

/-! ## Retraining (R243, R265) -/

theorem retryLimit_retrains {s : State} {x : Side} (hready : s.phase = .ready) (hup : s.linkUp x = true)
    (hspent : ∃ f ∈ (s.liftPort x).replay, s.retryMax x + 1 ≤ f.sends) :
    ∃ t, exec (.retryLimit x) s = .next t ∧ t.linkState x = 3 ∧ t.reported (pLFT x) 2 = true ∧ t.liftPort x = s.liftPort x := by
  have hexec : exec (.retryLimit x) s = execRetryLimit x s := rfl
  have spent : (s.liftPort x).replay.any (fun f => decide (s.retryMax x + 1 ≤ f.sends)) = true := by simpa using hspent
  have retraining (n : Nat) : bits (word (n * 256 + 3)) 1 0 = 3 := by
    rw [bits, word, BitVec.toNat_ofNat, Nat.shiftRight_zero]
    omega
  rw [hexec, execRetryLimit, spent, if_pos (by simp [hready, hup])]
  refine ⟨_, rfl, ?_, ?_, ?_⟩
  · rw [State.linkState, State.reg_setReg, if_pos ⟨rfl, rfl⟩, retraining]
  · exact (State.errKept_setReg ..).kept _ _ (State.raised _ _ _ _ _ (pageBlk_pLFT x) (by decide))
  · rw [State.setReg_liftPort, State.liftPort, State.linkEvent, State.linkEventAt, (State.raises_raise ..).lift, State.liftPort]

section
variable (s : State) (x : Side) (b : Nat) (seq : BitVec 16)

/-- An event of a port leaves the link's registers and the lift (R266). -/
theorem State.linkState_linkEvent (y : Side) : (s.linkEvent x b).linkState y = s.linkState y := by
  have reg : (s.linkEvent x b).reg (pLFT y) 0x48 = s.reg (pLFT y) 0x48 := by
    rw [State.linkEvent, State.linkEventAt]
    by_cases h : y = x
    · subst h
      exact State.reg_raise_same _ _ _ _ _ (pageBlk_pLFT y) (pLFT_ne_pNTC y) (pLFT_ne_pFLT y)
    · rw [State.reg, State.page_raise _ _ _ _ _ (fun g => h (pLFT_inj.1 g)) (pLFT_ne_pNTC y) (pLFT_ne_pFLT y), State.reg]
  rw [State.linkState, reg, State.linkState]

theorem State.lift_linkEvent : (s.linkEvent x b).lift = s.lift := (State.raises_raise ..).lift

theorem State.reported_linkEvent (hb : b < 32) : (s.linkEvent x b).reported (pLFT x) b = true :=
  State.raised _ _ _ _ _ (pageBlk_pLFT x) hb

end

/-- The link's registers after a retraining, and its event. -/
def State.retrained (s : State) (x : Side) (lanes : BitVec 32) (state b : Nat) : State :=
  ((s.count (pLFT x) 0x148 1).setLink x lanes state).linkEvent x b

section
variable (s : State) (x : Side) (lanes : BitVec 32) (state b : Nat)

theorem State.linkState_retrained (h : state < 4) : (s.retrained x lanes state b).linkState x = state := by
  rw [State.retrained, State.linkState_linkEvent, State.linkState_setLink _ _ _ _ h, if_pos rfl]

theorem State.state_retrained : (s.retrained x lanes state b).lift.state = s.lift.state := by
  rw [State.retrained, State.lift_linkEvent, State.state_setLink, State.count_lift]

theorem State.replay_retrained : ((s.retrained x lanes state b).liftPort x).replay = (s.liftPort x).replay := by
  rw [State.retrained, State.liftPort, State.lift_linkEvent, ← State.liftPort, State.liftPort_setLink, State.count_liftPort]

theorem State.isFormed_retrained : (s.retrained x lanes state b).lift.isFormed = s.lift.isFormed := by
  simp only [Lift.isFormed, State.state_retrained]

end

section
variable {s : State} {x : Side} (hready : s.phase = .ready) (hlink : s.linkState x = 3)
include hready hlink

/-- A link that retrains on all 32 lanes sends its replay buffer again. -/
theorem linkRetrainDone_full : ∃ t, exec (.linkRetrainDone x (BitVec.allOnes 32)) s = .next t ∧ t.linkState x = 2 ∧
    t.reported (pLFT x) 1 = true ∧ t.lift.state = s.lift.state ∧
    (t.liftPort x).replay = (s.liftPort x).replay.map (fun f => { f with sends := 1 }) := by
  have hexec : exec (.linkRetrainDone x (BitVec.allOnes 32)) s =
      .next (((s.retrained x (BitVec.allOnes 32) 2 1).modLiftPort x LiftPort.unsent).resendFrames x) := by
    have hrow : exec (.linkRetrainDone x (BitVec.allOnes 32)) s = execLinkRetrainDone x (BitVec.allOnes 32) s := rfl
    rw [hrow, execLinkRetrainDone, if_neg (by simp [hready, hlink])]
    rfl
  have hlinked := s.linkState_retrained x (BitVec.allOnes 32) 2 1 (by decide)
  have hreported : (s.retrained x (BitVec.allOnes 32) 2 1).reported (pLFT x) 1 = true := State.reported_linkEvent _ x 1 (by decide)
  have hstate := s.state_retrained x (BitVec.allOnes 32) 2 1
  have hreplay := s.replay_retrained x (BitVec.allOnes 32) 2 1
  generalize s.retrained x (BitVec.allOnes 32) 2 1 = u at hexec hlinked hreported hstate hreplay
  have port : (u.modLiftPort x LiftPort.unsent).liftPort x = (u.liftPort x).unsent := by
    rw [State.liftPort_modLiftPort, if_pos rfl]
  have sends : ∀ f ∈ ((u.modLiftPort x LiftPort.unsent).liftPort x).replay,
      f.sends < (u.modLiftPort x LiftPort.unsent).retryMax x + 1 := by
    rw [port]
    intro f hf
    obtain ⟨g, -, rfl⟩ := List.mem_map.1 hf
    exact Nat.succ_pos _
  obtain ⟨hlink', hreported', hstate'⟩ := State.resendFrames_kept sends
  obtain ⟨b, hport⟩ := State.liftPort_resendFrames sends
  refine ⟨_, hexec, hlink'.trans hlinked, (hreported' 1).trans hreported, hstate'.trans hstate, ?_⟩
  rw [hport, port, LiftPort.resent, LiftPort.unsent, ← hreplay]
  simp

/-- A link that retrains on fewer lanes goes down, and the station declares a loss (R243, R256). -/
theorem linkRetrainDone_down {lanes : BitVec 32} (hlanes : lanes ≠ BitVec.allOnes 32) :
    ∃ t, exec (.linkRetrainDone x lanes) s = .next t ∧ t.linkState x = 0 ∧ t.reported (pLFT x) 0 = true ∧
      (s.lift.isFormed = true → t.liftBroken) := by
  have hexec : exec (.linkRetrainDone x lanes) s = .next ((s.retrained x lanes 0 0).declareLoss x (sideNat x)) := by
    have hrow : exec (.linkRetrainDone x lanes) s = execLinkRetrainDone x lanes s := rfl
    rw [hrow, execLinkRetrainDone, if_neg (by simp [hready, hlink])]
    exact if_neg hlanes
  have hlinked := s.linkState_retrained x lanes 0 0 (by decide)
  have hreported : (s.retrained x lanes 0 0).reported (pLFT x) 0 = true := State.reported_linkEvent _ x 0 (by decide)
  rw [hexec, ← s.isFormed_retrained x lanes 0 0]
  generalize s.retrained x lanes 0 0 = u at hlinked hreported
  refine ⟨_, rfl, ?_⟩
  cases hformed : u.lift.isFormed with
  | false =>
    have none_lost : u.declareLoss x (sideNat x) = u := if_neg (by rw [hformed]; exact Bool.false_ne_true)
    rw [none_lost]
    exact ⟨hlinked, hreported, fun h => absurd h Bool.false_ne_true⟩
  | true =>
    have page := u.page_breakLift_port u.liftPos (sideNat x) x
    have broken := u.liftBroken_breakLift u.liftPos (sideNat x)
    rw [State.declareLoss_formed hformed]
    generalize u.breakLift u.liftPos (sideNat x) = v at page broken
    rw [State.linkState, State.reg, ← page] at hlinked
    rw [State.reported, ← page] at hreported
    exact ⟨hlinked, hreported, fun _ => State.liftBroken_sendMsg broken ..⟩

end

/-- Settles O31: a resend sends each frame of the replay buffer once more; the other steps write the link's registers and report
their event. -/
theorem linkUpkeep : Obligations.LinkUpkeep := by
  intro s x hready
  refine ⟨linkControlSend_sends hready, fun hup hformed hsends => ?_, retryLimit_retrains hready, fun lanes hlink =>
    ⟨fun hlanes => hlanes ▸ linkRetrainDone_full hready hlink, linkRetrainDone_down hready hlink⟩⟩
  have hexec : exec (.ackTimeout x) s = execAckTimeout x s := rfl
  obtain ⟨b, hport⟩ := State.liftPort_resendFrames hsends
  rw [hexec, execAckTimeout, if_pos (by simp [hready, hup, hformed])]
  exact ⟨_, rfl, by rw [hport]; rfl, by rw [hport]; rfl, State.counter_resendFrames hsends⟩

end Sys2Proof.Machine
end

section
/-!
Proofs of chapter 11: the chairs that leave a station (R243, R244, R247, R248).
-/
namespace Sys2Proof.Machine

/-! ## Frames that enter the replay buffer (R243) -/

/-- From `s` to `t` port `x` has taken `n` new frames into its sequence and its replay buffer. -/
structure State.FramesLeft (s t : State) (x : Side) (n : Nat) : Prop where
  kept : s.LinkKept t x
  txSeq : (t.liftPort x).txSeq = (s.liftPort x).txSeq + BitVec.ofNat 16 n
  replay : (t.liftPort x).replay.length = (s.liftPort x).replay.length + n
  sentUsed : (t.liftPort x).sentUsed = (s.liftPort x).sentUsed

theorem State.FramesLeft.refl (s : State) (x : Side) : s.FramesLeft s x 0 := ⟨.refl s x, by simp, rfl, rfl⟩

theorem State.FramesLeft.trans {s t u : State} {x : Side} {m n : Nat} (h : s.FramesLeft t x m) (g : t.FramesLeft u x n) :
    s.FramesLeft u x (m + n) where
  kept := h.kept.trans g.kept
  txSeq := by rw [g.txSeq, h.txSeq, BitVec.add_assoc, BitVec.ofNat_add]
  replay := by rw [g.replay, h.replay, Nat.add_assoc]
  sentUsed := g.sentUsed.trans h.sentUsed

/-- A port whose sequence and replay buffer have taken a frame. -/
def LiftPort.queued (hdr : List Byte) (data : List Byte) (sends : Nat) (p : LiftPort) : LiftPort :=
  { p with txSeq := p.txSeq + 1, replay := p.replay ++ [{ seq := p.txSeq, hdr := hdr, data := data, sends := sends }] }

section
variable (s : State) (x : Side) (h : FrameHdr) (data : List Byte)

theorem State.sendFrame_eq : ∃ hdr, s.sendFrame x h data =
    (if s.linkUp x then s.emitFrame x .good hdr (s.liftPort x).txSeq data else s).modLiftPort x
      (LiftPort.queued hdr data (boolNat (s.linkUp x))) := ⟨_, rfl⟩

/-- A frame is sent into the sequence and the replay buffer, at once or after a retraining. -/
theorem State.framesLeft_sendFrame : s.FramesLeft (s.sendFrame x h data) x 1 := by
  obtain ⟨hdr, hsend⟩ := s.sendFrame_eq x h data
  have emitted : s.LinkKept (if s.linkUp x then s.emitFrame x .good hdr (s.liftPort x).txSeq data else s) x := by
    split
    · exact s.link_emitFrame ..
    · exact .refl s x
  have port : ∃ b, (if s.linkUp x then s.emitFrame x .good hdr (s.liftPort x).txSeq data else s).liftPort x =
      { s.liftPort x with nakDue := b } := by
    split
    · exact ⟨_, s.liftPort_emitFrame ..⟩
    · exact ⟨_, rfl⟩
  obtain ⟨b, hb⟩ := port
  have queued : (s.sendFrame x h data).liftPort x =
      { s.liftPort x with nakDue := b }.queued hdr data (boolNat (s.linkUp x)) := by
    rw [hsend, State.liftPort_modLiftPort, if_pos rfl, hb]
  refine ⟨?_, by rw [queued]; rfl, ?_, by rw [queued]; rfl⟩
  · rw [hsend]
    exact emitted.trans (State.link_modLiftPort ..)
  · rw [queued, LiftPort.queued, List.length_append]
    rfl

end

/-- The frames of a chair leave back to back, in the order of their index. -/
theorem State.framesLeft_foldl (x : Side) (f : State → Nat → FrameHdr) (g : Nat → List Byte) (is : List Nat) : ∀ s : State,
    s.FramesLeft (is.foldl (fun s i => s.sendFrame x (f s i) (g i)) s) x is.length := by
  induction is with
  | nil => exact fun s => .refl s x
  | cons i is ih =>
    intro s
    rw [List.length_cons, Nat.add_comm]
    exact (s.framesLeft_sendFrame ..).trans (ih _)

/-- A whole chair has left port `x`: its entries are in use at the neighbour, its frames in sequence and in the replay buffer. -/
structure State.ChairLeft (s t : State) (x : Side) (n : Nat) : Prop where
  kept : s.LinkKept t x
  txSeq : (t.liftPort x).txSeq = (s.liftPort x).txSeq + BitVec.ofNat 16 n
  replay : (t.liftPort x).replay.length = (s.liftPort x).replay.length + n
  sentUsed : (t.liftPort x).sentUsed = (s.liftPort x).sentUsed + n

theorem State.chairLeft_sendChair (s : State) (x : Side) (c : Chair) : s.ChairLeft (s.sendChair x c) x (chairSize c) := by
  have left := State.framesLeft_foldl x (fun s i => s.chairHead c.hdr i) (fun i => rowBytes ((c.rows.drop (16 * i)).take 16))
    (List.range (chairSize c)) s
  rw [List.length_range] at left
  unfold State.sendChair
  simp only []
  generalize (List.range (chairSize c)).foldl _ s = u at left
  obtain ⟨kept, htx, hreplay, hused⟩ := left
  have port : (u.modLiftPort x (fun p => { p with sentUsed := p.sentUsed + chairSize c })).liftPort x =
      { u.liftPort x with sentUsed := (u.liftPort x).sentUsed + chairSize c } := by
    rw [State.liftPort_modLiftPort, if_pos rfl]
  refine ⟨kept.trans (State.link_modLiftPort ..), ?_, ?_, ?_⟩ <;> rw [port]
  · exact htx
  · exact hreplay
  · rw [hused]

/-! ## Turns of the egress (R248) -/

section
variable (l : Lift) (d : Dir) (k : Nat)

theorem setTurn_held : (setTurn l d k).held = l.held := by cases d <;> rfl
theorem setTurn_ownQ : (setTurn l d k).ownQ = l.ownQ := by cases d <;> rfl
theorem setTurn_port : (setTurn l d k).port = l.port := by cases d <;> rfl

end

theorem State.lift_modLift (s : State) (f : Lift → Lift) : (s.modLift f).lift = f s.lift := rfl

/-- A change of the lift that keeps its ports keeps each port. -/
theorem State.liftPort_modLift {s : State} {f : Lift → Lift} (h : (f s.lift).port = s.lift.port) (y : Side) :
    (s.modLift f).liftPort y = s.liftPort y := congrArg (fun m => m.get liftPortDefault (sideNat y)) h

/-! ## What a chair leaves when it is done (R244) -/

/-- From `s` to `t` entries of the ports have been freed, and nothing else has changed. -/
structure State.EntriesFreed (s t : State) : Prop where
  frame : t = { s with lift := { s.lift with port := t.lift.port } }
  port : ∀ y, t.liftPort y = { s.liftPort y with rxUsed := (t.liftPort y).rxUsed, freed := (t.liftPort y).freed }

theorem State.EntriesFreed.refl (s : State) : s.EntriesFreed s := ⟨rfl, fun _ => rfl⟩

theorem State.EntriesFreed.trans {s t u : State} (h : s.EntriesFreed t) (g : t.EntriesFreed u) : s.EntriesFreed u where
  frame := by rw [g.frame, h.frame]
  port y := by rw [g.port, h.port]

theorem State.freed_freeEntries (s : State) (x : Side) (k : Nat) : s.EntriesFreed (s.freeEntries x k) where
  frame := rfl
  port y := by
    rw [State.freeEntries, State.liftPort_modLiftPort]
    split
    · next h => rw [h]
    · rfl

/-- The entries of a chair that is done are freed. -/
def State.freeHeld (s : State) (h : Held) : State :=
  match h.side with
  | some x => s.freeEntries x (chairSize h.chair)
  | none => s

theorem State.freed_freeHeld (hs : List Held) : ∀ s : State, s.EntriesFreed (hs.foldl State.freeHeld s) := by
  induction hs with
  | nil => exact .refl
  | cons h hs ih =>
    intro s
    refine State.EntriesFreed.trans ?_ (ih _)
    unfold State.freeHeld
    split
    · exact s.freed_freeEntries ..
    · exact .refl s

/-- Does a chair that the station holds still have something left to do? -/
def Held.undone (h : Held) : Bool := !(h.left == 0 && !h.waiting)

theorem State.settleHeld_eq (s : State) : s.settleHeld = ((s.lift.held.filter (fun h => h.left == 0 && !h.waiting)).foldl
    State.freeHeld s).modLift (fun l => { l with held := l.held.filter Held.undone }) := rfl

section
variable (s : State)

theorem State.held_settleHeld : s.settleHeld.lift.held = s.lift.held.filter Held.undone := by
  have freed := State.freed_freeHeld (s.lift.held.filter (fun h => h.left == 0 && !h.waiting)) s
  rw [State.settleHeld_eq, State.modLift, freed.frame]

theorem State.liftPort_settleHeld (y : Side) : ∃ r f, s.settleHeld.liftPort y = { s.liftPort y with rxUsed := r, freed := f } :=
  ⟨_, _, (State.freed_freeHeld (s.lift.held.filter (fun h => h.left == 0 && !h.waiting)) s).port y⟩

theorem State.core_settleHeld (k : Nat) : s.settleHeld.core k = s.core k := by
  have freed := State.freed_freeHeld (s.lift.held.filter (fun h => h.left == 0 && !h.waiting)) s
  rw [State.settleHeld_eq, State.modLift_core, freed.frame]
  rfl

theorem State.page_settleHeld (p : Nat) : s.settleHeld.page p = s.page p := by
  have freed := State.freed_freeHeld (s.lift.held.filter (fun h => h.left == 0 && !h.waiting)) s
  rw [State.settleHeld_eq, State.modLift_page, freed.frame]
  rfl

theorem State.counter_settleHeld (p o : Nat) : s.settleHeld.counter p o = s.counter p o := by
  have freed := State.freed_freeHeld (s.lift.held.filter (fun h => h.left == 0 && !h.waiting)) s
  rw [State.settleHeld_eq, State.modLift_counter, freed.frame]
  rfl

end

/-- A chair that changes is no longer held as it was. -/
theorem not_mem_map_replace {hs : List Held} {h : Held} {f : Held → Held} (hf : f h ≠ h) :
    h ∉ hs.map (fun a => if a = h then f a else a) := by
  intro hmem
  obtain ⟨a, -, ha⟩ := List.mem_map.1 hmem
  split at ha
  · next e => exact hf (e ▸ ha)
  · next hne => exact hne ha

/-! ## CHAIR_SEND (R247, R248) -/

theorem State.sendDemands_nil {s : State} (h : s.lift.demands = []) (fuel : Nat) : State.sendDemands fuel s = s := by
  cases fuel with
  | zero => rfl
  | succ fuel => rw [State.sendDemands, h]

section
variable {s : State} {d : Dir} (hready : s.phase = .ready) (hformed : s.lift.isFormed = true) (hup : s.linkUp (dirSide d) = true)
  (hdemands : d = .uphill → s.lift.demands = []) (hthrough : (s.liftPort (dirSide d)).through = none)
include hready hformed hup hdemands hthrough

/-- With no demand chair to go first, the next chair leaves unless it waits. -/
theorem exec_chairSend : exec (.chairSend d) s = .next (if (s.sendWait d).isSome then s else match s.nextChair d with
    | some (.own o c) => s.sendOwn d o c
    | some (.forward h) => s.sendHeld d h
    | none => s) := by
  have hexec : exec (.chairSend d) s = execChairSend d s := rfl
  have undemanded : (if d == .uphill then State.sendDemands 8 s else s) = s := by
    split
    · next h => exact State.sendDemands_nil (hdemands (eq_of_beq h)) 8
    · rfl
  rw [hexec, execChairSend, if_neg (by simp [hready, hformed, hup]), undemanded]
  simp only [hthrough, Option.isSome_none, Bool.false_or]
  split
  · rfl
  · cases s.nextChair d with
    | none => rfl
    | some c => cases c <;> rfl

omit hdemands in
theorem State.sendWait_eq {c : NextChair} (hnext : s.nextChair d = some c) : s.sendWait d =
    (if !s.credit (dirSide d) c.frames then some .credit else if !s.replayRoom (dirSide d) c.frames then some .replay else none) := by
  rw [State.sendWait]
  simp only [hnext]
  exact if_neg (by simp [hready, hformed, hup, hthrough])

/-- Without credit or replay room the next chair waits. -/
theorem chairSend_waits {c : NextChair} (hnext : s.nextChair d = some c)
    (hroom : s.credit (dirSide d) c.frames = false ∨ s.replayRoom (dirSide d) c.frames = false) : exec (.chairSend d) s = .next s := by
  have waits : (s.sendWait d).isSome = true := by
    rw [State.sendWait_eq hready hformed hup hthrough hnext]
    rcases hroom with h | h
    · simp [h]
    · cases s.credit (dirSide d) c.frames <;> simp [h]
  rw [exec_chairSend hready hformed hup hdemands hthrough, if_pos waits]

theorem exec_chairSend_room {c : NextChair} (hnext : s.nextChair d = some c) (hcredit : s.credit (dirSide d) c.frames = true)
    (hroom : s.replayRoom (dirSide d) c.frames = true) : exec (.chairSend d) s = .next (match c with
      | .own o c => s.sendOwn d o c
      | .forward h => s.sendHeld d h) := by
  have goes : s.sendWait d = none := by
    rw [State.sendWait_eq hready hformed hup hthrough hnext]
    simp [hcredit, hroom]
  rw [exec_chairSend hready hformed hup hdemands hthrough, if_neg (by simp [goes])]
  simp only [hnext]
  cases c <;> rfl

end

/-! ## The chairs that leave -/

/-- A chair of the station, held for its own cores. -/
def heldOwn (c : Chair) : Held :=
  { chair := c, side := none, left := c.hdr.mask, waiting := false, stale := 0, bad := false, grad := none }

/-- An own chair whose cores can all take it leaves and is held for them (R20, R247). -/
theorem State.sendOwn_lands {s : State} (d : Dir) (o : OwnChair) {c : Chair} (hkind : c.hdr.kind.val ≠ 1)
    (hpres : s.unpresented c.hdr.mask = none) (hreg : s.regionless c.hdr.mask = none) : s.sendOwn d o c =
      ((((s.modLift (fun l => { l with ownQ := s.ownLive.erase o })).sendChair (dirSide d) c).modLift
        (fun l => setTurn l d (((s.modLift (fun l => { l with ownQ := s.ownLive.erase o })).sendChair (dirSide d) c).liftLen - 2))).modLift
          (fun l => { l with held := l.held ++ [heldOwn c] })).count pLFC 0x100 1 := by
  have lands : (c.hdr.kind.val != 1) = true := by simpa using hkind
  have hpres' : (s.modLift (fun l => { l with ownQ := s.ownLive.erase o })).unpresented c.hdr.mask = none := hpres
  have hreg' : (s.modLift (fun l => { l with ownQ := s.ownLive.erase o })).regionless c.hdr.mask = none := hreg
  unfold State.sendOwn
  simp only [lands, if_true, hpres', hreg', if_neg hkind]
  rfl

theorem sendOwn_leaves {s : State} {d : Dir} (o : OwnChair) {c : Chair} (hkind : c.hdr.kind.val ≠ 1)
    (hpres : s.unpresented c.hdr.mask = none) (hreg : s.regionless c.hdr.mask = none) :
    ((s.sendOwn d o c).liftPort (dirSide d)).sentUsed = (s.liftPort (dirSide d)).sentUsed + chairSize c ∧
    ((s.sendOwn d o c).liftPort (dirSide d)).txSeq = (s.liftPort (dirSide d)).txSeq + BitVec.ofNat 16 (chairSize c) ∧
    ((s.sendOwn d o c).liftPort (dirSide d)).replay.length = (s.liftPort (dirSide d)).replay.length + chairSize c ∧
    (s.sendOwn d o c).lift.ownQ = s.ownLive.erase o ∧ (s.sendOwn d o c).lift.held = s.lift.held ++ [heldOwn c] ∧
    (s.sendOwn d o c).counter pLFC 0x100 = s.counter pLFC 0x100 + 1 ∧ ∀ k, (s.sendOwn d o c).core k = s.core k := by
  have left := (s.modLift (fun l => { l with ownQ := s.ownLive.erase o })).chairLeft_sendChair (dirSide d) c
  rw [s.sendOwn_lands d o hkind hpres hreg]
  generalize (s.modLift (fun l => { l with ownQ := s.ownLive.erase o })).sendChair (dirSide d) c = u at left
  obtain ⟨kept, htx, hreplay, hused⟩ := left
  have port (y : Side) : ((((u.modLift (fun l => setTurn l d (u.liftLen - 2))).modLift
      (fun l => { l with held := l.held ++ [heldOwn c] })).count pLFC 0x100 1).liftPort y) = u.liftPort y := by
    rw [State.count_liftPort, State.liftPort_modLift rfl, State.liftPort_modLift (setTurn_port ..)]
  refine ⟨?_, ?_, ?_, ?_, ?_, ?_, kept.core⟩
  · rw [port, hused]
    rfl
  · rw [port, htx]
    rfl
  · rw [port, hreplay]
    rfl
  · rw [State.count_lift, State.lift_modLift, State.lift_modLift, setTurn_ownQ, kept.lift]
    rfl
  · rw [State.count_lift, State.lift_modLift, State.lift_modLift, setTurn_held, kept.lift]
    rfl
  · rw [State.counter_count, if_pos ⟨rfl, rfl⟩, State.modLift_counter, State.modLift_counter,
      kept.counter _ _ (fun h => pLFC_ne_pLFT _ h.1), State.modLift_counter]
    rfl

theorem forwardReady_waiting {s : State} {d : Dir} {h : Held} (hready : s.forwardReady d = some h) : h.waiting = true := by
  have found := List.find?_some (p := fun h : Held => h.waiting && h.chair.hdr.dir == d) hready
  exact (Bool.and_eq_true_iff.1 found).1

/-- A forwarded chair that leaves (R248). -/
def Held.forwarded (h : Held) : Held := { h with waiting := false }

theorem State.sendHeld_eq (s : State) (d : Dir) (h : Held) : s.sendHeld d h =
    (((s.sendChair (dirSide d) h.chair).modLift (fun l => setTurn
      { l with held := l.held.map (fun g => if g = h then g.forwarded else g) } d (turnOf l d - 1))).count pLFC 0x110 1).settleHeld := rfl

theorem sendHeld_leaves {s : State} {d : Dir} {h : Held} (hwaiting : h.waiting = true) :
    ((s.sendHeld d h).liftPort (dirSide d)).sentUsed = (s.liftPort (dirSide d)).sentUsed + chairSize h.chair ∧
    ((s.sendHeld d h).liftPort (dirSide d)).replay.length = (s.liftPort (dirSide d)).replay.length + chairSize h.chair ∧
    h ∉ (s.sendHeld d h).lift.held ∧ (s.sendHeld d h).counter pLFC 0x110 = s.counter pLFC 0x110 + 1 ∧
    ∀ k, (s.sendHeld d h).core k = s.core k := by
  have left := s.chairLeft_sendChair (dirSide d) h.chair
  rw [State.sendHeld_eq]
  generalize s.sendChair (dirSide d) h.chair = u at left
  obtain ⟨kept, -, hreplay, hused⟩ := left
  generalize hv : (u.modLift (fun l => setTurn { l with held := l.held.map (fun g => if g = h then g.forwarded else g) } d
    (turnOf l d - 1))).count pLFC 0x110 1 = v
  have port : v.liftPort (dirSide d) = u.liftPort (dirSide d) := by
    rw [← hv]
    rw [State.count_liftPort, State.liftPort_modLift (setTurn_port ..)]
  have held : v.lift.held = s.lift.held.map (fun g => if g = h then g.forwarded else g) := by
    rw [← hv]
    rw [State.count_lift, State.lift_modLift, setTurn_held, kept.lift]
  have counter : v.counter pLFC 0x110 = s.counter pLFC 0x110 + 1 := by
    rw [← hv, State.counter_count, if_pos ⟨rfl, rfl⟩, State.modLift_counter, kept.counter _ _ (fun h => pLFC_ne_pLFT _ h.1)]
    rfl
  have core (k : Nat) : v.core k = s.core k := by
    rw [← hv]
    exact kept.core k
  obtain ⟨r, f, settled⟩ := v.liftPort_settleHeld (dirSide d)
  have changed : h.forwarded ≠ h := fun e => by simpa [Held.forwarded, hwaiting] using congrArg Held.waiting e
  refine ⟨?_, ?_, ?_, ?_, fun k => ?_⟩
  · rw [settled, port, hused]
  · rw [settled, port, hreplay]
  · rw [State.held_settleHeld, held]
    exact fun hmem => not_mem_map_replace (f := Held.forwarded) changed (List.mem_filter.1 hmem).1
  · rw [State.counter_settleHeld, counter]
  · rw [State.core_settleHeld, core]

/-! ## CHAIR_SEND settled -/

/-- Settles O29: the egress sends the chair whose turn it is with `sendOwn_leaves` or `sendHeld_leaves`, and keeps it back without
credit or replay room. -/
theorem chairsLeave : Obligations.ChairsLeave := by
  unfold Obligations.ChairsLeave
  intro s d hready hformed hup hdemands hthrough
  refine ⟨fun o c hown hforward hkind hpres hreg hcredit hroom => ?_, fun h hown hforward hcredit hroom => ?_,
    fun c hnext hroom => chairSend_waits hready hformed hup hdemands hthrough hnext hroom⟩
  · have next : s.nextChair d = some (.own o c) := by simp only [State.nextChair, hown, hforward]
    exact ⟨s.sendOwn d o c, exec_chairSend_room hready hformed hup hdemands hthrough next hcredit hroom,
      sendOwn_leaves o hkind hpres hreg⟩
  · have next : s.nextChair d = some (.forward h) := by simp only [State.nextChair, hown, hforward]
    have waiting := forwardReady_waiting hforward
    exact ⟨s.sendHeld d h, exec_chairSend_room hready hformed hup hdemands hthrough next hcredit hroom, sendHeld_leaves waiting⟩

end Sys2Proof.Machine
end

section
/-!
Proofs of chapter 11: the chairs that land in their slots (R250, R251).
-/
namespace Sys2Proof.Machine

/-! ## Slots of a circular region (R136) -/

theorem Circ.slot_setSlot (c : Circ) (i : Nat) (x : Slot) : (c.setSlot i x).slot i = x := by
  rw [Circ.slot, Circ.setSlot, SMap.get_set_same]

theorem Spm.circ_setCirc (m : Spm) (r : Nat) (c : Circ) : (m.setCirc r c).circ r = c := SMap.get_set_same ..

theorem Circ.slot_mark (c : Circ) (b : Bool) (q : Word) :
    (c.mark b q).slot (c.index q) = { c.slot (c.index q) with failed := b } := c.slot_setSlot ..

theorem Circ.index_mark (c : Circ) (b : Bool) (q : Word) : (c.mark b q).index q = c.index q := rfl

theorem Circ.slot_put (c : Circ) (q : Word) : (c.put q).slot (c.index q) = { c.slot (c.index q) with full := true } :=
  c.slot_setSlot ..

theorem Circ.index_put (c : Circ) (q : Word) : (c.put q).index q = c.index q := rfl

/-- An item put into the slot that expects it fills the slot. -/
theorem Circ.isFull_put_mark {c : Circ} {q : Word} (h : c.canPut q = true) : ((c.mark false q).put q).isFull q = true := by
  obtain ⟨-, expected⟩ := Bool.and_eq_true_iff.1 h
  have slot : ((c.mark false q).put q).slot (((c.mark false q).put q).index q) =
      { c.slot (c.index q) with full := true, failed := false } := by
    rw [Circ.index_put, Circ.slot_put, Circ.index_mark, Circ.slot_mark]
  simp only [Circ.isFull, slot, expected]
  rfl

/-- The slot of a copy that failed its check is marked. -/
theorem Circ.isFailed_mark {c : Circ} {q : Word} (h : c.canPut q = true) : (c.mark true q).isFailed q = true := by
  rw [Circ.canPut] at h
  simpa only [Circ.isFailed, Circ.index_mark, Circ.slot_mark, Bool.and_true] using h

/-! ## Rows written to a slot -/

/-- Rows written to a run of row numbers. -/
theorem Spm.row_writeRows_run (m : Spm) (a : Nat) {k : Nat} {rs : List Row} (hk : k ≤ rs.length) {i : Nat} (hi : i < k) :
    (m.writeRows ((List.range k).map (fun j => a + j)) rs).row (a + i) = rs.getD i 0 := by
  have nodup : ((List.range k).map (fun j => a + j)).Nodup := List.nodup_range.map fun _ _ h => Nat.add_left_cancel h
  have mem : (a + i, rs.getD i 0) ∈ ((List.range k).map (fun j => a + j)).zip rs := by
    refine List.mem_iff_getElem.2 ⟨i, by simp; omega, ?_⟩
    rw [List.getElem_zip, List.getElem_map, List.getElem_range, List.getD_eq_getElem _ _ (hi.trans_le hk)]
  rw [Spm.row, Spm.rows_writeRows]
  exact SMap.get_foldl_set_of_mem (fun _ => 0) _ (e := (a + i, rs.getD i 0)) m.rows
    (by rwa [List.map_fst_zip (by simpa using hk)]) mem

theorem Spm.row_writeRows_off_run (m : Spm) (a k : Nat) (rs : List Row) {r : Nat} (h : r < a ∨ a + k ≤ r) :
    (m.writeRows ((List.range k).map (fun j => a + j)) rs).row r = m.row r := by
  refine m.row_writeRows_of_not_mem rs fun hr => ?_
  obtain ⟨j, hj, rfl⟩ := List.mem_map.1 hr
  have := List.mem_range.1 hj
  omega

/-! ## A copy that lands (R250) -/

/-- The rows of the slot of region 0 that a chair fills. -/
def Spm.landing (m : Spm) (c : Chair) : List Nat :=
  (List.range (min c.rows.length (circSlotRows (m.circ 0).cfg))).map (fun i => circRow (m.circ 0).cfg c.hdr.seq.toNat + i)

/-- The scratchpad once a chair has landed on the rows `dest`, in its slot of region 0. -/
def Spm.landed (dest : List Nat) (c : Chair) (m : Spm) : Spm :=
  ((m.writeRows dest c.rows).setCirc 0 ((m.circ 0).mark false c.hdr.seq)).putSlots 0 [c.hdr.seq]

section
variable (m : Spm) (c : Chair)

theorem Spm.circ_landed (dest : List Nat) : (m.landed dest c).circ 0 = ((m.circ 0).mark false c.hdr.seq).put c.hdr.seq := by
  rw [Spm.landed, Spm.putSlots, Spm.circ_setCirc, Spm.circ_setCirc]
  rfl

theorem Spm.row_landed {i : Nat} (hi : i < min c.rows.length (circSlotRows (m.circ 0).cfg)) :
    (m.landed (m.landing c) c).row (circRow (m.circ 0).cfg c.hdr.seq.toNat + i) = c.rows.getD i 0 :=
  m.row_writeRows_run _ (Nat.min_le_left ..) hi

theorem Spm.row_landed_off {r : Nat} (hr : r < circRow (m.circ 0).cfg c.hdr.seq.toNat ∨
    circRow (m.circ 0).cfg c.hdr.seq.toNat + min c.rows.length (circSlotRows (m.circ 0).cfg) ≤ r) :
    (m.landed (m.landing c) c).row r = m.row r := m.row_writeRows_off_run _ _ _ hr

end

/-- A chair that the station holds becomes `g`. -/
def State.replaceHeld (s : State) (h g : Held) : State :=
  s.modLift (fun l => { l with held := l.held.map (fun a => if a = h then g else a) })

theorem corePage_ne_pLFC (n : CoreId) (k : Nat) : corePage n.val k ≠ pLFC := by
  simp only [corePage, pLFC]
  omega

/-- The copy to core `n` has been made. -/
def Held.landed (h : Held) (n : CoreId) : Held := { h with left := h.left &&& ~~~(1#64 <<< n.val) }

/-- The copy to core `n` is no longer under way to an old pcore. -/
def Held.unstaled (h : Held) (n : CoreId) : Held := { h with stale := h.stale &&& ~~~(1#64 <<< n.val) }

theorem Held.landed_ne {h : Held} {n : CoreId} (hleft : bit h.left n.val = true) : h.landed n ≠ h := by
  intro e
  have cleared : bit (h.landed n).left n.val = false := by
    have hn : n.val < 64 := n.isLt
    simp [Held.landed, bit, hn]
  rw [e, hleft] at cleared
  cases cleared

theorem State.spm_markStage (s : State) (n k id : Nat) (st : Stage) : ((s.markStage k id st).core n).spm = (s.core n).spm := by
  rw [State.markStage, State.core_modCore]
  split
  · next h => rw [h]; rfl
  · rfl

/-- The GRAD command whose chair lands is over. -/
def State.gradDone (s : State) (h : Held) : State :=
  match h.grad with
  | some (k, id) => s.markStage k id .performed
  | none => s

theorem State.gradDone_some {s : State} {h : Held} {k id : Nat} (hgrad : h.grad = some (k, id)) :
    s.gradDone h = s.markStage k id .performed := by
  simp only [State.gradDone, hgrad]

theorem State.gradDone_none {s : State} {h : Held} (hgrad : h.grad = none) : s.gradDone h = s := by
  simp only [State.gradDone, hgrad]

section
variable (s : State) (h : Held)

theorem State.lift_gradDone : (s.gradDone h).lift = s.lift := by
  unfold State.gradDone
  split <;> rfl

theorem State.counter_gradDone (p o : Nat) : (s.gradDone h).counter p o = s.counter p o := by
  unfold State.gradDone
  split <;> rfl

theorem State.spm_gradDone (n : Nat) : ((s.gradDone h).core n).spm = (s.core n).spm := by
  unfold State.gradDone
  split
  · exact s.spm_markStage ..
  · rfl

end

/-- The copy of a chair fails its check at the core (R251). -/
def State.landFails (s : State) (n : CoreId) (h : Held) : State :=
  (s.modSpm n.val (fun m => m.setCirc 0 ((m.circ 0).mark true h.chair.hdr.seq))).raise pLFC 3
    (lfcInfo 0 3 n.val h.chair.hdr.origin) h.chair.hdr.seq

/-- The copy of a chair has landed at the core (R250). -/
def State.chairLanded (s : State) (n : CoreId) (h : Held) : State :=
  (((s.modSpm n.val (Spm.landed ((s.core n.val).spm.landing h.chair) h.chair)).count (corePage n.val kSPM) 0x108
    ((s.core n.val).spm.landing h.chair).length).count pLFC 0x108 1).replaceHeld h (h.landed n)

section
variable {s : State} {n : CoreId} {h : Held} (hready : s.phase = .ready) (hhost : (s.hostOf n.val).isSome = true)
  (hland : s.lift.held.find? (s.landable n.val) = some h)

include hland in
/-- The slot of a copy that can land expects it, and the core still lacks the copy. -/
theorem landable_found : bit h.left n.val = true ∧ ((s.core n.val).spm.circ 0).canPut h.chair.hdr.seq = true := by
  have found := List.find?_some hland
  simp only [State.landable, Spm.slotOpen, Bool.and_eq_true] at found
  exact ⟨found.1.1, found.2.1⟩

include hready hhost hland

theorem exec_chairLand (ok : Bool) : exec (.chairLand n ok) s = .next (
    if bit h.stale n.val then ((s.replaceHeld h (h.unstaled n)).count pLFC 0x140 1).count pLFC 0x148 1
    else if !ok || h.bad then
      (if h.bad then s.landFails n h else (s.landFails n h).count pLFC 0x148 1)
    else ((s.chairLanded n h).gradDone h).settleHeld) := by
  have hexec : exec (.chairLand n ok) s = execChairLand n ok s := rfl
  rw [hexec, execChairLand, if_neg (by simp [hready, Option.isNone_eq_false_iff.2 hhost])]
  simp only [hland]
  split
  · rfl
  · split
    · rfl
    · split
      · next hgrad => rw [State.gradDone_some hgrad]; rfl
      · next hgrad => rw [State.gradDone_none hgrad]; rfl

/-- The copy that a core can take fills its slot (R250). -/
theorem chairLand_lands (hstale : bit h.stale n.val = false) (hbad : h.bad = false) : ∃ t, exec (.chairLand n true) s = .next t ∧
    (t.core n.val).spm = (s.core n.val).spm.landed ((s.core n.val).spm.landing h.chair) h.chair ∧
    t.counter pLFC 0x108 = s.counter pLFC 0x108 + 1 ∧ h ∉ t.lift.held := by
  obtain ⟨left, -⟩ := landable_found hland
  refine ⟨((s.chairLanded n h).gradDone h).settleHeld, ?_, ?_, ?_, ?_⟩
  · rw [exec_chairLand hready hhost hland, hstale, hbad]
    rfl
  · rw [State.core_settleHeld, State.spm_gradDone]
    exact congrArg Core.spm (State.core_modSpm_same ..)
  · rw [State.counter_settleHeld, State.counter_gradDone, State.chairLanded, State.replaceHeld, State.modLift_counter,
      State.counter_count, if_pos ⟨rfl, rfl⟩, State.counter_count, if_neg (fun e => corePage_ne_pLFC n kSPM e.1.symm),
      State.modSpm_counter]
    rfl
  · rw [State.held_settleHeld, State.lift_gradDone]
    exact fun hmem => not_mem_map_replace (f := fun _ => h.landed n) (Held.landed_ne left) (List.mem_filter.1 hmem).1

/-- A copy whose check fails, or whose chair the station discarded, marks its slot failed (R18, R251). -/
theorem chairLand_fails (hstale : bit h.stale n.val = false) {ok : Bool} (hfails : ok = false ∨ h.bad = true) :
    ∃ t, exec (.chairLand n ok) s = .next t ∧ ((t.core n.val).spm.circ 0).isFailed h.chair.hdr.seq = true ∧
      (t.core n.val).spm.rows = (s.core n.val).spm.rows ∧ t.lift.held = s.lift.held ∧ t.reported pLFC 3 = true ∧
      t.counter pLFC 0x148 = s.counter pLFC 0x148 + (if h.bad then 0 else 1) := by
  obtain ⟨-, canPut⟩ := landable_found hland
  have fails : (!ok || h.bad) = true := by rcases hfails with e | e <;> simp [e]
  have raises : (s.modSpm n.val (fun m => m.setCirc 0 ((m.circ 0).mark true h.chair.hdr.seq))).Raises (s.landFails n h) :=
    State.raises_raise ..
  have spm : ((s.landFails n h).core n.val).spm =
      (s.core n.val).spm.setCirc 0 (((s.core n.val).spm.circ 0).mark true h.chair.hdr.seq) := by
    rw [raises.core, State.core_modSpm_same]
  have lift : (s.landFails n h).lift = s.lift := raises.lift
  have reported : (s.landFails n h).reported pLFC 3 = true := State.raised _ _ _ _ _ pageBlk_pLFC (by decide)
  have counter : (s.landFails n h).counter pLFC 0x148 = s.counter pLFC 0x148 :=
    State.counter_raise_same _ _ _ _ _ pageBlk_pLFC (by decide) (by decide)
  refine ⟨if h.bad then s.landFails n h else (s.landFails n h).count pLFC 0x148 1, ?_, ?_⟩
  · rw [exec_chairLand hready hhost hland, hstale, fails]
    rfl
  cases hb : h.bad with
  | true =>
    simp only [if_true]
    refine ⟨?_, ?_, by rw [lift], reported, by rw [counter]; exact (BitVec.add_zero _).symm⟩
    · rw [spm, Spm.circ_setCirc]
      exact Circ.isFailed_mark canPut
    · rw [spm]
      rfl
  | false =>
    simp only [Bool.false_eq_true, if_false]
    refine ⟨?_, ?_, ?_, ?_, ?_⟩
    · rw [State.count_core, spm, Spm.circ_setCirc]
      exact Circ.isFailed_mark canPut
    · rw [State.count_core, spm]
      rfl
    · rw [State.count_lift, lift]
    · rw [State.reported, State.err_count]
      exact reported
    · rw [State.counter_count, if_pos ⟨rfl, rfl⟩, counter]
      rfl

/-- A copy under way to an old pcore is discarded, and written again (R251). -/
theorem chairLand_stale (hstale : bit h.stale n.val = true) (ok : Bool) : exec (.chairLand n ok) s = .next
    (((s.replaceHeld h (h.unstaled n)).count pLFC 0x140 1).count pLFC 0x148 1) := by
  rw [exec_chairLand hready hhost hland, if_pos hstale]

end

/-- Settles O30: a copy that the core can take lands with `chairLand_lands`, fails with `chairLand_fails` or is discarded with
`chairLand_stale`. That a copy of a chair with a bad mask meets a failed slot at its turn (`h.bad`; the chair is discarded by R18) is
entry 49 of the assumption log, and the model's. -/
theorem chairsLand : Obligations.ChairsLand := by
  unfold Obligations.ChairsLand
  intro s n h hready hhost hland
  refine ⟨fun hstale hbad => ?_, fun hstale ok hfails => chairLand_fails hready hhost hland hstale hfails,
    fun hstale ok => ⟨_, chairLand_stale hready hhost hland hstale ok, rfl, rfl, ?_, ?_⟩⟩
  · obtain ⟨t, ht, hspm, hcount, hheld⟩ := chairLand_lands hready hhost hland hstale hbad
    refine ⟨t, ht, ?_, fun i hi => ?_, fun r hr => ?_, hcount, hheld⟩
    · rw [hspm, Spm.circ_landed]
      exact Circ.isFull_put_mark (landable_found hland).2
    · rw [hspm]
      exact Spm.row_landed _ _ hi
    · rw [hspm]
      exact Spm.row_landed_off _ _ hr
  · rw [State.counter_count, if_neg (by decide), State.counter_count, if_pos ⟨rfl, rfl⟩]
    rfl
  · rw [State.counter_count, if_pos ⟨rfl, rfl⟩, State.counter_count, if_neg (by decide)]
    rfl

end Sys2Proof.Machine
end

section
/-!
Proofs of chapter 11: which frames a port accepts, and what every frame leaves of the sequence that a port expects (R241, R243).
-/
namespace Sys2Proof.Machine

/-! ## The sequence that a port expects (R243) -/

/-- From `s` to `t` each port expects the same frame and has answered, or not answered, the same gap. -/
structure State.SeqKept (s t : State) : Prop where
  rxSeq : ∀ y, (t.liftPort y).rxSeq = (s.liftPort y).rxSeq
  nakSent : ∀ y, (t.liftPort y).nakSent = (s.liftPort y).nakSent

theorem State.SeqKept.refl (s : State) : s.SeqKept s := ⟨fun _ => rfl, fun _ => rfl⟩

theorem State.SeqKept.trans {s t u : State} (h : s.SeqKept t) (g : t.SeqKept u) : s.SeqKept u :=
  ⟨fun y => (g.rxSeq y).trans (h.rxSeq y), fun y => (g.nakSent y).trans (h.nakSent y)⟩

theorem State.SeqKept.foldl {α : Type} {f : State → α → State} (hf : ∀ (s : State) a, s.SeqKept (f s a)) (l : List α) :
    ∀ s : State, s.SeqKept (l.foldl f s) := by
  induction l with
  | nil => exact .refl
  | cons a l ih => exact fun s => (hf s a).trans (ih _)

theorem State.seq_of_port {s t : State} (h : t.lift.port = s.lift.port) : s.SeqKept t := by
  have port (y : Side) : t.liftPort y = s.liftPort y := congrArg (fun m => m.get liftPortDefault (sideNat y)) h
  exact ⟨fun y => by rw [port], fun y => by rw [port]⟩

theorem State.seq_of_lift {s t : State} (h : t.lift = s.lift) : s.SeqKept t := State.seq_of_port (by rw [h])

theorem State.StationKept.seqKept {s t : State} (h : s.StationKept t) : s.SeqKept t := State.seq_of_lift h.lift

section
variable {s t : State} (h : s.SeqKept t)
include h

theorem State.SeqKept.count {p o k : Nat} : s.SeqKept (t.count p o k) := h.trans (State.seq_of_lift rfl)

theorem State.SeqKept.raise {p b : Nat} {i j : Word} : s.SeqKept (t.raise p b i j) :=
  h.trans (State.seq_of_lift (State.raises_raise ..).lift)

theorem State.SeqKept.modLift {f : Lift → Lift} (hport : ∀ l, (f l).port = l.port := by exact fun _ => rfl) :
    s.SeqKept (t.modLift f) :=
  h.trans (State.seq_of_port (hport _))

theorem State.SeqKept.modLiftPort (x : Side) {f : LiftPort → LiftPort}
    (hseq : ∀ p, (f p).rxSeq = p.rxSeq := by exact fun _ => rfl) (hnak : ∀ p, (f p).nakSent = p.nakSent := by exact fun _ => rfl) :
    s.SeqKept (t.modLiftPort x f) := by
  refine h.trans ⟨fun y => ?_, fun y => ?_⟩
  all_goals
    rw [State.liftPort_modLiftPort]
    split
  · next hy => rw [hy, hseq]
  · rfl
  · next hy => rw [hy, hnak]
  · rfl

end

section
variable (s : State) (x : Side)

/-! ## Frames that leave -/

theorem State.seq_emitFrame (fcs : Fcs) (h : List Byte) (seq : BitVec 16) (data : List Byte) :
    s.SeqKept (s.emitFrame x fcs h seq data) := by
  have port := s.liftPort_emitFrame x fcs h seq data
  have other := (s.link_emitFrame x fcs h seq data).other
  refine ⟨fun y => ?_, fun y => ?_⟩
  all_goals by_cases hy : y = x
  · rw [hy, port]
  · rw [other y hy]
  · rw [hy, port]
  · rw [other y hy]

theorem State.seq_sendFrame (h : FrameHdr) (data : List Byte) : s.SeqKept (s.sendFrame x h data) := by
  obtain ⟨hdr, hsend⟩ := s.sendFrame_eq x h data
  rw [hsend]
  refine .modLiftPort ?_ x
  split
  · exact s.seq_emitFrame ..
  · exact .refl s

theorem State.seq_resendFrames : s.SeqKept (s.resendFrames x) := by
  rw [State.resendFrames]
  simp only []
  split
  · exact .refl s
  · refine .count (.modLiftPort ?_ x)
    exact .foldl (f := State.emitAgain x) (fun s _ => s.seq_emitFrame ..) ..

theorem State.seq_protocolError (seq : BitVec 16) : s.SeqKept (s.protocolError x seq) :=
  (State.SeqKept.refl s).raise.trans (State.seq_of_lift rfl)

/-- The link fields of a frame leave the sequence that a port expects (R243, R244). -/
theorem State.seq_linkFields (h : List Byte) : s.SeqKept (s.linkFields x h) := by
  rw [State.linkFields]
  simp only []
  split
  · exact s.seq_protocolError ..
  · split
    · refine .trans ?_ (State.seq_resendFrames ..)
      exact .modLiftPort (.refl s) x
    · exact .modLiftPort (.refl s) x

/-! ## Chairs that arrive (R249, R250, R253) -/

theorem State.seq_freeEntries (k : Nat) : s.SeqKept (s.freeEntries x k) :=
  .modLiftPort (.refl s) x

theorem State.seq_settleHeld : s.SeqKept s.settleHeld := by
  refine ⟨fun y => ?_, fun y => ?_⟩
  all_goals
    obtain ⟨r, f, port⟩ := s.liftPort_settleHeld y
    rw [port]

theorem State.seq_liftCleared (linksStay : Bool) : s.SeqKept (s.liftCleared linksStay) := by
  rw [State.liftCleared]
  exact .modLift (.modLiftPort (.modLiftPort (.refl s) .up) .down)

theorem State.seq_dropLift (linksStay : Bool) : s.SeqKept (s.dropLift linksStay) :=
  (s.seq_liftCleared linksStay).trans (State.seq_of_lift (s.lift_dropLift linksStay))

theorem State.seq_breakLift (pos side : Nat) : s.SeqKept (s.breakLift pos side) := by
  rw [State.breakLift_eq]
  refine State.SeqKept.trans ?_ (State.seq_of_lift (State.raises_liftEvent ..).lift)
  rw [State.lost]
  have reported : s.SeqKept ((s.modLift (fun l => { l with state := .broken, asked := false })).raise pLFC 1 (lfcInfo side 1 0 pos) 0) :=
    .raise (.modLift (.refl s))
  exact (reported.trans (State.seq_dropLift ..)).trans (State.station_faultLift ..).seqKept

theorem State.seq_deliberateBreak : s.SeqKept s.deliberateBreak := by
  rw [State.deliberateBreak_eq]
  exact (s.seq_breakLift ..).trans (State.seq_of_lift rfl)

theorem State.seq_badMask (h : ChairHdr) (n : Nat) : s.SeqKept (s.badMask h n) := by
  rw [State.badMask]
  exact .modLift (.raise (.refl s))

theorem State.seq_noRegion (h : ChairHdr) (n : Nat) : s.SeqKept (s.noRegion h n) := by
  rw [State.noRegion]
  exact .trans (.raise (.refl s)) (State.StationKept.foldl (fun s _ => s.station_faultTask ..) _ _).seqKept

theorem State.seq_chairArrived (c : Chair) (thr : Bool) : s.SeqKept (s.chairArrived x c thr) := by
  rw [State.chairArrived]
  simp only []
  split
  · exact (s.seq_freeEntries ..).trans (State.seq_badMask ..)
  · split
    · exact (s.seq_freeEntries ..).trans (State.seq_noRegion ..)
    · refine .trans (.modLift ?_) (State.seq_settleHeld _)
      split
      · exact .count (.refl s)
      · split
        · exact .count (.refl s)
        · exact .refl s

/-- A gradient chair that does not fit its contribution faults the lift jobs (R253). -/
theorem State.station_gradFault (code : Word) (s : State) (t : Nat) : s.StationKept (match (s.task t).bind (·.job) with
    | some j => if j.fault.isSome then s else (s.faultLocal t code).tellPeers j false true
    | none => s) := by
  split
  · split
    · exact .refl s
    · exact (s.station_faultLocal ..).trans (State.station_tellPeers ..)
  · exact .refl s

theorem State.seq_addGrad (c : Chair) (g : Contribution) : s.SeqKept (s.addGrad x c g) := by
  have taken : s.SeqKept (s.modLift (fun l => { l with contribs := l.contribs.erase g })) := .modLift (.refl s)
  rw [State.addGrad]
  simp only []
  generalize s.modLift (fun l => { l with contribs := l.contribs.erase g }) = u at taken
  refine taken.trans ?_
  split
  · have faulted := ((u.seq_freeEntries x (chairSize c)).raise (p := pLFC) (b := 4) (i := lfcInfo 6 4 g.core c.hdr.origin) (j := c.hdr.seq)).trans
      (State.StationKept.foldl (State.station_gradFault ((u.freeEntries x (chairSize c)).faultCode pLFC 4))
        ((u.freeEntries x (chairSize c)).raise pLFC 4 (lfcInfo 6 4 g.core c.hdr.origin) c.hdr.seq).liftTasks _).seqKept
    split
    · exact faulted.trans (State.seq_deliberateBreak _)
    · exact faulted
  · split
    · exact .modLift (.count (.refl u))
    · exact .modLift (.trans (.count (.refl u)) (State.seq_of_lift (u.count pLFC 0x128 1 |>.markStage_lift ..)))

/-! ## Demand chairs (R252) -/

theorem State.seq_sendDemands (fuel : Nat) : ∀ s : State, s.SeqKept (State.sendDemands fuel s) := by
  induction fuel with
  | zero => exact .refl
  | succ fuel ih =>
    intro s
    rw [State.sendDemands]
    split
    · exact .refl s
    · next h bits held t _ =>
      split
      · exact .refl s
      · refine .trans ?_ (ih _)
        have sent := s.seq_sendFrame .up (s.demandHead h) (leBytes 32 bits.toNat)
        generalize s.sendFrame .up (s.demandHead h) (leBytes 32 bits.toNat) = u at sent
        have left : s.SeqKept ((u.modLiftPort .up (fun p => { p with demandUsed := p.demandUsed + 1 })).modLift
            (fun l => { l with demands := t })) := .modLift (.modLiftPort sent .up)
        split
        · exact .count (.modLiftPort left .down)
        · exact left.count

/-- The OR of a lap reaches a demand core. -/
def State.demandDone (bits : BitVec 256) (s : State) (n : Nat) : State :=
  match (s.core n).openDemand with
  | some (id, addr) => (s.modSeq n (fun q => { q with dmem := dmWrite q.dmem addr 32 bits.toNat })).markStage n id .performed
  | none => s

theorem State.seq_demandDone (bits : BitVec 256) (s : State) (n : Nat) : s.SeqKept (s.demandDone bits n) := by
  rw [State.demandDone]
  split
  · exact State.seq_of_lift rfl
  · exact .refl s

theorem State.finishLap_eq (d : Nat) : s.finishLap d = if (s.lift.lap d).sent && decide (s.liftLen - 1 ≤ (s.lift.lap d).others) then
    (((setBits (s.lift.lap d).own).foldl (State.demandDone (s.lift.lap d).bits) s).modLift (fun l =>
      { l with laps := l.laps.filter (fun b => b.lap != d), demanded := l.demanded + 1 })).count pLFC 0x120 1 else s := rfl

theorem State.seq_finishLap (d : Nat) : s.SeqKept (s.finishLap d) := by
  rw [State.finishLap_eq]
  split
  · exact .count (.modLift (.foldl (State.seq_demandDone _) _ s))
  · exact .refl s

theorem Lift.port_setLap (l : Lift) (a : DemandLap) : (l.setLap a).port = l.port := by
  unfold Lift.setLap
  split <;> rfl

theorem State.seq_takeDemand (h : ChairHdr) (bits : BitVec 256) : s.SeqKept (s.takeDemand h bits) := by
  have ored (a : DemandLap) : s.SeqKept (s.modLift (fun l => l.setLap a)) := .modLift (.refl s) (Lift.port_setLap · a)
  rw [State.takeDemand]
  refine .trans ?_ (State.seq_finishLap ..)
  split
  · exact .count (.modLiftPort (ored _) .down)
  · exact .trans (.modLift (ored _)) (State.seq_sendDemands ..)

theorem State.seq_admitDemands (fuel : Nat) : ∀ s : State, s.SeqKept (State.admitDemands fuel s) := by
  induction fuel with
  | zero => exact .refl
  | succ fuel ih =>
    intro s
    rw [State.admitDemands]
    split
    · exact .refl s
    · split
      · exact .trans (.trans (.modLiftPort (.refl s) .down) (State.seq_takeDemand ..)) (ih _)
      · exact .refl s

/-! ## Chair frames (R241, R249) -/

theorem State.seq_frameEntered (y : Side) (entry : Option (ChairHdr × List Row × Nat)) (ended : Nat) :
    s.SeqKept (s.frameEntered x y entry ended) := by
  rw [State.frameEntered]
  split
  · exact .modLiftPort (.modLiftPort (.refl s) x) y
  · exact .modLiftPort (.refl s) x

theorem State.seq_frameCut (h : ChairHdr) (i : Nat) (last : Bool) (data : List Byte) : s.SeqKept (s.frameCut h i last data) := by
  rw [State.frameCut]
  split
  · exact .modLift (.modLiftPort (State.seq_sendFrame ..) _) (setTurn_port · ..)
  · exact .modLiftPort (State.seq_sendFrame ..) _

theorem State.seq_chairComplete (h : ChairHdr) (c : Chair) (thr : Bool) : s.SeqKept (s.chairComplete x h c thr) := by
  rw [State.chairComplete]
  split
  · split
    · exact s.seq_addGrad ..
    · exact .modLiftPort (.refl s) x
  · exact s.seq_chairArrived ..

theorem State.seq_frameGoesOn (h : ChairHdr) (i : Nat) (last : Bool) (data : List Byte) (c : Chair) :
    s.SeqKept (s.frameGoesOn x h i last data c) := by
  have cut (thr : Bool) : s.SeqKept (if thr then s.frameCut h i last data else s) := by
    split
    · exact s.seq_frameCut ..
    · exact .refl s
  rw [State.frameGoesOn]
  split
  · exact (cut _).trans (State.seq_chairComplete ..)
  · exact cut _

/-- A frame whose chair was discarded gives its entry back (R256, R258). -/
theorem State.takeFrame_lost {f : LiftFrame}
    (hj : ((s.frameAccepted x).liftPort x).joins (chairHdrOf x f.hdr) (leAt f.hdr 0x1D 1) = none) :
    s.takeFrame x f = (s.frameAccepted x).modLiftPort x (fun p => { p with freed := p.freed + 1 }) := by
  unfold State.takeFrame
  simp only []
  rw [State.frameAccepted] at hj
  rw [hj]
  rfl

theorem State.seq_takeFrame (f : LiftFrame) : (s.frameAccepted x).SeqKept (s.takeFrame x f) := by
  cases hj : ((s.frameAccepted x).liftPort x).joins (chairHdrOf x f.hdr) (leAt f.hdr 0x1D 1) with
  | none =>
    rw [s.takeFrame_lost x hj]
    exact .modLiftPort (.refl _) x
  | some entry =>
    obtain ⟨h0, before, ended⟩ := entry
    rw [State.takeFrame_joins hj]
    exact (State.seq_frameEntered ..).trans (State.seq_frameGoesOn ..)

theorem State.seq_demandEntered (f : LiftFrame) : (s.frameAccepted x).SeqKept (s.demandEntered x f) := by
  rw [State.demandEntered]
  exact .modLiftPort (.refl _) x

end

/-! ## Frames that are accepted (R241, R243) -/

/-- From `s` to `t` port `x` has accepted a frame: it expects the next one, with no gap answered. -/
structure State.FrameTaken (s t : State) (x : Side) : Prop where
  rxSeq : (t.liftPort x).rxSeq = (s.liftPort x).rxSeq + 1
  nakSent : (t.liftPort x).nakSent = false

/-- A frame is accepted with its link fields applied, and nothing that it leads to changes the sequence. -/
theorem State.frameTaken {s : State} {x : Side} {hdr : List Byte} {t : State}
    (h : ((s.linkFields x hdr).frameAccepted x).SeqKept t) : s.FrameTaken t x := by
  have link := (s.seq_linkFields x hdr).rxSeq x
  have port : ((s.linkFields x hdr).frameAccepted x).liftPort x =
      { (s.linkFields x hdr).liftPort x with rxSeq := ((s.linkFields x hdr).liftPort x).rxSeq + 1, nakSent := false } := by
    rw [State.frameAccepted, State.count_liftPort, State.liftPort_modLiftPort, if_pos rfl]
  refine ⟨?_, ?_⟩
  · rw [h.rxSeq, port, link]
  · rw [h.nakSent, port]

/-- The row that receives the chair frames of each kind. -/
theorem frameRow_cases {f : LiftFrame} (x : Side) (htype : leAt f.hdr 0 1 / 16 = 0) :
    (leAt f.hdr 1 1 % 2 = 0 ∧ frameRow x f = .chairFrame x f) ∨ (leAt f.hdr 1 1 % 4 = 1 ∧ frameRow x f = .gradChairRx x f) ∨
      (leAt f.hdr 1 1 % 4 = 3 ∧ frameRow x f = .demandChairRx x f) := by
  have chair : ¬ leAt f.hdr 0 1 / 16 = 1 := by omega
  rw [frameRow, if_neg chair]
  by_cases even : leAt f.hdr 1 1 % 2 = 0
  · exact .inl ⟨even, if_pos even⟩
  · rw [if_neg even]
    by_cases grad : leAt f.hdr 1 1 % 4 = 1
    · exact .inr (.inl ⟨grad, if_pos grad⟩)
    · exact .inr (.inr ⟨by omega, if_neg grad⟩)

theorem exec_gradChairRx {s : State} {x : Side} {f : LiftFrame} (h : s.takes x f .ok = true) (htype : leAt f.hdr 0 1 / 16 = 0)
    (hkind : leAt f.hdr 1 1 % 4 = 1) : exec (.gradChairRx x f) s = .next ((s.linkFields x f.hdr).takeFrame x f) :=
  congrArg _ (State.receive_taken h (by simp [htype, hkind]) ..)

/-- Every accepted chair frame advances the expected sequence by one (R243). -/
theorem frameRow_accepts {s : State} {x : Side} {f : LiftFrame} (h : s.takes x f .ok = true) (htype : leAt f.hdr 0 1 / 16 = 0) :
    ∃ t, exec (frameRow x f) s = .next t ∧ s.FrameTaken t x := by
  rcases frameRow_cases x htype with ⟨hkind, hrow⟩ | ⟨hkind, hrow⟩ | ⟨hkind, hrow⟩
  · exact ⟨_, hrow ▸ exec_chairFrame h htype hkind, State.frameTaken (State.seq_takeFrame ..)⟩
  · exact ⟨_, hrow ▸ exec_gradChairRx h htype hkind, State.frameTaken (State.seq_takeFrame ..)⟩
  · exact ⟨_, hrow ▸ exec_demandChairRx h htype hkind,
      State.frameTaken ((State.seq_demandEntered ..).trans (State.seq_admitDemands ..))⟩

/-! ## Frames that are refused (R241, R249) -/

theorem exec_linkControlFrame (s : State) (x : Side) (f : LiftFrame) : exec (.linkControlFrame x f) s =
    .next (s.receive x f (fun h => leAt h 0 1 / 16 == 1) false id id) := rfl

/-- A frame cut through whose FCS fails leaves no more than an inverted copy. -/
structure State.CutLeft (s t : State) : Prop where
  seq : s.SeqKept t
  lift : t.lift = { s.lift with port := t.lift.port }
  counter : ∀ x, t.counter (pLFT x) 0x120 = s.counter (pLFT x) 0x120

theorem State.CutLeft.refl (s : State) : s.CutLeft s := ⟨.refl s, rfl, fun _ => rfl⟩

section
variable (s : State) (x : Side)

theorem State.cutLeft_emitFrame (fcs : Fcs) (h : List Byte) (seq : BitVec 16) (data : List Byte) :
    s.CutLeft (s.emitFrame x fcs h seq data) where
  seq := s.seq_emitFrame ..
  lift := (s.link_emitFrame ..).lift
  counter _ := (s.link_emitFrame ..).counter _ _ (by simp)

theorem State.cutLeft_cutBad (f : LiftFrame) : s.CutLeft (s.cutBad x f) := by
  rw [State.cutBad]
  split
  · exact s.cutLeft_emitFrame ..
  · exact .refl s

theorem State.cutLeft_cutBadDemand (f : LiftFrame) : s.CutLeft (s.cutBadDemand x f) := by
  rw [State.cutBadDemand]
  split
  · exact s.cutLeft_emitFrame ..
  · exact .refl s

/-- A chair frame's row receives it with `receive`, and leaves a frame that fails as `CutLeft` says. -/
theorem frameRow_receives (f : LiftFrame) (htype : leAt f.hdr 0 1 / 16 = 0) : ∃ mine cut act,
    exec (frameRow x f) s = .next (s.receive x f mine true cut act) ∧ s.CutLeft (cut s) := by
  rcases frameRow_cases x htype with ⟨-, hrow⟩ | ⟨-, hrow⟩ | ⟨-, hrow⟩
  · exact ⟨_, (State.cutBad · x f), _, by rw [hrow]; rfl, s.cutLeft_cutBad x f⟩
  · exact ⟨_, id, _, by rw [hrow]; rfl, .refl s⟩
  · exact ⟨_, (State.cutBadDemand · x f), _, by rw [hrow]; rfl, s.cutLeft_cutBadDemand x f⟩

/-- The row of a frame receives it with `receive`, whatever its type. -/
theorem frameRow_screens (f : LiftFrame) : ∃ mine chair cut act,
    exec (frameRow x f) s = .next (s.receive x f mine chair cut act) := by
  by_cases hcontrol : leAt f.hdr 0 1 / 16 = 1
  · exact ⟨_, _, _, _, by rw [frameRow, if_pos hcontrol, exec_linkControlFrame]⟩
  · rw [frameRow, if_neg hcontrol]
    split
    · exact ⟨_, _, _, _, rfl⟩
    · split
      · exact ⟨_, _, _, _, rfl⟩
      · exact ⟨_, _, _, _, rfl⟩

end

section
variable {s : State} {x : Side} {f : LiftFrame}

/-- A frame of another EtherType is counted and discarded (R241). -/
theorem State.receive_foreign (h : s.takes x f .foreign = true) (mine : List Byte → Bool) (chair : Bool) (cut act : State → State) :
    s.receive x f mine chair cut act = s.count (pLFT x) 0x150 1 := by
  simp only [State.takes, Bool.and_eq_true, beq_iff_eq, decide_eq_true_eq] at h
  obtain ⟨⟨⟨hready, hup⟩, -⟩, hverdict⟩ := h
  simp [State.receive, State.screen, hready, hup, hverdict]

/-- A frame of an older epoch is counted and discarded (R241). -/
theorem State.receive_stale (h : s.takes x f .stale = true) (mine : List Byte → Bool) (chair : Bool) (cut act : State → State) :
    s.receive x f mine chair cut act = s.count pLFC 0x140 1 := by
  simp only [State.takes, Bool.and_eq_true, beq_iff_eq, decide_eq_true_eq] at h
  obtain ⟨⟨⟨hready, hup⟩, -⟩, hverdict⟩ := h
  simp [State.receive, State.screen, hready, hup, hverdict]

/-- A bad chair frame is counted and is to be answered with NAK (R243). -/
theorem State.receive_error (h : s.takes x f .error = true) {cut : State → State} (hcut : s.CutLeft (cut s))
    (mine : List Byte → Bool) (act : State → State) :
    s.receive x f mine true cut act = ((cut s).count (pLFT x) 0x120 1).setNak x := by
  simp only [State.takes, Bool.and_eq_true, beq_iff_eq, decide_eq_true_eq] at h
  obtain ⟨⟨⟨hready, hup⟩, hformed⟩, hverdict⟩ := h
  have formed : (cut s).lift.isFormed = true := by rw [hcut.lift]; exact hformed
  simp [State.receive, State.screen, hready, hup, hverdict, formed]

theorem State.liftPort_setNak (s : State) (x : Side) : (s.setNak x).liftPort x =
    if (s.liftPort x).nakSent then s.liftPort x else { s.liftPort x with nakDue := true, nakSent := true } := by
  rw [State.setNak, State.liftPort_modLiftPort, if_pos rfl]

/-- One gap is answered with one NAK, and the frame that is missing stays expected (R243). -/
theorem setNak_port (s : State) (x : Side) : ((s.setNak x).liftPort x).rxSeq = (s.liftPort x).rxSeq ∧
    ((s.setNak x).liftPort x).nakSent = true ∧ ((s.liftPort x).nakSent = false → ((s.setNak x).liftPort x).nakDue = true) := by
  rw [State.liftPort_setNak]
  cases hnak : (s.liftPort x).nakSent with
  | true => exact ⟨rfl, hnak, fun h => nomatch h⟩
  | false => exact ⟨rfl, rfl, fun _ => rfl⟩

/-- A chair frame that fails its checks is counted, answered once, and holds no chair (R241, R243). -/
theorem frameRow_fails (h : s.takes x f .error = true) (htype : leAt f.hdr 0 1 / 16 = 0) : ∃ t, exec (frameRow x f) s = .next t ∧
    (t.liftPort x).rxSeq = (s.liftPort x).rxSeq ∧ (t.liftPort x).nakSent = true ∧
    ((s.liftPort x).nakSent = false → (t.liftPort x).nakDue = true) ∧ t.lift.held = s.lift.held ∧
    t.counter (pLFT x) 0x120 = s.counter (pLFT x) 0x120 + 1 := by
  obtain ⟨mine, cut, act, hexec, hcut⟩ := frameRow_receives s x f htype
  obtain ⟨hseq, hsent, hdue⟩ := setNak_port ((cut s).count (pLFT x) 0x120 1) x
  refine ⟨((cut s).count (pLFT x) 0x120 1).setNak x, ?_, ?_, hsent, fun hnone => hdue ?_, ?_, ?_⟩
  · rw [hexec, State.receive_error h hcut]
  · rw [hseq, State.count_liftPort, hcut.seq.rxSeq]
  · rw [State.count_liftPort, hcut.seq.nakSent, hnone]
  · exact (congrArg Lift.held hcut.lift : (cut s).lift.held = _)
  · rw [State.setNak, State.modLiftPort_counter, State.counter_count, if_pos ⟨rfl, rfl⟩, hcut.counter]
    rfl

end

/-- Settles O27: a frame that passes advances the sequence (`frameRow_accepts`), one that fails is answered (`frameRow_fails`), and
one of another EtherType or of an older epoch is only counted. -/
theorem liftReception : Obligations.LiftReception := by
  unfold Obligations.LiftReception
  intro s x f
  refine ⟨fun h htype => ?_, fun h htype => ?_, fun h htype => frameRow_fails h htype, fun h => ?_, fun h => ?_, fun hready hup => ?_⟩
  · obtain ⟨t, ht, taken⟩ := frameRow_accepts h htype
    exact ⟨t, ht, taken.rxSeq, taken.nakSent⟩
  · rw [exec_linkControlFrame, State.receive_taken h (by simp [htype])]
    rfl
  · obtain ⟨mine, chair, cut, act, hexec⟩ := frameRow_screens s x f
    rw [hexec, State.receive_foreign h]
  · obtain ⟨mine, chair, cut, act, hexec⟩ := frameRow_screens s x f
    rw [hexec, State.receive_stale h]
  · have hexec : exec (.foreignFrame x) s = execForeignFrame x s := rfl
    rw [hexec, execForeignFrame, if_pos (by simp [hready, hup])]

end Sys2Proof.Machine
end

section
/-!
Proofs of chapter 12, the shared layer: what packets that leave a port change (R272, R278, R292), the flows of a port (R275), and
what the fault of the traverse jobs and the loss of a peer leave (R285, R286).
-/
namespace Sys2Proof.Machine

/-! ## The pages of the traverse -/

theorem pageBlk_pTRV (p : TPort) : (pageBlk (pTRV p)).isSome = true := by cases p <;> rfl
theorem pTRV_ne_pNTC (p : TPort) : pTRV p ≠ pNTC := by cases p <;> decide
theorem pTRV_ne_pFLT (p : TPort) : pTRV p ≠ pFLT := by cases p <;> decide

/-! ## What packets that leave a port change (R272, R278, R292) -/

/-- From `s` to `t` packets have left port `p` or wait for the end of a pause: the registers of the part stand, and of the counters
only those of data packets rise. -/
structure State.Traffic (p : TPort) (s t : State) : Prop where
  frame : t = { s with pages := t.pages, outbox := t.outbox, trvA := t.trvA, trvB := t.trvB }
  page : ∀ q, t.page q = { s.page q with counters := (t.page q).counters }
  counter : ∀ q o, o ≠ 0x120 → t.counter q o = s.counter q o
  inForce : (t.trv p).inForce = (s.trv p).inForce
  paused : (t.trv p).paused = (s.trv p).paused
  waits : (s.trv p).paused = false → (t.trv p).waitQ = (s.trv p).waitQ
  said : s.Said t

/-- ... and of what the port holds only the packets that wait have changed. -/
structure State.Sent (p : TPort) (s t : State) : Prop extends State.Traffic p s t where
  trv : t.trv p = { s.trv p with waitQ := (t.trv p).waitQ }

section
variable {p : TPort} {s t u : State}

theorem State.Traffic.refl (p : TPort) (s : State) : State.Traffic p s s :=
  ⟨rfl, fun _ => rfl, fun _ _ _ => rfl, rfl, rfl, fun _ => rfl, .refl s⟩

theorem State.Traffic.trans (h : State.Traffic p s t) (g : State.Traffic p t u) : State.Traffic p s u where
  frame := by rw [g.frame, h.frame]
  page q := by rw [g.page, h.page]
  counter q o ho := (g.counter q o ho).trans (h.counter q o ho)
  inForce := g.inForce.trans h.inForce
  paused := g.paused.trans h.paused
  waits hp := (g.waits (h.paused.trans hp)).trans (h.waits hp)
  said := h.said.trans g.said

theorem State.Traffic.foldl {α : Type} {f : State → α → State} (hf : ∀ (s : State) a, State.Traffic p s (f s a)) (l : List α) :
    ∀ s : State, State.Traffic p s (l.foldl f s) := by
  induction l with
  | nil => exact .refl p
  | cons a l ih => exact fun s => (hf s a).trans (ih _)

theorem State.Sent.refl (p : TPort) (s : State) : State.Sent p s s := ⟨.refl p s, rfl⟩

theorem State.Sent.trans (h : State.Sent p s t) (g : State.Sent p t u) : State.Sent p s u :=
  ⟨h.toTraffic.trans g.toTraffic, by rw [g.trv, h.trv]⟩

theorem State.Sent.foldl {α : Type} {f : State → α → State} (hf : ∀ (s : State) a, State.Sent p s (f s a)) (l : List α) :
    ∀ s : State, State.Sent p s (l.foldl f s) := by
  induction l with
  | nil => exact .refl p
  | cons a l ih => exact fun s => (hf s a).trans (ih _)

/-- An update of what the port holds besides its registers in force, its pause and the packets that wait. -/
theorem State.traffic_modTrv (s : State) (p : TPort) (f : Traverse → Traverse) (hregs : (f (s.trv p)).inForce = (s.trv p).inForce)
    (hpause : (f (s.trv p)).paused = (s.trv p).paused) (hwait : (f (s.trv p)).waitQ = (s.trv p).waitQ) :
    State.Traffic p s (s.modTrv p f) where
  frame := by cases p <;> rfl
  page q := by rw [State.modTrv_page]
  counter q o _ := State.modTrv_counter ..
  inForce := by rw [State.trv_modTrv, hregs]
  paused := by rw [State.trv_modTrv, hpause]
  waits _ := by rw [State.trv_modTrv, hwait]
  said := State.said_of_outbox (State.modTrv_outbox ..)

section
variable (h : State.Traffic p s t)
include h

theorem State.Traffic.core (m : Nat) : t.core m = s.core m := by rw [h.frame]; rfl
theorem State.Traffic.bundle (b : Nat) : t.bundle b = s.bundle b := by rw [h.frame]; rfl
theorem State.Traffic.phase : t.phase = s.phase := by rw [h.frame]
theorem State.Traffic.reg (q o : Nat) : t.reg q o = s.reg q o := by rw [State.reg, State.reg, h.page]
theorem State.Traffic.trvState (p' : TPort) : t.trvState p' = s.trvState p' := by rw [State.trvState, State.trvState, h.reg]
theorem State.Traffic.trvUp (p' : TPort) : t.trvUp p' = s.trvUp p' := by rw [State.trvUp, State.trvUp, h.trvState]
theorem State.Traffic.coord (p' : TPort) : t.coord p' = s.coord p' := by rw [State.coord, State.coord, h.reg]
theorem State.Traffic.trvReg (o : Nat) : t.trvReg p o = s.trvReg p o := by rw [State.trvReg, State.trvReg, h.inForce]

/-- The fields around a packet depend on the registers alone (R271, R272). -/
theorem State.Traffic.trvOuter (dst : Nat) : t.trvOuter p dst = s.trvOuter p dst := by
  simp only [State.trvOuter, h.trvReg, h.coord, h.reg]

theorem State.Traffic.packetOut (hd : TrvHdr) (data : List Byte) : t.packetOut p hd data = s.packetOut p hd data := by
  simp only [State.packetOut, h.trvOuter]

end

/-- A packet leaves (R272). -/
theorem State.sent_emitTrv (s : State) (p : TPort) (h : TrvHdr) (data : List Byte) : State.Sent p s (s.emitTrv p h data) := by
  have emitted (o : Out) : State.Sent p s (s.emit o) :=
    ⟨⟨rfl, fun _ => rfl, fun _ _ _ => rfl, rfl, rfl, fun _ => rfl, s.said_emit o⟩, rfl⟩
  have counted (s : State) : State.Sent p s (s.count (pTRV p) 0x120 1) := by
    refine ⟨⟨rfl, fun q => ?_, fun q o ho => ?_, rfl, rfl, fun _ => rfl, s.said_count ..⟩, rfl⟩
    · rw [State.count, State.page_modPage]
      split
      · next hq => rw [hq]
      · rfl
    · rw [State.counter_count, if_neg fun hq => ho hq.2]
  unfold State.emitTrv
  simp only []
  split
  · exact (emitted _).trans (counted _)
  · exact emitted _

/-- A packet leaves, or waits for the end of the pause (R278). -/
theorem State.sent_sendTrv (s : State) (p : TPort) (h : TrvHdr) (data : List Byte) : State.Sent p s (s.sendTrv p h data) := by
  unfold State.sendTrv
  split
  · next hpause =>
    refine ⟨⟨by cases p <;> rfl, fun q => by rw [State.modTrv_page], fun q o _ => State.modTrv_counter .., by rw [State.trv_modTrv],
      by rw [State.trv_modTrv], fun hopen => absurd (hpause.symm.trans hopen) Bool.noConfusion, ?_⟩, by rw [State.trv_modTrv]⟩
    exact State.said_of_outbox (State.modTrv_outbox ..)
  · exact s.sent_emitTrv ..

theorem State.sent_sendRequest (s : State) (p : TPort) (m : TrvMsg) : State.Sent p s (s.sendRequest p m) := s.sent_sendTrv ..
theorem State.sent_flowPacket (s : State) (p : TPort) (f : Flow) (type : Nat) (ece : Bool) :
    State.Sent p s (s.flowPacket p f type ece) := s.sent_sendTrv ..
theorem State.sent_sendAborts (s : State) (p : TPort) (epoch : BitVec 16) (dsts : List (BitVec 15)) :
    State.Sent p s (s.sendAborts p epoch dsts) := State.Sent.foldl (fun s _ => s.sent_sendTrv ..) dsts s

/-- With no pause in force a packet leaves at once (R272). -/
theorem State.outbox_sendTrv {h : TrvHdr} {data : List Byte} (hopen : (s.trv p).paused = false) :
    (s.sendTrv p h data).outbox = s.packetOut p h data :: s.outbox := by
  rw [State.sendTrv, hopen]
  simp only [Bool.false_eq_true, if_false, State.emitTrv]
  split <;> rfl

/-- With no pause in force one abort packet leaves for each coordinate (R286). -/
theorem State.length_outbox_sendAborts (p : TPort) (epoch : BitVec 16) (dsts : List (BitVec 15)) : ∀ s : State,
    (s.trv p).paused = false → (s.sendAborts p epoch dsts).outbox.length = s.outbox.length + dsts.length := by
  induction dsts with
  | nil => exact fun _ _ => rfl
  | cons c dsts ih =>
    intro s hopen
    have first (h : TrvHdr) : ((s.sendTrv p h []).sendAborts p epoch dsts).outbox.length = s.outbox.length + (dsts.length + 1) := by
      rw [ih _ ((s.sent_sendTrv p h []).paused.trans hopen), State.outbox_sendTrv hopen, List.length_cons]
      omega
    exact first _

end

/-! ## Flows (R275) -/

section
variable {s t : State} {p : TPort} {peer peer' : BitVec 15} {b b' : Bool}

theorem Flow.is_iff {f : Flow} : f.is peer b = true ↔ f.peer = peer ∧ f.sends = b := by simp [Flow.is]

theorem State.is_of_flowOf {f : Flow} (h : s.flowOf p peer b = some f) : f.is peer b = true :=
  List.find?_some (p := fun f : Flow => f.is peer b) h

theorem State.flowOf_of_flows (h : (t.trv p).flows = (s.trv p).flows) : t.flowOf p peer b = s.flowOf p peer b := by
  rw [State.flowOf, h, State.flowOf]

theorem State.Sent.flowOf (h : State.Sent p s t) : t.flowOf p peer b = s.flowOf p peer b :=
  State.flowOf_of_flows (by rw [h.trv])

theorem State.trv_modFlow (s : State) (p : TPort) (peer : BitVec 15) (b : Bool) (g : Flow → Flow) : (s.modFlow p peer b g).trv p =
    { s.trv p with flows := (s.trv p).flows.map (fun f => if f.is peer b then g f else f) } := State.trv_modTrv ..

theorem State.traffic_modFlow (s : State) (p : TPort) (peer : BitVec 15) (b : Bool) (g : Flow → Flow) :
    State.Traffic p s (s.modFlow p peer b g) := s.traffic_modTrv p _ rfl rfl rfl

theorem State.flowOf_modFlow (g : Flow → Flow) (hg : ∀ f, (g f).is peer b = f.is peer b) :
    (s.modFlow p peer b g).flowOf p peer b = (s.flowOf p peer b).map g := by
  have same : (fun f : Flow => f.is peer b) ∘ (fun f => if f.is peer b then g f else f) = fun f => f.is peer b := by
    funext f
    cases h : f.is peer b <;> simp [h, hg]
  rw [State.flowOf, State.trv_modFlow, List.find?_map, same, ← State.flowOf]
  cases h : s.flowOf p peer b with
  | none => rfl
  | some f => simp [State.is_of_flowOf h]

/-- An update of the flow to a peer leaves those from peers, and the other way round. -/
theorem State.flowOf_modFlow_other (g : Flow → Flow) (hb : b' ≠ b) (hg : ∀ f, (g f).sends = f.sends) :
    (s.modFlow p peer b g).flowOf p peer' b' = s.flowOf p peer' b' := by
  have other (f : Flow) (h : f.is peer b = true) : f.is peer' b' = false ∧ (g f).is peer' b' = false := by
    have hne : (b == b') = false := by simpa using hb.symm
    simp [Flow.is, hg, (Flow.is_iff.1 h).2, hne]
  have same : (fun f : Flow => f.is peer' b') ∘ (fun f => if f.is peer b then g f else f) = fun f => f.is peer' b' := by
    funext f
    cases h : f.is peer b
    · simp [h]
    · simp [h, other f h]
  rw [State.flowOf, State.trv_modFlow, List.find?_map, same, ← State.flowOf]
  cases h : s.flowOf p peer' b' with
  | none => rfl
  | some f =>
    have hf : f.is peer b = false := by
      cases hpeer : f.is peer b
      · rfl
      · exact absurd ((other f hpeer).1.symm.trans (State.is_of_flowOf h)) Bool.noConfusion
    simp [hf]

/-! ## Acknowledgements (R276, R277) -/

/-- The header of a packet that carries nothing but its type and its flow's numbers (R276). -/
def State.numberHdr (s : State) (p : TPort) (f : Flow) (type : Nat) (ece : Bool) : TrvHdr :=
  { type := type, ece := ece, last := false, kind := 0, src := s.coord p, dst := f.peer.toNat, core := 0, phase := 0,
    psn := s.rxPsn p f.peer, ack := s.rxPsn p f.peer, seq := 0, param := 0, rows := 0, offset := 0, len := 0, epoch := f.epoch }

/-- A flow whose packets have been acknowledged. -/
def Flow.acked (f : Flow) : Flow := { f with got := 0, ece := false }

theorem State.sendAck_eq {f : Flow} (hflow : s.flowOf p peer false = some f) : s.sendAck p peer =
    (s.modFlow p peer false Flow.acked).sendTrv p ((s.modFlow p peer false Flow.acked).numberHdr p f 1 f.ece) [] := by
  rw [State.sendAck, hflow]
  rfl

theorem State.rxPsn_modFlow (g : Flow → Flow) (b : Bool) (peer' : BitVec 15) :
    (s.modFlow p peer b g).rxPsn p peer' = s.rxPsn p peer' := by
  rw [State.rxPsn, State.trv_modFlow, State.rxPsn]

/-! ## Packets sent again (R276) -/

/-- The packets of a flow that are not acknowledged leave again. -/
def State.resent (s : State) (p : TPort) (f : Flow) : State :=
  f.unacked.foldl (fun s x => s.sendTrv p { x.hdr with ack := s.rxPsn p f.peer } x.data) s

theorem State.resendFlow_eq (s : State) (p : TPort) (f : Flow) :
    s.resendFlow p f = (s.resent p f).count (pTRV p) 0x128 f.unacked.length := rfl

theorem State.sent_resent (s : State) (p : TPort) (f : Flow) : State.Sent p s (s.resent p f) :=
  State.Sent.foldl (fun s _ => s.sent_sendTrv ..) _ s

theorem State.core_resendFlow (s : State) (p : TPort) (f : Flow) (m : Nat) : (s.resendFlow p f).core m = s.core m := by
  rw [State.resendFlow_eq, State.count_core, (s.sent_resent p f).core]

theorem State.flowOf_resendFlow (f : Flow) : (s.resendFlow p f).flowOf p peer b = s.flowOf p peer b :=
  (s.sent_resent p f).flowOf

theorem State.counter_resendFlow (f : Flow) :
    (s.resendFlow p f).counter (pTRV p) 0x128 = s.counter (pTRV p) 0x128 + BitVec.ofNat 64 f.unacked.length := by
  rw [State.resendFlow_eq, State.counter_count, if_pos ⟨rfl, rfl⟩, (s.sent_resent p f).counter _ _ (by decide)]

end

/-! ## The fault of the traverse jobs (R286, R378) -/

theorem Job.faulted_faulted (code : Word) (j : Job) : (j.faulted code).faulted code = j.faulted code :=
  if_pos (j.isSome_faulted code)

theorem Task.faulted_faulted (code : Word) (x : Task) : (x.faulted code).faulted code = x.faulted code := by
  simp [Task.faulted, Function.comp_def, Job.faulted_faulted]

theorem State.task_foldl_faultTask (code : Word) (u : Nat) (ts : List Nat) : ∀ s : State,
    (ts.foldl (fun s t => s.faultTask t code) s).task u = if u ∈ ts then (s.task u).map (Task.faulted code) else s.task u := by
  induction ts with
  | nil => exact fun _ => rfl
  | cons t ts ih =>
    intro s
    rw [List.foldl_cons, ih, State.task_faultTask]
    by_cases hu : u = t
    · subst hu
      simp [Function.comp_def, Task.faulted_faulted]
    · simp [hu]

theorem State.mem_trvTasks {s : State} {t : Nat} {tk : Task} {j : Job} (ht : t < 64) (htask : s.task t = some tk)
    (hjob : tk.job = some j) (htrv : j.traverse = true) : t ∈ s.trvTasks :=
  List.mem_filter.2 ⟨List.mem_range.2 ht, by simp [htask, hjob, htrv]⟩

section
variable (s : State) (p : TPort) (b detail core coord : Nat)


/-- No traverse job is left that has not faulted (R286). -/
theorem State.trvFaulted_trvFault : (s.trvFault p b detail core coord).trvFaulted := by
  intro y tk j htask hjob htrv
  rw [State.trvFault, State.task_foldl_faultTask, State.trvRaise, (State.tasks_raise ..).task] at htask
  split at htask
  · obtain ⟨x, -, rfl⟩ := Option.map_eq_some_iff.1 htask
    obtain ⟨i, -, rfl⟩ := Option.map_eq_some_iff.1 hjob
    exact Job.isSome_faulted _ _
  · next hmem => exact absurd (State.mem_trvTasks y.isLt htask hjob htrv) hmem

theorem State.reported_trvRaise (hb : b < 32) : (s.trvRaise p b detail core coord).reported (pTRV p) b = true :=
  s.raised _ b _ _ (pageBlk_pTRV p) hb

theorem State.kept_trvFault : State.PlacementKept (s.trvRaise p b detail core coord) (s.trvFault p b detail core coord) :=
  State.PlacementKept.foldl (fun s t => s.kept_faultTask t _) _ _

theorem State.reported_trvFault (hb : b < 32) : (s.trvFault p b detail core coord).reported (pTRV p) b = true :=
  (s.kept_trvFault p b detail core coord).reported (s.reported_trvRaise p b detail core coord hb)

end

/-! ## What the loss of a peer ends (R285, R303) -/

/-- From `s` to `t` the tasks stand, no PAGE_ERR bit is cleared, and the registers of the traverse stand. -/
structure State.PeersDropped (s t : State) : Prop where
  task : ∀ u, t.task u = s.task u
  errKept : s.ErrKept t
  trvPage : ∀ p : TPort, t.page (pTRV p) = s.page (pTRV p)

theorem State.PeersDropped.refl (s : State) : s.PeersDropped s := ⟨fun _ => rfl, .refl s, fun _ => rfl⟩

theorem State.PeersDropped.trans {s t u : State} (h : s.PeersDropped t) (g : t.PeersDropped u) : s.PeersDropped u :=
  ⟨fun u => (g.task u).trans (h.task u), h.errKept.trans g.errKept, fun p => (g.trvPage p).trans (h.trvPage p)⟩

theorem State.PeersDropped.foldl {α : Type} {f : State → α → State} (hf : ∀ (s : State) a, s.PeersDropped (f s a)) (l : List α) :
    ∀ s : State, s.PeersDropped (l.foldl f s) := by
  induction l with
  | nil => exact .refl
  | cons a l ih => exact fun s => (hf s a).trans (ih _)

theorem State.dropped_modBundle (s : State) (b : Nat) (f : Bundle → Bundle) : s.PeersDropped (s.modBundle b f) :=
  ⟨fun _ => rfl, State.errKept_of_pages rfl, fun _ => rfl⟩

theorem State.dropped_modTrv (s : State) (p : TPort) (f : Traverse → Traverse) : s.PeersDropped (s.modTrv p f) :=
  ⟨fun _ => State.modTrv_task .., State.errKept_of_pages (State.modTrv_pages ..), fun _ => State.modTrv_page ..⟩

theorem State.dropped_post (s : State) (r : Nat) (n : Notice) : s.PeersDropped (s.post r n) :=
  ⟨(s.notes_post r n).raises.tasksKept.task, s.errKept_post r n,
    fun p => s.page_post r n (pTRV_ne_pNTC p) (pTRV_ne_pFLT p)⟩

theorem State.dropped_bundleNotice (s : State) (b event code item : Nat) : s.PeersDropped (s.bundleNotice b event code item) :=
  (s.dropped_post ..).trans (State.PeersDropped.foldl (fun s _ => s.dropped_post ..) _ _)

theorem State.dropped_refuseLoad (s : State) (b code : Nat) : s.PeersDropped (s.refuseLoad b code) := by
  have zeroed : s.PeersDropped (s.zeroBundle b) := ⟨fun _ => rfl, State.errKept_of_pages rfl, fun _ => rfl⟩
  exact (zeroed.trans (State.dropped_modBundle ..)).trans (State.dropped_bundleNotice ..)

theorem State.dropped_dropTransfers (s : State) (gone : TPort × BitVec 15 → Bool) : s.PeersDropped (s.dropTransfers gone) := by
  refine State.PeersDropped.foldl (fun s b => ?_) _ s
  simp only []
  split
  · split
    · split
      · exact s.dropped_refuseLoad ..
      · exact (s.dropped_modBundle ..).trans (State.dropped_bundleNotice ..)
      all_goals exact .refl s
    · exact .refl s
  · exact .refl s

/-- What the part was sending to lost peers, and what it was taking from them, ends. -/
theorem State.dropped_peers (s : State) (p : TPort) (gone : BitVec 15 → Bool) (from_ : TPort × BitVec 15 → Bool) :
    s.PeersDropped ((s.dropServes p gone).dropTransfers from_) :=
  (s.dropped_modTrv ..).trans (State.dropped_dropTransfers ..)

section
variable {s t : State} (h : s.PeersDropped t)
include h

theorem State.PeersDropped.reported {q b : Nat} (hr : s.reported q b = true) : t.reported q b = true := h.errKept.kept q b hr

theorem State.PeersDropped.trvFaulted (hf : s.trvFaulted) : t.trvFaulted :=
  fun y tk j htask => hf y tk j ((h.task y.val).symm.trans htask)

theorem State.PeersDropped.trvState (p : TPort) : t.trvState p = s.trvState p := by
  rw [State.trvState, State.trvState, State.reg, State.reg, h.trvPage]

end

end Sys2Proof.Machine
end

section
/-!
Proofs of chapter 12, the timers of the traverse (R276, R277, R278, R280, R285, R286).
-/
namespace Sys2Proof.Machine

section
variable {s : State} {p : TPort} {peer : BitVec 15} (hready : s.phase = .ready)
include hready

/-! ## GRANT_ISSUE (R280) -/

theorem grantIssue_grants {i : Nat} {r : TrvReq} (hup : s.trvUp p = true) (hreq : (s.trv p).requests[i]? = some r)
    (hnew : r.granted = false) (hcan : s.canGrant p r = true) (hopen : (s.trv p).paused = false) :
    ∃ t, exec (.grantIssue p i) s = .next t ∧ t.outbox = s.packetOut p (r.hdr (s.coord p)) [] :: s.outbox ∧
      (t.trv p).requests = (s.trv p).requests.set i { r with granted := true } ∧ ∀ k, t.core k = s.core k := by
  have hexec : exec (.grantIssue p i) s = execGrantIssue p i s := rfl
  have noted : State.Traffic p s (s.modTrv p (fun t => { t with requests := t.requests.set i { r with granted := true } })) :=
    s.traffic_modTrv p _ rfl rfl rfl
  have sent := State.sent_sendTrv (s.modTrv p (fun t => { t with requests := t.requests.set i { r with granted := true } })) p
    (r.hdr (s.coord p)) []
  refine ⟨_, ?_, ?_, ?_, fun k => (noted.trans sent.toTraffic).core k⟩
  · rw [hexec, execGrantIssue, hreq]
    simp only [hready, hup, hnew, hcan, noted.coord]
    rfl
  · rw [State.outbox_sendTrv (noted.paused.trans hopen), noted.packetOut, State.modTrv_outbox]
  · rw [sent.trv, State.trv_modTrv]

/-! ## TRV_ACK_SEND (R276, R277) -/

theorem trvAckSend_acknowledges {f : Flow} (hup : s.trvUp p = true) (hflow : s.flowOf p peer false = some f) (hgot : 0 < f.got)
    (hopen : (s.trv p).paused = false) :
    ∃ t d, exec (.trvAckSend p peer) s = .next t ∧ t.outbox = s.packetOut p d [] :: s.outbox ∧ d.type = 1 ∧ d.ece = f.ece ∧
      d.dst = peer.toNat ∧ d.ack = s.rxPsn p peer ∧ t.flowOf p peer false = some { f with got := 0, ece := false } := by
  have hexec : exec (.trvAckSend p peer) s = execTrvAckSend p peer s := rfl
  rw [hexec, execTrvAckSend, if_pos (by simp [hready, hup, hflow, hgot]), State.sendAck_eq hflow]
  have noted := s.traffic_modFlow p peer false Flow.acked
  obtain ⟨rfl, -⟩ := Flow.is_iff.1 (State.is_of_flowOf hflow)
  refine ⟨_, (s.modFlow p f.peer false Flow.acked).numberHdr p f 1 f.ece, rfl, ?_, rfl, rfl, rfl, ?_, ?_⟩
  · rw [State.outbox_sendTrv (noted.paused.trans hopen), noted.packetOut]
    exact congrArg _ (State.modTrv_outbox ..)
  · exact State.rxPsn_modFlow ..
  · rw [(State.sent_sendTrv ..).flowOf, State.flowOf_modFlow Flow.acked (fun _ => rfl), hflow]
    rfl

/-! ## TRV_RTO_EXPIRY (R276, R277) -/

/-- The timeout doubles, up to a limit. -/
def Flow.slowed (most : Nat) (f : Flow) : Flow := { f with rtoUs := min (2 * f.rtoUs) (max f.rtoUs most) }

/-- The rate falls to a part of itself, never below 1 percent of line rate. -/
def Flow.cutBy (num den : Nat) (f : Flow) : Flow := { f with rate := max 10000 (f.rate * num / den) }

omit hready in
theorem State.cutRate_eq (num den : Nat) :
    s.cutRate p peer num den = (s.modFlow p peer true (.cutBy num den)).count (pTRV p) 0x140 1 := rfl

/-- A flow whose timeout has expired. -/
def State.expired (s : State) (p : TPort) (peer : BitVec 15) (f : Flow) : State :=
  ((s.resendFlow p f).modFlow p peer true (.slowed (bits (s.reg (pTRV p) 0x70) 31 16))).cutRate p peer 1 2

theorem trvRtoExpiry_resends {f : Flow} (hup : s.trvUp p = true) (hflow : s.flow p peer = some f) (hunacked : f.unacked ≠ []) :
    ∃ t, exec (.trvRtoExpiry p peer) s = .next t ∧
      t.flow p peer = some { f with rtoUs := min (2 * f.rtoUs) (max f.rtoUs (bits (s.reg (pTRV p) 0x70) 31 16)),
                                    rate := max 10000 (f.rate * 1 / 2) } ∧
      t.counter (pTRV p) 0x128 = s.counter (pTRV p) 0x128 + BitVec.ofNat 64 f.unacked.length ∧ ∀ k, t.core k = s.core k := by
  have hexec : exec (.trvRtoExpiry p peer) s = execTrvRtoExpiry p peer s := rfl
  have asked : State.Sent p (s.expired p peer f) (((((s.expired p peer f).trv p).out.filter (fun m => m.dst == peer && m.asked &&
      !m.granted)).foldl (fun s m => s.sendRequest p m) (s.expired p peer f))) :=
    State.Sent.foldl (fun s m => s.sent_sendRequest p m) _ _
  have hempty : f.unacked.isEmpty = false := by simpa using hunacked
  refine ⟨_, ?_, asked.flowOf.trans ?_, (asked.counter _ _ (by decide)).trans ?_, fun k => (asked.core k).trans ?_⟩
  · rw [hexec, execTrvRtoExpiry]
    simp only [hready, hup, hflow, hempty]
    rfl
  · rw [State.expired, State.cutRate_eq, State.flowOf_of_flows (congrArg Traverse.flows (State.count_trv ..)),
      State.flowOf_modFlow (.cutBy 1 2) (fun _ => rfl), State.flowOf_modFlow (.slowed _) (fun _ => rfl),
      State.flowOf_resendFlow, ← State.flow, hflow]
    rfl
  · rw [State.expired, State.cutRate_eq, State.counter_count, if_neg (by simp), (State.traffic_modFlow ..).counter _ _ (by decide),
      (State.traffic_modFlow ..).counter _ _ (by decide), State.counter_resendFlow]
  · rw [State.expired, State.cutRate_eq, State.count_core, (State.traffic_modFlow ..).core, (State.traffic_modFlow ..).core,
      State.core_resendFlow]

/-! ## CC_WINDOW (R277) -/

theorem ccWindow_ends {f : Flow} (hflow : s.flow p peer = some f) : ∃ t, exec (.ccWindow p peer) s = .next t ∧
    t.flow p peer = some (if f.cut then { f with cut := false }
      else { f with rate := min 1000000 (f.rate + 1000 * bits (s.reg (pTRV p) 0x78) 7 0) }) := by
  have hexec : exec (.ccWindow p peer) s = execCcWindow p peer s := rfl
  refine ⟨_, by rw [hexec, execCcWindow, hready]; rfl, ?_⟩
  rw [State.flow, State.flowOf_modFlow _ (fun f => by split <;> rfl), ← State.flow, hflow]
  rfl

/-! ## PEER_LOST (R285) -/

theorem peerLost_faults {c : Fin 4} (hloss : s.lossHolds p peer c = true) : ∃ t, exec (.peerLost p peer c) s = .next t ∧
    t.reported (pTRV p) 2 = true ∧ (peer ∈ s.jobPeers p → t.trvFaulted) := by
  have hexec : exec (.peerLost p peer c) s = execPeerLost p peer c s := rfl
  rw [hexec, execPeerLost, if_pos (by simp [hready, hloss])]
  refine ⟨_, rfl, (State.dropped_peers ..).reported ?_, fun hmem => (State.dropped_peers ..).trvFaulted ?_⟩
  · split
    · exact s.reported_trvFault _ _ _ _ _ (by decide)
    · exact s.reported_trvRaise _ _ _ _ _ (by decide)
  · rw [if_pos (by simpa using hmem)]
    exact s.trvFaulted_trvFault p 2 _ _ _

/-! ## ABORT_RESEND (R286) -/

theorem abortResend_repeats (haborts : 0 < (s.trv p).aborts) (hopen : (s.trv p).paused = false) :
    ∃ t, exec (.abortResend p) s = .next t ∧ (t.trv p).aborts = (s.trv p).aborts - 1 ∧
      t.outbox.length = s.outbox.length + (s.trv p).abortTo.length ∧ ∀ k, t.core k = s.core k := by
  have hexec : exec (.abortResend p) s = execAbortResend p s := rfl
  have sent := s.sent_sendAborts p (s.trv p).abortEpoch (s.trv p).abortTo
  refine ⟨_, by rw [hexec, execAbortResend, if_pos (by simp [hready, haborts])], ?_, ?_, fun k => ?_⟩
  · rw [State.trv_modTrv, sent.trv]
  · rw [State.modTrv_outbox, State.length_outbox_sendAborts _ _ _ _ hopen]
  · rw [State.modTrv_core, sent.core]

end

/-- Settles O36: one lemma per timer; a pause holds every packet by the definition of sending. -/
theorem traverseTimers : Obligations.TraverseTimers := by
  unfold Obligations.TraverseTimers
  intro s p peer hready
  refine ⟨fun i r => grantIssue_grants hready, fun f => trvAckSend_acknowledges hready, fun h data hpaused => ?_,
    fun f => trvRtoExpiry_resends hready, fun f => ccWindow_ends hready, fun c => peerLost_faults hready,
    abortResend_repeats hready⟩
  rw [State.sendTrv, if_pos hpaused]

end Sys2Proof.Machine
end

section
/-!
Proofs of chapter 12, the traverse port as an Ethernet port: what sending the messages of a port changes, the link, and pauses
(R270, R271, R278, R285, R291).
-/
namespace Sys2Proof.Machine

/-! ## What sending messages changes (R275, R280, R303) -/

section
variable {s t : State} {p : TPort}

theorem State.traffic_useFlow {peer : BitVec 15} {b : Bool} {epoch : BitVec 16} (h : s.useFlow p peer b epoch = some t) :
    State.Traffic p s t := by
  have updated (g : Traverse → List Flow) : State.Traffic p s (s.modTrv p (fun t => { t with flows := g t })) :=
    s.traffic_modTrv p _ rfl rfl rfl
  unfold State.useFlow at h
  simp only [] at h
  split at h
  · exact Option.some.inj h ▸ updated _
  · split at h
    · exact Option.some.inj h ▸ updated _
    · split at h
      · exact Option.some.inj h ▸ updated _
      · exact nomatch h

theorem State.traffic_modMsg (s : State) (p : TPort) (m : TrvMsg) (g : TrvMsg → TrvMsg) : State.Traffic p s (s.modMsg p m g) :=
  s.traffic_modTrv p _ rfl rfl rfl

theorem State.traffic_sendPackets (p : TPort) (fuel : Nat) : ∀ (s : State) (m : TrvMsg),
    State.Traffic p s (State.sendPackets fuel s p m) := by
  induction fuel with
  | zero => exact fun s _ => .refl p s
  | succ fuel ih =>
    intro s m
    unfold State.sendPackets
    split
    · split
      · exact .refl p s
      · simp only []
        refine State.Traffic.trans ?_ (ih _ _)
        refine State.Traffic.trans ?_ (State.traffic_modMsg ..)
        refine State.Traffic.trans ?_ (State.traffic_modFlow ..)
        exact (s.sent_sendTrv ..).toTraffic.trans (State.traffic_modTrv _ p _ rfl rfl rfl)
    · exact .refl p s

theorem State.traffic_pumpMsg (p : TPort) (s : State) (m : TrvMsg) : State.Traffic p s (State.pumpMsg p s m) := by
  unfold State.pumpMsg
  split
  · exact .refl p s
  · split
    · exact .refl p s
    · split
      · exact .refl p s
      · split
        · next huse =>
          refine (State.traffic_useFlow huse).trans ?_
          split
          · exact State.traffic_sendPackets ..
          · exact (State.traffic_modMsg ..).trans (State.sent_sendRequest ..).toTraffic
        · exact .refl p s

theorem State.traffic_serveNext (p : TPort) (s : State) (v : Serve) : State.Traffic p s (State.serveNext p s v) := by
  unfold State.serveNext
  simp only []
  split
  · exact .refl p s
  · split
    · split
      · exact s.traffic_modTrv p _ rfl rfl rfl
      · exact (s.traffic_modTrv p _ rfl rfl rfl).trans (State.traffic_pumpMsg ..)
    · exact s.traffic_modTrv p _ rfl rfl rfl

theorem State.traffic_pump (s : State) (p : TPort) : State.Traffic p s (s.pump p) :=
  (State.Traffic.foldl (State.traffic_pumpMsg p) _ s).trans (State.Traffic.foldl (State.traffic_serveNext p) _ _)

end

/-! ## The link (R291, R293) -/

section
variable (s : State) (p : TPort) (lanes : BitVec 8) (state : Nat)

theorem State.reg_setTrvLink_other {o : Nat} (hlink : o ≠ 0x44) (hlanes : o < 0x400) :
    (s.setTrvLink p lanes state).reg (pTRV p) o = s.reg (pTRV p) o := by
  unfold State.setTrvLink
  simp only []
  rw [State.foldl_keeps (fun s => s.reg (pTRV p) o) (fun s l => by rw [State.reg_setReg, if_neg (by omega)])]
  split
  · rw [State.reg_setReg, if_neg (fun h => hlink h.2)]
  · rw [State.modTrv_reg, State.reg_setReg, if_neg (fun h => hlink h.2)]

theorem State.trvState_setTrvLink (hstate : state < 4) : (s.setTrvLink p lanes state).trvState p = state := by
  have hword : bits (word (popcount lanes * 256 + state)) 1 0 = state := by
    simp only [bits, word, BitVec.toNat_ofNat, Nat.shiftRight_zero]
    omega
  have hreg : (s.setTrvLink p lanes state).reg (pTRV p) 0x44 = word (popcount lanes * 256 + state) := by
    unfold State.setTrvLink
    simp only []
    rw [State.foldl_keeps (fun s => s.reg (pTRV p) 0x44) (fun s l => by rw [State.reg_setReg, if_neg (by omega)])]
    split
    · rw [State.reg_setReg, if_pos ⟨rfl, rfl⟩]
    · rw [State.modTrv_reg, State.reg_setReg, if_pos ⟨rfl, rfl⟩]
  rw [State.trvState, hreg, hword]

/-- Of what a port holds the link's state changes only the count of trainings. -/
theorem State.trv_setTrvLink : (s.setTrvLink p lanes state).trv p =
    { s.trv p with trained := ((s.setTrvLink p lanes state).trv p).trained } := by
  have kept (s : State) : ((List.range 8).foldl (fun s l => s.setReg (pTRV p) (0x400 + 4 * l)
      (if lanes.getLsbD l then 0x80000000#32 else 0)) s).trv p = s.trv p :=
    State.foldl_keeps (fun s => s.trv p) (fun _ _ => State.setReg_trv ..) _ s
  unfold State.setTrvLink
  simp only []
  rw [kept]
  split
  · rw [State.setReg_trv]
  · rw [State.trv_modTrv, State.setReg_trv]

theorem State.coord_setTrvLink : (s.setTrvLink p lanes state).coord p = s.coord p := by
  rw [State.coord, State.coord, State.reg_setTrvLink_other _ _ _ _ (by decide) (by decide)]

/-- The peers of the running job are those of its flows and instances, whatever the link does (R286). -/
theorem State.jobPeers_setTrvLink : (s.setTrvLink p lanes state).jobPeers p = s.jobPeers p := by
  simp only [State.jobPeers, State.members, State.coord_setTrvLink]
  rw [State.trv_setTrvLink]

end

section
variable (s : State) (p : TPort) (b detail core coord : Nat)

theorem State.reg_trvRaise (o : Nat) : (s.trvRaise p b detail core coord).reg (pTRV p) o = s.reg (pTRV p) o :=
  s.reg_raise_same _ _ _ _ (pageBlk_pTRV p) (pTRV_ne_pNTC p) (pTRV_ne_pFLT p)

theorem State.trv_trvRaise : (s.trvRaise p b detail core coord).trv p = s.trv p := by
  rw [State.trvRaise, (s.raises_raise ..).frame]
  rfl

theorem State.jobPeers_trvRaise : (s.trvRaise p b detail core coord).jobPeers p = s.jobPeers p := by
  simp only [State.jobPeers, State.members, State.coord, State.reg_trvRaise, State.trv_trvRaise]

theorem State.trvState_trvRaise : (s.trvRaise p b detail core coord).trvState p = s.trvState p := by
  rw [State.trvState, State.trvState, State.reg_trvRaise]

end

/-! ## Registers through the fault of the traverse jobs -/

/-- From `s` to `t` every register stands. -/
structure State.RegsKept (s t : State) : Prop where
  reg : ∀ p o, t.reg p o = s.reg p o

theorem State.RegsKept.refl (s : State) : s.RegsKept s := ⟨fun _ _ => rfl⟩
theorem State.RegsKept.trans {s t u : State} (h : s.RegsKept t) (g : t.RegsKept u) : s.RegsKept u :=
  ⟨fun p o => (g.reg p o).trans (h.reg p o)⟩

theorem State.RegsKept.foldl {α : Type} {f : State → α → State} (hf : ∀ (s : State) a, s.RegsKept (f s a)) (l : List α) :
    ∀ s : State, s.RegsKept (l.foldl f s) := by
  induction l with
  | nil => exact .refl
  | cons a l ih => exact fun s => (hf s a).trans (ih _)

theorem State.regs_modCore (s : State) (n : Nat) (f : Core → Core) : s.RegsKept (s.modCore n f) := ⟨fun _ _ => rfl⟩
theorem State.regs_modTrv (s : State) (p : TPort) (f : Traverse → Traverse) : s.RegsKept (s.modTrv p f) :=
  ⟨fun _ _ => State.modTrv_reg ..⟩

theorem State.regs_discardTrv (s : State) (p : TPort) (peers : List (BitVec 15)) : s.RegsKept (s.discardTrv p peers) := by
  unfold State.discardTrv
  simp only []
  refine State.RegsKept.trans (State.RegsKept.foldl (fun s o => ?_) _ s) (State.regs_modTrv _ p _)
  exact s.regs_modCore ..

theorem State.regs_abortTraverse (s : State) (sends : Bool) (told : List (BitVec 15)) : s.RegsKept (s.abortTraverse sends told) := by
  unfold State.abortTraverse
  refine State.RegsKept.trans (State.RegsKept.foldl (fun s p => ?_) _ s) (State.RegsKept.foldl (fun s n => s.regs_modCore n _) _ _)
  simp only []
  refine State.RegsKept.trans ?_ (State.regs_discardTrv _ p _)
  split
  · exact State.RegsKept.trans ⟨(s.sent_sendAborts p _ _).reg⟩ (State.regs_modTrv ..)
  · exact .refl s

theorem State.regs_tellPeers (s : State) (j : Job) (lift traverse : Bool) : s.RegsKept (s.tellPeers j lift traverse) := by
  have noticed : s.RegsKept (if lift && j.lift && s.lift.isFormed then s.sendMsg .up (.notice true s.liftPos 0) else s) := by
    split <;> exact ⟨fun _ _ => rfl⟩
  unfold State.tellPeers
  simp only []
  split
  · exact noticed.trans (State.regs_abortTraverse ..)
  · exact noticed

theorem State.regs_faultLocal (s : State) (t : Nat) (code : Word) : s.RegsKept (s.faultLocal t code) := by
  unfold State.faultLocal
  split
  · exact .refl s
  · split
    · exact .refl s
    · refine State.RegsKept.trans ?_ (State.RegsKept.foldl (fun s n => s.regs_modCore n _) _ _)
      split
      · exact .refl s
      · exact ⟨fun _ _ => State.modJob_reg ..⟩

/-- The fault of a job leaves every register (R379). -/
theorem State.regs_faultTask (s : State) (t : Nat) (code : Word) : s.RegsKept (s.faultTask t code) := by
  unfold State.faultTask
  split
  · split
    · exact s.regs_faultLocal ..
    · exact (s.regs_faultLocal ..).trans (State.regs_tellPeers ..)
  · exact .refl s

theorem State.trvState_trvFault (s : State) (p : TPort) (b detail core coord : Nat) :
    (s.trvFault p b detail core coord).trvState p = s.trvState p := by
  have faulted : State.RegsKept (s.trvRaise p b detail core coord) (s.trvFault p b detail core coord) :=
    State.RegsKept.foldl (fun s t => s.regs_faultTask t _) _ _
  rw [← s.trvState_trvRaise p b detail core coord, State.trvState, State.trvState, faulted.reg]

/-! ## Loss of the link (R285) -/

/-- Each peer of a job is reported lost. -/
def State.peersLost (p : TPort) (s : State) (peers : List (BitVec 15)) : State :=
  peers.foldl (fun s c => s.trvFault p 2 4 0 c.toNat) s

theorem State.trvState_peersLost (p : TPort) (s : State) (peers : List (BitVec 15)) :
    (State.peersLost p s peers).trvState p = s.trvState p :=
  State.foldl_keeps (fun s => s.trvState p) (fun s _ => s.trvState_trvFault p _ _ _ _) peers s

theorem State.reported_peersLost (p : TPort) (s : State) (peers : List (BitVec 15)) {q b : Nat} (hr : s.reported q b = true) :
    (State.peersLost p s peers).reported q b = true :=
  (State.PlacementKept.foldl (fun s (_ : BitVec 15) => (s.kept_raise ..).trans (s.kept_trvFault p 2 4 0 _)) peers s).reported hr

/-- The loss of any peer faults the traverse jobs and is reported. -/
theorem State.faulted_peersLost (p : TPort) {peers : List (BitVec 15)} (h : peers ≠ []) (s : State) :
    (State.peersLost p s peers).trvFaulted ∧ (State.peersLost p s peers).reported (pTRV p) 2 = true := by
  rw [State.peersLost, ← List.dropLast_concat_getLast h, List.foldl_append]
  exact ⟨State.trvFaulted_trvFault _ p 2 4 0 _, State.reported_trvFault _ p 2 4 0 _ (by decide)⟩

section
variable {s : State} {p : TPort} (hready : s.phase = .ready)
include hready

theorem trvLinkDown_loses (hlink : s.trvState p = 2 ∨ s.trvState p = 3) : ∃ t, exec (.trvLinkDown p) s = .next t ∧ t.trvState p = 0 ∧
    t.reported (pTRV p) 0 = true ∧ (s.jobPeers p ≠ [] → t.trvFaulted ∧ t.reported (pTRV p) 2 = true) := by
  have hexec : exec (.trvLinkDown p) s = execTrvLinkDown p s := rfl
  have hdown : s.trvDown p = ((State.peersLost p ((s.setTrvLink p 0 0).trvRaise p 0 0 0 0)
      (((s.setTrvLink p 0 0).trvRaise p 0 0 0 0).jobPeers p)).dropServes p (fun _ => true)).dropTransfers (fun q => q.1 == p) :=
    if_pos (by simpa using hlink)
  rw [hexec, execTrvLinkDown, hready, hdown, State.jobPeers_trvRaise, State.jobPeers_setTrvLink]
  have ended := State.dropped_peers (State.peersLost p ((s.setTrvLink p 0 0).trvRaise p 0 0 0 0) (s.jobPeers p)) p (fun _ => true)
    (fun q => q.1 == p)
  refine ⟨_, rfl, ?_, ended.reported ?_, fun hpeers => ?_⟩
  · rw [ended.trvState, State.trvState_peersLost, State.trvState_trvRaise, State.trvState_setTrvLink _ _ _ _ (by decide)]
  · exact State.reported_peersLost _ _ _ (State.reported_trvRaise _ p 0 0 0 0 (by decide))
  · obtain ⟨hfaulted, hreported⟩ := State.faulted_peersLost p hpeers ((s.setTrvLink p 0 0).trvRaise p 0 0 0 0)
    exact ⟨ended.trvFaulted hfaulted, ended.reported hreported⟩

/-! ## TRV_PORT_TRAINED (R270, R291) -/

omit hready in
theorem SMap.get_foldl_set {α : Type} [DecidableEq α] (d : Nat → α) (v : Nat → α) (j : Nat) (os : List Nat) : ∀ m : SMap α,
    (os.foldl (fun m o => m.set d o (v o)) m).get d j = if j ∈ os then v j else m.get d j := by
  induction os with
  | nil => exact fun _ => rfl
  | cons o os ih =>
    intro m
    rw [List.foldl_cons, ih, SMap.get_set]
    by_cases hj : j = o
    · subst hj; simp
    · simp [hj]

/-- The port that has trained takes up its registers. -/
def State.tookUp (s : State) (p : TPort) : State :=
  s.modTrv p (fun t => { t with inForce := trainedRegs.foldl (fun m o => m.set (Blk.regReset .trv) o (s.reg (pTRV p) o)) t.inForce })

omit hready in
theorem State.trvReg_tookUp {o : Nat} (ho : o ∈ trainedRegs) : (s.tookUp p).trvReg p o = s.reg (pTRV p) o := by
  rw [State.trvReg, State.tookUp, State.trv_modTrv, SMap.get_foldl_set, if_pos ho]

omit hready in
theorem trainedRegs_apart : ∀ o ∈ trainedRegs, o ≠ 0x44 ∧ o < 0x400 := by decide

/-- The port is up with its registers in force. -/
def State.cameUp (s : State) (p : TPort) : State := (s.setTrvLink p (BitVec.allOnes 8) 2).tookUp p

omit hready in
theorem State.trvState_cameUp : (s.cameUp p).trvState p = 2 :=
  (congrArg (fun w => bits w 1 0) (State.modTrv_reg ..)).trans (s.trvState_setTrvLink p _ _ (by decide))

omit hready in
theorem State.coord_cameUp : (s.cameUp p).coord p = s.coord p :=
  (congrArg (fun w => bits w 14 0) (State.modTrv_reg ..)).trans (s.coord_setTrvLink p _ _)

omit hready in
theorem State.trvReg_cameUp {o : Nat} (ho : o ∈ trainedRegs) : (s.cameUp p).trvReg p o = s.reg (pTRV p) o := by
  obtain ⟨hne, hlt⟩ := trainedRegs_apart o ho
  rw [State.cameUp, State.trvReg_tookUp ho, s.reg_setTrvLink_other p _ _ hne hlt]

/-- The port announces its address. -/
def State.announced (s : State) (p : TPort) : State := s.emit (.announce p (s.trvOuter p (s.coord p)))

omit hready in
theorem State.traffic_announced : State.Traffic p s (s.announced p) :=
  ⟨rfl, fun _ => rfl, fun _ _ _ => rfl, rfl, rfl, fun _ => rfl, s.said_emit _⟩

theorem trvPortTrained_up (hlink : s.trvState p = 1 ∨ s.trvState p = 3) :
    ∃ t, exec (.trvPortTrained p (BitVec.allOnes 8)) s = .next t ∧ t.trvState p = 2 ∧
      (∀ o ∈ trainedRegs, t.trvReg p o = s.reg (pTRV p) o) ∧ Out.announce p (t.trvOuter p (s.coord p)) ∈ t.outbox := by
  have hgo : ¬ (s.phase != .ready || (s.trvState p != 1 && s.trvState p != 3)) = true := by
    rcases hlink with h | h <;> simp [hready, h]
  have hexec : exec (.trvPortTrained p (BitVec.allOnes 8)) s = .next (((s.cameUp p).announced p).pump p) :=
    (if_neg hgo).trans (if_pos rfl)
  have told : State.Traffic p ((s.cameUp p).announced p) (((s.cameUp p).announced p).pump p) := State.traffic_pump ..
  have traffic := State.traffic_announced.trans told
  refine ⟨_, hexec, ?_, fun o ho => ?_, told.said.kept.subset ?_⟩
  · rw [traffic.trvState, State.trvState_cameUp]
  · rw [traffic.trvReg, State.trvReg_cameUp ho]
  · rw [traffic.trvOuter, ← s.coord_cameUp]
    exact List.mem_cons_self

theorem trvPortTrained_down {lanes : BitVec 8} (hlink : s.trvState p = 1 ∨ s.trvState p = 3) (hlanes : lanes ≠ BitVec.allOnes 8) :
    ∃ t, exec (.trvPortTrained p lanes) s = .next t ∧ t.trvState p = 0 ∧
      (s.trvState p = 3 → t.reported (pTRV p) 0 = true) := by
  have hexec : exec (.trvPortTrained p lanes) s = execTrvPortTrained p lanes s := rfl
  have hgo : ¬ (s.phase != .ready || (s.trvState p != 1 && s.trvState p != 3)) = true := by
    rcases hlink with h | h <;> simp [hready, h]
  rw [hexec, execTrvPortTrained, if_neg hgo, if_neg hlanes]
  refine ⟨_, rfl, ?_, fun hretrain => ?_⟩
  · split
    · rw [State.trvState_trvRaise, State.trvState_setTrvLink _ _ _ _ (by decide)]
    · exact s.trvState_setTrvLink p _ _ (by decide)
  · rw [if_pos (by simp [hretrain])]
    exact State.reported_trvRaise _ p 0 0 0 0 (by decide)

/-! ## Requests for the part's address, and other packets (R271) -/

section
variable (hup : s.trvUp p = true)
include hup

theorem arpRequest_answers (ip : Word) (mac : BitVec 48) : exec (.arpRequest p ip mac) s = .next
    (if bit (s.trvReg p 0x40) 2 = false ∧ s.ownAddress p = ip.setWidth 128 then
      s.emit (.arpReply p mac (s.trvOuter p (s.coord p))) else s.count (pTRV p) 0x168 1) := by
  have hexec : exec (.arpRequest p ip mac) s = execArpRequest p ip mac s := rfl
  rw [hexec, execArpRequest, if_neg (by simp [hready, hup])]
  by_cases hown : bit (s.trvReg p 0x40) 2 = false ∧ s.ownAddress p = ip.setWidth 128
  · rw [if_pos hown, if_pos (by simp [hown])]
  · rw [if_neg hown, if_neg (by simpa using hown)]

theorem neighbourSolicitation_answers (ip : BitVec 128) (mac : BitVec 48) : exec (.neighbourSolicitation p ip mac) s = .next
    (if bit (s.trvReg p 0x40) 2 = true ∧ s.ownAddress p = ip then
      s.emit (.arpReply p mac (s.trvOuter p (s.coord p))) else s.count (pTRV p) 0x168 1) := by
  have hexec : exec (.neighbourSolicitation p ip mac) s = execNeighbourSolicitation p ip mac s := rfl
  rw [hexec, execNeighbourSolicitation, if_pos (by simp [hready, hup])]
  by_cases hown : bit (s.trvReg p 0x40) 2 = true ∧ s.ownAddress p = ip
  · rw [if_pos hown, if_pos (by simp [hown])]
  · rw [if_neg hown, if_neg (by simpa using hown)]

theorem foreignPacket_counts : exec (.foreignPacket p) s = .next (s.count (pTRV p) 0x168 1) := by
  have hexec : exec (.foreignPacket p) s = execForeignPacket p s := rfl
  rw [hexec, execForeignPacket, if_pos (by simp [hready, hup])]

theorem pfcPauseFrame_pauses (prio : BitVec 3) : exec (.pfcPauseFrame p prio) s = .next
    (if prio.toNat = bits (s.reg (pTRV p) 0x50) 15 13 then s.modTrv p (fun t => { t with paused := true }) else s) := by
  have hexec : exec (.pfcPauseFrame p prio) s = execPfcPauseFrame p prio s := rfl
  rw [hexec, execPfcPauseFrame]
  by_cases hprio : prio.toNat = bits (s.reg (pTRV p) 0x50) 15 13
  · rw [if_pos hprio, if_pos (by simp [hready, hup, hprio])]
  · rw [if_neg hprio, if_neg (by simp [hprio])]

end

/-! ## Pauses (R278) -/

section
variable (hpaused : (s.trv p).paused = true)
include hpaused

/-- The port with its pause over. -/
def State.unpaused (s : State) (p : TPort) : State := s.modTrv p (fun t => { t with paused := false, waitQ := [] })

/-- ... and the packets that the pause held sent. -/
def State.released (s : State) (p : TPort) : State :=
  (s.trv p).waitQ.foldl (fun s x => s.emitTrv p x.1 x.2) (s.unpaused p)

omit hready hpaused in
theorem State.trv_unpaused : (s.unpaused p).trv p = { s.trv p with paused := false, waitQ := [] } := State.trv_modTrv ..

omit hready hpaused in
theorem State.sent_released : State.Sent p (s.unpaused p) (s.released p) := State.Sent.foldl (fun s _ => s.sent_emitTrv ..) _ _

theorem pfcPauseEnd_releases (ns : Nat) : ∃ t, exec (.pfcPauseEnd p ns) s = .next t ∧ (t.trv p).paused = false ∧
    (t.trv p).waitQ = [] ∧ t.counter (pTRV p) 0x150 = s.counter (pTRV p) 0x150 + BitVec.ofNat 64 ns ∧ ∀ k, t.core k = s.core k := by
  have hexec : exec (.pfcPauseEnd p ns) s = .next (((s.released p).count (pTRV p) 0x150 ns).pump p) :=
    if_pos (by simp [hready, hpaused])
  have told : State.Traffic p ((s.released p).count (pTRV p) 0x150 ns) (((s.released p).count (pTRV p) 0x150 ns).pump p) :=
    State.traffic_pump ..
  have sent := s.sent_released (p := p)
  have hopen : (s.unpaused p |>.trv p).paused = false := by rw [State.trv_unpaused]
  refine ⟨_, hexec, ?_, ?_, ?_, fun k => ?_⟩
  · rw [told.paused, State.count_trv, sent.paused, hopen]
  · rw [told.waits, State.count_trv, sent.waits hopen, State.trv_unpaused]
    rw [State.count_trv, sent.paused, hopen]
  · rw [told.counter _ _ (by decide), State.counter_count, if_pos ⟨rfl, rfl⟩, sent.counter _ _ (by decide), State.unpaused,
      State.modTrv_counter]
  · rw [told.core, State.count_core, sent.core, State.unpaused, State.modTrv_core]

theorem pfcStorm_reports : ∃ t, exec (.pfcStorm p) s = .next t ∧ (t.trv p).paused = true ∧ t.reported (pTRV p) 5 = true := by
  have hexec : exec (.pfcStorm p) s = execPfcStorm p s := rfl
  rw [hexec, execPfcStorm, if_pos (by simp [hready, hpaused])]
  refine ⟨_, rfl, ?_, State.reported_trvRaise _ p 5 0 0 0 (by decide)⟩
  rw [State.trv_trvRaise, hpaused]

end

end

/-- Settles O33: one lemma per event of the port; what it announces and answers is all that the port's sending adds. -/
theorem traverseLink : Obligations.TraverseLink := by
  unfold Obligations.TraverseLink
  intro s p hready
  refine ⟨fun lanes hlink => ⟨fun hall => ?_, fun hall => trvPortTrained_down hready hlink hall⟩, trvLinkDown_loses hready,
    fun hup => ⟨arpRequest_answers hready hup, neighbourSolicitation_answers hready hup, foreignPacket_counts hready hup,
      pfcPauseFrame_pauses hready hup⟩, fun hpaused => ⟨pfcPauseEnd_releases hready hpaused, pfcStorm_reports hready hpaused⟩⟩
  subst hall
  exact trvPortTrained_up hready hlink

end Sys2Proof.Machine
end

section
/-!
Proofs of chapter 12: a port that holds two flows to one peer. `State.useFlow` makes the flow it uses the most recently used, and
the packet of a granted message goes into the first flow to the peer, so with two of them it is another flow's.
-/
namespace Sys2Proof.Machine

/-- A message of one row to peer 1 that waits for its grant. -/
def askedMsg : TrvMsg :=
  { core := 0, cmd := 0, dst := 1, dstCore := 0, kind := 0, phase := 0, seq := 0, param := 0, rows := [0], epoch := 0,
    asked := true, granted := false, sent := 0, lastPsn := none }

/-- The header of the packet that grants it. -/
def grantHdr : TrvHdr :=
  { type := 4, ece := false, last := false, kind := 0, src := 1, dst := 0, core := 0, phase := 0, psn := 0, ack := 0,
    seq := 0, param := 0, rows := 0, offset := 0, len := 0, epoch := 0 }

/-- A flow to peer 1. -/
def flowTo1 (unacked : List TrvSent) : Flow :=
  { peer := 1, sends := true, job := false, epoch := 0, unacked := unacked, got := 0, ece := false, nak := false, rtoUs := 1,
    rate := 1000000, cut := false }

/-- Port A is up and holds the message, and two flows to peer 1: the less recently used is empty, the other holds a packet. -/
def twoFlows : State :=
  ({ State.reset with phase := .ready }.setReg (pTRV .A) 0x44 2).modTrv .A (fun t => { t with
    flows := [flowTo1 [], flowTo1 [{ hdr := grantHdr, data := [] }]], out := [askedMsg] })

/-- The packet that grants the message (R272, R274). -/
def grantPacket : TrvPacket :=
  { fcs := true, ipv6 := false, vlan := none, dst := twoFlows.ownAddress .A, ipSum := true,
    dstPort := BitVec.ofNat 16 (bits (twoFlows.trvReg .A 0x4C) 15 0), udpSum := true, ce := false, hdr := grantHdr.bytes,
    data := [] }

/-- How many packets the flow to peer 1 holds after a step. -/
def heldTo1 : Host.Outcome State Fault Refusal → Nat
  | .next t => ((t.flow .A 1).map (fun f => f.unacked.length)).getD 0
  | _ => 0

/-- The granted packet joins the one that the other flow holds. -/
theorem grant_fills_otherFlow : heldTo1 (exec (.trvGrant .A grantPacket) twoFlows) = 2 := by decide +kernel

theorem twoFlows_admits : twoFlows.admits .A grantPacket = true := by decide +kernel

/-- Refutes O35: with two flows to one peer, which the statement does not exclude, the packet that a grant sends goes into the
flow that is not the least recently used one, where it is not alone. -/
theorem not_traverseMessages : ¬ Obligations.TraverseMessages := by
  unfold Obligations.TraverseMessages
  intro h
  obtain ⟨-, -, hgrant, -⟩ := h twoFlows .A grantPacket
  obtain ⟨-, hsends⟩ := hgrant twoFlows_admits (by decide +kernel) askedMsg rfl (by decide +kernel) (by decide +kernel)
    (by decide +kernel) (by decide +kernel) (by decide +kernel) (by decide +kernel) rfl rfl rfl
  obtain ⟨t, d, g, hexec, -, -, -, -, -, -, -, -, -, hflow, halone, -⟩ :=
    hsends (flowTo1 []) (by decide) (by decide +kernel) rfl rfl rfl
  have htwo : heldTo1 (.next t) = 2 := hexec ▸ grant_fills_otherFlow
  have hlen : heldTo1 (.next t) = g.unacked.length := congrArg (fun f => (Option.map (fun f : Flow => f.unacked.length) f).getD 0) hflow
  have hone : g.unacked.length = 1 := (List.length_map (fun x : TrvSent => x.hdr)).symm.trans (congrArg List.length halone)
  omega

end Sys2Proof.Machine
end

section
/-!
Proofs of chapter 12: data, acknowledgements and negative acknowledgements of the traverse (R274-R277, R279, R281).
-/
namespace Sys2Proof.Machine

section
variable {s t u : State} {p : TPort} {peer : BitVec 15}

/-! ## The receiver (R274) -/

/-- A packet that passes the checks reaches the row of its type. -/
theorem State.trvReceive_admits {x : TrvPacket} (h : s.admits p x = true) {type : Nat} (htype : (trvHdrOf x.hdr).type = type)
    (f : TrvHdr → State → State) : s.trvReceive p x type f = f (trvHdrOf x.hdr) s := by
  simp only [State.admits, Bool.and_eq_true, beq_iff_eq] at h
  obtain ⟨⟨⟨⟨hready, hup⟩, houter⟩, hheader⟩, hepoch⟩ := h
  simp only [Bool.or_eq_true, decide_eq_true_eq] at hepoch
  obtain hepoch | hepoch := hepoch <;> simp [State.trvReceive, hready, hup, houter, hheader, htype, hepoch]

/-! ## Changes of flows -/

/-- From `s` to `t` of what port `p` holds only flows have changed, and of the counters only that of rate cuts can have risen. -/
structure State.FlowsChanged (p : TPort) (s t : State) : Prop where
  trv : t.trv p = { s.trv p with flows := (t.trv p).flows }
  core : ∀ k, t.core k = s.core k
  counter : ∀ q o, o ≠ 0x140 → t.counter q o = s.counter q o

theorem State.FlowsChanged.refl (p : TPort) (s : State) : State.FlowsChanged p s s := ⟨rfl, fun _ => rfl, fun _ _ _ => rfl⟩

theorem State.FlowsChanged.trans (h : State.FlowsChanged p s t) (g : State.FlowsChanged p t u) : State.FlowsChanged p s u where
  trv := by rw [g.trv, h.trv]
  core k := (g.core k).trans (h.core k)
  counter q o ho := (g.counter q o ho).trans (h.counter q o ho)

theorem State.changed_flows (s : State) (p : TPort) (g : Traverse → List Flow) :
    State.FlowsChanged p s (s.modTrv p (fun t => { t with flows := g t })) :=
  ⟨by rw [State.trv_modTrv], fun _ => State.modTrv_core .., fun _ _ _ => State.modTrv_counter ..⟩

theorem State.changed_modFlow (s : State) (p : TPort) (peer : BitVec 15) (b : Bool) (g : Flow → Flow) :
    State.FlowsChanged p s (s.modFlow p peer b g) := s.changed_flows p _

theorem State.changed_cutRate (s : State) (p : TPort) (peer : BitVec 15) (num den : Nat) :
    State.FlowsChanged p s (s.cutRate p peer num den) where
  trv := (s.changed_modFlow p peer true (.cutBy num den)).trv
  core := (s.changed_modFlow p peer true (.cutBy num den)).core
  counter q o ho := by
    rw [State.cutRate_eq, State.counter_count, if_neg fun h => ho h.2, (State.changed_modFlow ..).counter q o ho]

theorem State.changed_useFlow {b : Bool} {epoch : BitVec 16} (h : s.useFlow p peer b epoch = some t) :
    State.FlowsChanged p s t := by
  unfold State.useFlow at h
  simp only [] at h
  split at h
  · exact Option.some.inj h ▸ s.changed_flows p _
  · split at h
    · exact Option.some.inj h ▸ s.changed_flows p _
    · split at h
      · exact Option.some.inj h ▸ s.changed_flows p _
      · exact nomatch h

section
variable (h : State.FlowsChanged p s t)
include h

theorem State.FlowsChanged.out : (t.trv p).out = (s.trv p).out := by rw [h.trv]
theorem State.FlowsChanged.serves : (t.trv p).serves = (s.trv p).serves := by rw [h.trv]
theorem State.FlowsChanged.opens : (t.trv p).opens = (s.trv p).opens := by rw [h.trv]
theorem State.FlowsChanged.requests : (t.trv p).requests = (s.trv p).requests := by rw [h.trv]
theorem State.FlowsChanged.txPsn (c : BitVec 15) : t.txPsn p c = s.txPsn p c := by rw [State.txPsn, h.trv, State.txPsn]
theorem State.FlowsChanged.rxPsn (c : BitVec 15) : t.rxPsn p c = s.rxPsn p c := by rw [State.rxPsn, h.trv, State.rxPsn]

end

/-! ## What an acknowledgement does to its flow (R276, R277) -/

/-- The packets of a flow that an acknowledgement up to `a` leaves, were it good. -/
def Flow.after (f : Flow) (a : Word) : List TrvSent := f.unacked.filter (fun d => !decide ((0 : Int) < (a - d.hdr.psn).toInt))

/-- The packets that a flow holds after an acknowledgement up to `a`: one of what has not been sent frees nothing. -/
def State.unackedAfter (s : State) (p : TPort) (peer : BitVec 15) (f : Flow) (a : Word) : List TrvSent :=
  if (0 : Int) ≤ (s.txPsn p peer - a).toInt then f.after a else f.unacked

/-- A flow with these packets left, and its timeout as it was at first. -/
def Flow.left (ds : List TrvSent) (init : Nat) (f : Flow) : Flow := { f with unacked := ds, rtoUs := init }

/-- The flow without what an acknowledgement covers. -/
def State.freed (s : State) (p : TPort) (peer : BitVec 15) (f : Flow) (a : Word) : State :=
  if decide ((0 : Int) ≤ (s.txPsn p peer - a).toInt) && decide ((f.after a).length < f.unacked.length) then
    s.modFlow p peer true (.left (f.after a) (s.rtoInit p))
  else s

/-- A flow whose rate has been cut in this window. -/
def Flow.marked (f : Flow) : Flow := { f with cut := true }

/-- ECE cuts the rate of a flow once in a window (R277). -/
def State.eceCut (s : State) (p : TPort) (peer : BitVec 15) (f : Flow) (ece : Bool) : State :=
  if ece && !f.cut then (s.cutRate p peer 7 8).modFlow p peer true .marked else s

/-- The state with an acknowledgement taken in the flow to a peer. -/
def State.ackTaken (s : State) (p : TPort) (peer : BitVec 15) (f : Flow) (a : Word) (ece : Bool) : State :=
  (s.freed p peer f a).eceCut p peer f ece

theorem State.takeAck_eq {f : Flow} (h : s.flow p peer = some f) (a : Word) (ece : Bool) :
    s.takeAck p peer a ece = ((s.ackTaken p peer f a ece).completeMsgs p peer).pump p := by
  rw [State.takeAck, h]
  rfl

theorem State.takeAck_none (h : s.flow p peer = none) (a : Word) (ece : Bool) : s.takeAck p peer a ece = s := by
  rw [State.takeAck, h]

variable (f : Flow) (a : Word) (ece : Bool)

theorem State.changed_ackTaken (s : State) : State.FlowsChanged p s (s.ackTaken p peer f a ece) := by
  have freed : State.FlowsChanged p s (s.freed p peer f a) := by
    unfold State.freed
    split
    · exact s.changed_modFlow ..
    · exact .refl p s
  refine freed.trans ?_
  unfold State.ackTaken State.eceCut
  split
  · exact (State.changed_cutRate ..).trans (State.changed_modFlow ..)
  · exact .refl p _

/-- An acknowledgement leaves the flows from peers. -/
theorem State.received_ackTaken (peer' : BitVec 15) :
    (s.ackTaken p peer f a ece).flowOf p peer' false = s.flowOf p peer' false := by
  have freed : (s.freed p peer f a).flowOf p peer' false = s.flowOf p peer' false := by
    unfold State.freed
    split
    · exact State.flowOf_modFlow_other (.left _ _) Bool.false_ne_true (fun _ => rfl)
    · rfl
  unfold State.ackTaken State.eceCut
  split
  · rw [State.flowOf_modFlow_other .marked Bool.false_ne_true (fun _ => rfl), State.cutRate_eq,
      State.flowOf_of_flows (congrArg Traverse.flows (State.count_trv ..)),
      State.flowOf_modFlow_other (.cutBy 7 8) Bool.false_ne_true (fun _ => rfl), freed]
  · exact freed

theorem State.flow_freed (h : s.flow p peer = some f) :
    ∃ g, (s.freed p peer f a).flow p peer = some g ∧ g.unacked = s.unackedAfter p peer f a ∧ g.rate = f.rate := by
  unfold State.freed
  split
  · next hless =>
    obtain ⟨hsent, -⟩ := Bool.and_eq_true_iff.1 hless
    refine ⟨f.left (f.after a) (s.rtoInit p), ?_, ?_, rfl⟩
    · rw [State.flow, State.flowOf_modFlow (.left _ _) (fun _ => rfl), ← State.flow, h]
      rfl
    · exact (if_pos (of_decide_eq_true hsent)).symm
  · next hless =>
    refine ⟨f, h, ?_, rfl⟩
    unfold State.unackedAfter
    split
    · next hsent =>
      have hle : f.unacked.length ≤ (f.after a).length := by
        simpa only [decide_eq_true hsent, Bool.true_and, decide_eq_true_eq, Nat.not_lt] using hless
      exact (List.filter_sublist.eq_of_length_le hle).symm
    · rfl

/-- What an acknowledgement leaves of its flow (R276, R277). -/
theorem State.flow_ackTaken (h : s.flow p peer = some f) : ∃ g, (s.ackTaken p peer f a ece).flow p peer = some g ∧
    g.unacked = s.unackedAfter p peer f a ∧ g.rate = if ece = true ∧ f.cut = false then max 10000 (f.rate * 7 / 8) else f.rate := by
  obtain ⟨g, hg, hunacked, hrate⟩ := State.flow_freed f a h
  unfold State.ackTaken State.eceCut
  split
  · next hcut =>
    refine ⟨(g.cutBy 7 8).marked, ?_, hunacked, ?_⟩
    · rw [State.flow, State.flowOf_modFlow .marked (fun _ => rfl), State.cutRate_eq,
        State.flowOf_of_flows (congrArg Traverse.flows (State.count_trv ..)), State.flowOf_modFlow (.cutBy 7 8) (fun _ => rfl),
        ← State.flow, hg]
      rfl
    · rw [if_pos (by simpa using hcut), ← hrate]
      rfl
  · next hcut => exact ⟨g, hg, hunacked, by rw [if_neg (by simpa using hcut), hrate]⟩

/-! ## Ports with nothing to send -/

theorem State.pump_idle (hout : (s.trv p).out = []) (hserves : (s.trv p).serves = []) : s.pump p = s := by
  simp [State.pump, hout, hserves]

/-- A message whose last packet a flow no longer holds. -/
def TrvMsg.doneBy (f : Flow) (peer : BitVec 15) (m : TrvMsg) : Bool :=
  m.dst == peer && (match m.lastPsn with
    | some n => !(f.unacked.any (fun d => d.hdr.psn == n))
    | none => false)

/-- The message leaves the port. -/
def State.dropMsg (s : State) (p : TPort) (m : TrvMsg) : State :=
  s.modTrv p (fun t => { t with out := t.out.filter (fun x => !(x.is m.core m.cmd m.dst m.phase)) })

/-- A message is complete: it leaves the port, and its command goes on. -/
def State.completeMsg (p : TPort) (s : State) (m : TrvMsg) : State :=
  if m.epoch = 0 then s.dropMsg p m
  else if m.kind = 2 then ((s.dropMsg p m).count (pTRV p) 0x100 1).tryFinish p m.core m.cmd
  else ((s.dropMsg p m).count (pTRV p) 0x100 1).markStage m.core m.cmd .performed

theorem State.completeMsgs_eq {f : Flow} (h : s.flow p peer = some f) :
    s.completeMsgs p peer = ((s.trv p).out.filter (TrvMsg.doneBy f peer)).foldl (State.completeMsg p) s := by
  rw [State.completeMsgs, h]
  rfl

theorem State.completeMsgs_idle (hout : (s.trv p).out = []) : s.completeMsgs p peer = s := by
  unfold State.completeMsgs
  split
  · rfl
  · simp [hout]

theorem State.takeAck_idle {f : Flow} (h : s.flow p peer = some f) (hout : (s.trv p).out = []) (hserves : (s.trv p).serves = []) :
    s.takeAck p peer a ece = s.ackTaken p peer f a ece := by
  have changed := s.changed_ackTaken (p := p) (peer := peer) f a ece
  rw [State.takeAck_eq h, State.completeMsgs_idle (changed.out.trans hout),
    State.pump_idle (changed.out.trans hout) (changed.serves.trans hserves)]

/-- With nothing to send an acknowledgement changes flows to the peer alone. -/
theorem State.changed_takeAck (hout : (s.trv p).out = []) (hserves : (s.trv p).serves = []) :
    State.FlowsChanged p s (s.takeAck p peer a ece) ∧
      ∀ peer', (s.takeAck p peer a ece).flowOf p peer' false = s.flowOf p peer' false := by
  cases h : s.flow p peer with
  | none => rw [State.takeAck_none h]; exact ⟨.refl p s, fun _ => rfl⟩
  | some f =>
    rw [State.takeAck_idle a ece h hout hserves]
    exact ⟨s.changed_ackTaken f a ece, State.received_ackTaken f a ece⟩

/-- The acknowledgement of a message's last packet performs its command (R280). -/
theorem State.completeMsgs_last {g : Flow} {m : TrvMsg} {n : Word} (h : s.flow p peer = some g) (hout : (s.trv p).out = [m])
    (hdst : m.dst = peer) (hlast : m.lastPsn = some n) (hkind : m.kind ≠ 2) (hepoch : m.epoch ≠ 0)
    (hnone : g.unacked.any (fun d => d.hdr.psn == n) = false) :
    s.completeMsgs p peer = ((s.dropMsg p m).count (pTRV p) 0x100 1).markStage m.core m.cmd .performed := by
  have hdone : m.doneBy g peer = true := by simp [TrvMsg.doneBy, hdst, hlast, hnone]
  rw [State.completeMsgs_eq h, hout, List.filter_singleton, hdone]
  exact (if_neg hepoch).trans (if_neg hkind)

theorem State.trv_dropMsg {m : TrvMsg} (hout : (s.trv p).out = [m]) : (s.dropMsg p m).trv p = { s.trv p with out := [] } := by
  rw [State.dropMsg, State.trv_modTrv, hout]
  simp [TrvMsg.is]

end

section
variable {s : State} {p : TPort} {x : TrvPacket} (hadmits : s.admits p x = true)
include hadmits

/-! ## TRV_ACK and TRV_NAK (R276, R277) -/

theorem exec_trvAck {peer : BitVec 15} (hpeer : BitVec.ofNat 15 (trvHdrOf x.hdr).src = peer) (htype : (trvHdrOf x.hdr).type = 1) :
    exec (.trvAck p x) s = .next (s.takeAck p peer (trvHdrOf x.hdr).ack (trvHdrOf x.hdr).ece) := by
  subst hpeer
  have hexec : exec (.trvAck p x) s = execTrvAck p x s := rfl
  rw [hexec, execTrvAck, State.trvReceive_admits hadmits htype]

section
variable {peer : BitVec 15} {f : Flow} (hpeer : BitVec.ofNat 15 (trvHdrOf x.hdr).src = peer) (hserves : (s.trv p).serves = [])
  (hflow : s.flow p peer = some f)
include hpeer hserves hflow

theorem trvAck_frees (htype : (trvHdrOf x.hdr).type = 1) (hout : (s.trv p).out = []) :
    ∃ t g, exec (.trvAck p x) s = .next t ∧ t.flow p peer = some g ∧ g.unacked = s.unackedAfter p peer f (trvHdrOf x.hdr).ack ∧
      g.rate = (if (trvHdrOf x.hdr).ece = true ∧ f.cut = false then max 10000 (f.rate * 7 / 8) else f.rate) ∧
      t.txPsn p peer = s.txPsn p peer ∧ t.rxPsn p peer = s.rxPsn p peer ∧ ∀ k, t.core k = s.core k := by
  obtain ⟨g, hg, hunacked, hrate⟩ := State.flow_ackTaken f (trvHdrOf x.hdr).ack (trvHdrOf x.hdr).ece hflow
  have changed := s.changed_ackTaken (p := p) (peer := peer) f (trvHdrOf x.hdr).ack (trvHdrOf x.hdr).ece
  rw [exec_trvAck hadmits hpeer htype, State.takeAck_idle _ _ hflow hout hserves]
  exact ⟨_, g, rfl, hg, hunacked, hrate, changed.txPsn peer, changed.rxPsn peer, changed.core⟩

theorem trvAck_performs (htype : (trvHdrOf x.hdr).type = 1) {m : TrvMsg} {n : Word} (hout : (s.trv p).out = [m]) (hdst : m.dst = peer)
    (hlast : m.lastPsn = some n) (hkind : m.kind ≠ 2) (hepoch : m.epoch ≠ 0)
    (hnone : (s.unackedAfter p peer f (trvHdrOf x.hdr).ack).any (fun d => d.hdr.psn == n) = false) :
    ∃ t, exec (.trvAck p x) s = .next t ∧ (t.trv p).out = [] ∧ t.counter (pTRV p) 0x100 = s.counter (pTRV p) 0x100 + 1 ∧
      ∀ k, t.core k = (s.markStage m.core m.cmd .performed).core k := by
  obtain ⟨g, hg, hunacked, -⟩ := State.flow_ackTaken f (trvHdrOf x.hdr).ack (trvHdrOf x.hdr).ece hflow
  have changed := s.changed_ackTaken (p := p) (peer := peer) f (trvHdrOf x.hdr).ack (trvHdrOf x.hdr).ece
  rw [exec_trvAck hadmits hpeer htype, State.takeAck_eq hflow,
    State.completeMsgs_last hg (changed.out.trans hout) hdst hlast hkind hepoch (by rw [hunacked, hnone])]
  generalize s.ackTaken p peer f (trvHdrOf x.hdr).ack (trvHdrOf x.hdr).ece = u at changed
  have hdrop := State.trv_dropMsg (changed.out.trans hout)
  rw [State.pump_idle (by rw [State.markStage_trv, State.count_trv, hdrop])
    (by rw [State.markStage_trv, State.count_trv, hdrop, changed.serves, hserves])]
  refine ⟨_, rfl, by rw [State.markStage_trv, State.count_trv, hdrop], ?_, fun k => ?_⟩
  · rw [State.markStage_counter, State.counter_count, if_pos ⟨rfl, rfl⟩, State.dropMsg, State.modTrv_counter,
      changed.counter _ _ (by decide)]
    rfl
  · simp only [State.markStage, State.core_modCore, State.count_core, State.dropMsg, State.modTrv_core, changed.core]

theorem trvNak_resends (htype : (trvHdrOf x.hdr).type = 2) (hout : (s.trv p).out = []) :
    ∃ t g, exec (.trvNak p x) s = .next t ∧ t.flow p peer = some g ∧ g.unacked = s.unackedAfter p peer f (trvHdrOf x.hdr).psn ∧
      t.counter (pTRV p) 0x128 = s.counter (pTRV p) 0x128 +
        BitVec.ofNat 64 (s.unackedAfter p peer f (trvHdrOf x.hdr).psn).length ∧ ∀ k, t.core k = s.core k := by
  have hexec : exec (.trvNak p x) s = execTrvNak p x s := rfl
  obtain ⟨g, hg, hunacked, -⟩ := State.flow_ackTaken f (trvHdrOf x.hdr).psn (trvHdrOf x.hdr).ece hflow
  have changed := s.changed_ackTaken (p := p) (peer := peer) f (trvHdrOf x.hdr).psn (trvHdrOf x.hdr).ece
  rw [hexec, execTrvNak, State.trvReceive_admits hadmits htype]
  simp only [hpeer, State.takeAck_idle _ _ hflow hout hserves, hg]
  refine ⟨_, g, rfl, ?_, hunacked, ?_, fun k => ?_⟩
  · rw [State.flow, State.flowOf_resendFlow, ← State.flow, hg]
  · rw [State.counter_resendFlow, changed.counter _ _ (by decide), hunacked]
  · rw [State.core_resendFlow, changed.core]

end

end

end Sys2Proof.Machine
end

section
/-!
Proofs of chapter 12: data packets of the traverse (R276, R279-R281), and from these and the acknowledgements the statement on data.
-/
namespace Sys2Proof.Machine

section
variable {s t u : State} {p : TPort} {peer : BitVec 15}

/-! ## What the data of a packet leaves of the flows -/

/-- From `s` to `t` the flows of port `p` and the numbers that it expects stand. -/
structure State.FlowsKept (p : TPort) (s t : State) : Prop where
  flows : (t.trv p).flows = (s.trv p).flows
  rxPsn : (t.trv p).rxPsn = (s.trv p).rxPsn

theorem State.FlowsKept.refl (p : TPort) (s : State) : State.FlowsKept p s s := ⟨rfl, rfl⟩

theorem State.FlowsKept.trans (h : State.FlowsKept p s t) (g : State.FlowsKept p t u) : State.FlowsKept p s u :=
  ⟨g.flows.trans h.flows, g.rxPsn.trans h.rxPsn⟩

theorem State.flowsKept_of_trv (h : t.trv p = s.trv p) : State.FlowsKept p s t := ⟨by rw [h], by rw [h]⟩

theorem State.flowsKept_modTrv (s : State) (p : TPort) (f : Traverse → Traverse) (hflows : (f (s.trv p)).flows = (s.trv p).flows)
    (hrx : (f (s.trv p)).rxPsn = (s.trv p).rxPsn) : State.FlowsKept p s (s.modTrv p f) :=
  ⟨by rw [State.trv_modTrv, hflows], by rw [State.trv_modTrv, hrx]⟩

theorem State.trv_setUnits (s : State) (n : Nat) (xs : List (Nat × Row)) : (s.setUnits n xs).trv p = s.trv p :=
  State.foldl_keeps (g := fun (s : State) (x : Nat × Row) => s.setUnit n x.1 x.2) (fun s => s.trv p) (fun _ _ => rfl) xs s

theorem State.FlowsKept.ite {c : Prop} [Decidable c] (h : State.FlowsKept p s t) (g : State.FlowsKept p s u) :
    State.FlowsKept p s (if c then t else u) := by
  split
  · exact h
  · exact g

theorem State.flowsKept_takeSegment (s : State) (r : TrvReq) (off : Nat) (rows : List Row) (whole : Bool) :
    State.FlowsKept p s (s.takeSegment p r off rows whole) := by
  refine State.flowsKept_of_trv ?_
  unfold State.takeSegment
  split
  · rfl
  · simp only []
    split
    · exact State.trv_setUnits ..
    · exact State.trv_setUnits ..

theorem State.flowsKept_tryFinish (s : State) (core cmd : Nat) : State.FlowsKept p s (s.tryFinish p core cmd) := by
  unfold State.tryFinish
  split
  · exact .refl p s
  · refine State.FlowsKept.ite ?_ (.refl p s)
    refine State.FlowsKept.trans ?_ (State.flowsKept_of_trv (State.markStage_trv ..))
    exact State.FlowsKept.ite (s.flowsKept_modTrv p _ rfl rfl) (s.flowsKept_modTrv p _ rfl rfl)

/-- A request whose last row has come goes, and what it was part of may be complete. -/
def State.endReq (s : State) (p : TPort) (h : TrvHdr) (r : TrvReq) : State :=
  match (s.dropReq p h).openFor p r.core r.kind r.seq with
  | some o => (s.dropReq p h).tryFinish p o.core o.cmd
  | none => s.dropReq p h

theorem State.flowsKept_endReq (s : State) (h : TrvHdr) (r : TrvReq) : State.FlowsKept p s (s.endReq p h r) := by
  have dropped : State.FlowsKept p s (s.dropReq p h) := s.flowsKept_modTrv p _ rfl rfl
  unfold State.endReq
  split
  · exact dropped.trans (State.flowsKept_tryFinish ..)
  · exact dropped

theorem State.openFor_mem {core kind : Nat} {seq : Word} {o : TrvOpen} (h : s.openFor p core kind seq = some o) :
    o ∈ (s.trv p).opens := List.mem_of_find?_eq_some h

/-- With no collective open at the port the data of a packet changes no flow. -/
theorem State.flowsKept_applyData (h : TrvHdr) (rows : List Row) (hrecv : ∀ o ∈ (s.trv p).opens, o.coll = 0) :
    State.FlowsKept p s (s.applyData p h rows) := by
  unfold State.applyData
  split
  · exact .refl p s
  · next r _ =>
    have noted : State.FlowsKept p s (s.modReq p h (fun r => { r with got := h.offset + rows.length })) :=
      s.flowsKept_modTrv p _ rfl rfl
    have hopens : ((s.modReq p h (fun r => { r with got := h.offset + rows.length })).trv p).opens = (s.trv p).opens := by
      rw [State.modReq, State.trv_modTrv]
    simp only []
    have finished (c : Bool) (v : State) : State.FlowsKept p v (if c then v.endReq p h r else v) :=
      .ite (v.flowsKept_endReq h r) (.refl p v)
    refine State.FlowsKept.trans (noted.trans ?_) (finished _ _)
    split
    · exact State.flowsKept_takeSegment ..
    · split
      · exact State.flowsKept_of_trv rfl
      · split
        · exact .refl p _
        · next o hopen =>
          rw [if_pos (hrecv o (hopens ▸ State.openFor_mem hopen))]
          refine State.FlowsKept.trans (State.flowsKept_of_trv ?_) (State.flowsKept_modTrv _ p _ rfl rfl)
          rw [State.count_trv, State.trv_setUnits]

/-! ## Rows of an XSEND (R279) -/

/-- Where rows land depends on the core alone. -/
theorem State.core_landRows (h : ∀ k, t.core k = s.core k) (n : Nat) (seq : Word) (total off : Nat) (rows : List Row) :
    (t.landRows n seq total off rows).core n = (s.landRows n seq total off rows).core n := by
  simp only [State.landRows, State.count_core, State.core_modSpm_same, h]

/-- A request with the rows that have landed. -/
def State.noteGot (s : State) (p : TPort) (h : TrvHdr) (k : Nat) : State := s.modReq p h (fun r => { r with got := k })

/-- The rows of an XSEND in the landing region, counted. -/
def State.landed (s : State) (p : TPort) (h : TrvHdr) (r : TrvReq) (rows : List Row) : State :=
  ((s.noteGot p h (h.offset + rows.length)).landRows r.core r.seq r.rows h.offset rows).count (pTRV p) 0x108 rows.length

theorem State.trv_landed (h : TrvHdr) (r : TrvReq) (rows : List Row) : (s.landed p h r rows).trv p =
    { s.trv p with requests := (s.trv p).requests.map (fun q => if q.of h then { q with got := h.offset + rows.length } else q) } :=
  State.trv_modTrv ..

theorem State.endReq_none {h : TrvHdr} {r : TrvReq} (hnone : (s.dropReq p h).openFor p r.core r.kind r.seq = none) :
    s.endReq p h r = s.dropReq p h := by
  rw [State.endReq, hnone]

theorem TrvReq.of_got (r : TrvReq) (h : TrvHdr) (k : Nat) : ({ r with got := k } : TrvReq).of h = r.of h := rfl

section
variable {r : TrvReq} {h : TrvHdr} (hrecv : ∀ o ∈ (s.trv p).opens, o.coll = 0) (hreq : (s.trv p).requests = [r])
  (hof : r.of h = true) (hgranted : r.granted = true) (hepoch : r.epoch ≠ 0) (hkind : r.kind = 0)
include hrecv hreq hof hgranted hepoch hkind

omit hreq hof hgranted hepoch in
theorem State.openFor_xsend (hopens : (t.trv p).opens = (s.trv p).opens) : t.openFor p r.core r.kind r.seq = none := by
  rw [State.openFor, hopens, List.find?_eq_none]
  intro o ho
  simp [hrecv o ho, hkind]

theorem State.applyData_xsend (rows : List Row) : s.applyData p h rows =
    if r.rows ≤ h.offset + rows.length then (s.landed p h r rows).dropReq p h else s.landed p h r rows := by
  have hfind : (s.trv p).requests.find? (fun r => r.of h && r.granted) = some r := by simp [hreq, hof, hgranted]
  have hnone : ((s.landed p h r rows).dropReq p h).openFor p r.core r.kind r.seq = none :=
    State.openFor_xsend hrecv hkind (by rw [State.dropReq, State.trv_modTrv, State.trv_landed])
  unfold State.applyData
  rw [hfind]
  simp only [if_neg hepoch, if_pos hkind, decide_eq_true_eq]
  rw [← State.endReq_none hnone]
  rfl

/-- The rows of an XSEND land at the addressed core, and its request goes with the last of them. -/
theorem State.applyData_lands (rows : List Row) :
    (s.applyData p h rows).core r.core = (s.landRows r.core r.seq r.rows h.offset rows).core r.core ∧
    ((s.applyData p h rows).trv p).requests =
      if r.rows ≤ h.offset + rows.length then [] else [{ r with got := h.offset + rows.length }] := by
  have hcore : (s.landed p h r rows).core r.core = (s.landRows r.core r.seq r.rows h.offset rows).core r.core :=
    State.core_landRows (fun _ => State.modTrv_core ..) ..
  rw [State.applyData_xsend hrecv hreq hof hgranted hepoch hkind]
  split
  · refine ⟨(State.modTrv_core ..).trans hcore, ?_⟩
    rw [State.dropReq, State.trv_modTrv, State.trv_landed, hreq]
    simp [hof, TrvReq.of_got]
  · refine ⟨hcore, ?_⟩
    rw [State.trv_landed, hreq]
    simp [hof]

end

/-! ## TRV_DATA_PACKET (R276) -/

/-- A flow that has taken its next packet. -/
def Flow.tookNext (f : Flow) : Flow := { f with nak := false, got := f.got + 1 }

/-- The next packet of a peer has come, and the one after it is expected. -/
def State.tookNext (s : State) (p : TPort) (peer : BitVec 15) : State :=
  (s.modTrv p (fun t => { t with rxPsn := t.rxPsn.set (fun _ => 0) peer.toNat (s.rxPsn p peer + 1) })).modFlow p peer false .tookNext

theorem State.trv_tookNext : (s.tookNext p peer).trv p = { s.trv p with
    rxPsn := (s.trv p).rxPsn.set (fun _ => 0) peer.toNat (s.rxPsn p peer + 1), flows := ((s.tookNext p peer).trv p).flows } := by
  rw [State.tookNext, State.trv_modFlow, State.trv_modTrv]

theorem State.core_tookNext (k : Nat) : (s.tookNext p peer).core k = s.core k :=
  (State.modTrv_core ..).trans (State.modTrv_core ..)

theorem State.rxPsn_tookNext : (s.tookNext p peer).rxPsn p peer = s.rxPsn p peer + 1 := by
  rw [State.rxPsn, State.trv_tookNext, SMap.get_set_same]

theorem State.flowOf_tookNext {f : Flow} (h : s.flowOf p peer false = some f) :
    (s.tookNext p peer).flowOf p peer false = some f.tookNext := by
  rw [State.tookNext, State.flowOf_modFlow .tookNext (fun _ => rfl), State.flowOf_of_flows (s := s) (by rw [State.trv_modTrv]), h]
  rfl

/-- The next packet of a flow is accepted, and what it acknowledges is taken. -/
def State.accepted (s : State) (p : TPort) (peer : BitVec 15) (a : Word) : State := (s.tookNext p peer).takeAck p peer a false

/-- With nothing to send, accepting a packet changes the flows of its peer and the number expected from it. -/
theorem State.accepted_leaves {f : Flow} (hout : (s.trv p).out = []) (hserves : (s.trv p).serves = [])
    (h : s.flowOf p peer false = some f) (a : Word) :
    (s.accepted p peer a).flowOf p peer false = some f.tookNext ∧ (s.accepted p peer a).rxPsn p peer = s.rxPsn p peer + 1 ∧
      ((s.accepted p peer a).trv p).opens = (s.trv p).opens ∧ ((s.accepted p peer a).trv p).requests = (s.trv p).requests ∧
      ∀ k, (s.accepted p peer a).core k = s.core k := by
  obtain ⟨changed, hreceived⟩ := State.changed_takeAck (s := s.tookNext p peer) (peer := peer) a false
    (by rw [State.trv_tookNext, hout]) (by rw [State.trv_tookNext, hserves])
  refine ⟨(hreceived peer).trans (State.flowOf_tookNext h), (changed.rxPsn peer).trans State.rxPsn_tookNext, ?_, ?_,
    fun k => (changed.core k).trans (State.core_tookNext k)⟩
  · exact changed.opens.trans (by rw [State.trv_tookNext])
  · exact changed.requests.trans (by rw [State.trv_tookNext])

/-- The eighth packet since the last acknowledgement brings one at once (R276). -/
def State.ackEighth (s : State) (p : TPort) (peer : BitVec 15) (got : Nat) : State := if 8 ≤ got then s.sendAck p peer else s

/-- Acknowledging what a flow has received leaves its NAK, the numbers expected, the requests and the cores. -/
theorem State.ackEighth_leaves {f : Flow} (h : s.flowOf p peer false = some f) (got : Nat) :
    (∃ g, (s.ackEighth p peer got).flowOf p peer false = some g ∧ g.nak = f.nak) ∧
      (s.ackEighth p peer got).rxPsn p peer = s.rxPsn p peer ∧
      ((s.ackEighth p peer got).trv p).requests = (s.trv p).requests ∧ ∀ k, (s.ackEighth p peer got).core k = s.core k := by
  unfold State.ackEighth
  split
  · have sent := State.sent_sendTrv (s.modFlow p peer false Flow.acked) p ((s.modFlow p peer false Flow.acked).numberHdr p f 1 f.ece) []
    rw [State.sendAck_eq h]
    refine ⟨⟨f.acked, ?_, rfl⟩, ?_, ?_, fun k => ?_⟩
    · rw [sent.flowOf, State.flowOf_modFlow .acked (fun _ => rfl), h]
      rfl
    · rw [State.rxPsn, sent.trv, ← State.rxPsn, State.rxPsn_modFlow]
    · rw [sent.trv, State.trv_modFlow]
    · rw [sent.core, (State.changed_modFlow ..).core]
  · exact ⟨⟨f, h, rfl⟩, rfl, rfl, fun _ => rfl⟩

theorem length_bytesToRows (n : Nat) : ∀ bs : List Byte, (bytesToRows n bs).length = n := by
  induction n with
  | zero => exact fun _ => rfl
  | succ n ih => exact fun bs => congrArg (· + 1) (ih _)

section
variable {x : TrvPacket} {f : Flow} (hadmits : s.admits p x = true) (htype : (trvHdrOf x.hdr).type = 0) (hce : x.ce = false)
  (hpeer : BitVec.ofNat 15 (trvHdrOf x.hdr).src = peer)
  (huse : s.useFlow p peer false (trvHdrOf x.hdr).epoch = some t) (hflow : t.flowOf p peer false = some f)
include hadmits htype hce hpeer huse hflow

/-- A packet of data reaches its flow. -/
theorem exec_trvDataPacket : exec (.trvDataPacket p x) s = .next (
    let h := trvHdrOf x.hdr
    if h.psn = s.rxPsn p peer then
      ((t.accepted p peer h.ack).applyData p h (bytesToRows (x.data.length / 512) x.data)).ackEighth p peer (f.got + 1)
    else if (h.psn - s.rxPsn p peer).toInt < 0 then t.sendAck p peer
    else t.sendNak p peer) := by
  have hexec : exec (.trvDataPacket p x) s = execTrvDataPacket p x s := rfl
  have hnext := (State.changed_useFlow huse).rxPsn peer
  rw [hexec, execTrvDataPacket, State.trvReceive_admits hadmits htype]
  simp only [hce, hpeer, huse, hflow, ← hnext, Bool.false_eq_true, if_false]
  rfl

theorem trvDataPacket_earlier (hpsn : ((trvHdrOf x.hdr).psn - s.rxPsn p peer).toInt < 0) :
    exec (.trvDataPacket p x) s = .next (t.sendAck p peer) := by
  have hne : (trvHdrOf x.hdr).psn ≠ s.rxPsn p peer := fun h => by simp [h] at hpsn
  rw [exec_trvDataPacket hadmits htype hce hpeer huse hflow]
  exact congrArg Host.Outcome.next ((if_neg hne).trans (if_pos hpsn))

theorem trvDataPacket_later (hpsn : 0 < ((trvHdrOf x.hdr).psn - s.rxPsn p peer).toInt) :
    exec (.trvDataPacket p x) s = .next (t.sendNak p peer) := by
  have hne : (trvHdrOf x.hdr).psn ≠ s.rxPsn p peer := fun h => by simp [h] at hpsn
  rw [exec_trvDataPacket hadmits htype hce hpeer huse hflow]
  exact congrArg Host.Outcome.next ((if_neg hne).trans (if_neg (by omega)))

theorem trvDataPacket_next (hpsn : (trvHdrOf x.hdr).psn = s.rxPsn p peer) (hout : (s.trv p).out = [])
    (hserves : (s.trv p).serves = []) (hrecv : ∀ o ∈ (s.trv p).opens, o.coll = 0) :
    ∃ t g, exec (.trvDataPacket p x) s = .next t ∧ t.flowOf p peer false = some g ∧ t.rxPsn p peer = s.rxPsn p peer + 1 ∧
      g.nak = false ∧ ∀ r, (s.trv p).requests = [r] → r.of (trvHdrOf x.hdr) = true → r.granted = true → r.epoch ≠ 0 → r.kind = 0 →
        (∀ a, (t.core r.core).spm.row a = ((s.landRows r.core r.seq r.rows (trvHdrOf x.hdr).offset
          (bytesToRows (x.data.length / 512) x.data)).core r.core).spm.row a) ∧
        (t.trv p).requests = (if r.rows ≤ (trvHdrOf x.hdr).offset + x.data.length / 512 then []
          else [{ r with got := (trvHdrOf x.hdr).offset + x.data.length / 512 }]) := by
  have changed := State.changed_useFlow huse
  obtain ⟨htook, hrx, hopens, hrequests, hcore⟩ := State.accepted_leaves (changed.out.trans hout) (changed.serves.trans hserves)
    hflow (trvHdrOf x.hdr).ack
  have hrecv' : ∀ o ∈ ((t.accepted p peer (trvHdrOf x.hdr).ack).trv p).opens, o.coll = 0 := by rwa [hopens, changed.opens]
  have kept := State.flowsKept_applyData (trvHdrOf x.hdr) (bytesToRows (x.data.length / 512) x.data) hrecv'
  obtain ⟨⟨g, hg, hnak⟩, hackedRx, hackedReq, hackedCore⟩ :=
    State.ackEighth_leaves ((State.flowOf_of_flows kept.flows).trans htook) (f.got + 1)
  rw [exec_trvDataPacket hadmits htype hce hpeer huse hflow]
  refine ⟨_, g, congrArg Host.Outcome.next (if_pos hpsn), hg, ?_, hnak, fun r hreq hof hgranted hepoch hkind => ?_⟩
  · rw [hackedRx, State.rxPsn, kept.rxPsn, ← State.rxPsn, hrx, changed.rxPsn]
  · obtain ⟨hland, hreqs⟩ := State.applyData_lands hrecv' ((hrequests.trans changed.requests).trans hreq) hof hgranted hepoch hkind
      (bytesToRows (x.data.length / 512) x.data)
    refine ⟨fun a => ?_, ?_⟩
    · rw [hackedCore, hland, State.core_landRows fun k => (hcore k).trans (changed.core k)]
    · rw [hackedReq, hreqs, length_bytesToRows]

end

end

/-- Settles O34: a packet's place in its flow's numbers decides what becomes of it, and acknowledgements are taken where the port has
nothing to send or one message to complete. -/
theorem traverseData : Obligations.TraverseData := by
  unfold Obligations.TraverseData
  intro s p x hadmits
  refine ⟨fun htype hce t f huse hflow => ⟨trvDataPacket_next hadmits htype hce rfl huse hflow,
      trvDataPacket_earlier hadmits htype hce rfl huse hflow, trvDataPacket_later hadmits htype hce rfl huse hflow⟩,
    fun htype hserves f hflow => ⟨trvAck_frees hadmits rfl hserves hflow htype,
      fun m n => trvAck_performs hadmits rfl hserves hflow htype⟩,
    fun htype f hflow hout hserves => trvNak_resends hadmits rfl hserves hflow htype hout⟩

end Sys2Proof.Machine
end

section
/-!
Proofs of chapter 15: commands that hold a job and carry its images and records (R287, R311, R315, R333, R334, R357).
-/
namespace Sys2Proof.Machine

/-! ## What has started stands -/

section
variable (s : State) (q : BitVec 20) (x : Queue) (f : Fetched)

@[simp] theorem State.bundle_begun (b : Nat) : (s.begun q x f).bundle b = s.bundle b := by rw [State.frame_begun]; rfl
@[simp] theorem State.images_begun (n : Nat) : (s.begun q x f).images n = s.images n := by rw [State.frame_begun]; rfl
@[simp] theorem State.records_begun : (s.begun q x f).host.records = s.host.records := by rw [State.frame_begun]
@[simp] theorem State.regionListOk_begun (l : List Byte) : (s.begun q x f).regionListOk l = s.regionListOk l := by
  rw [State.frame_begun]; rfl

@[simp] theorem State.regionsOwned_begun (c : Nat) (l : List Byte) : (s.begun q x f).regionsOwned c l = s.regionsOwned c l := by
  rw [State.frame_begun]; rfl

@[simp] theorem State.swapHolds_begun (t : Nat) : (s.begun q x f).swapHolds t = s.swapHolds t := by
  unfold State.swapHolds State.jobSwaps
  simp only [State.task_begun, State.bundle_begun]

theorem State.task_finish (q : Nat) (c : Started) (status detail u : Nat) : (s.finish q c status detail).task u = s.task u := by
  obtain h | ⟨y, h, -⟩ := s.finish_notes q c status detail
  · rw [h]
  · rw [h.raises.tasksKept.task]
    rfl

end

/-! ## Jobs that are asked to stop (R259, R287, R334) -/

/-- What the quiesce frame goes round for leaves the tasks and the cores (R259). -/
theorem State.tasks_askQuiesce (s : State) (u : Nat) : s.askQuiesce.task u = s.task u := by
  unfold State.askQuiesce
  split <;> rfl

theorem State.core_askQuiesce (s : State) (n : Nat) : s.askQuiesce.core n = s.core n := by
  unfold State.askQuiesce
  split <;> rfl

/-- A job that is asked to stop is marked on its task, and every core keeps its state. -/
theorem State.askStop_asks {s : State} {t : Nat} {tk : Task} {j : Job} (htask : s.task t = some tk) (hjob : tk.job = some j)
    (h : Hold) : (s.askStop t h).task t = some { tk with job := some { j with hold := h } } ∧
      ∀ n, (s.askStop t h).core n = s.core n := by
  have asked : (s.modJob t (fun j => { j with hold := h })).task t = some { tk with job := some { j with hold := h } } := by
    rw [State.task_modJob, if_pos rfl, htask]
    simp [hjob]
  have cores (n : Nat) : (s.modJob t (fun j => { j with hold := h })).core n = s.core n := State.modJob_core ..
  unfold State.askStop
  simp only [asked, Option.bind_some]
  split
  · exact ⟨(State.tasks_askQuiesce ..).trans asked, fun n => (State.core_askQuiesce ..).trans (cores n)⟩
  · exact ⟨asked, cores⟩

/-! ## Batches submitted (R311) -/

theorem State.tasks_addAdmits (s : State) (t : Nat) (slots : List Nat) (k : Nat) : s.TasksKept (s.addAdmits t slots k) := by
  unfold State.addAdmits
  split
  · exact .refl s
  · split
    · exact .refl s
    · refine State.TasksKept.foldl (fun s n => ?_) _ s
      exact s.tasks_modCore n _ fun _ => rfl

/-- A job to which batches have been submitted, some of them held for the new weights (R313). -/
def Job.submitted (count : Nat) (new : List Nat) (j : Job) : Job :=
  { j with batches := j.batches + count, held := j.held ++ new }

theorem State.tasks_submit {s : State} {j : Job} {t b count : Nat} (hjob : (s.task t).bind (·.job) = some j) :
    ∃ new, (s.modJob t (.submitted count new)).TasksKept (s.submit t b count) := by
  have used (v : State) (g : Bundle → Bundle) : v.TasksKept (v.modBundle b g) := ⟨fun _ => rfl, fun _ => rfl⟩
  refine ⟨((List.range count).map (fun i => j.batches + i)).filter
    (fun n => (s.bundle b).newMan.isSome && decide ((s.bundle b).firstNew ≤ n)), ?_⟩
  unfold State.submit
  rw [hjob]
  refine State.TasksKept.trans ?_ (used _ _)
  split
  · exact (State.tasks_addAdmits ..).trans (State.tasks_addAdmits ..)
  · exact State.tasks_addAdmits ..

/-- The batches submitted are numbered on (R311). -/
theorem State.batches_submit {s : State} {tk : Task} {j : Job} {t b count : Nat} (htask : s.task t = some tk) (hjob : tk.job = some j) :
    ((s.submit t b count).task t).bind (fun y => y.job.map (·.batches)) = some (j.batches + count) := by
  obtain ⟨new, kept⟩ := State.tasks_submit (s := s) (t := t) (b := b) (count := count) (j := j) (by simp [htask, hjob])
  rw [kept.task, State.task_modJob, if_pos rfl, htask]
  simp [hjob, Job.submitted]

/-! ## Commands on a task of the queue's context (R354, R357) -/

section
variable {s : State} {q : BitVec 20} {x : Queue} {f : Fetched} {tk : Task}

theorem swap_begun (hswap : s.swapHolds (leAt f.entry 8 1) = false) :
    ¬ (s.begun q x f).swapHolds (leAt f.begun.entry 8 1) = true :=
  fun h => Bool.false_ne_true (hswap.symm.trans ((State.swapHolds_begun ..).symm.trans h))

section
variable {j : Job} (hgood : reservedBad f.entry = none) (htid : leAt f.entry 8 1 < 64) (htask : s.task (leAt f.entry 8 1) = some tk)
  (hctx : tk.ctx = x.ctx)
include hgood htid htask hctx

omit hgood htid in
theorem State.onTask_begun (k : State → Task → State) : (s.begun q x f).onTask q.toNat f.begun k = k (s.begun q x f) tk :=
  State.onTask_owner (tk := tk) k ((State.task_begun ..).trans htask) (by rw [State.queueCtx_begun, hctx])

/-! ## PREEMPT (R287) -/

theorem preempt_asks (hfront : s.front q 0x22 x f) (hjob : tk.job = some j) (hswap : s.swapHolds (leAt f.entry 8 1) = false)
    (hhold : j.hold ≠ .preempted) : ∃ t, exec (.preempt q) s = .next t ∧
      t.task (leAt f.entry 8 1) = some { tk with job := some { j with hold := .preempting } } ∧ ∀ n, t.core n = s.core n := by
  have hexec : exec (.preempt q) s = .next ((s.begun q x f).askStop (leAt f.entry 8 1) .preempting) := by
    refine congrArg Host.Outcome.next ((State.queueRow_front _ _ hfront).trans ?_)
    refine (if_neg ?_).trans ((State.withFields_ok _ _ _ hgood ?_).trans ((State.onTask_begun htask hctx _).trans ?_))
    · exact swap_begun hswap
    · exact List.forall_mem_singleton.2 (decide_eq_false (Nat.not_le.2 htid))
    · simp only [hjob, beq_eq_false_iff_ne.2 hhold]
      rfl
  obtain ⟨hasked, hcores⟩ := State.askStop_asks ((State.task_begun s q x f _).trans htask) hjob .preempting
  exact ⟨_, hexec, hasked, fun n => (hcores n).trans (State.core_begun ..)⟩

/-! ## SAVE (R334) -/

theorem save_asks (hfront : s.front q 0x24 x f) (hjob : tk.job = some j) (hswap : s.swapHolds (leAt f.entry 8 1) = false)
    {regions : Option (List Byte)} {l : List Byte} (hcount : leAt f.entry 9 1 ≤ 16)
    (hlist : supplied regions (16 * leAt f.entry 9 1) = some (some l)) (hok : s.regionListOk l = true)
    (howned : s.regionsOwned x.ctx.toNat l = true) : ∃ t, exec (.save q regions) s = .next t ∧
      t.task (leAt f.entry 8 1) = some { tk with job := some { j with
        saveRegions := l, hold := if j.hold = .preempted then .saveHeld else .saving } } ∧ ∀ n, t.core n = s.core n := by
  have hexec : exec (.save q regions) s = .next (((s.begun q x f).modJob (leAt f.entry 8 1) (fun j => { j with saveRegions := l })).askStop
      (leAt f.entry 8 1) (if j.hold == .preempted then .saveHeld else .saving)) := by
    refine congrArg Host.Outcome.next ((State.queueRow_front _ _ hfront).trans ?_)
    refine (if_neg (swap_begun hswap)).trans ?_
    rw [show supplied regions (16 * leAt f.begun.entry 9 1) = some (some l) from hlist]
    refine (State.withFields_ok _ _ _ hgood ?_).trans ((State.onTask_begun htask hctx _).trans ?_)
    · simpa using ⟨htid, hcount⟩
    · simp only [hjob, State.regionListOk_begun, hok, State.queueCtx_begun, State.regionsOwned_begun, howned]
      rfl
  have noted : ((s.begun q x f).modJob (leAt f.entry 8 1) (fun j => { j with saveRegions := l })).task (leAt f.entry 8 1) =
      some { tk with job := some { j with saveRegions := l } } := by
    rw [State.task_modJob, if_pos rfl, State.task_begun, htask]
    simp [hjob]
  obtain ⟨hasked, hcores⟩ := State.askStop_asks noted rfl (if j.hold == .preempted then .saveHeld else .saving)
  refine ⟨_, hexec, ?_, fun n => (hcores n).trans ((State.modJob_core ..).trans (State.core_begun ..))⟩
  rw [hasked]
  simp

/-! ## BATCH (R311) -/

theorem batch_submits (hfront : s.front q 0x27 x f) (hjob : tk.job = some j) {b : Fin 64} (hbundle : j.bundle = some b)
    (hcount : leAt f.entry 0xA 2 ≠ 0) (hstate : (s.bundle b.val).state ∈ [.verified, .armed, .swapping]) :
    ∃ t, exec (.batch q) s = .next t ∧
      t = ((s.begun q x f).submit (leAt f.entry 8 1) b.val (leAt f.entry 0xA 2)).finish q.toNat f.begun 0 0 ∧
      (t.task (leAt f.entry 8 1)).bind (fun y => y.job.map (·.batches)) = some (j.batches + leAt f.entry 0xA 2) := by
  have hstate' : (((s.begun q x f).bundle b.val).state == .verified || ((s.begun q x f).bundle b.val).state == .armed ||
      ((s.begun q x f).bundle b.val).state == .swapping) = true := by
    rw [State.bundle_begun]
    simpa [or_assoc] using hstate
  refine ⟨_, ?_, rfl, ?_⟩
  · refine congrArg Host.Outcome.next ((State.queueRow_front _ _ hfront).trans ?_)
    refine (State.withFields_ok _ _ _ hgood ?_).trans ((State.onTask_begun htask hctx _).trans ?_)
    · simpa using ⟨htid, hcount⟩
    · simp only [hjob, hbundle]
      exact if_pos hstate'
  · rw [State.task_finish]
    exact State.batches_submit ((State.task_begun ..).trans htask) hjob

/-! ## SAVE_EXPORT and SAVE_IMPORT (R334, R357) -/

theorem saveExport_writes (hfront : s.front q 0x25 x f) {y : SaveImage} (hcore : leAt f.entry 9 1 < tk.cores)
    (hslot : leAt f.entry 0xA 1 < 2) (himage : (s.images (tk.base + leAt f.entry 9 1))[leAt f.entry 0xA 1]? = some y)
    (hroom : (Config.saveImageBytes y).length ≤ leAt f.entry 0x18 4) : exec (.saveExport q true) s =
      .next (((s.begun q x f).emit (.dmaWrite (BitVec.ofNat 64 (leAt f.entry 0x10 8)) (Config.saveImageBytes y))).finish q.toNat
        f.begun 0 0) := by
  refine congrArg Host.Outcome.next ((State.queueRow_front _ _ hfront).trans ?_)
  refine (State.withFields_ok _ _ _ hgood ?_).trans ((State.onTask_begun htask hctx _).trans ((if_neg (Nat.not_le.2 hcore)).trans ?_))
  · simpa using ⟨htid, Nat.le_of_lt_succ hslot⟩
  · simp only [State.images_begun]
    rw [show (s.images (tk.base + leAt f.begun.entry 9 1))[leAt f.begun.entry 0xA 1]? = some y from himage]
    exact if_neg (Nat.not_lt.2 hroom)

theorem saveImport_keeps (hfront : s.front q 0x26 x f) {image : Option (List Byte)} {b : List Byte}
    (hcore : leAt f.entry 9 1 < tk.cores) (hjob : tk.job = none) (himage : supplied image (leAt f.entry 0x18 4) = some (some b)) :
    exec (.saveImport q image) s = .next (((s.begun q x f).saveCore (tk.base + leAt f.entry 9 1)
      ((Config.saveImageOf b).getD badImage)).finish q.toNat f.begun 0 0) := by
  refine congrArg Host.Outcome.next ((State.queueRow_front _ _ hfront).trans ?_)
  simp only []
  rw [show supplied image (leAt f.begun.entry 0x18 4) = some (some b) from himage]
  refine (State.withFields_ok _ _ _ hgood ?_).trans ((State.onTask_begun htask hctx _).trans ((if_neg (Nat.not_le.2 hcore)).trans ?_))
  · exact List.forall_mem_singleton.2 (decide_eq_false (Nat.not_le.2 htid))
  · rw [hjob]
    rfl

end

/-! ## PROVENANCE (R333, R357) -/

theorem provenance_writes (hgood : reservedBad f.entry = none) (hfront : s.front q 0x28 x f) {r : ProvRecord} {sig : List Byte}
    (hrecord : s.host.records.find? (fun r => r.job.toNat == leAt f.entry 8 8) = some r) (hsig : r.sig = some sig) :
    exec (.provenance q true) s = .next (((s.begun q x f).emit
      (.dmaWrite (BitVec.ofNat 64 (leAt f.entry 0x10 8)) (r.body ++ sig))).finish q.toNat f.begun 0 0) := by
  refine congrArg Host.Outcome.next ((State.queueRow_front _ _ hfront).trans ((State.withFields_ok _ _ _ hgood (by simp)).trans ?_))
  simp only [State.records_begun]
  rw [show s.host.records.find? (fun r => r.job.toNat == leAt f.begun.entry 8 8) = some r from hrecord]
  simp only [hsig]
  rfl

/-! ## Commands under way (R354) -/

theorem preempt_ends {c : Started} (hunder : s.underWay q 0x22 x c) (hstopped : s.allStopped (leAt c.entry 8 1) = true) :
    exec (.preempt q) s =
      .next ((s.modJob (leAt c.entry 8 1) (fun j => { j with hold := .preempted })).finish q.toNat c 0 0) :=
  congrArg Host.Outcome.next (State.queueRow_underWay _ _ hunder (if_pos hstopped))

theorem save_ends {c : Started} {j : Job} (hunder : s.underWay q 0x24 x c) (htask : s.task (leAt c.entry 8 1) = some tk)
    (hjob : tk.job = some j) (hsaving : j.hold ≠ .saving) (hheld : j.hold ≠ .saveHeld) (regions : Option (List Byte)) :
    exec (.save q regions) s = .next (s.finish q.toNat c 0 0) := by
  refine congrArg Host.Outcome.next (State.queueRow_underWay _ _ hunder ?_)
  simp only [htask, Option.bind_some, hjob, beq_eq_false_iff_ne.2 hsaving, beq_eq_false_iff_ne.2 hheld]
  rfl

end

/-! ## SAVE_IMAGE_WRITE (R334) -/

theorem State.slotImage_saveCore (s : State) (n m : Nat) (y : SaveImage) {i : Nat} (hi : i < 2) : (s.saveCore n y).slotImage m i =
    if m = n ∧ i = boolNat (s.slot0Newer n) then some y else s.slotImage m i := by
  have hslot := boolNat_lt (s.slot0Newer n)
  simp only [State.slotImage, State.saveCore, SMap.get_set]
  split
  · rw [if_pos (by omega)]
  · rw [if_neg (by omega)]

theorem State.slotImage_other {g : Nat → SaveImage} {m i : Nat} (hi : i < 2) (ns : List Nat) : ∀ s : State, m ∉ ns →
    (ns.foldl (fun s n => s.saveCore n (g n)) s).slotImage m i = s.slotImage m i := by
  induction ns with
  | nil => exact fun _ _ => rfl
  | cons n ns ih =>
    intro s hm
    obtain ⟨hne, hns⟩ := not_or.1 (mt List.mem_cons.2 hm)
    rw [List.foldl_cons, ih _ hns, State.slotImage_saveCore _ _ _ _ hi, if_neg fun h => hne h.1]

theorem State.mem_images {s : State} {n i : Nat} {y : SaveImage} (hi : i < 2) (h : s.slotImage n i = some y) : y ∈ s.images n := by
  have hslot : s.slotImage n 0 = some y ∨ s.slotImage n 1 = some y := by
    obtain rfl | rfl : i = 0 ∨ i = 1 := by omega
    · exact .inl h
    · exact .inr h
  unfold State.images
  split <;> simpa [or_comm] using hslot

/-- Every core of a list keeps the image that was put into one of its slots. -/
theorem State.images_saved {g : Nat → SaveImage} {m : Nat} (ns : List Nat) : ∀ s : State, ns.Nodup → m ∈ ns →
    g m ∈ (ns.foldl (fun s n => s.saveCore n (g n)) s).images m := by
  induction ns with
  | nil => exact fun _ _ h => absurd h List.not_mem_nil
  | cons n ns ih =>
    intro s hnodup hm
    obtain ⟨hn, hns⟩ := List.nodup_cons.1 hnodup
    obtain rfl | hm := List.mem_cons.1 hm
    · have hslot := boolNat_lt (s.slot0Newer m)
      refine State.mem_images hslot ((State.slotImage_other hslot ns _ hn).trans ?_)
      rw [State.slotImage_saveCore _ _ _ _ hslot, if_pos ⟨rfl, rfl⟩]
    · exact ih _ hns hm

theorem State.images_congr {s t : State} (h : t.saves = s.saves) (n : Nat) : t.images n = s.images n := by
  unfold State.images State.slot0Newer State.slotImage
  rw [h]

/-- The cores of a task save their images. -/
def State.saved (s : State) (tk : Task) (j : Job) : State :=
  tk.coreList.foldl (fun t n => t.saveCore n (s.imageOf tk j (s.saveNo + 1) n)) s

theorem State.core_saved (s : State) (tk : Task) (j : Job) (n : Nat) : (s.saved tk j).core n = s.core n :=
  State.foldl_keeps (g := fun t n => t.saveCore n (s.imageOf tk j (s.saveNo + 1) n)) (fun s => s.core n) (fun _ _ => rfl) tk.coreList s

theorem State.task_saved (s : State) (tk : Task) (j : Job) (u : Nat) : (s.saved tk j).task u = s.task u :=
  State.foldl_keeps (g := fun t n => t.saveCore n (s.imageOf tk j (s.saveNo + 1) n)) (fun s => s.task u) (fun _ _ => rfl) tk.coreList s

/-- A job whose images are written goes on, or stays pre-empted. -/
def Job.goesOn (j : Job) : Job :=
  { j with saveRegions := [], hold := if j.hold == .saveHeld then .preempted else .running }

/-- The images are written, and the job goes on. -/
def State.wroteImages (s : State) (tk : Task) (j : Job) (t : Nat) : State :=
  (State.hashed { s.saved tk j with saveNo := s.saveNo + 1 } (regionBytes j.saveRegions)).modJob t Job.goesOn

theorem State.images_wroteImages (s : State) (tk : Task) (j : Job) (t n : Nat) :
    (s.wroteImages tk j t).images n = (s.saved tk j).images n :=
  State.images_congr ((State.modJob_saves (State.hashed { s.saved tk j with saveNo := s.saveNo + 1 } _) ..).trans rfl) n

theorem State.leaveQuiescent_frame (s : State) (j : Job) : s.leaveQuiescent j = { s with lift := (s.leaveQuiescent j).lift } := by
  unfold State.leaveQuiescent
  split <;> rfl

theorem saveImageWrite_saves {s : State} {y : Fin 64} {tk : Task} {j : Job} (hready : s.phase = .ready)
    (htask : s.task y.val = some tk) (hjob : tk.job = some j) (hhold : j.hold = .saving ∨ j.hold = .saveHeld)
    (hswap : s.jobSwaps j = false) (hstopped : s.allStopped y.val = true) :
    ∃ t, exec (.saveImageWrite y) s = .next t ∧ t.saveNo = s.saveNo + 1 ∧
      (∀ n ∈ tk.coreList, s.imageOf tk j (s.saveNo + 1) n ∈ t.images n) ∧ (∀ n, t.core n = s.core n) ∧
      t.task y.val = some { tk with job := some { j with
        saveRegions := [], hold := if j.hold = .saveHeld then .preempted else .running } } := by
  have hgo : (s.phase == .ready && (j.hold == .saving || j.hold == .saveHeld) && !s.jobSwaps j && s.allStopped y.val) = true := by
    simpa [hready, hswap, hstopped] using hhold
  have hexec : exec (.saveImageWrite y) s = .next (if j.hold == .saveHeld then s.wroteImages tk j y.val
      else (s.wroteImages tk j y.val).leaveQuiescent j) := by
    have hexec : exec (.saveImageWrite y) s = execSaveImageWrite y s := rfl
    rw [hexec, execSaveImageWrite, htask]
    simp only [hjob]
    exact if_pos hgo
  have frame : ∃ l, (if j.hold == .saveHeld then s.wroteImages tk j y.val else (s.wroteImages tk j y.val).leaveQuiescent j) =
      { s.wroteImages tk j y.val with lift := l } := by
    split
    · exact ⟨_, rfl⟩
    · exact ⟨_, State.leaveQuiescent_frame ..⟩
  obtain ⟨l, hl⟩ := frame
  rw [hexec, hl]
  refine ⟨_, rfl, State.modJob_saveNo .., fun n hn => ?_, fun n => ?_, ?_⟩
  · change _ ∈ (s.wroteImages tk j y.val).images n
    rw [State.images_wroteImages]
    exact State.images_saved tk.coreList s tk.nodup_coreList hn
  · exact (State.modJob_core ..).trans (State.core_saved ..)
  · have htask' : (s.saved tk j).task y.val = some tk := (State.task_saved ..).trans htask
    refine (State.task_modJob ..).trans ((if_pos rfl).trans ((congrArg _ htask').trans ?_))
    simp [hjob, Job.goesOn]

/-- Settles O43: each command that starts runs its own lemma, a job that is asked to stop being marked by `askStop` alone, and the
images are those that `saveCore` put into one of each core's two slots. -/
theorem holdCommands : Obligations.HoldCommands := by
  unfold Obligations.HoldCommands
  intro s q x f tk j
  refine ⟨fun hgood htid htask hctx => ⟨fun hjob hswap => ⟨fun hfront hhold => ?_, fun regions l hfront hcount hlist hok howned => ?_,
    fun b hfront hbundle hcount hstate => ?_⟩, fun y hfront hcore hslot himage hroom => ?_, fun image b hfront hcore hjob himage => ?_⟩,
    fun r sig hgood hfront hrecord hsig => ?_, fun c hunder hstopped => ?_, fun regions c hunder htask hjob hsaving hheld => ?_,
    fun y hready htask hjob hhold hswap hstopped => ?_⟩
  · exact preempt_asks hgood htid htask hctx hfront hjob hswap hhold
  · exact save_asks hgood htid htask hctx hfront hjob hswap hcount hlist hok howned
  · exact batch_submits hgood htid htask hctx hfront hjob hbundle hcount hstate
  · exact saveExport_writes hgood htid htask hctx hfront hcore hslot himage hroom
  · exact saveImport_keeps hgood htid htask hctx hfront hcore hjob himage
  · exact provenance_writes hgood hfront hrecord hsig
  · exact preempt_ends hunder hstopped
  · exact save_ends hunder htask hjob hsaving hheld regions
  · exact saveImageWrite_saves hready htask hjob hhold hswap hstopped

end Sys2Proof.Machine
end
